-- ==== Sys2Proof/Word.lean ====
section
/-! DEFINITION. The plain words of the model: bytes and sparse maps. -/

namespace Sys2Proof

/-- One byte. -/
abbrev Byte := BitVec 8

/-- A run of bytes, lowest address first (R68: little-endian). -/
abbrev Bytes := List Byte

/-- A sparse map from numbers to numbers: keys strictly rising, and no entry with value 0,
which is what an unlisted key reads as. Equal maps are equal lists. -/
abbrev NMap := List (Nat × Nat)

/-- A requester on the host fabric port: TREQ_SRC, and the TREQ_TAG its answer carries (R37, R39). -/
structure Req where
  src : BitVec 16
  tag : BitVec 12
  deriving DecidableEq, Repr

/-- What a request of the register window asks: whether it names the reserved window 3 in place of 0, its OP and its byte address (R38). -/
structure RegOp where
  win3 : Bool
  op : BitVec 4
  addr : BitVec 58
  deriving DecidableEq, Repr

/-- What a memory request port returns for a read: two status bits for each granule, and DATA (R45, R47). -/
structure ReadBeats where
  stat : BitVec 8
  data : BitVec 2048
  deriving DecidableEq, Repr

end Sys2Proof
end

