-- ==== Sys2Proof/Syntax.lean ====
section
/-! DEFINITION. The commands of the block: one constructor per row of the command table, with the row's operands. -/

namespace Sys2Proof

/-- A command from outside the block, an event on its pins, a message of its protocol or one operation of its
own engines. -/
inductive Instr where
  /-- NOP (R138): NOP command completes at its start with no effect -/
  | nop (q : Fin 16)
  /-- STEP_RUN (R153): STEP RUN fetches its binding list and runs a step-table segment on a sequencer thread -/
  | stepRun (q : Fin 16)
  /-- STEP_LOAD (R162): STEP LOAD checks and loads a signed step-table image into the idle table bank -/
  | stepLoad (q : Fin 16)
  /-- STEP_UCODE (R162): STEP UCODE checks and loads a maker-signed microcode image into the idle microcode store -/
  | stepUcode (q : Fin 16)
  /-- COLL_REDUCE_SCATTER (R315): Reduce-scatter collective sends shards to their owners and forms the owned shard in rank order -/
  | collReduceScatter (q : Fin 16)
  /-- COLL_ALL_GATHER (R315): All-gather collective sends this member's range to every group member and writes received ranges -/
  | collAllGather (q : Fin 16)
  /-- COLL_BROADCAST (R315): Broadcast collective moves the root's range down the re-rooted group tree -/
  | collBroadcast (q : Fin 16)
  /-- COLL_PARITY_SCATTER (R318): Parity scatter recomputes the parity of a range of settled stripes from scratch -/
  | collParityScatter (q : Fin 16)
  /-- COLL_REBUILD_CHAIN (R319): Rebuild chain collective decodes a lost rank's cells stripe by stripe along the survivors to the standby -/
  | collRebuildChain (q : Fin 16)
  /-- MOVE (R115): MOVE copies an object to a new home, switches its entry over and releases the old home -/
  | move (q : Fin 16)
  /-- IMAGE_FILL (R121): IMAGE FILL makes a window image of a cell range in the image pool, optionally held -/
  | imageFill (q : Fin 16)
  /-- IMAGE_DROP (R119): IMAGE DROP removes an image named by its image table index -/
  | imageDrop (q : Fin 16)
  /-- IMAGE_FLUSH (R127): IMAGE FLUSH writes back every dirty page of a COMPAT object's cache -/
  | imageFlush (q : Fin 16)
  /-- IMAGE_STREAM (R125): IMAGE STREAM starts a layer-window stream program and issues the fill of visit 0 -/
  | imageStream (q : Fin 16)
  /-- IMAGE_STOP (R138): IMAGE STOP ends a stream program and drops its images -/
  | imageStop (q : Fin 16)
  /-- CAP (R27): CAP command for an epoch arms requested store switches and completes when the epoch caps -/
  | cap (q : Fin 16)
  /-- SEAL (R413): SEAL copies the member's data cells in the capped view to the seal store and writes a seal spine record -/
  | seal (q : Fin 16)
  /-- REBUILD (R369): REBUILD gives a lost rank to a standby, fresh device or shadow, or makes it DEGRADED under a keeper -/
  | rebuild (q : Fin 16)
  /-- RESTORE (R381): RESTORE brings the job back to a common capped epoch from coded state or the last deep seal -/
  | restore (q : Fin 16)
  /-- ROLLBACK (R364): ROLLBACK cancels commands of uncapped epochs and undoes them job-wide back to the named capped epoch -/
  | rollback (q : Fin 16)
  /-- JOIN (R348): JOIN accepts a job list, optionally zeroes coded regions, and takes part in the start over the tree -/
  | join (q : Fin 16)
  /-- LEAVE_DRAIN (R354): LEAVE with drain waits for no uncapped epoch, tears down and releases the member -/
  | leaveDrain (q : Fin 16)
  /-- LEAVE_IMMEDIATE (R354): LEAVE immediate discards uncapped epochs without undo and tears down at once -/
  | leaveImmediate (q : Fin 16)
  /-- FENCE (R321): FENCE records the last sent ESEQ of covered streams and completes when all are acknowledged -/
  | fence (q : Fin 16)
  /-- SNAP_NOW (R445): SNAP with SUBOP 0 fires the snapshot strobe at the next edge -/
  | snapNow (q : Fin 16) (edge : Bool)
  /-- SNAP_AT_TIME (R444): SNAP with SUBOP 1 takes the timed-strobe timer for its time of day -/
  | snapAtTime (q : Fin 16)
  /-- REPLAY (R439): REPLAY re-runs recorded STEP and ROOT commands of one epoch without coding and computes their digest -/
  | replay (q : Fin 16)
  /-- ROOT (R244): ROOT computes inverse p-th roots of every statistics block by the coupled iteration and writes them -/
  | root (q : Fin 16) (f : Option (Fin 4 × Fin 129))
  /-- DRAW_RAW (R139): DRAW SUBOP 0 writes raw generator words of purpose 0x04 to host memory -/
  | drawRaw (q : Fin 16)
  /-- DRAW_UNIFORM (R139): DRAW SUBOP 1 writes uniform S32 generator values to host memory -/
  | drawUniform (q : Fin 16)
  /-- TALLY_ADD (R144): TALLY ADD adds a value to a tally counter, saturating -/
  | tallyAdd (q : Fin 16)
  /-- TALLY_SET (R144): TALLY SET writes a value into a tally counter -/
  | tallySet (q : Fin 16)
  /-- TALLY_CLEAR_ERR (R144): TALLY CLEAR_ERR clears a tally counter's error flag and code -/
  | tallyClearErr (q : Fin 16)
  /-- QUEUE_FETCH (R132): The block issues a fetch of up to four commands from a queue ring in round-robin order -/
  | queueFetch
  /-- QUEUE_FETCH_DATA (R132): Fetched command data arrives and the commands are taken, or a network error stops the queue -/
  | queueFetchData (tag : BitVec 12) (stat : BitVec 2) (data : Bytes)
  /-- COMMAND_START (R141): The oldest unstarted command of a queue is judged and starts once its conditions and resources hold -/
  | commandStart (q : Fin 16)
  /-- COMMAND_RETIRE (R143): A completed command retires in queue order, posting its record and signalling its tally -/
  | commandRetire (q : Fin 16)
  /-- EVENT_POST (R149): The block writes an event record to the ring once ring space and visibility allow -/
  | eventPost
  /-- EVENT_RECORD_ACK (R149): The ARSP of an event record write arrives and EVT_PROD advances, or the record is lost on error -/
  | eventRecordAck (stat : BitVec 2)
  /-- IRQ_HOLDOFF_EXPIRY (R152): The interrupt hold-off expires and IRQ_OUT may rise again -/
  | irqHoldoffExpiry
  /-- INITIATOR_READ_DATA (R43): Read data for a binding list, table image or other initiator read arrives on ARD -/
  | initiatorReadData (tag : BitVec 12) (stat : BitVec 2) (data : Bytes)
  /-- INITIATOR_WRITE_RESPONSE (R43): An ARSP answers an initiator write such as draw results, proving visibility or a network error -/
  | initiatorWriteResponse (tag : BitVec 12) (stat : BitVec 2)
  /-- QUE_DB (R133): A doorbell write sets a queue's producer index or is rejected -/
  | queDb (r : Req) (q : Fin 16) (v : BitVec 32)
  /-- QUE_ABORT (R135): QUE_CTRLq.ABORT cancels every unstarted command of the queue -/
  | queAbort (r : Req) (q : Fin 16)
  /-- QUE_ENTRY_SUBMIT (R527): A queue entry submitted through the QUE window sets base, size, tenant and enable -/
  | queEntrySubmit (r : Req) (data : BitVec 64) (wide : Bool)
  /-- EVT_CONS_WRITE (R528): A write of EVT_CONS consumes event records if within range -/
  | evtConsWrite (r : Req) (v : BitVec 32)
  /-- DIRECTORY_SUBMIT (R101): A write of word 0 of a directory entry submits the entry for creation, change or deletion -/
  | directorySubmit (r : Req) (data : BitVec 64) (wide : Bool)
  /-- PEER_ENTRY_WRITE (R301): A peer table entry submission is checked against partition and uniqueness and stored -/
  | peerEntryWrite (r : Req) (data : BitVec 64) (wide : Bool)
  /-- GROUP_SUBMIT (R309): A collective group entry submission stores the group and sets GSEQ to 0 -/
  | groupSubmit (r : Req) (data : BitVec 64) (wide : Bool)
  /-- REMAP_ENTRY_SUBMIT (R399): An installer writes or clears a remap entry while ABSENT -/
  | remapEntrySubmit (r : Req) (data : BitVec 64) (wide : Bool)
  /-- ROLE_REQ (R483): ROLE_CTRL.REQ draws a challenge for an installer or maker session -/
  | roleReq (r : Req) (role : BitVec 2)
  /-- ROLE_RESPONSE (R483): The write of ROLE_RESP7 submits the HMAC response and opens the session on a match -/
  | roleResponse (r : Req) (word7 : BitVec 32)
  /-- ROLE_CLOSE (R486): ROLE_CTRL.CLOSE closes the owning source's session -/
  | roleClose (r : Req)
  /-- BLK_RST (R461): GEN_CTRL.BLK_RST starts a block reset of the fast domains -/
  | blkRst (r : Req)
  /-- LTEST (R472): GEN_CTRL.LTEST runs a pattern test of every lane and replaces failing lanes -/
  | ltest (r : Req) (bad : BitVec 408)
  /-- CFG_DONE (R464): GEN_CTRL.CFG_DONE ends bring-up stage 4 and enters READY -/
  | cfgDone (r : Req)
  /-- GEN_DIS_REQ (R477): A disabled-unit map change takes one unit out of service or returns it -/
  | genDisReq (r : Req) (v : BitVec 32)
  /-- CMB_DECLARE (R360): Software declares a list position lost, and the block acts as guard for it -/
  | cmbDeclare (r : Req) (x : BitVec 14)
  /-- TIME_OFFSET (R443): A write of TIME_OFFSET steps the time of day at the next edge -/
  | timeOffset (r : Req) (v : BitVec 64) (edge : Bool)
  /-- SNP_STROBE (R444): A write of SNP_CTRL.STROBE fires the snapshot strobe at the next edge -/
  | snpStrobe (r : Req) (edge : Bool)
  /-- TBL_IKEY_COMMIT (R490): The write of word 7 of an installer key slot commits the key and invalidates content verified under the old key -/
  | tblIkeyCommit (r : Req) (slot : Fin 4) (word7 : BitVec 32)
  /-- DIG_EXP_EPOCH (R436): A nonzero write of DIG_EXP_EPOCH arms a comparison with an expected digest -/
  | digExpEpoch (r : Req) (e : BitVec 48)
  /-- HIVE_CFG_EN (R324): A write of HIVE_CFG.EN enables or disables the home agent and hive window -/
  | hiveCfgEn (r : Req) (en : Bool)
  /-- KX2C_DB (R539): A forerunner doorbell alias write acts as a doorbell of queues 0 to 7 -/
  | kx2cDb (r : Req) (q : Fin 8) (v : BitVec 32)
  /-- KX2C_FLUSH (R539): KX2C_FLUSH flushes every COMPAT object's dirty pages -/
  | kx2cFlush (r : Req)
  /-- PG_ERR_INJ (R488): A maker write of PG_ERR_INJ forces the named SRAM error causes once each -/
  | pgErrInj (r : Req) (page : BitVec 6) (v : BitVec 32)
  /-- REGISTER_WRITE (R506): A write to a register without a row of its own stores, clears or holds fields under rights and staging rules -/
  | registerWrite (r : Req) (x : RegOp) (size : BitVec 3) (data : BitVec 64)
  /-- CODED_WINDOW_READ (R28): A coded-window read returns an object's bytes in the capped or live view -/
  | codedWindowRead (r : Req) (op : BitVec 4) (addr : BitVec 58) (size : BitVec 3)
  /-- HIVE_HOST_REQUEST (R325): A hive window request from the host fabric port is admitted to the remote access engine or completed at once -/
  | hiveHostRequest (r : Req) (op : BitVec 4) (addr : BitVec 58) (size : BitVec 3) (data : Bytes) (be : BitVec 64)
  /-- RAE_ISSUE (R334): The remote access engine issues one ready context's request per hive cycle -/
  | raeIssue
  /-- HIVE_REQUEST_ARRIVAL (R333): A hive request record reaches the home, is admitted and queued on its line -/
  | hiveRequestArrival (p : BitVec 12) (tag : BitVec 24) (memb : BitVec 16) (body : Bytes)
  /-- HIVE_READ (R330): The home applies a READ of a hive line and returns the bytes -/
  | hiveRead (line : BitVec 35)
  /-- HIVE_WRITE (R330): The home applies a WRITE of enabled bytes to a hive line -/
  | hiveWrite (line : BitVec 35)
  /-- HIVE_ADD (R330): The home applies an atomic ADD and returns the old value -/
  | hiveAdd (line : BitVec 35)
  /-- HIVE_MIN (R330): The home applies an atomic signed MIN and returns the old value -/
  | hiveMin (line : BitVec 35)
  /-- HIVE_MAX (R330): The home applies an atomic signed MAX and returns the old value -/
  | hiveMax (line : BitVec 35)
  /-- HIVE_SWAP (R330): The home applies an atomic SWAP and returns the old value -/
  | hiveSwap (line : BitVec 35)
  /-- CELL_READ (R329): The home returns a granule of a coded cell in the named view or CELL_CHECK -/
  | cellRead
  /-- HIVE_RESPONSE_RECORD (R335): A hive response record reaches the requester and answers the host or the block's unit -/
  | hiveResponseRecord (p : BitVec 12) (body : Bytes)
  /-- HIVE_PROGRESS_TIMEOUT (R336): A remote device's progress timer expires and its outstanding requests complete with REMOTE_DEAD -/
  | hiveProgressTimeout (p : BitVec 12)
  /-- HIVE_PACK_TIMEOUT (R328): The pack wait expires and a partly filled hive flit is sent -/
  | hivePackTimeout (p : BitVec 12) (resp : Bool)
  /-- HOT_LINE_IDLE (R332): A hot-line buffer entry idle for HIVE_HL_IDLE is written back and freed -/
  | hotLineIdle (line : BitVec 35)
  /-- FLIT_RECEIVE (R291): A flit arrives on a logical link and is checked, ordered and admitted end to end -/
  | flitReceive (l : Fin 32) (b : Bytes) (fec : Fin 3)
  /-- NAK_RECEIVE (R291): A NAK control flit makes the sender replay from the named LSEQ -/
  | nakReceive (l : Fin 32) (lseq : BitVec 16)
  /-- CREDIT_RETURN (R295): A credit return control flit restores per-VC flit credits on a link -/
  | creditReturn (l : Fin 32) (c : BitVec 128)
  /-- CREDIT_RETURN_TIMER (R295): 500 ns after a freed flit the receiver sends a credit return -/
  | creditReturnTimer (l : Fin 32)
  /-- INIT_RECEIVE (R296): An INIT control flit sets the link's version and neighbour identity -/
  | initReceive (l : Fin 32) (ver : BitVec 8) (switch : Bool) (fid part : BitVec 16)
  /-- LINK_UP (R296): UCIe training completes on a module and the ends exchange INIT -/
  | linkUp (k : Fin 9)
  /-- LINK_INIT_TIMEOUT (R296): No INIT arrives within 100 µs of link-up and the link stays down -/
  | linkInitTimeout (l : Fin 32)
  /-- LINK_RETRY_TIMEOUT (R294): No LACK advance for LP_LRTY_TMO makes the sender re-send from its oldest unacknowledged flit -/
  | linkRetryTimeout (l : Fin 32)
  /-- LANE_FAIL (R53): A lane's uncorrectable rate exceeds LP_LANE_THR and the lane is moved to the spare module -/
  | laneFail (ol : Fin 36)
  /-- MODULE_LINK_ERROR (R53): A module's RDI reports a link error and its lanes move to the spare module -/
  | moduleLinkError (k : Fin 9)
  /-- MODULE_NOT_READY_TIMEOUT (R53): A module not ready for over 100 µs is replaced by the spare -/
  | moduleNotReadyTimeout (k : Fin 9)
  /-- RETRAIN_DONE (R294): A retrained link resumes and re-sends from its oldest unacknowledged flit -/
  | retrainDone (l : Fin 32)
  /-- LINK_DOWN (R306): A logical link goes down; paths are recomputed and unacknowledged flits re-sent -/
  | linkDown (l : Fin 32)
  /-- MONITOR_POLL (R54): Every 1 ms the block reads an optical engine's monitor registers over the sideband -/
  | monitorPoll (k : Fin 9)
  /-- MONITOR_RESPONSE (R54): A sideband monitor read answers and feeds the health monitor -/
  | monitorResponse (k : Fin 9) (off : BitVec 12) (v : BitVec 32)
  /-- MONITOR_READ_TIMEOUT (R54): A monitor read unanswered for 10 µs sets LP_MODk_MON_TMO -/
  | monitorReadTimeout (k : Fin 9)
  /-- E2E_ACK_RECEIVE (R305): An end-to-end acknowledgement advances ACK_ESEQ and WINDOW of streams -/
  | e2eAckReceive (p : BitVec 12) (body : Bytes)
  /-- E2E_ACK_TIMER (R305): 2 µs after an unacknowledged accepted flit the receiver sends an end-to-end acknowledgement -/
  | e2eAckTimer (p : BitVec 12) (vc : Fin 8)
  /-- E2E_RESEND_TIMEOUT (R306): A stream's ACK_ESEQ not advancing for LP_E2E_TMO makes the sender re-send it -/
  | e2eResendTimeout (p : BitVec 12) (vc : Fin 8)
  /-- FENCE_TIMEOUT (R321): A FENCE's TMO passes first and it completes with FENCE_TIMEOUT -/
  | fenceTimeout (q : Fin 16)
  /-- START (R349): A START membership message is forwarded to children or held until the JOIN arrives -/
  | startMsg (p : BitVec 12) (tag : BitVec 24) (memb : BitVec 16) (body : Bytes)
  /-- START_ACK (R349): A START_ACK from a child is gathered toward the root, which sends GO or completes START_PARTIAL -/
  | startAck (p : BitVec 12) (body : Bytes)
  /-- GO (R350): GO marks excluded entries, sets the member's state and completes its JOIN -/
  | goMsg (tag : BitVec 24) (memb : BitVec 16) (body : Bytes)
  /-- JOIN_SUBTREE_TIMEOUT (R349): CMB_JOIN_TMO expires and the node acknowledges with its unreached subtrees -/
  | joinSubtreeTimeout
  /-- LOST (R361): A LOST message marks a position lost, aborts its collectives and bypasses it in trees -/
  | lostMsg (p : BitVec 12) (body : Bytes)
  /-- LOST_DECLARE (R360): The guard declares a position lost when reports stand and no waggle came for CMB_LOST_TMO -/
  | lostDeclare (x : BitVec 14)
  /-- LEFT (R354): A LEFT message from a member whose job runs is treated as a declaration of loss -/
  | leftMsg (p : BitVec 12)
  /-- DECLARE_SELF (R360): A DECLARE_SELF makes the guard declare the sender lost -/
  | declareSelf (p : BitVec 12)
  /-- TEARDOWN_RELEASE (R354): A tearing-down member's path buffers empty or CMB_JOIN_TMO passes and it becomes ABSENT -/
  | teardownRelease
  /-- RB_DONE (R365): RB_DONE from a child is aggregated up the tree toward RB_ANN -/
  | rbDone (p : BitVec 12) (body : Bytes)
  /-- RB_ANN (R365): RB_ANN marks the rolled-back epochs ROLLED_BACK and completes the ROLLBACK -/
  | rbAnn (body : Bytes)
  /-- ROLLBACK_REPORT_TIMEOUT (R365): Members missing at the rollback root after CMB_CAP_TMO are reported -/
  | rollbackReportTimeout
  /-- RS_REPORT (R381): A RESTORE round report climbs the tree carrying capped and capping epochs -/
  | rsReport (p : BitVec 12) (body : Bytes)
  /-- RS_DECIDE (R382): RS_DECIDE starts round 2 with the target or announces the RESTORE verdict -/
  | rsDecide (body : Bytes)
  /-- RESTORE_REPORT_TIMEOUT (R386): A missing round-1 report after CMB_CAP_TMO completes every RESTORE with REMOTE_DEAD -/
  | restoreReportTimeout
  /-- REBUILD_REQUEST_ISSUE (R371): The rebuilding device sends RB_REQ for further stripes within CMB_RB_WIN -/
  | rebuildRequestIssue
  /-- RB_REQ (R371): A contributor reads its cells of the requested stripes at epoch X and feeds the chain, or answers RB_STALE -/
  | rbReq (p : BitVec 12) (body : Bytes)
  /-- RB_STALE (R371): RB_STALE makes the rebuilding device request the range again at its current capped epoch -/
  | rbStale (body : Bytes)
  /-- REBUILT (R373): REBUILT completes the comb members' REBUILD commands -/
  | rebuilt (body : Bytes)
  /-- MSEQ_FLOOR (R298): MSEQ_FLOOR tells a version-2 holder the new floor below which drain messages are discarded -/
  | mseqFloor
  /-- WAGGLE_SEND (R356): Every waggle period a member sends its waggle to its comb -/
  | waggleSend
  /-- WAGGLE (R356): A received waggle applies its capped epoch, hands over its digest and restarts the silence timer -/
  | waggle (p : BitVec 12) (body : Bytes)
  /-- WAGGLE_SILENCE (R357): No waggle from a comb member for CMB_LOST_TMO/2 raises a class 4 fault report -/
  | waggleSilence (x : BitVec 14)
  /-- FAULT_REPORT (R359): A fault report reaches the guard and is folded into its suspect table -/
  | faultReport (p : BitVec 12) (body : Bytes)
  /-- CAP_REPORT_READY (R279): A member's cap report for an epoch becomes ready and is sent up the cap tree -/
  | capReportReady (e : BitVec 48)
  /-- CAP_REPORT (R280): A cap report from a child is aggregated and forwarded to the parent -/
  | capReport (p : BitVec 12) (body : Bytes)
  /-- CAP_TIMEOUT (R280): CMB_CAP_TMO passes and a node forwards a partial report with MISSING set -/
  | capTimeout (e : BitVec 48)
  /-- CAP_ANNOUNCE (R281): A cap announcement is forwarded and the member caps the epoch by R27 -/
  | capAnnounce (p : BitVec 12) (body : Bytes)
  /-- SPINE_RECORD_WRITE (R420): A staged spine record is erased and programmed into an NVM slot -/
  | spineRecordWrite
  /-- DESC (R311): A DESC collective message is matched and forwarded up the group tree -/
  | descMsg (body : Bytes)
  /-- OPEN (R311): OPEN lets a collective send data and write destinations -/
  | openMsg (body : Bytes)
  /-- ABORT (R311): ABORT ends a collective with its code and is forwarded once to tree neighbours -/
  | abortMsg (body : Bytes)
  /-- COL_TIMEOUT (R311): COL_TMO passes without OPEN, ABORT or progress and the member sends ABORT with REMOTE_DEAD -/
  | colTimeout (gtag seq : BitVec 32)
  /-- REDUCE_SCATTER_CHUNK (R316): A reduce-scatter chunk is checked, staged and combined into the owner's rank-ordered tree -/
  | reduceScatterChunk (p : BitVec 12) (body : Bytes)
  /-- GATHER_CHUNK (R315): An all-gather chunk is checked and written to its destination positions -/
  | gatherChunk (p : BitVec 12) (body : Bytes)
  /-- BROADCAST_CHUNK (R315): A broadcast chunk is checked, written and forwarded to tree children -/
  | broadcastChunk (p : BitVec 12) (body : Bytes)
  /-- PARITY_SCATTER_CHUNK (R318): A parity scatter chunk is accumulated and the parity cell written settled -/
  | parityScatterChunk (p : BitVec 12) (body : Bytes)
  /-- REBUILD_CHUNK (R319): A rebuild chain chunk is XORed and forwarded, or written by the standby if the cell is still missing -/
  | rebuildChunk (p : BitVec 12) (body : Bytes)
  /-- DRAIN_SEND (R271): The coding unit reads a delta segment back from the log and sends it to the stripe's parity holders -/
  | drainSend (sl : Fin 13)
  /-- DELTA_SEGMENT (R274): A parity holder checks a delta segment, applies it to parity with undo data and records it -/
  | deltaSegment (p : BitVec 12) (body : Bytes)
  /-- SCALE_SEGMENT (R277): A KIND 3 SCALE delta segment is stored in the receiver's log and acknowledged -/
  | scaleSegment (p : BitVec 12) (body : Bytes)
  /-- DRAIN_ACK (R275): A drain acknowledgement advances a stream's acknowledged SEQ and carries the holder's grant -/
  | drainAck (p : BitVec 12) (body : Bytes)
  /-- DRAIN_ACK_TIMER (R275): 2 µs with an unacknowledged segment makes the holder send an acknowledgement -/
  | drainAckTimer (rank : Fin 16) (sl : Fin 13) (e : BitVec 48)
  /-- DRAIN_RESEND_TIMEOUT (R276): No acknowledgement advance for COD_DRAIN_TMO makes the sender re-send a stream -/
  | drainResendTimeout (src : Fin 16) (sl : Fin 13) (e : BitVec 48)
  /-- V2_DRAIN_ACK (R298): A version-2 drain acknowledgement advances the highest contiguous MSEQ -/
  | v2DrainAck (p : BitVec 12) (e : BitVec 48) (mseq : BitVec 32)
  /-- U_RESERVE_TAKE (R273): A holder takes its U reserve and grants C + 2 -/
  | uReserveTake
  /-- SEAL_IMAGE_CELL (R415): A seal image cell is checked and written to the seal-in region through the tier ports -/
  | sealImageCell (p : BitVec 12) (body : Bytes)
  /-- SEAL_READ_REQUEST (R416): A seal store answers a read request with seal read data in cell order -/
  | sealReadRequest (p : BitVec 12) (body : Bytes)
  /-- SEAL_READ_DATA (R422): Seal read data is checked and loaded into the restoring member's data cells -/
  | sealReadData (p : BitVec 12) (body : Bytes)
  /-- SEAL_READ_REFUSAL (R416): A seal read refusal fails the restoring member's RESTORE -/
  | sealReadRefusal (p : BitVec 12) (body : Bytes)
  /-- SHADOW_COPY_CELL (R416): A shadow receives a copied cell of an epoch's reduced inputs -/
  | shadowCopyCell (p : BitVec 12) (body : Bytes)
  /-- SHADOW_COPY_END (R416): With a matching count the shadow writes the copied cells and releases its STEP -/
  | shadowCopyEnd (p : BitVec 12) (body : Bytes)
  /-- STEP_ROW_ENTER (R154): A sequencer thread enters a row, waits for its condition and issues its iterations -/
  | stepRowEnter (t : Fin 8)
  /-- MAP (R174): An update-engine MAP iteration runs the chain over a footprint and writes the write streams -/
  | mapRow (t : Fin 8)
  /-- REDUCE_LINE (R191): A REDUCE_LINE iteration maps a footprint and reduces a slot output along each line -/
  | reduceLine (t : Fin 8)
  /-- REDUCE_ALL (R191): A REDUCE_ALL iteration maps a footprint and reduces a slot output over every element -/
  | reduceAll (t : Fin 8)
  /-- LOG_RESERVATION (R268): A stalled delta-log reservation succeeds and the cell's writes proceed -/
  | logReservation (t : Fin 8)
  /-- STAT (R242): A root-unit STAT iteration accumulates Gram products into preconditioner statistics -/
  | stat (t : Fin 8) (f : Option (Fin 4 × Fin 129))
  /-- APPLY (R243): A root-unit APPLY iteration forms the preconditioned direction of a block -/
  | apply (t : Fin 8) (f : Option (Fin 4 × Fin 129))
  /-- ACC_DENSE (R203): ACC_DENSE folds one dense micro-batch into the intake sum in micro-batch order -/
  | accDense (t : Fin 8)
  /-- ACC_LIST (R208): ACC_LIST folds one coordinate list into its stream's hash partials -/
  | accList (t : Fin 8)
  /-- INTAKE_DRAIN (R212): DRAIN closes an intake stream and writes the drained list for a sparse stream -/
  | intakeDrain (t : Fin 8)
  /-- COMMIT (R215): COMMIT matches owned rows to the state, allocating slots or scattering into the reduced gradient -/
  | commit (t : Fin 8)
  /-- MRP_READ_DATA (R47): Read data returns on a memory request port with per-granule ECC status -/
  | mrpReadData (n : Fin 12) (tag : BitVec 10) (x : ReadBeats)
  /-- MRP_WRITE_RESPONSE (R46): A write response returns on a memory request port -/
  | mrpWriteResponse (n : Fin 12) (tag : BitVec 10)
  /-- MRP_READY (R50): MRPn_READY rises or falls and issue of new requests resumes or stops -/
  | mrpReady (n : Fin 12) (up hbm4 : Bool) (cap : BitVec 6) (cycles : BitVec 64)
  /-- MRP_PORT_TIMEOUT (R50): A memory request unanswered for 20 µs takes the slice out of service for a per-slice reset -/
  | mrpPortTimeout (n : Fin 12)
  /-- SLICE_RESET_DONE (R462): A per-slice reset completes and the slice returns to service -/
  | sliceResetDone (n : Fin 12)
  /-- TIER_READ_DATA (R56): Read data returns on a tier port, poisoned data being treated as lost -/
  | tierReadData (p : Fin 4) (tag : BitVec 10) (stat load : BitVec 2)
  /-- TIER_WRITE_COMPLETION (R56): A write completion returns on a tier port -/
  | tierWriteCompletion (p : Fin 4) (tag : BitVec 10) (stat load : BitVec 2)
  /-- TIER_TIMEOUT (R56): A tier request unanswered for 50 µs is counted and treated as lost -/
  | tierTimeout (p : Fin 4) (tag : BitVec 10) (write : Bool)
  /-- TIER_LOAD_RECOVERY (R56): After 10 µs of light or optimal load the tier engine restores full request rate -/
  | tierLoadRecovery (p : Fin 4)
  /-- STREAM_VISIT_FILL (R125): A stream program starts the fill of its next visit once the release tally allows -/
  | streamVisitFill (k : Fin 4)
  /-- FORAGER_VISIT (R396): The forager checks the next cell or region of its stack at its scrub rate -/
  | foragerVisit (n : Fin 12)
  /-- CELL_REPAIR (R391): In a repair window a failing data cell is decoded from the comb, corrected and rewritten -/
  | cellRepair (d : BitVec 25)
  /-- PARITY_REPAIR (R392): In a repair window a failing parity cell or its B slot is re-encoded from capped data -/
  | parityRepair (p : BitVec 25)
  /-- REMAP_FILL (R399): The block repairs and copies a failing 4 KiB range to its remap target and fills a remap entry -/
  | remapFill (n : Fin 12)
  /-- MIGRATION_SLOT (R401): A migrating stack's next slot is relocated to another stack's relocation target -/
  | migrationSlot
  /-- SRAM_ECC_ERROR (R474): An on-block SRAM word is found corrected or uncorrectable and handled by its class -/
  | sramEccError (page : BitVec 6) (word : BitVec 32) (uncorr : Bool) (cls : Fin 4) (q : Fin 16)
  /-- HEALTH_UPDATE (R408): Every 1 ms the health monitor forms indicators and the risk score and raises the level -/
  | healthUpdate
  /-- LEVEL_DWELL_EXPIRY (R409): The score stays below threshold minus hysteresis for HLT_DWELL and the level falls one step -/
  | levelDwellExpiry
  /-- SENSOR_SUBFRAME (R403): At each 32 µs sub-frame start the shell selects the next point of every pod -/
  | sensorSubframe
  /-- SENSOR_CONVERSION (R404): A converter slot converts a supply, reference or thermal point and updates its reading -/
  | sensorConversion (k : Fin 32) (raw : BitVec 16) (opened : Bool)
  /-- SENSOR_CALIBRATION (R405): Every SNS_CAL_PER the shell recomputes converter corrections and measures ageing and clock deviation -/
  | sensorCalibration (counts : BitVec 384) (dev : BitVec 16)
  /-- DROOP_TRIP (R406): A droop comparator trips, counting and holding lane and array entry -/
  | droopTrip (c : Fin 16)
  /-- DROOP_HOLD_END (R406): The droop hold count expires and issue resumes -/
  | droopHoldEnd
  /-- LIMITER_UPDATE (R458): Every microsecond the power estimate is formed and the duty D adjusted -/
  | limiterUpdate
  /-- DOMAIN_WAKE (R454): Work for a gated domain raises WAKE_OUT and starts a warm or cold wake -/
  | domainWake (d : Fin 15)
  /-- RAMP_STEP (R454): A current step of a waking domain begins and raises its duty limit -/
  | rampStep (d : Fin 15)
  /-- DOMAIN_IDLE_GATE (R453): A fast domain idle for PWR_IDLE begins its ramp-down to gating -/
  | domainIdleGate (d : Fin 15)
  /-- RAMP_DOWN_STEP (R455): A gating domain lowers its duty by one step, finally stopping its clock -/
  | rampDownStep (d : Fin 15)
  /-- ROOT_FILL_EXPIRY (R249): ROOT_FILL_MAX passes with no valid vector and the root arrays gate -/
  | rootFillExpiry (cycles : BitVec 32)
  /-- PLL_LOCK (R450): A PLL locks and its domains may start -/
  | pllLock (k : Fin 3)
  /-- PLL_WARM_HOLD_EXPIRY (R450): A PLL whose domains stayed idle for PWR_WARM_HOLD stops -/
  | pllWarmHoldExpiry (k : Fin 3)
  /-- PLL_LOCK_LOSS (R452): A PLL loses lock; its domains freeze and the PLL restarts -/
  | pllLockLoss (k : Fin 3)
  /-- PLL_RETRY (R452): Once per millisecond a FAILED PLL is retried -/
  | pllRetry (k : Fin 3)
  /-- AON_CLK_LOSS (R451): 1 µs without an AON_CLK edge moves the block onto the backup oscillator -/
  | aonClkLoss
  /-- AON_CLK_RESTORE (R451): AON_CLK within CLK_DEV_THR for 10 ms switches the block back -/
  | aonClkRestore
  /-- AON_RST_ASSERT (R460): AON_RST_N asserts and resets the whole block -/
  | aonRstAssert
  /-- AON_RST_DEASSERT (R464): AON_RST_N de-asserts and bring-up stage 0 begins -/
  | aonRstDeassert
  /-- CONFIG_SAMPLE (R35): On the eighth AON_CLK edge after de-assertion the static configuration is sampled -/
  | configSample (slices : BitVec 12) (tiers : BitVec 4) (lpms : BitVec 9) (w128 w1024 : Bool) (mfr : BitVec 11)
  /-- FUSE_LOAD (R464): Stage 1 loads fuses, trims and the disabled-unit map and checks AON parity -/
  | fuseLoad (parityOk : Bool)
  /-- PWR_GOOD_FALL (R63): PWR_GOOD falls; fast domains are held in reset, requests abandoned and FAULT_OUT raised -/
  | pwrGoodFall
  /-- PWR_GOOD_RISE (R456): PWR_GOOD high for 1 µs lets domains start their first current step -/
  | pwrGoodRise
  /-- SELFTEST_DONE (R465): Self-test completes, failing units are spared, and stage 4 begins -/
  | selftestDone (seqOk : Bool) (lanes : BitVec 408) (cols : BitVec 516)
  /-- XSPI_DISCOVERY (R58): 100 µs after reset release the block reads the NVM's SFDP table -/
  | xspiDiscovery (ok : Bool) (size : BitVec 40)
  /-- THERM_IN_EVENT (R467): A conditioned THERM_IN assertion or de-assertion changes the thermal duty limit -/
  | thermInEvent (asserted : Bool)
  /-- BRD_ALERT_EVENT (R467): A conditioned BRD_ALERT_IN assertion or de-assertion feeds indicator 11 -/
  | brdAlertEvent (asserted : Bool)
  /-- SNAP_IN_EDGE (R444): A conditioned rising edge of SNAP_IN fires the snapshot strobe -/
  | snapInEdge (asserted edge : Bool)
  /-- PIN_OVERRATE_CLEAR (R468): 16 × PIN_RATE with no suppressed event clears OVERRATE -/
  | pinOverrateClear (pin : Fin 3)
  /-- PIN_STUCK (R469): An input asserted longer than PIN_STUCK sets STUCK -/
  | pinStuck (pin : Fin 3)
  /-- PIN_STUCK_CLEAR (R469): An input de-asserted for 1 ms clears STUCK -/
  | pinStuckClear (pin : Fin 3)
  /-- TIMED_STROBE (R444): TIME_TOD reaches SNP_AT or a SNAP's time and the strobe fires -/
  | timedStrobe
  /-- TAP_INSTRUCTION (R65): An instruction is updated into the test access port's instruction register -/
  | tapInstruction (code : BitVec 8)
  /-- CHALLENGE_LAPSE (R484): A session challenge lapses 1 s after REQ -/
  | challengeLapse
  /-- LOCKOUT_EXPIRY (R485): A session lockout period ends -/
  | lockoutExpiry
  /-- SESSION_IDLE (R486): No write from the owner for ROLE_IDLE closes the session -/
  | sessionIdle
  /-- CAP_WAIT_TIMEOUT (R363): A ROLLBACK or SEAL waiting at its start for the cap of its epoch fails with DESCRIPTOR after CMB_CAP_TMO -/
  | capWaitTimeout (q : Fin 16)
  /-- AON_PARITY_ERROR (R64): An always-on domain parity error in mission use raises FAULT_OUT and sends DECLARE_SELF if the light port can still send -/
  | aonParityError
  /-- PORT_CREDIT_RETURN (R37): A credit pulse from the far side of HFP_AREQ, HFP_AWD, an MRPn or a TPn channel restores one issue credit to the block -/
  | portCreditReturn (ch : Fin 7) (n : Fin 12)
  /-- ISOLATION_RELEASE (R454): 640 ns after a waking domain's first current step its isolation is released and it begins to accept work -/
  | isolationRelease (d : Fin 15)
  /-- XSPI_RESET_RELEASE (R58): The block releases XSPI_RESET_N 1 µs after its sequencer domain leaves reset -/
  | xspiResetRelease
  deriving DecidableEq, Repr

end Sys2Proof
end

