-- ==== Sys2Proof/Decode.lean ====
section
/-! DEFINITION. The block has no instruction words: commands reach it as register writes, messages, answers and events, and no
row of the command table gives bits. -/

namespace Sys2Proof

/-- The command that a word spells by the table's bits: none, since the table gives no row bits. -/
def decodeTableWord (_nbits _w : Nat) : Option Instr := none

end Sys2Proof
end

