-- ==== Sys2Proof/Config.lean ====
section
/-! DEFINITION. What an implementation fixes (fuses, straps of the die) and the free values: constants
without a body, so that nothing proved rests on a particular value of one. -/

namespace Sys2Proof.Config

/-- The 128-bit challenge the entropy source draws; the argument is State.free (R483). -/
opaque entropy : Nat → BitVec 128

/-- Whether the entropy source passes its health test at a draw; the argument is State.free (R484). -/
opaque entropyOk : Nat → Bool

/-- The fused secret key K_I or K_M: false for the installer, true for the maker (R483). -/
opaque secretKey : Bool → BitVec 256

/-- The fused maker public key for stage microcode (R161, R491). -/
opaque makerKey : BitVec 256

/-- Key generations, ROLE_KVER.KM and ROLE_KVER.KI (R521). -/
opaque kverKM : BitVec 16
opaque kverKI : BitVec 16

/-- SEQ_UCODE_VER of the fused default microcode, and the fused minimum (R491, R529). -/
opaque ucodeVer : BitVec 32
opaque ucodeMin : BitVec 32

/-- The fused disabled-unit map (R476). -/
opaque disabledMap : BitVec 64

/-- ROOT_COLMAPa as fused, for array a (R546). -/
opaque rootColMap : Nat → BitVec 8

/-- Rows and columns, in units of 128, of the object that a statistics object of so many rows preconditions, for LBLK and
QBLK: ROOT names no such object and the statistics object does not carry its shape (R238, R244). -/
opaque rootGrid : Nat → Nat → Nat → Nat × Nat

/-- Byte i of cell c of REPLICA object o as the copies that its replica map names hold it: the manual gives no message that brings it
(R370). -/
opaque replicaByte : Nat → Nat → Nat → BitVec 8

/-- Byte i of the hive object after a reset has lost its contents, for the n-th free value: the manual gives none (R339). -/
opaque hiveLostByte : Nat → Nat → BitVec 8

/-- The result a maker-only test access instruction shifts out: the manual gives none (R65). -/
opaque tapData : Nat → BitVec 32

/-- The byte a raw DRAW word leaves in a BYTE object: the manual gives no width for it (R187). -/
opaque rawDrawByte : Nat → BitVec 8

/-- Microseconds a record write took, SPN_LAST_US (R421). -/
opaque spineUs : Nat → BitVec 32

/-- The fused trims of thermal point p: gain in [31:16], offset in [15:0] (R557). -/
opaque sensorTrim : Nat → BitVec 32

/-- The fused baseline count of ageing monitor a (R557). -/
opaque ageBase : Nat → BitVec 32

/-- A thermal conversion as a temperature in 1/16 °C, signed, from the code, the point's gain and offset trims and the converter's
offset and gain corrections: the manual gives no formula (R404). -/
opaque pointTemp : Nat → Nat → Nat → Nat → Nat → BitVec 16

/-- The average supply in mV after a supply conversion: the average before it, the code, and the corrections (R557). -/
opaque supplyMv : Nat → Nat → Nat → Nat → BitVec 16

/-- The converter's offset in LSB and gain error in ppm, signed, from the means of the zero and bandgap conversions (R405). -/
opaque calOffset : Nat → Nat → BitVec 16
opaque calGain : Nat → Nat → BitVec 16

/-- The power estimate in 0.25 W; the argument is State.free (R458). -/
opaque powerEst : Nat → BitVec 12

/-- The lanes a pattern test started by a plain register write finds bad, at 34 × slice + lane; the argument is State.free
(R472). -/
opaque laneTestBad : Nat → BitVec 408

end Sys2Proof.Config
end

