-- ==== Sys2Proof/Machine/State.lean ====
section
/-! DEFINITION. The state of the block: plain data, one structure per unit, and the state at AON reset. -/

namespace Sys2Proof.Machine

/-- Stored bytes by address in one canonical form: addresses strictly rising, no entry equal to the byte an
unlisted address reads as, which is 0 (DESIGN CHOICE, notes/assumptions/3). -/
abbrev Mem := List Host.Cell

/-- Access types of register fields (R506). -/
inductive Acc where
  | ro | rw | w1c | wo | ws
  deriving DecidableEq, Repr

/-- One row of the register map: the field's key, its register's width, the field's width, access type, roles
(bit 0 operator, 1 installer, 2 maker), reset value, whether it is held to a cap (R508), whether it is
writable only while ABSENT (R487), whether block reset keeps it, the stated range (hi = 0: every value),
and for per-instance registers the number of instances and the byte stride. -/
structure FieldSpec where
  key : Nat
  rw : Nat
  width : Nat
  acc : Acc
  roles : Nat
  reset : Nat
  atCap : Bool
  absent : Bool
  kept : Bool
  lo : Nat
  hi : Nat
  cnt : Nat
  stride : Nat
  deriving DecidableEq, Repr

/-- One row of the page map: page type, live counters, tables, table-select offset, PG_CAPS.INJ, always-on. -/
structure PageRow where
  ty : Nat
  counters : Nat
  tables : Nat
  sel : Nat
  inj : Bool
  aon : Bool
  deriving DecidableEq, Repr

/-- An event record waiting for the ring (R148, R151). compl names the queue and the command index of a
completion record. -/
structure EvRec where
  kind : Nat
  status : Nat
  cancelled : Bool
  irq : Bool
  flags : Nat
  queue : Nat
  cmdId : Nat
  merged : Nat
  source : Nat
  info0 : Nat
  info1 : Nat
  time : Nat
  compl : Option (Nat × Nat)
  deriving DecidableEq, Repr

/-- The event ring's engine (R148 to R152): records waiting oldest first, the record now being written and
its write step (R149), the ring indices of flagged records not yet consumed, IRQ_OUT and the hold-off. -/
structure EvState where
  buf : List EvRec
  writing : Option (EvRec × Nat)
  flagged : List Nat
  irqOut : Bool
  holdoff : Bool
  deriving DecidableEq, Repr

/-- Where a command held by a queue stands (R141, R143). -/
inductive Phase where
  /-- fetched, not started -/
  | unstarted
  /-- started, its own row has not run yet -/
  | started
  /-- its row has run and its completion waits for other commands of the block -/
  | running
  /-- completed, failed or cancelled; waits to retire -/
  | done
  deriving DecidableEq, Repr

/-- What a queue holds of one command (R132, R136): its 512 bits, the free-running index, where it stands,
whether it has ever started (R141), how it ended, the completion record's INFO0 and INFO1, whether the record is posted (0 not yet, 1 waiting or
in flight, 2 posted or none), and what the running command keeps for itself (aux). -/
structure Run where
  raw : Nat
  idx : Nat
  phase : Phase
  begun : Bool
  err : Nat
  cancelled : Bool
  info0 : Nat
  info1 : Nat
  posted : Nat
  noRecord : Bool
  aux : List Nat
  deriving DecidableEq, Repr

/-- The mark a ROLLBACK leaves on a queue (R147): the doorbell then in force, the target, the newest epoch
rolled back and the REASON. -/
structure RbMark where
  db : Nat
  target : Nat
  newest : Nat
  reason : Nat
  deriving DecidableEq, Repr

/-- A command queue (R131 to R135). cmds holds the fetched, unretired commands, oldest first; fetching is the
first slot and the count of the read in flight; abortTo the doorbell value an ABORT runs to. -/
structure Queue where
  base : Nat
  size : Nat
  tenant : Nat
  en : Bool
  db : Nat
  head : Nat
  ret : Nat
  fetchErr : Bool
  dbBad : Bool
  cmds : List Run
  fetching : Option (Nat × Nat)
  abortTo : Option Nat
  rbMarks : List RbMark
  deriving DecidableEq, Repr

/-- A stream binding of a STEP (R153): object, first cell, count of cells. -/
structure Binding where
  obj : Nat
  first : Nat
  count : Nat
  deriving DecidableEq, Repr

/-- A sequencer thread (R153 to R159): the command it runs, the bank it runs in, the row it stands at, the
next iteration of an entered row, the passes of the repeat rows being run, its bindings, the tally values when
its STEP started, how it has ended, the leaves of a REDUCE row so far (line, cell, value plus one), the signals of
rows whose own writes are not all visible yet, with those writes (port, granule), and the writes that stood outstanding when the row was
entered. -/
structure Thread where
  busy : Bool
  queue : Nat
  idx : Nat
  cmdId : Nat
  epoch : Nat
  bank : Nat
  row : Nat
  visits : Nat
  entered : Bool
  iter : Nat
  passes : List (Nat × Nat)
  binds : List Binding
  bound : Bool
  tally0 : NMap
  ended : Bool
  failed : Nat
  cancelled : Bool
  replay : Bool
  leaves : List (Nat × Nat × Nat)
  sigs : List (Nat × List (Nat × Nat))
  prior : List (Nat × Nat)
  got : Bool
  deriving DecidableEq, Repr

/-- A table or microcode store (R161 to R165). words holds rows and then chains; keySlot and keyAt the key it
was verified under (R490). state: 0 EMPTY, 1 LOADING, 2 LOADED, 3 ARMED, 4 ACTIVE, 5 RETIRING. -/
structure Store where
  state : Nat
  version : Nat
  rows : List Nat
  chains : List Nat
  keySlot : Nat
  keyAt : Nat
  first : Nat
  last : Nat
  deriving DecidableEq, Repr

/-- A read of host memory in flight (R43, R44): tag, address, bytes, offset in the whole transfer, the queue
and command index it serves (queue 16 and above: a queue fetch of queue q is 16 + q). -/
structure HostRead where
  tag : Nat
  addr : Nat
  size : Nat
  off : Nat
  queue : Nat
  idx : Nat
  issued : Bool
  deriving DecidableEq, Repr

/-- A write of host memory in flight: tag, address, data, byte enables, the queue and command it serves
(queue 16: an event record). -/
structure HostWrite where
  tag : Nat
  addr : Nat
  data : Bytes
  be : Nat
  queue : Nat
  idx : Nat
  issued : Bool
  deriving DecidableEq, Repr

/-- The initiator side of the host fabric port: credits of AREQ and AWD, transfers in flight, and the bytes
gathered for a command whose reads are not all back (queue, command index, bytes by offset); treq and twd are the
credits of HFP_TREQ and HFP_TWD that the block has returned and not taken back (R37). -/
structure HostIf where
  treq : Nat
  twd : Nat
  areq : Nat
  awd : Nat
  reads : List HostRead
  writes : List HostWrite
  got : List (Nat × Nat × Nat × Bytes)
  deriving DecidableEq, Repr

/-- Register access state (R508 to R514): held at-cap values (value plus one by field key), half-register,
wide-register and table-window words staged per source, and read latches per source. -/
structure RegAcc where
  held : NMap
  low : List (Nat × Nat × Nat)
  wide : List (Nat × Nat × Nat)
  win : List (Nat × Nat × Nat × Nat)
  latch : List (Nat × Nat × Bytes)
  deriving DecidableEq, Repr

/-- Sessions (R483 to R486): the run of failed responses, the length of the next lockout in seconds, the AON_CLK edges since the
lockout in force began, and the role the pending challenge is for. -/
structure Session where
  fails : Nat
  lockLen : Nat
  lockEdges : Nat
  asked : Nat
  deriving DecidableEq, Repr

/-- What the block drives on its ports in one step. -/
inductive Out where
  /-- an answer on TRSP: TAG, STAT (R39) -/
  | trsp (tag stat : Nat)
  /-- an answer on TRD: TAG, STAT, data (R39) -/
  | trd (tag stat : Nat) (data : Bytes)
  /-- an AREQ read: TAG, address, bytes (R44) -/
  | hostRead (tag addr size : Nat)
  /-- an AREQ write with its AWD data and byte enables (R44) -/
  | hostWrite (tag addr : Nat) (data : Bytes) (be : Nat)
  /-- a flit on a logical link: LSEQ, LACK, header, payload (R288) -/
  | flit (link lseq lack hdr : Nat) (payload : Bytes)
  /-- a message delivered by the path layer to the unit its TYPE names (R304): peer, TYPE, JOB_TAG, MEMB_EPOCH, bytes -/
  | deliver (peer type tag memb : Nat) (bytes : Bytes)
  /-- a sideband read of an optical engine's monitor register: module, offset (R54) -/
  | sideband (module offset : Nat)
  /-- a request on a memory request port: port, write or read, tag, granule address, granules, PRIO; with a write its GMASK and DATA,
  granule g of the request at bytes 64g to 64g + 63 (R45) -/
  | mrp (port : Nat) (write : Bool) (tag gran n : Nat) (prio : Bool) (gmask : Nat) (data : Bytes)
  /-- credit pulses on HFP_TREQ and HFP_TWD: how many of each (R37) -/
  | hostCredit (treq twd : Nat)
  /-- a request on a tier port: port, write or read, tag, address[51:6] -/
  | tier (port : Nat) (write : Bool) (tag addr : Nat)
  deriving DecidableEq, Repr

/-! ### The light port (chapter 10) -/

/-- A flit: its 128-bit header and its payload (R288, R289). -/
structure Flit where
  hdr : Nat
  payload : Bytes
  deriving DecidableEq, Repr

/-- A logical link (R291 to R296). phase: 0 down, 1 up and waiting for INIT, 2 running, 3 retraining. txq holds
the flits assigned to the link that wait for the scheduler, retry the sent, unacknowledged ones with their LSEQ;
tx the next LSEQ to give, rx the LSEQ expected; nak that a NAK is out; resends the re-sends without progress;
credit, freed and deficit are per VC; turn is the scheduler's VC; tok the tokens of VC0's bucket and ft the flit times since it
gained one (R307). -/
structure LinkSt where
  phase : Nat
  ver : Nat
  fid : Nat
  part : Nat
  switch : Bool
  txq : List Flit
  retry : List (Nat × Flit)
  tx : Nat
  rx : Nat
  nak : Bool
  resends : Nat
  credit : NMap
  freed : NMap
  deficit : NMap
  turn : Nat
  tok : Nat
  ft : Nat
  deriving DecidableEq, Repr

/-- A sending stream (R304 to R306): peer index and VC, next ESEQ, lowest unacknowledged ESEQ, WINDOW, the
unacknowledged flits with their ESEQ, FLOW and link, the flits not yet within the WINDOW with their FLOW, the link of the message last
begun (64: none), and the queues whose commands' chunks or segments it has carried (R321). -/
structure TxStream where
  peer : Nat
  vc : Nat
  next : Nat
  ack : Nat
  window : Nat
  buf : List (Nat × Nat × Flit × Nat)
  wait : List (Nat × Flit)
  cur : Nat
  qs : List Nat
  deriving DecidableEq, Repr

/-- A delivered message whose effect is not yet durable (R305): ESEQ of its last flit, TYPE, whether its unit has taken it, the owner of
the memory writes it waits for plus one, and the hive requests (context and generation) it waits for. -/
structure HeldMsg where
  eseq : Nat
  type : Nat
  come : Bool
  owner : Nat
  reqs : List (Nat × Nat)
  deriving DecidableEq, Repr

/-- A receiving stream (R304, R305): the JOB_TAG and MEMB_EPOCH of the source's JOIN it numbers from, next ESEQ to deliver, flits that
arrived ahead, the ESEQ after the last flit acknowledged, the WINDOW granted, the flits of the message being gathered, and the delivered
messages whose effect is not yet durable, oldest first. -/
structure RxStream where
  peer : Nat
  vc : Nat
  tag : Nat
  memb : Nat
  next : Nat
  early : List (Nat × Flit)
  acked : Nat
  window : Nat
  part : List Flit
  held : List HeldMsg
  deriving DecidableEq, Repr

/-- The light port: links, streams, the physical lane behind each link, spare lanes and modules, monitor
time-outs in progress. lane: physical lane of each logical link; failed: physical lanes out of use; poll:
monitor reads that are out (module, offset); mon: monitor register values plus one, by module × 4096 + offset; heldCred:
the links of VC1 flits whose credit the coding unit keeps back, oldest first (R25); hiveCred: the links of VC5 flits whose requests the
home has not taken (R333); swapDue: failed modules whose swap waits for the
one that retrains (R66); rates: the data rate in GT/s at which each module's training ended, which the RDI tells (R51). -/
structure LightPort where
  links : List LinkSt
  tx : List TxStream
  rx : List RxStream
  lane : List Nat
  failed : List Nat
  poll : List (Nat × Nat)
  mon : NMap
  heldCred : List Nat
  hiveCred : List Nat
  swapDue : List Nat
  rates : List Nat
  deriving DecidableEq, Repr

/-! ### Memory ports (chapter 2) -/

/-- A request on a memory request port (R45, R46): tag, first granule, granules, write or read, PRIO, the unit
that waits for it (a thread number, or 16 and above for the other units), whether it has been issued, and the granule the
block addresses, stack × 2³¹ + granule, before relocation and remap (R400); old: the granules of an outstanding read that a
write has reached since. -/
structure MemReq where
  tag : Nat
  gran : Nat
  src : Nat
  n : Nat
  write : Bool
  prio : Bool
  owner : Nat
  issued : Bool
  old : List Nat
  deriving DecidableEq, Repr

/-- A memory request port: credits of RRQ, WRQ and WD, and the requests waiting or outstanding, oldest first. -/
structure Mrp where
  rrq : Nat
  wrq : Nat
  wd : Nat
  reqs : List MemReq
  deriving DecidableEq, Repr

/-- A request on a tier port: tag, 64-byte address, write or read, the unit that waits for it, whether issued. -/
structure TierReq where
  tag : Nat
  addr : Nat
  write : Bool
  owner : Nat
  issued : Bool
  deriving DecidableEq, Repr

/-- A tier port: credits of RQ and WD, the requests, and the share of the request rate in force: 1 full,
2 half, 4 a quarter (R56). -/
structure TierPort where
  rq : Nat
  wd : Nat
  reqs : List TierReq
  slow : Nat
  deriving DecidableEq, Repr

/-! ### Objects and tiers (chapter 4) -/

/-- A running stream program (R124, R125): program object, header fields, tally values at start, the visits
whose fill has started and which have been signalled, queue tenant, the descriptors as object, first cell,
count, by layer, and the visits to be filled again before they are signalled (R126). -/
structure Stream where
  obj : Nat
  layers : Nat
  depth : Nat
  rev : Bool
  relTally : Nat
  rdyTally : Nat
  slotObj : Nat
  slotCells : Nat
  rel0 : Nat
  rdy0 : Nat
  started : Nat
  signalled : Nat
  tenant : Nat
  descs : List (List Binding)
  refill : List Nat
  deriving DecidableEq, Repr

/-- The image pool (R119 to R127), by image table index: dirty pages of a COMPAT cache (one bit each), 1 for an image
whose home a write has changed, failed write-backs in a row, 1 for a filling image whose cells have been read and written, 1 for a
write-back with a failed granule, the write-back in progress (1 alone, 2 before an eviction, 3 before an IMAGE DROP), the unit that
waits for a COMPAT fill plus one, and the place of a stream image in its SLOT_OBJ plus one (object × 2²² + cell); zeros: the cells a
copying unit (its owner number) found lost. -/
structure Pool where
  dirty : NMap
  bad : NMap
  fails : NMap
  put : NMap
  flaw : NMap
  wb : NMap
  user : NMap
  slotAt : NMap
  zeros : List (Nat × Nat)
  held : List Nat
  deriving DecidableEq, Repr

/-! ### The schedule engine (chapter 8) -/

/-- A latched schedule set: the epoch it serves, whether SCH_OBJ named a valid object, and its bytes (R226, R229). -/
structure SchSet where
  epoch : Nat
  ok : Bool
  data : List Host.Cell
  deriving DecidableEq, Repr

/-- The schedule engine: the held sets, the set a REPLAY runs on, and the triples formed by epoch (R226, R230, R439). -/
structure Sched where
  sets : List SchSet
  replay : Option SchSet
  formed : List (Nat × Nat)
  deriving DecidableEq, Repr

/-! ### The intake unit (chapter 7) -/

/-- The touched-row list of an epoch for a row index map: row, slot and gap, in ascending row (R215). -/
structure TouchList where
  epoch : Nat
  map : Nat
  rows : List (Nat × Nat × Nat)
  deriving DecidableEq, Repr

/-- The marks of an epoch on an object (R218): a dense reduce destination as a range of cells, or the rows a COMMIT
marked. -/
structure Mark where
  epoch : Nat
  obj : Nat
  dense : Bool
  first : Nat
  count : Nat
  rows : List Nat
  deriving DecidableEq, Repr

/-- An entry of the intake tracking table (R202): stream, epoch, kind, the micro-batches completed (the next expected
index in STRICT mode), whether it has been drained (and so left the table), the micro-batches claimed in order of
arrival, for a list stream its LROWS and COLS, and for a dense one in FAST mode the folds so far of each 128 × 128 block of the sum, by
block row × 2²⁰ + block column (R220). -/
structure Track where
  stream : Nat
  epoch : Nat
  sparse : Bool
  next : Nat
  drained : Bool
  claimed : List Nat
  lrows : Nat
  cols : Nat
  folds : NMap
  deriving DecidableEq, Repr

/-- A key of a sparse stream with its occurrences and partial sums (R206 to R211). place: 0 an accumulator entry (way
and bundle index), 1 the spill table (slot), 2 a promotion slot. -/
structure AccKey where
  key : Nat
  slice : Nat
  place : Nat
  way : Nat
  bundle : Nat
  occ : Nat
  parts : List (Nat × List Nat)
  deriving DecidableEq, Repr

/-- A promoted cell of a stream (R211): stream, row tile, segment, promotion slot. -/
structure Promo where
  stream : Nat
  tile : Nat
  seg : Nat
  slot : Nat
  slice : Nat
  deriving DecidableEq, Repr

/-- The intake unit: tracking table, keys, promoted cells, rows marked touched by stream, touched-row lists, marks, the
spill filters, the associative memory (map, row, slice, most recent first), and the targets already refused slots with
their epochs. -/
structure Intake where
  track : List Track
  keys : List AccKey
  promos : List Promo
  touched : List (Nat × List Nat)
  lists : List TouchList
  marks : List Mark
  filter : NMap
  assoc : List (Nat × Nat × Nat)
  refused : List (Nat × Nat)
  deriving DecidableEq, Repr

/-! ### The coding unit (chapter 9) -/

/-- A 256 KiB log block in use (R266): its index, its epoch, and the 64 KiB quarters given out so far, from its start on:
none is an undo slot, some n a quarter of segments and undo list entries with n of its 1,024 64-byte units used. -/
structure LogBlk where
  idx : Nat
  epoch : Nat
  quarters : List (Option Nat)
  deriving DecidableEq, Repr

/-- A segment in the log of one slice (R263, R266): its first 64-byte unit, all of its units in order (the chaining that
R266 gives the slice's block table), whether this member wrote it; rank is the sender of a received one, queue that of the STEP
which wrote it (16: no STEP). -/
structure Seg where
  slice : Nat
  off : Nat
  units : List Nat
  len : Nat
  epoch : Nat
  kind : Nat
  cell : Nat
  seq : Nat
  attempt : Nat
  nrec : Nat
  rank : Nat
  own : Bool
  queue : Nat
  deriving DecidableEq, Repr

/-- An entry of an epoch's undo list (R274): parity cell, CRC, whether it is of the U slot, and where the epoch's blocks
hold it: 1 + its offset in 16-byte units within the share, or 0. -/
structure Undo where
  slice : Nat
  epoch : Nat
  k : Nat
  crc : Nat
  isU : Bool
  place : Nat
  deriving DecidableEq, Repr

/-- A slice's log share (R266 to R273): blocks in all, the free queue, the blocks in use in allocation order, and the U
slots left in the reserve with its epoch plus one (0: not taken). -/
structure Share where
  total : Nat
  free : List Nat
  blks : List LogBlk
  uLeft : Nat
  uEpoch : Nat
  deriving DecidableEq, Repr

/-- A cell a row is writing (R182, R268): thread and row visit, data cell, logging slice, epoch, kind, bytes
reserved, the deltas so far by granule, and the log units that hold their records already (R20). -/
structure OpenCell where
  thread : Nat
  visit : Nat
  d : Nat
  slice : Nat
  epoch : Nat
  kind : Nat
  reserved : Nat
  recs : List (Nat × Bytes)
  units : List Nat
  deriving DecidableEq, Repr

/-- A drain stream this member sends (R272): sender rank (its own or a kept one), segments logged, and per holder rank
the segments of the stream that go to it sent and acknowledged, and the re-send times without progress. -/
structure DrainOut where
  src : Nat
  slice : Nat
  epoch : Nat
  attempt : Nat
  next : Nat
  sent : NMap
  acked : NMap
  tries : NMap
  deriving DecidableEq, Repr

/-- A segment translated for a version-2 holder (R298): holder rank, the stream's sender rank, epoch, slice and SEQ, its
first MSEQ and its messages. -/
structure V2Seg where
  holder : Nat
  src : Nat
  epoch : Nat
  slice : Nat
  seq : Nat
  first : Nat
  n : Nat
  deriving DecidableEq, Repr

/-- A drain stream this member holds parity for (R274, R275): the peer that sends it, sender rank, segments applied, segments
acknowledged so far, and the applied segments whose writes may still be unacknowledged by the memory ports, oldest first, as SEQ and the
owner of those writes (R24). -/
structure DrainIn where
  peer : Nat
  rank : Nat
  slice : Nat
  epoch : Nat
  attempt : Nat
  next : Nat
  told : Nat
  waits : List (Nat × Nat)
  deriving DecidableEq, Repr

/-- A report of an epoch at a node of the cap tree (R279): the child's list index, and the fields. -/
structure CapRep where
  child : Nat
  clean : Bool
  covered : Nat
  missing : Nat
  firstBad : Nat
  deriving DecidableEq, Repr

/-- An epoch as this member sees it: whether a command has opened it; 0 OPEN, 1 DRAINING, 2 CAPPED, 3 ROLLED_BACK; whether its cap report would be
clean; the fetched CAP command as queue and index plus one; which stores it armed; the reports of children; the
state of the own report (0 none, 1 ready); what the parent was told last (0 nothing, 1 unclean, 2 partial, 3 complete);
whether the announcement has gone out; the generator keys and the droop
trips by comparator at its opening, and the SCALE objects that the fetch of its CAP compared (R113). -/
structure Epoch where
  num : Nat
  opened : Bool
  phase : Nat
  clean : Bool
  capQ : Nat
  capIdx : Nat
  armTbl : Bool
  armUcode : Bool
  reports : List CapRep
  own : Nat
  told : Nat
  announced : Bool
  seeds : List (Nat × Bytes)
  droop0 : List Nat
  scaled : List Nat
  deriving DecidableEq, Repr

/-- A covered cell of an epoch's step digest (R431): object, cell, CRC after the epoch's last KIND 1 write. -/
structure DigCell where
  epoch : Nat
  obj : Nat
  cell : Nat
  crc : Nat
  deriving DecidableEq, Repr

/-- The coding unit. attempts gives ATTEMPT by epoch; granted the grants heard from holders by rank (grant plus
one); v2 the next MSEQ by holder rank and epoch and v2segs the translated segments not yet acknowledged; kept the
decoded cells of kept ranks (by HOME-like index); parked the drain messages that wait for a missing parity cell
(peer, bytes); scaleCap the capped copies of SCALE objects that the SCALE mirror region holds from 4 KiB on
(key: rank, object, byte), scaleHas the member's own objects that have one, and digs the covered cells of the
uncapped epochs' digests. stalls are the stall episodes that run (thread, data cell; R269); owner is the unit
number the coding unit's memory requests of the present piece of work carry, and serial the next free one (R24).
firsts are the parity cells read whole for their first application (R274 step 5), and whether the reads are answered; badSegs the
segments whose read-back failed: slice, offset, epoch (R271); expect the digest that the armed expectation compares with (R436). -/
structure Coding where
  shares : List Share
  segs : List Seg
  undo : List Undo
  open_ : List OpenCell
  outs : List DrainOut
  ins : List DrainIn
  attempts : NMap
  granted : NMap
  v2 : NMap
  v2segs : List V2Seg
  kept : List (Nat × Bytes)
  parked : List (Nat × Bytes)
  epochs : List Epoch
  scaleCap : Mem
  scaleHas : List Nat
  digs : List DigCell
  stalls : List (Nat × Nat)
  owner : Nat
  serial : Nat
  firsts : List (Nat × Bool)
  badSegs : List (Nat × Nat × Nat)
  expect : Nat
  deriving DecidableEq, Repr

/-! ### The comb unit (chapter 12) -/

/-- A START that came before its JOIN was accepted (R349): peer, JOB_TAG, MEMB_EPOCH, and the message. -/
structure HeldStart where
  peer : Nat
  tag : Nat
  memb : Nat
  body : Bytes
  deriving DecidableEq, Repr

/-- A child's START_ACK (R349): its list index, members covered, unreached subtree roots with their status. -/
structure StartAck where
  child : Nat
  covered : Nat
  unreached : List (Nat × Nat)
  deriving DecidableEq, Repr

/-- A ROLLBACK that runs (R364): its command, target, REASON, newest epoch rolled back, whether the undo is done, and
whether RB_DONE has gone up. -/
structure RbRun where
  queue : Nat
  idx : Nat
  target : Nat
  reason : Nat
  newest : Nat
  undone : Bool
  told : Bool
  deriving DecidableEq, Repr

/-- An RB_DONE held at a node (R365): rollback target, child, members covered, list indices missing. -/
structure RbDone where
  target : Nat
  child : Nat
  covered : Nat
  missing : List Nat
  deriving DecidableEq, Repr

/-- An RS_REPORT held at a node (R381): child, round, undo feasible, minimum CAPPED and maximum CAPPING. -/
structure RsRep where
  child : Nat
  round : Nat
  ok : Bool
  lo : Nat
  hi : Nat
  deriving DecidableEq, Repr

/-- A RESTORE that runs (R381): its command, EPOCH and SOURCE, the round, whether the own record is fresh, the target, and
the own cells found split; for SOURCE = 1 the cells still awaited. -/
structure RsRun where
  queue : Nat
  idx : Nat
  epoch : Nat
  source : Nat
  round : Nat
  fresh : Bool
  target : Nat
  split : Nat
  told : Nat
  deriving DecidableEq, Repr

/-- A request of a rebuilding device that this member serves (R371): device's peer, sequence number, first stripe, stripes,
epoch X, rank rebuilt. -/
structure ChainReq where
  peer : Nat
  seq : Nat
  first : Nat
  n : Nat
  x : Nat
  rank : Nat
  deriving DecidableEq, Repr

/-- The comb unit. list holds the job list as fetched, listN its entries, digest its digest (R347), base and fresh its
BASE_EPOCH and FRESH; firstSwitch: the CAP of the base epoch that R564 admits once has not come; needRestore: commands
that name an epoch wait for a RESTORE (R348); digests of epochs above rbLow up to rbHigh are ignored until the time
rbUntil (R435). heard gives the time plus one of the latest waggle by list index, told that of the latest fault report, guards the declaring guard's rank plus
one of each lost position, and of one whose LOST came before GO. joins holds the JOIN commands that wait (queue, index), starts the held STARTs; started, acked,
acks and going follow the start; capDue: the newest epoch learned as capped whose cap waits for a slice in reset (R462), else 0; leave is the LEAVE that runs with whether it has reached TEARDOWN; rb, rbDone, rs, rsReps and rsFresh
(list indices of fresh members) the job-wide ROLLBACK and RESTORE; reqs and chunks the rebuild requests served and the
chunks that came before their request; lostSeen the positions whose LOST has passed here (R360). -/
structure Comb where
  list : Bytes
  listN : Nat
  digest : Nat
  base : Nat
  fresh : Bool
  firstSwitch : Bool
  needRestore : Bool
  rbUntil : Nat
  rbLow : Nat
  rbHigh : Nat
  heard : NMap
  told : NMap
  guards : NMap
  joins : List (Nat × Nat)
  starts : List HeldStart
  started : Bool
  acked : Bool
  acks : List StartAck
  going : Bool
  capDue : Nat
  leave : Option (Nat × Nat × Bool)
  rb : Option RbRun
  rbDone : List RbDone
  rs : Option RsRun
  rsReps : List RsRep
  rsFresh : List Nat
  reqs : List ChainReq
  chunks : List (Nat × Bytes)
  lostSeen : List Nat
  deriving DecidableEq, Repr

/-! ### The hive and remote reads (chapter 11) -/

/-- A hive request record (R328): context, generation, OP, PARTIAL, SIZE code, OFFSET, byte enables, data or operand. -/
structure HiveRec where
  ctx : Nat
  gen : Nat
  op : Nat
  part : Bool
  size : Nat
  off : Nat
  mask : Nat
  data : Bytes
  deriving DecidableEq, Repr

/-- Who waits for the answer of a hive request: the host by TREQ_SRC and TREQ_TAG, or a degraded read by number, with the granule and
the coefficient the answer is scaled by. -/
inductive Asker where
  | host (src tag : Nat)
  | deg (id gran coeff : Nat)
  deriving DecidableEq, Repr

/-- A request of the remote access engine, waiting or in a context: its record, the peer it goes to, whether the own home
serves it, who waits, and TIME_TOD[31:0] at issue (R334, R553). -/
structure HiveCtx where
  req : HiveRec
  peer : Nat
  own : Bool
  asker : Asker
  issued : Bool
  time : Nat
  deriving DecidableEq, Repr

/-- What a degraded read is for: a kept rank's cell (R377), a coded-window read by number with its pieces (offset in the answer,
first byte of the cell, bytes), or a repair. -/
inductive DegUse where
  | kept (d : Nat)
  | window (id : Nat) (ps : List (Nat × Nat × Nat))
  | repair (par : Bool) (cell : Nat)
  deriving DecidableEq, Repr

/-- A coded-window read that is not answered yet (R28, R29, R367): its number, TREQ_TAG, address and SIZE code, the capped epoch and
the first data cell of the object's home that it latched when it was accepted, the records of epochs that have capped since, which its
capped view XORs out (cell in HOME's numbering, records), the bytes so far, the degraded reads still out, whether one failed, whether it
waits for a repair or for the end of an update, and whether a granule of its own reads was lost. -/
structure WinRead where
  id : Nat
  tag : Nat
  addr : Nat
  size : Nat
  cap : Nat
  home : Nat
  old : List (Nat × List (Nat × Bytes))
  bytes : Bytes
  left : Nat
  bad : Bool
  wait : Bool
  lost : Bool
  deriving DecidableEq, Repr

/-- A degraded read (R367): its number, use, the decoded bytes so far (a whole cell), the CELL_READs not yet admitted
(peer, OFFSET, coefficient, granule), how many are out, whether one was answered badly, and the peers that answered so; the rank and the
stripe that are read, whether in the live view, the granules, and the ranks left out. -/
structure DegRead where
  id : Nat
  use : DegUse
  bytes : Bytes
  todo : List (Nat × Nat × Nat × Nat)
  out : Nat
  bad : Bool
  badPeers : List Nat
  rank : Nat
  stripe : Nat
  live : Bool
  grans : List Nat
  except : List Nat
  deriving DecidableEq, Repr

/-- An access queued at the home (R331): the peer it came from (none: the block itself), its record, and for a capped-view
CELL_READ accepted before a cap the granule as it stood before that cap (R27); out: the port reads of its cell are out (R389). -/
structure HomeReq where
  peer : Option Nat
  req : HiveRec
  snap : Option Bytes
  out : Bool
  deriving DecidableEq, Repr

/-- An entry of the hot-line combining buffer (R332): line, value, dirty. Least recently used first. -/
structure HotLine where
  line : Nat
  val : Bytes
  dirty : Bool
  deriving DecidableEq, Repr

/-- A partly filled hive flit (R328): peer, whether it holds responses, FLOW, the records so far. -/
structure PackBuf where
  peer : Nat
  resp : Bool
  flow : Nat
  body : Bytes
  deriving DecidableEq, Repr

/-- A line the home agent reads from memory (R332): the line, whether for the buffer or for its oldest access alone, whether the read
has been requested, and whether it came back uncorrectable. -/
structure HomeFetch where
  line : Nat
  hot : Bool
  out : Bool
  bad : Bool
  deriving DecidableEq, Repr

/-- The remote access engine and the home agent: contexts and the admission queue in order, generations by context, the
context served last, degraded reads and their next number, coded-window reads not answered, flits being packed, queued accesses in order of arrival, the
hot-line buffer, the lines being read, and the length of the answer that a request ended by R336 would have (by 16 × context + generation). -/
structure Hive where
  ctxs : List HiveCtx
  admq : List HiveCtx
  gens : NMap
  rr : Nat
  degs : List DegRead
  nextDeg : Nat
  wins : List WinRead
  packs : List PackBuf
  home : List HomeReq
  waitq : List HomeReq
  hot : List HotLine
  fetch : List HomeFetch
  late : NMap
  deriving DecidableEq, Repr

/-- A FENCE that waits (R321): queue and command index, streams with the ESEQ to reach (peer, VC, ESEQ), hive contexts not
yet sent (context, generation), those whose REMOTE_DEAD answer fails it, tier-port writes (port, tag), and requests of the host still in the
admission queue (source, tag). -/
structure Fence where
  queue : Nat
  idx : Nat
  streams : List (Nat × Nat × Nat)
  ctxs : List (Nat × Nat)
  watch : List (Nat × Nat)
  tiers : List (Nat × Nat)
  queued : List (Nat × Nat)
  deriving DecidableEq, Repr

/-- A collective this member has started and not completed (R309 to R320): its command, group index, GTAG, sequence number
and digest; whether OPEN has come; its tree children's DESCs (index, MATCHED) and whether its own went up; the streams whose
flits await acknowledgement (peer, VC, ESEQ); the chunks staged (sender index, chunk, data), in order of arrival; the senders
whose END chunk came, with its count; the results formed; the owner number of its port requests, the parts of the source sent, whether
the next part's cells are being read, whether one was lost, and COL_RS_WIN as it stood at the start. -/
structure Coll where
  queue : Nat
  idx : Nat
  grp : Nat
  gtag : Nat
  seq : Nat
  digest : Nat
  opened : Bool
  kids : List (Nat × Nat)
  told : Bool
  acks : List (Nat × Nat × Nat)
  staged : List (Nat × Nat × Bytes)
  ends : List (Nat × Nat)
  formed : List Nat
  owner : Nat
  next : Nat
  reading : Bool
  lost : Bool
  win : Nat
  deriving DecidableEq, Repr

/-- A DESC that waits for its own COLL (R311): GTAG, sequence number, sender's index, digest, MATCHED. -/
structure EarlyDesc where
  gtag : Nat
  seq : Nat
  sender : Nat
  digest : Nat
  matched : Nat
  deriving DecidableEq, Repr

/-- The collective unit: open collectives in order of their start, early DESCs, and the sequence numbers COLLs have taken
(epoch, group, sequence number), which a ROLLBACK gives back (R364); ABORTs of COLLs not started here (GTAG, sequence number, code); and
the collectives started. -/
structure Colls where
  run : List Coll
  early : List EarlyDesc
  taken : List (Nat × Nat × Nat)
  aborted : List (Nat × Nat × Nat)
  serial : Nat
  deriving DecidableEq, Repr

/-- A seal image a spine record names (R419): half, SEAL_PEER, epoch, CRC of its CRC table, data cells. -/
structure SealImg where
  half : Nat
  peer : Nat
  epoch : Nat
  tcrc : Nat
  cells : Nat
  deriving DecidableEq, Repr

/-- A SEAL that runs (R412 to R417): its command, EPOCH, half, SEAL_PEER, data cells, the next cell in order, the cells copied out
of order, the cells whose reads are out or that await a repair, the CRC-64 of each copied cell, the cells that later epochs had written
when it began, and 0 while cells are copied, 1 while the CRC table is, 2 until its record is staged, 3 until the image is durable and the
record written, 4 until the image is durable without a record. -/
structure SealRun where
  queue : Nat
  idx : Nat
  epoch : Nat
  half : Nat
  peer : Nat
  cells : Nat
  next : Nat
  ahead : List Nat
  reading : List Nat
  crcs : NMap
  late : List Nat
  phase : Nat
  deriving DecidableEq, Repr

/-- A seal read request a store answers (R416): peer, epoch, half, first cell, cells, and whether a tier-port read failed. -/
structure SealServe where
  peer : Nat
  epoch : Nat
  half : Nat
  first : Nat
  n : Nat
  bad : Bool
  deriving DecidableEq, Repr

/-- A RESTORE from a seal image (R422): its command, the spine record's header and slot, the image cells read, and the cells a
local read of which failed. -/
structure SealLoad where
  queue : Nat
  idx : Nat
  hdr : Nat
  slot : Nat
  got : List (Nat × Bytes)
  bad : List Nat
  deriving DecidableEq, Repr

/-- The spine: the staged record (KIND, length, SEQ), the image the newest valid record names (R419 to R421), the running
SEAL, the epoch each half of the seal-in region holds (half, epoch), the seal reads being answered, the image being
loaded, and whether XSPI_RESET_N is released (R58). -/
structure Spine where
  staged : Option (Nat × Nat × Nat)
  image : Option SealImg
  run : Option SealRun
  held : List (Nat × Nat)
  serve : List SealServe
  load : Option SealLoad
  resetN : Bool
  deriving DecidableEq, Repr

/-- A shadow pair (R385, R416). At the principal: objects a reduce-scatter or a COMMIT wrote in an epoch and whose copies have not gone
out, and the epochs whose first copies have. At the shadow: copied cells that wait (epoch, object, cell, bytes), and the epochs whose copies
are complete. At both: the cells copied so far, by epoch. -/
structure Shadowing where
  wrote : List (Nat × Nat)
  sent : List Nat
  got : List (Nat × Nat × Nat × Bytes)
  ready : List Nat
  cells : NMap
  deriving DecidableEq, Repr

/-- Rebuilding (R369 to R373). At the device: its command, whether it is a shadow that is filled, the rank, the stripes whose cell is written, the next
stripe never asked for, the next sequence number, the requests out (sequence number, first stripe, stripes, epoch), ranges to
ask for again, stripes wanted first, and the stripes readers wait for (reader, stripe). waits holds the REBUILD commands that wait for REBUILT (queue, index, rank). -/
structure Rebuild where
  cmd : Option (Nat × Nat)
  shadow : Bool
  rank : Nat
  written : List Nat
  next : Nat
  seq : Nat
  out : List (Nat × Nat × Nat × Nat)
  again : List (Nat × Nat)
  pull : List Nat
  waited : List (Nat × Nat)
  waits : List (Nat × Nat × Nat)
  deriving DecidableEq, Repr


/-- A REPLAY that runs (R438 to R440): its queue and command index, its epoch, the images still to run, the
generator keys latched at its start, the UNIQUE cells it has changed, and the ROOT image that waits for its accesses, with its place. -/
structure Replay where
  queue : Nat
  idx : Nat
  epoch : Nat
  images : List Nat
  seeds : List (Nat × Bytes)
  changed : List (Nat × Nat)
  root : Option (Nat × List Nat)
  droop0 : List Nat
  deriving DecidableEq, Repr

/-- The sequencer (chapter 5): threads, table banks A and B, the active and idle microcode stores, the queue
the next fetch looks at first, and the slices' scratch words (R169, R192). -/
structure Seq where
  threads : List Thread
  bankA : Store
  bankB : Store
  ucAct : Store
  ucIdle : Store
  rr : Nat
  scratch : NMap
  deriving DecidableEq, Repr
/-! ### Spares (chapter 15) -/

/-- What is out of service behind the maps: failed physical lanes by slice (a mask), failed physical columns by array (a
mask), slices and arrays with a replacement due at the next cap, those whose replacement waits for their domain to wake (R478), SRAM macros with a row
move due (R170, R239, R471, R474), and the slices that self-test or GEN_DIS_REQ left out of service, absent from CFG_SLICE_EN (R465, R477). -/
structure Spares where
  laneBad : NMap
  colBad : NMap
  laneDue : List Nat
  colDue : List (Nat × Nat)
  laneWake : List Nat
  colWake : List (Nat × Nat)
  rowDue : List Nat
  sliceOut : Nat
  deriving DecidableEq, Repr

/-! ### Integrity and health (chapter 13) -/

/-- A cell under repair (R391, R392): parity or data, its index, ranks left out because they answered CELL_CHECK, contributor sets
tried, and for a parity cell the capped epoch its repair waits for (0: none). -/
structure Repair where
  par : Bool
  cell : Nat
  out : List Nat
  tries : Nat
  waitCap : Nat
  deriving DecidableEq, Repr

/-- A copy of a failing range to its remap target, or of a slot to its relocation target, whose reads are out (R399, R401): the owner of
the reads, the source stack, the range or slot, the CAUSE of a remap, and whether a granule came back uncorrectable. -/
structure MapCopy where
  owner : Nat
  stk : Nat
  place : Nat
  cause : Nat
  bad : Bool
  deriving DecidableEq, Repr

/-- The health unit. ce: the ranges with corrected granules (stack, range, count, time of the first), least recently used first
(R399); copies: the copies that run; remapDue: ranges due for a remap entry (stack, range, cause); migDue: stacks that wait to migrate (R401); repairs; lost:
cells whose ledger entry is unknown (R394); slcRst: per-slice resets with their times (R462); last: the counters at the last
update, buckets: their increments in each of the last 100 ms, newest first, and acts: the actions that apply (R408, R410); filt:
the filtered temperature of each point in 1/16 °C, as 16 bits (R404); sub: the selected point of every pod (R403); zeros and gaps:
the last 64 conversions of the zero and bandgap references, newest first; offs and gain: the converter's corrections in force, as
16-bit signed numbers, corr: those that apply from the next frame (R405), and used: the offsets and trims of the frame by point;
hold: droop holds entry (R406); sram: SRAM words corrected lately (page, word, time) (R474);
scrub: coded cells the foragers are reading (stack, parity or data, cell) (R396). -/
structure Health where
  ce : List (Nat × Nat × Nat × Nat)
  copies : List MapCopy
  remapDue : List (Nat × Nat × Nat)
  migDue : List Nat
  repairs : List Repair
  lost : List (Bool × Nat)
  slcRst : List (Nat × Nat)
  last : List Nat
  buckets : List (List Nat)
  acts : Nat
  filt : NMap
  sub : Nat
  zeros : List Nat
  gaps : List Nat
  offs : Nat
  gain : Nat
  corr : Option (Nat × Nat)
  used : NMap
  hold : Bool
  sram : List (Nat × Nat × Nat)
  scrub : List (Nat × Bool × Nat)
  deriving DecidableEq, Repr

/-! ### Clocks, power, time and pins (chapters 14 and 15) -/

/-- A fast domain (R453 to R455). phase: 0 gated, 1 waiting for its first current step, 2 ramping up, 3 at full duty,
4 ramping down; steps: current steps begun, of 8; live: its isolation is released and it accepts work. -/
structure Domain where
  phase : Nat
  steps : Nat
  live : Bool
  deriving DecidableEq, Repr

/-- A conditioned input (R467, R468): the level last reported, and TIME_TOD plus one at the last event. -/
structure Pin where
  told : Bool
  last : Nat
  deriving DecidableEq, Repr

/-- The timed strobe a SNAP holds (R444): queue, command index, time, and whether the time had passed when it was set. -/
structure SnapTimer where
  queue : Nat
  idx : Nat
  time : Nat
  late : Bool
  deriving DecidableEq, Repr

/-- Clocks, power, time, pins and test access. doms: sequencer, slices 0 to 11, root and tier, light port; tries: relock attempts
of PLL_SQ, PLL_SLC and PLL_LPH; pwrGood: PWR_GOOD has been high for 1 µs; held: the fast domains are held in reset (R63);
resetWaits: a block reset waits for PWR_GOOD (R461); wakeOut and faultOut: the pins; quiet: limiter updates in a row at or below
15/16 of the limit, stuck: updates in a row with D = 1 above the limit, unmetAt: TIME_TOD plus one of the last CAP_UNMET record
(R458, R459); frac: the hidden fraction of TIME_TOD (R442); step: the sum of TIME_OFFSET writes since the last edge, mod 2⁶⁴,
and stepOn that there was one; causes: strobe causes since the last edge, deferred: those a HOLD keeps (R444, R446); armLate: the
armed time had passed; snaps: SNAP commands that wait for a strobe; timer: the SNAP that holds the timer; ir and tdo: the test
access port's instruction and the register it shifts out (R65); flush: image indices KX2C_FLUSH waits for (R539); cold: the remap and
relocation tables have not been reloaded since AON reset (R402). -/
structure Chip where
  doms : List Domain
  tries : List Nat
  pwrGood : Bool
  held : Bool
  resetWaits : Bool
  wakeOut : Bool
  faultOut : Bool
  quiet : Nat
  stuck : Nat
  unmetAt : Nat
  frac : Nat
  step : Nat
  stepOn : Bool
  causes : Nat
  deferred : Nat
  armLate : Bool
  snaps : List (Nat × Nat)
  timer : Option SnapTimer
  pins : List Pin
  ir : Nat
  tdo : Nat
  flush : List Nat
  cold : Bool
  deriving DecidableEq, Repr


/-- Why the machine stops. No meaning of this model faults: the manual answers every access that goes wrong with a
status, a record or a reset. -/
inductive Fault where
  /-- raised by no meaning; safe -/
  | none
  deriving DecidableEq, Repr

/-- Why a command has no meaning. -/
inductive Refusal where
  /-- a row not modelled: only in Dispatch.lean; safe -/
  | notModelled (mnemonic : String)
  deriving DecidableEq, Repr

/-- The state of the block. -/
structure State where
  pending : List Instr
  out : List Out
  free : Nat
  regs : NMap
  cnt : NMap
  shadow : NMap
  tab : NMap
  acc : RegAcc
  ses : Session
  ev : EvState
  queues : List Queue
  seq : Seq
  tallyVal : NMap
  tallyCode : NMap
  host : HostIf
  lp : LightPort
  hbm : Mem
  board : Mem
  nvm : Mem
  mrp : List Mrp
  tier : List TierPort
  dirHeld : NMap
  streams : List (Option Stream)
  pool : Pool
  sch : Sched
  intk : Intake
  rp : Option Replay
  cod : Coding
  comb : Comb
  spine : Spine
  shd : Shadowing
  rbd : Rebuild
  hive : Hive
  fences : List Fence
  col : Colls
  spr : Spares
  hl : Health
  chip : Chip
  deriving DecidableEq, Repr

/-! ## The state at AON reset (R460, R515): every field at the value the manual states; where it states none, the value of
notes/assumptions/2. -/

/-- Queue q as it stands after reset. -/
def Queue.empty : Queue :=
  { base := 0, size := 0, tenant := 0, en := false, db := 0, head := 0, ret := 0, fetchErr := false,
    dbBad := false, cmds := [], fetching := .none, abortTo := .none, rbMarks := [] }

/-- A store with nothing in it. -/
def Store.empty : Store :=
  { state := 0, version := 0, rows := [], chains := [], keySlot := 0, keyAt := 0, first := 0, last := 0 }

/-- A thread that runs nothing. -/
def Thread.idle : Thread :=
  { busy := false, queue := 0, idx := 0, cmdId := 0, epoch := 0, bank := 0, row := 0, visits := 0, entered := false,
    iter := 0, passes := [], binds := [], bound := false, tally0 := [], ended := false, failed := 0,
    cancelled := false, replay := false, leaves := [], sigs := [], prior := [], got := false }

/-- A link that is down. -/
def LinkSt.down : LinkSt :=
  { phase := 0, ver := 0, fid := 0, part := 0, switch := false, txq := [], retry := [], tx := 0, rx := 0,
    nak := false, resends := 0, credit := [], freed := [], deficit := [], turn := 1, tok := 64, ft := 0 }

/-- A memory request port with nothing outstanding and no credit. -/
def Mrp.idle : Mrp := { rrq := 0, wrq := 0, wd := 0, reqs := [] }

/-- A tier port with nothing outstanding. -/
def TierPort.idle : TierPort := { rq := 0, wd := 0, reqs := [], slow := 1 }

/-- A log share with nothing in it. -/
def Share.empty : Share :=
  { total := 0, free := [], blks := [], uLeft := 0, uEpoch := 0 }

/-- A gated domain. -/
def Domain.off : Domain := { phase := 0, steps := 0, live := false }

/-- Fields of page 0x00 with a reset value other than 0. -/
def resetPage0 : NMap := [(0x2400, 0x8000000),
  (0x4000, 1), (0x4010, 3), (0x5800, 0x200000000000000), (0x6400, 3)]

/-- Fields of page 0x01 with a reset value other than 0. -/
def resetPage1 : NMap := [(0x102400, 0x8000000),
  (0x105800, 600)]

/-- Fields of page 0x02 with a reset value other than 0. -/
def resetPage2 : NMap := [(0x202400, 0x8000000)]

/-- Fields of page 0x03 with a reset value other than 0. -/
def resetPage3 : NMap := [(0x302400, 0x8000000),
  (0x304000, 500), (0x304400, 3)]

/-- Fields of page 0x04 with a reset value other than 0. -/
def resetPage4 : NMap := [(0x401400, 16),
  (0x402400, 0x8000000), (0x404400, 760), (0x404c00, 10000), (0x405000, 20), (0x405400, 8)]

/-- Fields of page 0x05 with a reset value other than 0. -/
def resetPage5 : NMap := [(0x502400, 0x8000000)]

/-- Fields of page 0x06 with a reset value other than 0. -/
def resetPage6 : NMap := [(0x602400, 0x8000000)]

/-- Fields of page 0x07 with a reset value other than 0. -/
def resetPage7 : NMap := [(0x702400, 0x8000000),
  (0x706000, 4)]

/-- Fields of page 0x08 with a reset value other than 0. -/
def resetPage8 : NMap := [(0x802400, 0x8000000)]

/-- Fields of page 0x09 with a reset value other than 0. -/
def resetPage9 : NMap := [(0x902400, 0x8000000)]

/-- Fields of page 0x0A with a reset value other than 0. -/
def resetPageA : NMap := [(0xa02400, 0x8000000)]

/-- Fields of page 0x0B with a reset value other than 0. -/
def resetPageB : NMap := [(0xb02400, 0x8000000)]

/-- Fields of page 0x0C with a reset value other than 0. -/
def resetPageC : NMap := [(0xc02400, 0x8000000),
  (0xc04000, 16), (0xc07800, 1024), (0xc07c00, 10), (0xc08000, 16)]

/-- Fields of page 0x0D with a reset value other than 0. -/
def resetPageD : NMap := [(0xd02400, 0x8000000),
  (0xd05000, 0x3c23d70a), (0xd05c00, 4000)]

/-- Fields of page 0x0E with a reset value other than 0. -/
def resetPageE : NMap := [(0xe02400, 0x8000000),
  (0xe04410, 2), (0xe04414, 3), (0xe04418, 16), (0xe08000, 10), (0xe08400, 50), (0xe08800, 100), (0xe08c00, 10),
  (0xe09000, 20), (0xe09400, 4096), (0xe09800, 16383)]

/-- Fields of page 0x0F with a reset value other than 0. -/
def resetPageF : NMap := [(0xf02400, 0x8000000),
  (0xf04000, 96), (0xf05000, 1000)]

/-- Fields of page 0x10 with a reset value other than 0. -/
def resetPage10 : NMap := [(0x1002400, 0x8000000),
  (0x1004400, 16), (0x1004c00, 5), (0x1005000, 16), (0x1005400, 512), (0x1005800, 100)]

/-- Fields of page 0x11 with a reset value other than 0. -/
def resetPage11 : NMap := [(0x1102400, 0x8000000),
  (0x1104008, 40), (0x1104010, 24), (0x1104018, 64), (0x1104020, 64), (0x1104028, 32), (0x1104030, 32),
  (0x1104038, 8), (0x1104800, 32), (0x1104810, 160), (0x1104820, 96), (0x1104830, 224), (0x1105000, 224),
  (0x1105010, 112), (0x1105020, 112), (0x1105030, 64), (0x1105800, 16)]

/-- Fields of page 0x12 with a reset value other than 0. -/
def resetPage12 : NMap := [(0x1202400, 0x8000000),
  (0x1204400, 2000), (0x1204c00, 16)]

/-- Fields of page 0x13 with a reset value other than 0. -/
def resetPage13 : NMap := [(0x1302400, 0x8000000),
  (0x1304800, 20), (0x1304c00, 10), (0x1305000, 1024), (0x1305400, 20)]

/-- Fields of page 0x14 with a reset value other than 0. -/
def resetPage14 : NMap := [(0x1402400, 0x8000000)]

/-- Fields of page 0x15 with a reset value other than 0. -/
def resetPage15 : NMap := [(0x1502400, 0x8000000),
  (0x1504000, 4), (0x1504400, 16)]

/-- Fields of page 0x16 with a reset value other than 0. -/
def resetPage16 : NMap := [(0x1602400, 0x8000000),
  (0x1604000, 16), (0x1604400, 8)]

/-- Fields of page 0x17 with a reset value other than 0. -/
def resetPage17 : NMap := [(0x1702400, 0x8000000),
  (0x1704400, 64), (0x1704800, 160), (0x1704c00, 16), (0x1705000, 1000), (0x1705400, 3), (0x1705800, 31),
  (0x1705c00, 340), (0x1706000, 10000)]

/-- Fields of page 0x18 with a reset value other than 0. -/
def resetPage18 : NMap := [(0x1802400, 0x8000000),
  (0x1804000, 2), (0x1804400, 1000), (0x1804c00, 16)]

/-- Fields of page 0x19 with a reset value other than 0. -/
def resetPage19 : NMap := [(0x1902400, 0x8000000),
  (0x1904000, 3), (0x1904c00, 4096), (0x1905000, 4095), (0x1905400, 4095)]

/-- Fields of page 0x1A with a reset value other than 0. -/
def resetPage1A : NMap := [(0x1a02400, 0x8000000)]

/-- Fields of page 0x1B with a reset value other than 0. -/
def resetPage1B : NMap := [(0x1b02400, 0x8000000)]

/-- Fields of page 0x1C with a reset value other than 0. -/
def resetPage1C : NMap := [(0x1c02400, 0x8000000),
  (0x1c04000, 40), (0x1c04400, 10)]

/-- Fields of page 0x1D with a reset value other than 0. -/
def resetPage1D : NMap := [(0x1d02400, 0x8000000),
  (0x1d04400, 0x20300)]

/-- Fields of page 0x20 with a reset value other than 0. -/
def resetPage20 : NMap := [(0x2002400, 0x8000000)]

/-- Fields of page 0x21 with a reset value other than 0. -/
def resetPage21 : NMap := [(0x2102400, 0x8000000)]

/-- Fields of page 0x22 with a reset value other than 0. -/
def resetPage22 : NMap := [(0x2202400, 0x8000000)]

/-- Fields of page 0x23 with a reset value other than 0. -/
def resetPage23 : NMap := [(0x2302400, 0x8000000)]

/-- Fields of page 0x24 with a reset value other than 0. -/
def resetPage24 : NMap := [(0x2402400, 0x8000000)]

/-- Fields of page 0x25 with a reset value other than 0. -/
def resetPage25 : NMap := [(0x2502400, 0x8000000)]

/-- Fields of page 0x26 with a reset value other than 0. -/
def resetPage26 : NMap := [(0x2602400, 0x8000000)]

/-- Fields of page 0x27 with a reset value other than 0. -/
def resetPage27 : NMap := [(0x2702400, 0x8000000)]

/-- Fields of page 0x28 with a reset value other than 0. -/
def resetPage28 : NMap := [(0x2802400, 0x8000000)]

/-- Fields of page 0x29 with a reset value other than 0. -/
def resetPage29 : NMap := [(0x2902400, 0x8000000)]

/-- Fields of page 0x2A with a reset value other than 0. -/
def resetPage2A : NMap := [(0x2a02400, 0x8000000)]

/-- Fields of page 0x2B with a reset value other than 0. -/
def resetPage2B : NMap := [(0x2b02400, 0x8000000)]

/-- Register fields at reset. -/
def resetRegs : NMap :=
  resetPage0 ++ resetPage1 ++ resetPage2 ++ resetPage3 ++ resetPage4 ++ resetPage5 ++ resetPage6 ++ resetPage7 ++
  resetPage8 ++ resetPage9 ++ resetPageA ++ resetPageB ++ resetPageC ++ resetPageD ++ resetPageE ++ resetPageF ++
  resetPage10 ++ resetPage11 ++ resetPage12 ++ resetPage13 ++ resetPage14 ++ resetPage15 ++ resetPage16 ++
  resetPage17 ++ resetPage18 ++ resetPage19 ++ resetPage1A ++ resetPage1B ++ resetPage1C ++ resetPage1D ++
  resetPage20 ++ resetPage21 ++ resetPage22 ++ resetPage23 ++ resetPage24 ++ resetPage25 ++ resetPage26 ++
  resetPage27 ++ resetPage28 ++ resetPage29 ++ resetPage2A ++ resetPage2B

/-- W and FS of each health indicator (R408): FS [23:0], W [39:32]. -/
def resetIndicators : List (Nat × Nat) :=
  [(80, 96), (1000, 32), (50000, 32), (10000, 48), (4, 128), (2, 128), (8, 64), (1000, 32), (10000000, 16), (2000, 64),
   (0, 160), (0, 160)]

/-- Table entries at reset: RTB_SHARE 4 and the lane of its own number behind each logical link (R52, R549), health
indicators (R556), droop thresholds of 40 mV (R557), and the identity as each slice's lane map (R543). -/
def resetTab : NMap :=
  ((List.range 32).map fun l => ((0x10 * 16 + 1) * 2 ^ 28 + l, 4 * 2 ^ 64 + l)) ++
  ((List.range 12).map fun x =>
    let p := resetIndicators.getD x (0, 0)
    (0x17 * 16 * 2 ^ 28 + x, p.2 * 2 ^ 32 + p.1)) ++
  ((List.range 16).map fun c => ((0x18 * 16 + 1) * 2 ^ 28 + c, 0x28)) ++
  ((List.range 12).map fun n => ((0x20 + n) * 16 * 2 ^ 28,
    0x1f1e1d1c1b1a191817161514131211100f0e0d0c0b0a09080706050403020100))

/-- The sequencer at reset; the active microcode store is ACTIVE (R529). -/
def resetSeq : Seq :=
  { threads := List.replicate 8 Thread.idle, bankA := Store.empty, bankB := Store.empty,
    ucAct := { Store.empty with state := 4 }, ucIdle := Store.empty, rr := 0, scratch := [] }

/-- The light port at reset: logical link l on optical lane l (R52). -/
def resetLp : LightPort :=
  { links := List.replicate 32 LinkSt.down, tx := [], rx := [], lane := List.range 32, failed := [], poll := [], mon := [], heldCred := [], hiveCred := [], swapDue := [],
    rates := List.replicate 9 32 }

/-- The coding unit at reset. -/
def resetCod : Coding :=
  { shares := List.replicate 12 Share.empty, segs := [], undo := [], open_ := [], outs := [], ins := [], attempts := [],
    granted := [], v2 := [], v2segs := [], kept := [], parked := [], epochs := [], scaleCap := [], scaleHas := [], digs := [],
    stalls := [], owner := 17, serial := 0, firsts := [], badSegs := [], expect := 0 }

/-- The comb unit at reset: no job. -/
def resetComb : Comb :=
  { list := [], listN := 0, digest := 0, base := 0, fresh := false, firstSwitch := false, needRestore := false, rbUntil := 0,
    rbLow := 0, rbHigh := 0, heard := [], told := [], guards := [], joins := [], starts := [], started := false, acked := false,
    acks := [], going := false, capDue := 0, leave := none, rb := none, rbDone := [], rs := none, rsReps := [], rsFresh := [], reqs := [],
    chunks := [], lostSeen := [] }

/-- The spine at reset. -/
def resetSpine : Spine :=
  { staged := none, image := none, run := none, held := [], serve := [], load := none, resetN := false }

/-- Rebuilding at reset. -/
def resetRbd : Rebuild :=
  { cmd := none, shadow := false, rank := 0, written := [], next := 0, seq := 0, out := [], again := [], pull := [], waited := [], waits := [] }

/-- The hive unit at reset. -/
def resetHive : Hive :=
  { ctxs := [], admq := [], gens := [], rr := 0, degs := [], nextDeg := 0, wins := [], packs := [], home := [], waitq := [], hot := [],
    fetch := [], late := [] }

/-- The intake unit at reset. -/
def resetIntk : Intake :=
  { track := [], keys := [], promos := [], touched := [], lists := [], marks := [], filter := [], assoc := [], refused := [] }

/-- The health unit at reset. -/
def resetHealth : Health :=
  { ce := [], copies := [], remapDue := [], migDue := [], repairs := [], lost := [], slcRst := [], last := [], buckets := [], acts := 0, filt := [], sub := 0,
    zeros := [], gaps := [], offs := 0, gain := 0, corr := none, used := [], hold := false, sram := [], scrub := [] }

/-- Clocks, power, time and pins at reset: every domain gated, pins low (R61). -/
def resetChip : Chip :=
  { doms := List.replicate 15 Domain.off, tries := [0, 0, 0], pwrGood := false, held := false, resetWaits := false,
    wakeOut := false, faultOut := false, quiet := 0, stuck := 0, unmetAt := 0, frac := 0, step := 0, stepOn := false,
    causes := 0, deferred := 0, armLate := false, snaps := [], timer := none,
    pins := List.replicate 3 { told := false, last := 0 }, ir := 1, tdo := 0x14B33001, flush := [], cold := true }

/-- The machine right after AON reset: stage 0, ABSENT, nothing stored, no command waiting. -/
def State.reset : State :=
  { pending := [], out := [], free := 0, regs := resetRegs, cnt := [], shadow := [], tab := resetTab,
    acc := { held := [], low := [], wide := [], win := [], latch := [] }, ses := { fails := 0, lockLen := 1, lockEdges := 0, asked := 0 },
    ev := { buf := [], writing := none, flagged := [], irqOut := false, holdoff := false },
    queues := List.replicate 16 Queue.empty, seq := resetSeq, tallyVal := [], tallyCode := [],
    host := { treq := 0, twd := 0, areq := 0, awd := 0, reads := [], writes := [], got := [] }, lp := resetLp, hbm := [], board := [], nvm := [],
    mrp := List.replicate 12 Mrp.idle, tier := List.replicate 4 TierPort.idle, dirHeld := [],
    streams := List.replicate 4 none, pool := { dirty := [], bad := [], fails := [], put := [], flaw := [], wb := [], user := [], slotAt := [], zeros := [], held := [] },
    sch := { sets := [], replay := none, formed := [] }, intk := resetIntk, rp := none, cod := resetCod, comb := resetComb,
    spine := resetSpine, shd := { wrote := [], sent := [], got := [], ready := [], cells := [] }, rbd := resetRbd, hive := resetHive,
    fences := [], col := { run := [], early := [], taken := [], aborted := [], serial := 0 },
    spr := { laneBad := [], colBad := [], laneDue := [], colDue := [], laneWake := [], colWake := [], rowDue := [], sliceOut := 0 }, hl := resetHealth, chip := resetChip }

end Sys2Proof.Machine
end

