-- ==== Sys2Proof/Machine/Regs.lean ====
section
/-! DEFINITION. The register map of chapters 17 to 19: one name per register field (its key in State.regs)
and one row per field (place, access type, roles, reset, at-cap and ABSENT-only marks, stated range). -/

namespace Sys2Proof.Machine

/-! Field keys: page index in bits 20 and above, byte offset in bits 19 to 8, lowest bit in bits 7 to 0. -/

namespace R

/-- GEN_CTRL.CFG_DONE (R520). -/
def GEN_CTRL_CFG_DONE : Nat := 0x1002
/-- GEN_CTRL.LTEST (R520). -/
def GEN_CTRL_LTEST : Nat := 0x1001
/-- GEN_CTRL.BLK_RST (R520). -/
def GEN_CTRL_BLK_RST : Nat := 0x1000
/-- GEN_STAT.PWR_LOSS (R520). -/
def GEN_STAT_PWR_LOSS : Nat := 0x1404
/-- GEN_STAT.CFG_BAD (R520). -/
def GEN_STAT_CFG_BAD : Nat := 0x1403
/-- GEN_STAT.STAGE (R520). -/
def GEN_STAT_STAGE : Nat := 0x1400
/-- GEN_VER.MAJOR (R520). -/
def GEN_VER_MAJOR : Nat := 0x4010
/-- GEN_VER.MINOR (R520). -/
def GEN_VER_MINOR : Nat := 0x4000
/-- GEN_LOC (R520). -/
def GEN_LOC : Nat := 0x4400
/-- GEN_STRAP.MFR_ID (R520). -/
def GEN_STRAP_MFR_ID : Nat := 0x481b
/-- GEN_STRAP.MRP_W1024 (R520). -/
def GEN_STRAP_MRP_W1024 : Nat := 0x481a
/-- GEN_STRAP.HFP_W128 (R520). -/
def GEN_STRAP_HFP_W128 : Nat := 0x4819
/-- GEN_STRAP.LPM_EN (R520). -/
def GEN_STRAP_LPM_EN : Nat := 0x4810
/-- GEN_STRAP.TIER_EN (R520). -/
def GEN_STRAP_TIER_EN : Nat := 0x480c
/-- GEN_STRAP.SLICE_EN (R520). -/
def GEN_STRAP_SLICE_EN : Nat := 0x4800
/-- GEN_FAULT.CAUSE (R520). -/
def GEN_FAULT_CAUSE : Nat := 0x5000
/-- GEN_DISABLED (R520). -/
def GEN_DISABLED : Nat := 0x5800
/-- GEN_DIS_REQ (R520). -/
def GEN_DIS_REQ : Nat := 0x6000
/-- GEN_SLC_RST_MAX (R520). -/
def GEN_SLC_RST_MAX : Nat := 0x6400
/-- ROLE_CTRL.ROLE (R521). -/
def ROLE_CTRL_ROLE : Nat := 0x101004
/-- ROLE_CTRL.CLOSE (R521). -/
def ROLE_CTRL_CLOSE : Nat := 0x101001
/-- ROLE_CTRL.REQ (R521). -/
def ROLE_CTRL_REQ : Nat := 0x101000
/-- ROLE_STAT.SRC (R521). -/
def ROLE_STAT_SRC : Nat := 0x101408
/-- ROLE_STAT.ROLE (R521). -/
def ROLE_STAT_ROLE : Nat := 0x101404
/-- ROLE_STAT.ENT_BAD (R521). -/
def ROLE_STAT_ENT_BAD : Nat := 0x101403
/-- ROLE_STAT.LOCKED (R521). -/
def ROLE_STAT_LOCKED : Nat := 0x101402
/-- ROLE_STAT.PENDING (R521). -/
def ROLE_STAT_PENDING : Nat := 0x101401
/-- ROLE_STAT.OPEN (R521). -/
def ROLE_STAT_OPEN : Nat := 0x101400
/-- ROLE_CHAL (R521). -/
def ROLE_CHAL (i : Nat) : Nat := 0x104000 + i * 0x400
/-- ROLE_CNT (R521). -/
def ROLE_CNT : Nat := 0x105000
/-- ROLE_KVER.KM (R521). -/
def ROLE_KVER_KM : Nat := 0x105410
/-- ROLE_KVER.KI (R521). -/
def ROLE_KVER_KI : Nat := 0x105400
/-- ROLE_IDLE (R521). -/
def ROLE_IDLE : Nat := 0x105800
/-- ROLE_LOCK_LEFT (R521). -/
def ROLE_LOCK_LEFT : Nat := 0x105c00
/-- ROLE_RESP (R521). -/
def ROLE_RESP (i : Nat) : Nat := 0x106000 + i * 0x400
/-- AUD_STAT.NEAR (R522). -/
def AUD_STAT_NEAR : Nat := 0x201400
/-- AUD_IDX (R522). -/
def AUD_IDX : Nat := 0x204000
/-- AUD_SEQ (R522). -/
def AUD_SEQ : Nat := 0x204400
/-- AUD_MIRRORED (R522). -/
def AUD_MIRRORED : Nat := 0x204800
/-- CLK_STAT.AON_LOSS (R523). -/
def CLK_STAT_AON_LOSS : Nat := 0x301407
/-- CLK_STAT.AON_DEV (R523). -/
def CLK_STAT_AON_DEV : Nat := 0x301406
/-- CLK_STAT.PLL_LPH (R523). -/
def CLK_STAT_PLL_LPH : Nat := 0x301404
/-- CLK_STAT.PLL_SLC (R523). -/
def CLK_STAT_PLL_SLC : Nat := 0x301402
/-- CLK_STAT.PLL_SQ (R523). -/
def CLK_STAT_PLL_SQ : Nat := 0x301400
/-- CLK_DEV_THR (R523). -/
def CLK_DEV_THR : Nat := 0x304000
/-- CLK_RELOCK_MAX (R523). -/
def CLK_RELOCK_MAX : Nat := 0x304400
/-- PWR_STAT.CAP_UNMET (R524). -/
def PWR_STAT_CAP_UNMET : Nat := 0x401406
/-- PWR_STAT.THERM (R524). -/
def PWR_STAT_THERM : Nat := 0x401405
/-- PWR_STAT.DUTY (R524). -/
def PWR_STAT_DUTY : Nat := 0x401400
/-- PWR_CAP (R524). -/
def PWR_CAP : Nat := 0x404000
/-- PWR_CAP_MAX (R524). -/
def PWR_CAP_MAX : Nat := 0x404400
/-- PWR_EST (R524). -/
def PWR_EST : Nat := 0x404800
/-- PWR_WARM_HOLD (R524). -/
def PWR_WARM_HOLD : Nat := 0x404c00
/-- PWR_IDLE (R524). -/
def PWR_IDLE : Nat := 0x405000
/-- PWR_THERM_DUTY (R524). -/
def PWR_THERM_DUTY : Nat := 0x405400
/-- PWR_DOM (R524). -/
def PWR_DOM : Nat := 0x405800
/-- TIME_STAT.HOLDOVER (R525). -/
def TIME_STAT_HOLDOVER : Nat := 0x501401
/-- TIME_STAT.BACK (R525). -/
def TIME_STAT_BACK : Nat := 0x501400
/-- TIME_TOD (R525). -/
def TIME_TOD : Nat := 0x504000
/-- TIME_RATE (R525). -/
def TIME_RATE : Nat := 0x504800
/-- TIME_OFFSET (R525). -/
def TIME_OFFSET : Nat := 0x505000
/-- QUE_DBq (R526). -/
def QUE_DB (i : Nat) : Nat := 0x604000 + i * 0x400
/-- QUE_CTRLq.ABORT (R526). -/
def QUE_CTRL_ABORT (i : Nat) : Nat := 0x608000 + i * 0x400
/-- EVT_BASE (R526). -/
def EVT_BASE : Nat := 0x60c00c
/-- EVT_SIZE (R526). -/
def EVT_SIZE : Nat := 0x60c800
/-- EVT_PROD (R526). -/
def EVT_PROD : Nat := 0x60cc00
/-- EVT_CONS (R526). -/
def EVT_CONS : Nat := 0x60d000
/-- EVT_CTRL.IRQ_EN (R526). -/
def EVT_CTRL_IRQ_EN : Nat := 0x60d400
/-- EVT_IRQ_MASK (R526). -/
def EVT_IRQ_MASK : Nat := 0x60d800
/-- EVT_HOLDOFF (R526). -/
def EVT_HOLDOFF : Nat := 0x60dc00
/-- QUE_TWIN_SEL (R526). -/
def QUE_TWIN_SEL : Nat := 0x60e000
/-- SEQ_MODE.FAST (R529). -/
def SEQ_MODE_FAST : Nat := 0x704001
/-- SEQ_MODE.FAST_REQ (R529). -/
def SEQ_MODE_FAST_REQ : Nat := 0x704000
/-- SEQ_MODE_EPOCH (R529). -/
def SEQ_MODE_EPOCH : Nat := 0x704800
/-- SEQ_UCODE_VER (R529). -/
def SEQ_UCODE_VER : Nat := 0x705000
/-- SEQ_UCODE_MIN (R529). -/
def SEQ_UCODE_MIN : Nat := 0x705400
/-- SEQ_UCODE_SW_EPOCH (R529). -/
def SEQ_UCODE_SW_EPOCH : Nat := 0x705800
/-- SEQ_STORES.IDLE_ST (R529). -/
def SEQ_STORES_IDLE_ST : Nat := 0x706004
/-- SEQ_STORES.ACTIVE_ST (R529). -/
def SEQ_STORES_ACTIVE_ST : Nat := 0x706000
/-- SEQ_THR (R529). -/
def SEQ_THR : Nat := 0x706400
/-- SEQ_TWIN_SEL (R529). -/
def SEQ_TWIN_SEL : Nat := 0x706800
/-- TBL_BANKS.ACTIVE (R530). -/
def TBL_BANKS_ACTIVE : Nat := 0x804008
/-- TBL_BANKS.B_ST (R530). -/
def TBL_BANKS_B_ST : Nat := 0x804004
/-- TBL_BANKS.A_ST (R530). -/
def TBL_BANKS_A_ST : Nat := 0x804000
/-- TBL_SW_EPOCH (R530). -/
def TBL_SW_EPOCH : Nat := 0x804800
/-- TBL_VER (R530). -/
def TBL_VER : Nat := 0x805000
/-- TBL_IDLE_VER (R530). -/
def TBL_IDLE_VER : Nat := 0x805400
/-- TBL_KEY_USED.IDLE (R530). -/
def TBL_KEY_USED_IDLE : Nat := 0x805804
/-- TBL_KEY_USED.ACTIVE (R530). -/
def TBL_KEY_USED_ACTIVE : Nat := 0x805800
/-- TBL_TWIN_SEL (R530). -/
def TBL_TWIN_SEL : Nat := 0x805c00
/-- TBL_IKEYs (R530). -/
def TBL_IKEY (i : Nat) : Nat := 0x808000 + i * 0x2000
/-- SCH_STAT.OBJ_BAD (R531). -/
def SCH_STAT_OBJ_BAD : Nat := 0x901401
/-- SCH_STAT.SET_BAD (R531). -/
def SCH_STAT_SET_BAD : Nat := 0x901400
/-- SCH_OBJ (R531). -/
def SCH_OBJ : Nat := 0x904000
/-- SCH_BAD_PROG (R531). -/
def SCH_BAD_PROG : Nat := 0x904400
/-- SCH_BAD_PSET.COUNT (R531). -/
def SCH_BAD_PSET_COUNT : Nat := 0x904818
/-- SCH_BAD_PSET.FIRST (R531). -/
def SCH_BAD_PSET_FIRST : Nat := 0x904800
/-- SCH_SET_EPOCH0 (R531). -/
def SCH_SET_EPOCH0 : Nat := 0x905000
/-- SCH_SET_EPOCH1 (R531). -/
def SCH_SET_EPOCH1 : Nat := 0x905800
/-- OBJ_STAT.WHY (R532). -/
def OBJ_STAT_WHY : Nat := 0xa01404
/-- OBJ_STAT.DIR_REFUSED (R532). -/
def OBJ_STAT_DIR_REFUSED : Nat := 0xa01400
/-- OBJ_DIR_IDX (R532). -/
def OBJ_DIR_IDX : Nat := 0xa04000
/-- OBJ_VALID (R532). -/
def OBJ_VALID : Nat := 0xa04400
/-- OBJ_MOVES (R532). -/
def OBJ_MOVES : Nat := 0xa04800
/-- OBJ_IMAGES (R532). -/
def OBJ_IMAGES : Nat := 0xa04c00
/-- TIER_BASEn (R533). -/
def TIER_BASE (i : Nat) : Nat := 0xb04010 + i * 0x1000
/-- TIER_LIMn (R533). -/
def TIER_LIM (i : Nat) : Nat := 0xb04810 + i * 0x1000
/-- TIER_POOL_FLOORt (R533). -/
def TIER_POOL_FLOOR (i : Nat) : Nat := 0xb08000 + i * 0x400
/-- TIER_POOL_BASE (R533). -/
def TIER_POOL_BASE : Nat := 0xb09000
/-- TIER_POOL_SLOTS (R533). -/
def TIER_POOL_SLOTS : Nat := 0xb09400
/-- TIER_POOL_USED (R533). -/
def TIER_POOL_USED : Nat := 0xb09800
/-- TIER_STREAMS (R533). -/
def TIER_STREAMS : Nat := 0xb09c00
/-- TIER_LOAD (R533). -/
def TIER_LOAD : Nat := 0xb0a000
/-- CMB_PART (R534). -/
def CMB_PART : Nat := 0xe04000
/-- CMB_GEOM_LIM.N_MAX (R534). -/
def CMB_GEOM_LIM_N_MAX : Nat := 0xe04418
/-- CMB_GEOM_LIM.M_MAX (R534). -/
def CMB_GEOM_LIM_M_MAX : Nat := 0xe04414
/-- CMB_GEOM_LIM.SB_MAX (R534). -/
def CMB_GEOM_LIM_SB_MAX : Nat := 0xe04410
/-- CMB_GEOM.S (R534). -/
def CMB_GEOM_S : Nat := 0xe04820
/-- CMB_GEOM.FIXED_PAR (R534). -/
def CMB_GEOM_FIXED_PAR : Nat := 0xe0480c
/-- CMB_GEOM.SB (R534). -/
def CMB_GEOM_SB : Nat := 0xe0480a
/-- CMB_GEOM.M (R534). -/
def CMB_GEOM_M : Nat := 0xe04808
/-- CMB_GEOM.N (R534). -/
def CMB_GEOM_N : Nat := 0xe04800
/-- CMB_RANK.LIST_IDX (R534). -/
def CMB_RANK_LIST_IDX : Nat := 0xe05010
/-- CMB_RANK.STATE (R534). -/
def CMB_RANK_STATE : Nat := 0xe05008
/-- CMB_RANK.ROLE (R534). -/
def CMB_RANK_ROLE : Nat := 0xe05004
/-- CMB_RANK.RANK (R534). -/
def CMB_RANK_RANK : Nat := 0xe05000
/-- CMB_COMB_STATE (R534). -/
def CMB_COMB_STATE : Nat := 0xe05400
/-- CMB_STKMASK (R534). -/
def CMB_STKMASK : Nat := 0xe05800
/-- CMB_DATA_CELLS (R534). -/
def CMB_DATA_CELLS : Nat := 0xe05c00
/-- CMB_DATA_BASE (R534). -/
def CMB_DATA_BASE : Nat := 0xe06000
/-- CMB_PAR_BASE (R534). -/
def CMB_PAR_BASE : Nat := 0xe06400
/-- CMB_LEDGER_BASE (R534). -/
def CMB_LEDGER_BASE : Nat := 0xe06800
/-- CMB_SCALE_BASE (R534). -/
def CMB_SCALE_BASE : Nat := 0xe06c00
/-- CMB_CAPPED (R534). -/
def CMB_CAPPED : Nat := 0xe07000
/-- CMB_JOB.MEMB_EPOCH (R534). -/
def CMB_JOB_MEMB_EPOCH : Nat := 0xe07818
/-- CMB_JOB.JOB_TAG (R534). -/
def CMB_JOB_JOB_TAG : Nat := 0xe07800
/-- CMB_CAP_TMO (R534). -/
def CMB_CAP_TMO : Nat := 0xe08000
/-- CMB_JOIN_TMO (R534). -/
def CMB_JOIN_TMO : Nat := 0xe08400
/-- CMB_WAGGLE_PER (R534). -/
def CMB_WAGGLE_PER : Nat := 0xe08800
/-- CMB_REPORT_WIN (R534). -/
def CMB_REPORT_WIN : Nat := 0xe08c00
/-- CMB_LOST_TMO (R534). -/
def CMB_LOST_TMO : Nat := 0xe09000
/-- CMB_RB_WIN (R534). -/
def CMB_RB_WIN : Nat := 0xe09400
/-- CMB_DECLARE.INDEX (R534). -/
def CMB_DECLARE_INDEX : Nat := 0xe09800
/-- CMB_KEEPk.VALID (R534). -/
def CMB_KEEP_VALID (i : Nat) : Nat := 0xe0a01f + i * 0x400
/-- CMB_KEEPk.RANK (R534). -/
def CMB_KEEP_RANK (i : Nat) : Nat := 0xe0a000 + i * 0x400
/-- CMB_RB_DONE_STRIPES (R534). -/
def CMB_RB_DONE_STRIPES : Nat := 0xe0b000
/-- CMB_TWIN_SEL (R534). -/
def CMB_TWIN_SEL : Nat := 0xe0b800
/-- SPN_STAT.WRITING (R535). -/
def SPN_STAT_WRITING : Nat := 0x1901401
/-- SPN_STAT.NVM_BAD (R535). -/
def SPN_STAT_NVM_BAD : Nat := 0x1901400
/-- SPN_CLKDIV (R535). -/
def SPN_CLKDIV : Nat := 0x1904000
/-- SPN_SLOTS (R535). -/
def SPN_SLOTS : Nat := 0x1904400
/-- SPN_STAGE_OBJ (R535). -/
def SPN_STAGE_OBJ : Nat := 0x1904800
/-- SPN_INTERVAL (R535). -/
def SPN_INTERVAL : Nat := 0x1904c00
/-- SPN_SEAL_PEER (R535). -/
def SPN_SEAL_PEER : Nat := 0x1905000
/-- SPN_SEALIN_FROM (R535). -/
def SPN_SEALIN_FROM : Nat := 0x1905400
/-- SPN_SEALIN_BASE (R535). -/
def SPN_SEALIN_BASE : Nat := 0x1905800
/-- SPN_SEALIN_CELLS (R535). -/
def SPN_SEALIN_CELLS : Nat := 0x1906000
/-- SPN_SEQ (R535). -/
def SPN_SEQ : Nat := 0x1906400
/-- SPN_LAST_US (R535). -/
def SPN_LAST_US : Nat := 0x1906800
/-- SNP_CTRL.HOLD (R536). -/
def SNP_CTRL_HOLD : Nat := 0x1a01002
/-- SNP_CTRL.ARM (R536). -/
def SNP_CTRL_ARM : Nat := 0x1a01001
/-- SNP_CTRL.STROBE (R536). -/
def SNP_CTRL_STROBE : Nat := 0x1a01000
/-- SNP_STAT (R536). -/
def SNP_STAT : Nat := 0x1a01400
/-- SNP_AT (R536). -/
def SNP_AT : Nat := 0x1a04000
/-- SNP_TOD (R536). -/
def SNP_TOD : Nat := 0x1a04800
/-- SNP_SEQ (R536). -/
def SNP_SEQ : Nat := 0x1a05000
/-- DIG_IDX (R537). -/
def DIG_IDX : Nat := 0x1b04000
/-- DIG_EXP_EPOCH (R537). -/
def DIG_EXP_EPOCH : Nat := 0x1b04800
/-- DIG_EXP_VALUE (R537). -/
def DIG_EXP_VALUE : Nat := 0x1b05000
/-- DIG_TAINT_EPOCH (R537). -/
def DIG_TAINT_EPOCH : Nat := 0x1b05800
/-- DIG_NEWEST (R537). -/
def DIG_NEWEST : Nat := 0x1b06000
/-- PIN_STAT.TAKEN (R538). -/
def PIN_STAT_TAKEN : Nat := 0x1c0140c
/-- PIN_STAT.STUCK (R538). -/
def PIN_STAT_STUCK : Nat := 0x1c01408
/-- PIN_STAT.OVERRATE (R538). -/
def PIN_STAT_OVERRATE : Nat := 0x1c01404
/-- PIN_STAT.LEVEL (R538). -/
def PIN_STAT_LEVEL : Nat := 0x1c01400
/-- PIN_RATE (R538). -/
def PIN_RATE : Nat := 0x1c04000
/-- PIN_STUCK (R538). -/
def PIN_STUCK : Nat := 0x1c04400
/-- KX2C_CFG.EN (R539). -/
def KX2C_CFG_EN : Nat := 0x1d04000
/-- KX2C_ID (R539). -/
def KX2C_ID : Nat := 0x1d04400
/-- KX2C_DBq (R539). -/
def KX2C_DB (i : Nat) : Nat := 0x1d06000 + i * 0x400
/-- KX2C_FLUSH (R539). -/
def KX2C_FLUSH : Nat := 0x1d08000
/-- SLCn_STAT.OUT (R543). -/
def SLC_STAT_OUT (n : Nat) : Nat := 0x2001404 + n * 0x100000
/-- SLCn_STAT.PORT_TMO (R543). -/
def SLC_STAT_PORT_TMO (n : Nat) : Nat := 0x2001403 + n * 0x100000
/-- SLCn_STAT.HBM4 (R543). -/
def SLC_STAT_HBM4 (n : Nat) : Nat := 0x2001402 + n * 0x100000
/-- SLCn_STAT.READY (R543). -/
def SLC_STAT_READY (n : Nat) : Nat := 0x2001401 + n * 0x100000
/-- SLCn_STAT.HALF (R543). -/
def SLC_STAT_HALF (n : Nat) : Nat := 0x2001400 + n * 0x100000
/-- SLCn_CAP (R543). -/
def SLC_CAP (n : Nat) : Nat := 0x2004000 + n * 0x100000
/-- SLCn_LANE_OK (R543). -/
def SLC_LANE_OK (n : Nat) : Nat := 0x2004800 + n * 0x100000
/-- SLCn_ACC_USED (R543). -/
def SLC_ACC_USED (n : Nat) : Nat := 0x2005000 + n * 0x100000
/-- SLCn_TWIN_SEL (R543). -/
def SLC_TWIN_SEL (n : Nat) : Nat := 0x2005800 + n * 0x100000
/-- INTK_STAT.WS_FULL (R544). -/
def INTK_STAT_WS_FULL : Nat := 0xc01400
/-- INTK_DENSE_THR (R544). -/
def INTK_DENSE_THR : Nat := 0xc04000
/-- INTK_WS_OBJn (R544). -/
def INTK_WS_OBJ (i : Nat) : Nat := 0xc04400 + i * 0x400
/-- INTK_WS_BUNDLES (R544). -/
def INTK_WS_BUNDLES : Nat := 0xc07800
/-- INTK_WS_SPILL_LOG2 (R544). -/
def INTK_WS_SPILL_LOG2 : Nat := 0xc07c00
/-- INTK_WS_PROMO (R544). -/
def INTK_WS_PROMO : Nat := 0xc08000
/-- INTK_TRACK_USED (R544). -/
def INTK_TRACK_USED : Nat := 0xc08400
/-- INTK_TWIN_SEL (R544). -/
def INTK_TWIN_SEL : Nat := 0xc08800
/-- ROOT_STAT.ARR_OFF (R546). -/
def ROOT_STAT_ARR_OFF : Nat := 0xd01404
/-- ROOT_STAT.ITER_BUSY (R546). -/
def ROOT_STAT_ITER_BUSY : Nat := 0xd01400
/-- ROOT_COLMAPa (R546). -/
def ROOT_COLMAP (i : Nat) : Nat := 0xd04000 + i * 0x400
/-- ROOT_RESID_WARN (R546). -/
def ROOT_RESID_WARN : Nat := 0xd05000
/-- ROOT_RESID_LAST (R546). -/
def ROOT_RESID_LAST : Nat := 0xd05400
/-- ROOT_WS_OBJ (R546). -/
def ROOT_WS_OBJ : Nat := 0xd05800
/-- ROOT_FILL_MAX (R546). -/
def ROOT_FILL_MAX : Nat := 0xd05c00
/-- COD_LOG_SIZE (R547). -/
def COD_LOG_SIZE : Nat := 0xf04000
/-- COD_LOG_BASE (R547). -/
def COD_LOG_BASE : Nat := 0xf04400
/-- COD_LOG_BLOCKS (R547). -/
def COD_LOG_BLOCKS : Nat := 0xf04800
/-- COD_FREE_MIN (R547). -/
def COD_FREE_MIN : Nat := 0xf04c00
/-- COD_DRAIN_TMO (R547). -/
def COD_DRAIN_TMO : Nat := 0xf05000
/-- COD_GRANT (R547). -/
def COD_GRANT : Nat := 0xf05800
/-- LP_STAT.MOD_MON_TMO (R548). -/
def LP_STAT_MOD_MON_TMO : Nat := 0x1001408
/-- LP_STAT.PEER_REFUSED (R548). -/
def LP_STAT_PEER_REFUSED : Nat := 0x1001400
/-- LP_FID (R548). -/
def LP_FID : Nat := 0x1004000
/-- LP_LANE_THR (R548). -/
def LP_LANE_THR : Nat := 0x1004400
/-- LP_LINKS_UP (R548). -/
def LP_LINKS_UP : Nat := 0x1004800
/-- LP_LRTY_TMO (R548). -/
def LP_LRTY_TMO : Nat := 0x1004c00
/-- LP_LRTY_MAX (R548). -/
def LP_LRTY_MAX : Nat := 0x1005000
/-- LP_E2E_WIN (R548). -/
def LP_E2E_WIN : Nat := 0x1005400
/-- LP_E2E_TMO (R548). -/
def LP_E2E_TMO : Nat := 0x1005800
/-- LP_PEER_IDX (R548). -/
def LP_PEER_IDX : Nat := 0x1006000
/-- LP_VCW.VC1 (R550). -/
def LP_VCW_VC1 : Nat := 0x1104008
/-- LP_VCW.VC2 (R550). -/
def LP_VCW_VC2 : Nat := 0x1104010
/-- LP_VCW.VC3 (R550). -/
def LP_VCW_VC3 : Nat := 0x1104018
/-- LP_VCW.VC4 (R550). -/
def LP_VCW_VC4 : Nat := 0x1104020
/-- LP_VCW.VC5 (R550). -/
def LP_VCW_VC5 : Nat := 0x1104028
/-- LP_VCW.VC6 (R550). -/
def LP_VCW_VC6 : Nat := 0x1104030
/-- LP_VCW.VC7 (R550). -/
def LP_VCW_VC7 : Nat := 0x1104038
/-- LP_VCCRED.VC0 (R550). -/
def LP_VCCRED_VC0 : Nat := 0x1104800
/-- LP_VCCRED.VC1 (R550). -/
def LP_VCCRED_VC1 : Nat := 0x1104810
/-- LP_VCCRED.VC2 (R550). -/
def LP_VCCRED_VC2 : Nat := 0x1104820
/-- LP_VCCRED.VC3 (R550). -/
def LP_VCCRED_VC3 : Nat := 0x1104830
/-- LP_VCCRED.VC4 (R550). -/
def LP_VCCRED_VC4 : Nat := 0x1105000
/-- LP_VCCRED.VC5 (R550). -/
def LP_VCCRED_VC5 : Nat := 0x1105010
/-- LP_VCCRED.VC6 (R550). -/
def LP_VCCRED_VC6 : Nat := 0x1105020
/-- LP_VCCRED.VC7 (R550). -/
def LP_VCCRED_VC7 : Nat := 0x1105030
/-- LP_VC0_GAP (R550). -/
def LP_VC0_GAP : Nat := 0x1105800
/-- COL_GRP_IDX (R551). -/
def COL_GRP_IDX : Nat := 0x1204000
/-- COL_TMO (R551). -/
def COL_TMO : Nat := 0x1204400
/-- COL_STAGE_OBJ (R551). -/
def COL_STAGE_OBJ : Nat := 0x1204800
/-- COL_RS_WIN (R551). -/
def COL_RS_WIN : Nat := 0x1204c00
/-- COL_OPEN (R551). -/
def COL_OPEN : Nat := 0x1205000
/-- HIVE_STAT.DEV (R552). -/
def HIVE_STAT_DEV : Nat := 0x1301408
/-- HIVE_STAT.MEMBER (R552). -/
def HIVE_STAT_MEMBER : Nat := 0x1301407
/-- HIVE_CFG.EN (R552). -/
def HIVE_CFG_EN : Nat := 0x1304000
/-- HIVE_OBJ (R552). -/
def HIVE_OBJ : Nat := 0x1304400
/-- HIVE_PACK (R552). -/
def HIVE_PACK : Nat := 0x1304800
/-- HIVE_HL_IDLE (R552). -/
def HIVE_HL_IDLE : Nat := 0x1304c00
/-- HIVE_LINE_Q (R552). -/
def HIVE_LINE_Q : Nat := 0x1305000
/-- HIVE_TMO (R552). -/
def HIVE_TMO : Nat := 0x1305400
/-- HIVE_QUEUED (R552). -/
def HIVE_QUEUED : Nat := 0x1305800
/-- HIVE_HL_USED (R552). -/
def HIVE_HL_USED : Nat := 0x1305c00
/-- RAE_CTX_BUSY (R553). -/
def RAE_CTX_BUSY : Nat := 0x1404000
/-- RAE_ADMIT_Q (R553). -/
def RAE_ADMIT_Q : Nat := 0x1404400
/-- RAE_TWIN_SEL (R553). -/
def RAE_TWIN_SEL : Nat := 0x1404800
/-- SCRB_RATE (R554). -/
def SCRB_RATE : Nat := 0x1504000
/-- SCRB_RATE_WATCH (R554). -/
def SCRB_RATE_WATCH : Nat := 0x1504400
/-- SCRB_CURn.REGION (R554). -/
def SCRB_CUR_REGION (i : Nat) : Nat := 0x150481d + i * 0x400
/-- SCRB_CURn.POS (R554). -/
def SCRB_CUR_POS (i : Nat) : Nat := 0x1504800 + i * 0x400
/-- RMAP_STAT.MIG (R555). -/
def RMAP_STAT_MIG : Nat := 0x1601401
/-- RMAP_STAT.LOST_MAP (R555). -/
def RMAP_STAT_LOST_MAP : Nat := 0x1601400
/-- RMAP_CE_THR (R555). -/
def RMAP_CE_THR : Nat := 0x1604000
/-- RMAP_MIG_RATE (R555). -/
def RMAP_MIG_RATE : Nat := 0x1604400
/-- RMAP_MIG_STAT.ACTIVE (R555). -/
def RMAP_MIG_STAT_ACTIVE : Nat := 0x160483f
/-- RMAP_MIG_STAT.STK (R555). -/
def RMAP_MIG_STAT_STK : Nat := 0x1604838
/-- RMAP_MIG_STAT.DONE (R555). -/
def RMAP_MIG_STAT_DONE : Nat := 0x1604818
/-- RMAP_MIG_STAT.REMAIN (R555). -/
def RMAP_MIG_STAT_REMAIN : Nat := 0x1604800
/-- RMAP_RELOC_USED (R555). -/
def RMAP_RELOC_USED : Nat := 0x1605000
/-- RMAP_TWIN_SEL (R555). -/
def RMAP_TWIN_SEL : Nat := 0x1605800
/-- RMAP_BROOD_BASE (R555). -/
def RMAP_BROOD_BASE : Nat := 0x1606000
/-- RMAP_BROOD_SLOTS (R555). -/
def RMAP_BROOD_SLOTS : Nat := 0x1606400
/-- HLT_STAT.LEVEL (R556). -/
def HLT_STAT_LEVEL : Nat := 0x1701401
/-- HLT_STAT.SEAL_REQ (R556). -/
def HLT_STAT_SEAL_REQ : Nat := 0x1701400
/-- HLT_SCORE.WORST (R556). -/
def HLT_SCORE_WORST : Nat := 0x1704008
/-- HLT_SCORE.SCORE (R556). -/
def HLT_SCORE_SCORE : Nat := 0x1704000
/-- HLT_WATCH (R556). -/
def HLT_WATCH : Nat := 0x1704400
/-- HLT_ALARM (R556). -/
def HLT_ALARM : Nat := 0x1704800
/-- HLT_HYST (R556). -/
def HLT_HYST : Nat := 0x1704c00
/-- HLT_DWELL (R556). -/
def HLT_DWELL : Nat := 0x1705000
/-- HLT_ACT_WATCH (R556). -/
def HLT_ACT_WATCH : Nat := 0x1705400
/-- HLT_ACT_ALARM (R556). -/
def HLT_ACT_ALARM : Nat := 0x1705800
/-- HLT_T_REF (R556). -/
def HLT_T_REF : Nat := 0x1705c00
/-- HLT_RXPWR_REF (R556). -/
def HLT_RXPWR_REF : Nat := 0x1706000
/-- HLT_SUMMARY (R556). -/
def HLT_SUMMARY : Nat := 0x1706800
/-- HLT_TWIN_SEL (R556). -/
def HLT_TWIN_SEL : Nat := 0x1707000
/-- SNS_STAT.CAL_BAD (R557). -/
def SNS_STAT_CAL_BAD : Nat := 0x1801400
/-- SNS_FILT (R557). -/
def SNS_FILT : Nat := 0x1804000
/-- SNS_CAL_PER (R557). -/
def SNS_CAL_PER : Nat := 0x1804400
/-- SNS_AON_DEV (R557). -/
def SNS_AON_DEV : Nat := 0x1804800
/-- SNS_DROOP_HOLD (R557). -/
def SNS_DROOP_HOLD : Nat := 0x1804c00
/-- SNS_POD_OPEN (R557). -/
def SNS_POD_OPEN : Nat := 0x1805000
/-- SNS_TWIN_SEL (R557). -/
def SNS_TWIN_SEL : Nat := 0x1805800
end R

/-- The fields of page GEN (R520). -/
def specsGEN : List FieldSpec := [
  ⟨0x1002, 32, 1, .ws, 2, 0, false, false, false, 0, 0, 1, 0⟩,
  ⟨0x1001, 32, 1, .ws, 1, 0, false, false, false, 0, 0, 1, 0⟩,
  ⟨0x1000, 32, 1, .ws, 1, 0, false, false, false, 0, 0, 1, 0⟩,
  ⟨0x1404, 32, 1, .ro, 0, 0, false, false, false, 0, 0, 1, 0⟩,
  ⟨0x1403, 32, 1, .ro, 0, 0, false, false, false, 0, 0, 1, 0⟩,
  ⟨0x1400, 32, 3, .ro, 0, 0, false, false, false, 0, 0, 1, 0⟩,
  ⟨0x4010, 32, 16, .ro, 0, 3, false, false, false, 0, 0, 1, 0⟩,
  ⟨0x4000, 32, 16, .ro, 0, 1, false, false, false, 0, 0, 1, 0⟩,
  ⟨0x4400, 32, 32, .rw, 2, 0, false, true, false, 0, 0, 1, 0⟩,
  ⟨0x481b, 64, 11, .ro, 0, 0, false, false, false, 0, 0, 1, 0⟩,
  ⟨0x481a, 64, 1, .ro, 0, 0, false, false, false, 0, 0, 1, 0⟩,
  ⟨0x4819, 64, 1, .ro, 0, 0, false, false, false, 0, 0, 1, 0⟩,
  ⟨0x4810, 64, 9, .ro, 0, 0, false, false, false, 0, 0, 1, 0⟩,
  ⟨0x480c, 64, 4, .ro, 0, 0, false, false, false, 0, 0, 1, 0⟩,
  ⟨0x4800, 64, 12, .ro, 0, 0, false, false, false, 0, 0, 1, 0⟩,
  ⟨0x5000, 32, 4, .ro, 0, 0, false, false, false, 0, 0, 1, 0⟩,
  ⟨0x5800, 64, 64, .ro, 7, 0, false, false, false, 0, 0, 1, 0⟩,
  ⟨0x6000, 32, 32, .wo, 6, 0, false, false, false, 0, 0, 1, 0⟩,
  ⟨0x6400, 32, 4, .rw, 2, 3, false, false, false, 1, 15, 1, 0⟩]

/-- The fields of page ROLE (R521). -/
def specsROLE : List FieldSpec := [
  ⟨0x101004, 32, 2, .rw, 1, 0, false, false, false, 0, 0, 1, 0⟩,
  ⟨0x101001, 32, 1, .ws, 1, 0, false, false, false, 0, 0, 1, 0⟩,
  ⟨0x101000, 32, 1, .ws, 1, 0, false, false, false, 0, 0, 1, 0⟩,
  ⟨0x101408, 32, 16, .ro, 0, 0, false, false, false, 0, 0, 1, 0⟩,
  ⟨0x101404, 32, 2, .ro, 0, 0, false, false, false, 0, 0, 1, 0⟩,
  ⟨0x101403, 32, 1, .ro, 0, 0, false, false, false, 0, 0, 1, 0⟩,
  ⟨0x101402, 32, 1, .ro, 0, 0, false, false, false, 0, 0, 1, 0⟩,
  ⟨0x101401, 32, 1, .ro, 0, 0, false, false, false, 0, 0, 1, 0⟩,
  ⟨0x101400, 32, 1, .ro, 0, 0, false, false, false, 0, 0, 1, 0⟩,
  ⟨0x104000, 32, 32, .ro, 0, 0, false, false, false, 0, 0, 4, 4⟩,
  ⟨0x105000, 32, 32, .ro, 0, 0, false, false, false, 0, 0, 1, 0⟩,
  ⟨0x105410, 32, 16, .ro, 0, 0, false, false, false, 0, 0, 1, 0⟩,
  ⟨0x105400, 32, 16, .ro, 0, 0, false, false, false, 0, 0, 1, 0⟩,
  ⟨0x105800, 32, 12, .rw, 6, 600, false, false, false, 1, 3600, 1, 0⟩,
  ⟨0x105c00, 32, 11, .ro, 0, 0, false, false, false, 0, 0, 1, 0⟩,
  ⟨0x106000, 32, 32, .wo, 1, 0, false, false, false, 0, 0, 8, 4⟩]

/-- The fields of page AUD (R522). -/
def specsAUD : List FieldSpec := [
  ⟨0x201400, 32, 1, .ro, 0, 0, false, false, false, 0, 0, 1, 0⟩,
  ⟨0x204000, 32, 32, .rw, 1, 0, false, false, false, 0, 0, 1, 0⟩,
  ⟨0x204400, 32, 32, .ro, 0, 0, false, false, false, 0, 0, 1, 0⟩,
  ⟨0x204800, 32, 32, .ro, 0, 0, false, false, false, 0, 0, 1, 0⟩]

/-- The fields of page CLK (R523). -/
def specsCLK : List FieldSpec := [
  ⟨0x301407, 32, 1, .ro, 0, 0, false, false, false, 0, 0, 1, 0⟩,
  ⟨0x301406, 32, 1, .w1c, 1, 0, false, false, false, 0, 0, 1, 0⟩,
  ⟨0x301404, 32, 2, .ro, 0, 0, false, false, false, 0, 0, 1, 0⟩,
  ⟨0x301402, 32, 2, .ro, 0, 0, false, false, false, 0, 0, 1, 0⟩,
  ⟨0x301400, 32, 2, .ro, 0, 0, false, false, false, 0, 0, 1, 0⟩,
  ⟨0x304000, 32, 13, .rw, 2, 500, false, false, false, 50, 5000, 1, 0⟩,
  ⟨0x304400, 32, 4, .rw, 2, 3, false, false, false, 1, 15, 1, 0⟩]

/-- The fields of page PWR (R524). -/
def specsPWR : List FieldSpec := [
  ⟨0x401406, 32, 1, .ro, 0, 0, false, false, false, 0, 0, 1, 0⟩,
  ⟨0x401405, 32, 1, .ro, 0, 0, false, false, false, 0, 0, 1, 0⟩,
  ⟨0x401400, 32, 5, .ro, 0, 16, false, false, false, 0, 0, 1, 0⟩,
  ⟨0x404000, 32, 10, .rw, 1, 0, false, false, false, 0, 0, 1, 0⟩,
  ⟨0x404400, 32, 10, .rw, 2, 760, false, false, false, 0, 0, 1, 0⟩,
  ⟨0x404800, 32, 12, .ro, 0, 0, false, false, false, 0, 0, 1, 0⟩,
  ⟨0x404c00, 32, 20, .rw, 1, 10000, false, false, false, 0, 1000000, 1, 0⟩,
  ⟨0x405000, 32, 10, .rw, 1, 20, false, false, false, 1, 1000, 1, 0⟩,
  ⟨0x405400, 32, 5, .rw, 2, 8, false, false, false, 1, 16, 1, 0⟩,
  ⟨0x405800, 32, 15, .ro, 0, 0, false, false, false, 0, 0, 1, 0⟩]

/-- The fields of page TIME (R525). -/
def specsTIME : List FieldSpec := [
  ⟨0x501401, 32, 1, .ro, 0, 0, false, false, false, 0, 0, 1, 0⟩,
  ⟨0x501400, 32, 1, .w1c, 1, 0, false, false, false, 0, 0, 1, 0⟩,
  ⟨0x504000, 64, 64, .ro, 0, 0, false, false, false, 0, 0, 1, 0⟩,
  ⟨0x504800, 32, 32, .rw, 1, 0, false, false, false, 0, 0, 1, 0⟩,
  ⟨0x505000, 64, 64, .wo, 1, 0, false, false, false, 0, 0, 1, 0⟩]

/-- The fields of page QUE (R526). -/
def specsQUE : List FieldSpec := [
  ⟨0x604000, 32, 32, .rw, 1, 0, false, false, false, 0, 0, 16, 4⟩,
  ⟨0x608000, 32, 1, .ws, 1, 0, false, false, false, 0, 0, 16, 4⟩,
  ⟨0x60c00c, 64, 40, .rw, 1, 0, false, false, false, 0, 0, 1, 0⟩,
  ⟨0x60c800, 32, 5, .rw, 1, 0, false, false, false, 0, 0, 1, 0⟩,
  ⟨0x60cc00, 32, 32, .ro, 0, 0, false, false, false, 0, 0, 1, 0⟩,
  ⟨0x60d000, 32, 32, .rw, 1, 0, false, false, false, 0, 0, 1, 0⟩,
  ⟨0x60d400, 32, 1, .rw, 1, 0, false, false, false, 0, 0, 1, 0⟩,
  ⟨0x60d800, 32, 32, .rw, 1, 0, false, false, false, 0, 0, 1, 0⟩,
  ⟨0x60dc00, 32, 16, .rw, 1, 0, false, false, false, 0, 0, 1, 0⟩,
  ⟨0x60e000, 32, 32, .rw, 1, 0, false, false, false, 0, 0, 1, 0⟩]

/-- The fields of page SEQ (R529). -/
def specsSEQ : List FieldSpec := [
  ⟨0x704001, 32, 1, .ro, 0, 0, false, false, false, 0, 0, 1, 0⟩,
  ⟨0x704000, 32, 1, .rw, 1, 0, true, false, false, 0, 0, 1, 0⟩,
  ⟨0x704800, 64, 48, .ro, 0, 0, false, false, false, 0, 0, 1, 0⟩,
  ⟨0x705000, 32, 32, .ro, 0, 0, false, false, false, 0, 0, 1, 0⟩,
  ⟨0x705400, 32, 32, .ro, 0, 0, false, false, false, 0, 0, 1, 0⟩,
  ⟨0x705800, 64, 48, .ro, 0, 0, false, false, false, 0, 0, 1, 0⟩,
  ⟨0x706004, 32, 3, .ro, 0, 0, false, false, false, 0, 0, 1, 0⟩,
  ⟨0x706000, 32, 3, .ro, 0, 4, false, false, false, 0, 0, 1, 0⟩,
  ⟨0x706400, 32, 8, .ro, 0, 0, false, false, false, 0, 0, 1, 0⟩,
  ⟨0x706800, 32, 32, .rw, 1, 0, false, false, false, 0, 0, 1, 0⟩]

/-- The fields of page TBL (R530). -/
def specsTBL : List FieldSpec := [
  ⟨0x804008, 32, 1, .ro, 0, 0, false, false, false, 0, 0, 1, 0⟩,
  ⟨0x804004, 32, 3, .ro, 0, 0, false, false, false, 0, 0, 1, 0⟩,
  ⟨0x804000, 32, 3, .ro, 0, 0, false, false, false, 0, 0, 1, 0⟩,
  ⟨0x804800, 64, 48, .ro, 0, 0, false, false, false, 0, 0, 1, 0⟩,
  ⟨0x805000, 32, 32, .ro, 0, 0, false, false, false, 0, 0, 1, 0⟩,
  ⟨0x805400, 32, 32, .ro, 0, 0, false, false, false, 0, 0, 1, 0⟩,
  ⟨0x805804, 32, 2, .ro, 0, 0, false, false, false, 0, 0, 1, 0⟩,
  ⟨0x805800, 32, 2, .ro, 0, 0, false, false, false, 0, 0, 1, 0⟩,
  ⟨0x805c00, 32, 32, .rw, 1, 0, false, false, false, 0, 0, 1, 0⟩,
  ⟨0x808000, 256, 256, .rw, 2, 0, false, true, false, 0, 0, 4, 32⟩]

/-- The fields of page SCH (R531). -/
def specsSCH : List FieldSpec := [
  ⟨0x901401, 32, 1, .ro, 0, 0, false, false, false, 0, 0, 1, 0⟩,
  ⟨0x901400, 32, 1, .w1c, 1, 0, false, false, false, 0, 0, 1, 0⟩,
  ⟨0x904000, 32, 19, .rw, 1, 0, false, true, false, 0, 0, 1, 0⟩,
  ⟨0x904400, 32, 16, .ro, 0, 0, false, false, false, 0, 0, 1, 0⟩,
  ⟨0x904818, 32, 8, .ro, 0, 0, false, false, false, 0, 0, 1, 0⟩,
  ⟨0x904800, 32, 8, .ro, 0, 0, false, false, false, 0, 0, 1, 0⟩,
  ⟨0x905000, 64, 48, .ro, 0, 0, false, false, false, 0, 0, 1, 0⟩,
  ⟨0x905800, 64, 48, .ro, 0, 0, false, false, false, 0, 0, 1, 0⟩]

/-- The fields of page OBJ (R532). -/
def specsOBJ : List FieldSpec := [
  ⟨0xa01404, 32, 4, .ro, 0, 0, false, false, false, 0, 0, 1, 0⟩,
  ⟨0xa01400, 32, 1, .w1c, 1, 0, false, false, false, 0, 0, 1, 0⟩,
  ⟨0xa04000, 32, 32, .rw, 1, 0, false, false, false, 0, 0, 1, 0⟩,
  ⟨0xa04400, 32, 20, .ro, 0, 0, false, false, false, 0, 0, 1, 0⟩,
  ⟨0xa04800, 32, 7, .ro, 0, 0, false, false, false, 0, 0, 1, 0⟩,
  ⟨0xa04c00, 32, 15, .ro, 0, 0, false, false, false, 0, 0, 1, 0⟩]

/-- The fields of page TIER (R533). -/
def specsTIER : List FieldSpec := [
  ⟨0xb04010, 64, 36, .rw, 2, 0, false, true, false, 0, 0, 4, 16⟩,
  ⟨0xb04810, 64, 36, .rw, 2, 0, false, true, false, 0, 0, 4, 16⟩,
  ⟨0xb08000, 32, 24, .rw, 1, 0, false, false, false, 0, 0, 4, 4⟩,
  ⟨0xb09000, 32, 21, .rw, 1, 0, false, true, false, 0, 0, 1, 0⟩,
  ⟨0xb09400, 32, 21, .rw, 1, 0, false, true, false, 0, 0, 1, 0⟩,
  ⟨0xb09800, 32, 24, .ro, 0, 0, false, false, false, 0, 0, 1, 0⟩,
  ⟨0xb09c00, 32, 4, .ro, 0, 0, false, false, false, 0, 0, 1, 0⟩,
  ⟨0xb0a000, 32, 8, .ro, 0, 0, false, false, false, 0, 0, 1, 0⟩]

/-- The fields of page CMB (R534). -/
def specsCMB : List FieldSpec := [
  ⟨0xe04000, 32, 16, .rw, 2, 0, false, false, false, 0, 0, 1, 0⟩,
  ⟨0xe04418, 32, 5, .rw, 2, 16, false, false, false, 4, 16, 1, 0⟩,
  ⟨0xe04414, 32, 2, .rw, 2, 3, false, false, false, 1, 3, 1, 0⟩,
  ⟨0xe04410, 32, 2, .rw, 2, 2, false, false, false, 0, 2, 1, 0⟩,
  ⟨0xe04820, 64, 26, .ro, 0, 0, false, false, false, 0, 0, 1, 0⟩,
  ⟨0xe0480c, 64, 1, .ro, 0, 0, false, false, false, 0, 0, 1, 0⟩,
  ⟨0xe0480a, 64, 2, .ro, 0, 0, false, false, false, 0, 0, 1, 0⟩,
  ⟨0xe04808, 64, 2, .ro, 0, 0, false, false, false, 0, 0, 1, 0⟩,
  ⟨0xe04800, 64, 5, .ro, 0, 0, false, false, false, 0, 0, 1, 0⟩,
  ⟨0xe05010, 32, 14, .ro, 0, 0, false, false, false, 0, 0, 1, 0⟩,
  ⟨0xe05008, 32, 4, .ro, 0, 0, false, false, false, 0, 0, 1, 0⟩,
  ⟨0xe05004, 32, 2, .ro, 0, 0, false, false, false, 0, 0, 1, 0⟩,
  ⟨0xe05000, 32, 4, .ro, 0, 0, false, false, false, 0, 0, 1, 0⟩,
  ⟨0xe05400, 32, 2, .ro, 0, 0, false, false, false, 0, 0, 1, 0⟩,
  ⟨0xe05800, 32, 12, .rw, 1, 0, false, true, false, 0, 0, 1, 0⟩,
  ⟨0xe05c00, 32, 25, .rw, 1, 0, false, true, false, 0, 0, 1, 0⟩,
  ⟨0xe06000, 32, 21, .rw, 1, 0, false, true, false, 0, 0, 1, 0⟩,
  ⟨0xe06400, 32, 21, .rw, 1, 0, false, true, false, 0, 0, 1, 0⟩,
  ⟨0xe06800, 32, 21, .rw, 1, 0, false, true, false, 0, 0, 1, 0⟩,
  ⟨0xe06c00, 32, 21, .rw, 1, 0, false, true, false, 0, 0, 1, 0⟩,
  ⟨0xe07000, 64, 48, .ro, 0, 0, false, false, false, 0, 0, 1, 0⟩,
  ⟨0xe07818, 64, 16, .ro, 0, 0, false, false, false, 0, 0, 1, 0⟩,
  ⟨0xe07800, 64, 24, .ro, 0, 0, false, false, false, 0, 0, 1, 0⟩,
  ⟨0xe08000, 32, 10, .rw, 2, 10, false, false, false, 1, 1000, 1, 0⟩,
  ⟨0xe08400, 32, 14, .rw, 1, 50, false, false, false, 1, 10000, 1, 0⟩,
  ⟨0xe08800, 32, 14, .rw, 2, 100, false, false, false, 10, 10000, 1, 0⟩,
  ⟨0xe08c00, 32, 10, .rw, 1, 10, false, false, false, 1, 1000, 1, 0⟩,
  ⟨0xe09000, 32, 10, .rw, 2, 20, false, false, false, 1, 1000, 1, 0⟩,
  ⟨0xe09400, 32, 17, .rw, 1, 4096, false, false, false, 64, 65536, 1, 0⟩,
  ⟨0xe09800, 32, 14, .ws, 1, 16383, false, false, false, 0, 0, 1, 0⟩,
  ⟨0xe0a01f, 32, 1, .ro, 0, 0, false, false, false, 0, 0, 3, 4⟩,
  ⟨0xe0a000, 32, 4, .ro, 0, 0, false, false, false, 0, 0, 3, 4⟩,
  ⟨0xe0b000, 32, 26, .ro, 0, 0, false, false, false, 0, 0, 1, 0⟩,
  ⟨0xe0b800, 32, 32, .rw, 1, 0, false, false, false, 0, 0, 1, 0⟩]

/-- The fields of page SPN (R535). -/
def specsSPN : List FieldSpec := [
  ⟨0x1901401, 32, 1, .ro, 0, 0, false, false, false, 0, 0, 1, 0⟩,
  ⟨0x1901400, 32, 1, .ro, 0, 0, false, false, false, 0, 0, 1, 0⟩,
  ⟨0x1904000, 32, 2, .rw, 2, 3, false, false, false, 0, 0, 1, 0⟩,
  ⟨0x1904400, 32, 5, .ro, 0, 0, false, false, false, 0, 0, 1, 0⟩,
  ⟨0x1904800, 32, 19, .rw, 1, 0, false, false, false, 0, 0, 1, 0⟩,
  ⟨0x1904c00, 32, 24, .rw, 3, 4096, false, false, false, 0, 0, 1, 0⟩,
  ⟨0x1905000, 32, 12, .rw, 1, 4095, false, false, false, 0, 0, 1, 0⟩,
  ⟨0x1905400, 32, 12, .rw, 1, 4095, false, false, false, 0, 0, 1, 0⟩,
  ⟨0x1905800, 32, 27, .rw, 1, 0, false, false, false, 0, 0, 1, 0⟩,
  ⟨0x1906000, 32, 25, .rw, 1, 0, false, false, false, 0, 0, 1, 0⟩,
  ⟨0x1906400, 32, 32, .ro, 0, 0, false, false, false, 0, 0, 1, 0⟩,
  ⟨0x1906800, 32, 32, .ro, 0, 0, false, false, false, 0, 0, 1, 0⟩]

/-- The fields of page SNP (R536). -/
def specsSNP : List FieldSpec := [
  ⟨0x1a01002, 32, 1, .rw, 1, 0, false, false, false, 0, 0, 1, 0⟩,
  ⟨0x1a01001, 32, 1, .rw, 1, 0, false, false, false, 0, 0, 1, 0⟩,
  ⟨0x1a01000, 32, 1, .ws, 1, 0, false, false, false, 0, 0, 1, 0⟩,
  ⟨0x1a01400, 32, 6, .ro, 0, 0, false, false, false, 0, 0, 1, 0⟩,
  ⟨0x1a04000, 64, 64, .rw, 1, 0, false, false, false, 0, 0, 1, 0⟩,
  ⟨0x1a04800, 64, 64, .ro, 0, 0, false, false, false, 0, 0, 1, 0⟩,
  ⟨0x1a05000, 32, 32, .ro, 0, 0, false, false, false, 0, 0, 1, 0⟩]

/-- The fields of page DIG (R537). -/
def specsDIG : List FieldSpec := [
  ⟨0x1b04000, 32, 32, .rw, 1, 0, false, false, false, 0, 0, 1, 0⟩,
  ⟨0x1b04800, 64, 48, .rw, 1, 0, false, false, false, 0, 0, 1, 0⟩,
  ⟨0x1b05000, 64, 64, .rw, 1, 0, false, false, false, 0, 0, 1, 0⟩,
  ⟨0x1b05800, 64, 48, .ro, 0, 0, false, false, false, 0, 0, 1, 0⟩,
  ⟨0x1b06000, 64, 48, .ro, 0, 0, false, false, false, 0, 0, 1, 0⟩]

/-- The fields of page PIN (R538). -/
def specsPIN : List FieldSpec := [
  ⟨0x1c0140c, 32, 3, .ro, 0, 0, false, false, false, 0, 0, 1, 0⟩,
  ⟨0x1c01408, 32, 3, .ro, 0, 0, false, false, false, 0, 0, 1, 0⟩,
  ⟨0x1c01404, 32, 3, .ro, 0, 0, false, false, false, 0, 0, 1, 0⟩,
  ⟨0x1c01400, 32, 3, .ro, 0, 0, false, false, false, 0, 0, 1, 0⟩,
  ⟨0x1c04000, 32, 16, .rw, 2, 40, false, false, false, 1, 65535, 1, 0⟩,
  ⟨0x1c04400, 32, 10, .rw, 2, 10, false, false, false, 1, 1000, 1, 0⟩]

/-- The fields of page KX2C (R539). -/
def specsKX2C : List FieldSpec := [
  ⟨0x1d04000, 32, 1, .rw, 1, 0, false, false, false, 0, 0, 1, 0⟩,
  ⟨0x1d04400, 32, 32, .ro, 0, 131840, false, false, false, 0, 0, 1, 0⟩,
  ⟨0x1d06000, 32, 32, .rw, 1, 0, false, false, false, 0, 0, 8, 4⟩,
  ⟨0x1d08000, 32, 1, .ws, 1, 0, false, false, false, 0, 0, 1, 0⟩]

/-- The fields of page SLCn (R543). -/
def specsSLC : List FieldSpec := [
  ⟨0x2001404, 32, 1, .ro, 0, 0, false, false, false, 0, 0, 1, 0⟩,
  ⟨0x2001403, 32, 1, .w1c, 1, 0, false, false, false, 0, 0, 1, 0⟩,
  ⟨0x2001402, 32, 1, .ro, 0, 0, false, false, false, 0, 0, 1, 0⟩,
  ⟨0x2001401, 32, 1, .ro, 0, 0, false, false, false, 0, 0, 1, 0⟩,
  ⟨0x2001400, 32, 1, .ro, 0, 0, false, false, false, 0, 0, 1, 0⟩,
  ⟨0x2004000, 32, 6, .ro, 0, 0, false, false, false, 0, 0, 1, 0⟩,
  ⟨0x2004800, 64, 34, .ro, 0, 0, false, false, true, 0, 0, 1, 0⟩,
  ⟨0x2005000, 32, 16, .ro, 0, 0, false, false, false, 0, 0, 1, 0⟩,
  ⟨0x2005800, 32, 32, .rw, 1, 0, false, false, false, 0, 0, 1, 0⟩]

/-- The fields of page INTK (R544). -/
def specsINTK : List FieldSpec := [
  ⟨0xc01400, 32, 1, .w1c, 1, 0, false, false, false, 0, 0, 1, 0⟩,
  ⟨0xc04000, 32, 8, .rw, 1, 16, true, false, false, 1, 128, 1, 0⟩,
  ⟨0xc04400, 32, 19, .rw, 1, 0, true, false, false, 0, 0, 12, 4⟩,
  ⟨0xc07800, 32, 19, .rw, 1, 1024, true, false, false, 1024, 262144, 1, 0⟩,
  ⟨0xc07c00, 32, 5, .rw, 1, 10, true, false, false, 10, 20, 1, 0⟩,
  ⟨0xc08000, 32, 12, .rw, 1, 16, true, false, false, 0, 0, 1, 0⟩,
  ⟨0xc08400, 32, 10, .ro, 0, 0, false, false, false, 0, 0, 1, 0⟩,
  ⟨0xc08800, 32, 32, .rw, 1, 0, false, false, false, 0, 0, 1, 0⟩]

/-- The fields of page ROOT (R546). -/
def specsROOT : List FieldSpec := [
  ⟨0xd01404, 32, 4, .ro, 0, 0, false, false, false, 0, 0, 1, 0⟩,
  ⟨0xd01400, 32, 1, .ro, 0, 0, false, false, false, 0, 0, 1, 0⟩,
  ⟨0xd04000, 32, 8, .ro, 0, 0, false, false, true, 0, 0, 4, 4⟩,
  ⟨0xd05000, 32, 32, .rw, 1, 1008981770, false, false, false, 0, 0, 1, 0⟩,
  ⟨0xd05400, 32, 32, .ro, 0, 0, false, false, false, 0, 0, 1, 0⟩,
  ⟨0xd05800, 32, 19, .rw, 1, 0, false, false, false, 0, 0, 1, 0⟩,
  ⟨0xd05c00, 32, 16, .rw, 1, 4000, false, false, false, 0, 0, 1, 0⟩]

/-- The fields of page COD (R547). -/
def specsCOD : List FieldSpec := [
  ⟨0xf04000, 32, 9, .rw, 2, 96, false, true, false, 8, 256, 1, 0⟩,
  ⟨0xf04400, 32, 21, .rw, 2, 0, false, true, false, 0, 0, 1, 0⟩,
  ⟨0xf04800, 32, 24, .ro, 0, 0, false, false, false, 0, 0, 1, 0⟩,
  ⟨0xf04c00, 32, 24, .ro, 0, 0, false, false, false, 0, 0, 1, 0⟩,
  ⟨0xf05000, 32, 17, .rw, 1, 1000, false, false, false, 100, 100000, 1, 0⟩,
  ⟨0xf05800, 64, 48, .ro, 0, 0, false, false, false, 0, 0, 1, 0⟩]

/-- The fields of page LP (R548). -/
def specsLP : List FieldSpec := [
  ⟨0x1001408, 32, 9, .ro, 0, 0, false, false, false, 0, 0, 1, 0⟩,
  ⟨0x1001400, 32, 1, .w1c, 1, 0, false, false, false, 0, 0, 1, 0⟩,
  ⟨0x1004000, 32, 16, .rw, 2, 0, false, true, false, 0, 0, 1, 0⟩,
  ⟨0x1004400, 32, 16, .rw, 2, 16, false, false, false, 1, 65535, 1, 0⟩,
  ⟨0x1004800, 32, 32, .ro, 0, 0, false, false, false, 0, 0, 1, 0⟩,
  ⟨0x1004c00, 32, 7, .rw, 2, 5, false, false, false, 1, 100, 1, 0⟩,
  ⟨0x1005000, 32, 8, .rw, 2, 16, false, false, false, 1, 255, 1, 0⟩,
  ⟨0x1005400, 32, 13, .rw, 2, 512, false, false, false, 16, 4096, 1, 0⟩,
  ⟨0x1005800, 32, 14, .rw, 2, 100, false, false, false, 10, 10000, 1, 0⟩,
  ⟨0x1006000, 32, 32, .rw, 2, 0, false, false, false, 0, 0, 1, 0⟩]

/-- The fields of page LPV (R550). -/
def specsLPV : List FieldSpec := [
  ⟨0x1104008, 64, 8, .rw, 2, 40, false, false, false, 0, 0, 1, 0⟩,
  ⟨0x1104010, 64, 8, .rw, 2, 24, false, false, false, 0, 0, 1, 0⟩,
  ⟨0x1104018, 64, 8, .rw, 2, 64, false, false, false, 0, 0, 1, 0⟩,
  ⟨0x1104020, 64, 8, .rw, 2, 64, false, false, false, 0, 0, 1, 0⟩,
  ⟨0x1104028, 64, 8, .rw, 2, 32, false, false, false, 0, 0, 1, 0⟩,
  ⟨0x1104030, 64, 8, .rw, 2, 32, false, false, false, 0, 0, 1, 0⟩,
  ⟨0x1104038, 64, 8, .rw, 2, 8, false, false, false, 0, 0, 1, 0⟩,
  ⟨0x1104800, 64, 11, .rw, 2, 32, false, true, false, 1, 1024, 1, 0⟩,
  ⟨0x1104810, 64, 11, .rw, 2, 160, false, true, false, 1, 1024, 1, 0⟩,
  ⟨0x1104820, 64, 11, .rw, 2, 96, false, true, false, 1, 1024, 1, 0⟩,
  ⟨0x1104830, 64, 11, .rw, 2, 224, false, true, false, 1, 1024, 1, 0⟩,
  ⟨0x1105000, 64, 11, .rw, 2, 224, false, true, false, 1, 1024, 1, 0⟩,
  ⟨0x1105010, 64, 11, .rw, 2, 112, false, true, false, 1, 1024, 1, 0⟩,
  ⟨0x1105020, 64, 11, .rw, 2, 112, false, true, false, 1, 1024, 1, 0⟩,
  ⟨0x1105030, 64, 11, .rw, 2, 64, false, true, false, 1, 1024, 1, 0⟩,
  ⟨0x1105800, 32, 9, .rw, 2, 16, false, false, false, 4, 256, 1, 0⟩]

/-- The fields of page COL (R551). -/
def specsCOL : List FieldSpec := [
  ⟨0x1204000, 32, 32, .rw, 1, 0, false, false, false, 0, 0, 1, 0⟩,
  ⟨0x1204400, 32, 16, .rw, 1, 2000, false, false, false, 1, 60000, 1, 0⟩,
  ⟨0x1204800, 32, 19, .rw, 1, 0, false, false, false, 0, 0, 1, 0⟩,
  ⟨0x1204c00, 32, 7, .rw, 1, 16, false, false, false, 1, 64, 1, 0⟩,
  ⟨0x1205000, 32, 12, .ro, 0, 0, false, false, false, 0, 0, 1, 0⟩]

/-- The fields of page HIVE (R552). -/
def specsHIVE : List FieldSpec := [
  ⟨0x1301408, 32, 6, .ro, 0, 0, false, false, false, 0, 0, 1, 0⟩,
  ⟨0x1301407, 32, 1, .ro, 0, 0, false, false, false, 0, 0, 1, 0⟩,
  ⟨0x1304000, 32, 1, .rw, 1, 0, false, false, false, 0, 0, 1, 0⟩,
  ⟨0x1304400, 32, 19, .rw, 1, 0, false, false, false, 0, 0, 1, 0⟩,
  ⟨0x1304800, 32, 8, .rw, 1, 20, false, false, false, 0, 0, 1, 0⟩,
  ⟨0x1304c00, 32, 10, .rw, 1, 10, false, false, false, 1, 1000, 1, 0⟩,
  ⟨0x1305000, 32, 13, .rw, 1, 1024, false, false, false, 64, 4096, 1, 0⟩,
  ⟨0x1305400, 32, 8, .rw, 1, 20, false, false, false, 2, 200, 1, 0⟩,
  ⟨0x1305800, 32, 15, .ro, 0, 0, false, false, false, 0, 0, 1, 0⟩,
  ⟨0x1305c00, 32, 9, .ro, 0, 0, false, false, false, 0, 0, 1, 0⟩]

/-- The fields of page RAE (R553). -/
def specsRAE : List FieldSpec := [
  ⟨0x1404000, 32, 13, .ro, 0, 0, false, false, false, 0, 0, 1, 0⟩,
  ⟨0x1404400, 32, 9, .ro, 0, 0, false, false, false, 0, 0, 1, 0⟩,
  ⟨0x1404800, 32, 32, .rw, 1, 0, false, false, false, 0, 0, 1, 0⟩]

/-- The fields of page SCRB (R554). -/
def specsSCRB : List FieldSpec := [
  ⟨0x1504000, 32, 7, .rw, 1, 4, false, false, false, 1, 64, 1, 0⟩,
  ⟨0x1504400, 32, 7, .rw, 1, 16, false, false, false, 1, 64, 1, 0⟩,
  ⟨0x150481d, 32, 3, .ro, 0, 0, false, false, false, 0, 0, 12, 4⟩,
  ⟨0x1504800, 32, 25, .ro, 0, 0, false, false, false, 0, 0, 12, 4⟩]

/-- The fields of page RMAP (R555). -/
def specsRMAP : List FieldSpec := [
  ⟨0x1601401, 32, 1, .ro, 0, 0, false, false, false, 0, 0, 1, 0⟩,
  ⟨0x1601400, 32, 1, .ro, 0, 0, false, false, false, 0, 0, 1, 0⟩,
  ⟨0x1604000, 32, 8, .rw, 2, 16, false, false, false, 1, 255, 1, 0⟩,
  ⟨0x1604400, 32, 7, .rw, 2, 8, false, false, false, 1, 64, 1, 0⟩,
  ⟨0x160483f, 64, 1, .ro, 0, 0, false, false, false, 0, 0, 1, 0⟩,
  ⟨0x1604838, 64, 4, .ro, 0, 0, false, false, false, 0, 0, 1, 0⟩,
  ⟨0x1604818, 64, 21, .ro, 0, 0, false, false, false, 0, 0, 1, 0⟩,
  ⟨0x1604800, 64, 21, .ro, 0, 0, false, false, false, 0, 0, 1, 0⟩,
  ⟨0x1605000, 32, 19, .ro, 0, 0, false, false, true, 0, 0, 1, 0⟩,
  ⟨0x1605800, 32, 32, .rw, 2, 0, false, false, false, 0, 0, 1, 0⟩,
  ⟨0x1606000, 32, 21, .rw, 2, 0, false, true, false, 0, 0, 1, 0⟩,
  ⟨0x1606400, 32, 21, .rw, 2, 0, false, true, false, 0, 0, 1, 0⟩]

/-- The fields of page HLT (R556). -/
def specsHLT : List FieldSpec := [
  ⟨0x1701401, 32, 2, .ro, 0, 0, false, false, false, 0, 0, 1, 0⟩,
  ⟨0x1701400, 32, 1, .ro, 0, 0, false, false, false, 0, 0, 1, 0⟩,
  ⟨0x1704008, 32, 4, .ro, 0, 0, false, false, false, 0, 0, 1, 0⟩,
  ⟨0x1704000, 32, 8, .ro, 0, 0, false, false, false, 0, 0, 1, 0⟩,
  ⟨0x1704400, 32, 8, .rw, 2, 64, false, false, false, 0, 0, 1, 0⟩,
  ⟨0x1704800, 32, 8, .rw, 2, 160, false, false, false, 0, 0, 1, 0⟩,
  ⟨0x1704c00, 32, 6, .rw, 2, 16, false, false, false, 0, 0, 1, 0⟩,
  ⟨0x1705000, 32, 16, .rw, 2, 1000, false, false, false, 10, 60000, 1, 0⟩,
  ⟨0x1705400, 32, 5, .rw, 2, 3, false, false, false, 0, 0, 1, 0⟩,
  ⟨0x1705800, 32, 5, .rw, 2, 31, false, false, false, 0, 0, 1, 0⟩,
  ⟨0x1705c00, 32, 10, .rw, 2, 340, false, false, false, 0, 0, 1, 0⟩,
  ⟨0x1706000, 32, 16, .rw, 2, 10000, false, false, false, 0, 0, 1, 0⟩,
  ⟨0x1706800, 64, 64, .ro, 0, 0, false, false, false, 0, 0, 1, 0⟩,
  ⟨0x1707000, 32, 32, .rw, 2, 0, false, false, false, 0, 0, 1, 0⟩]

/-- The fields of page SNS (R557). -/
def specsSNS : List FieldSpec := [
  ⟨0x1801400, 32, 1, .ro, 0, 0, false, false, false, 0, 0, 1, 0⟩,
  ⟨0x1804000, 32, 3, .rw, 2, 2, false, false, false, 0, 4, 1, 0⟩,
  ⟨0x1804400, 32, 14, .rw, 2, 1000, false, false, false, 10, 10000, 1, 0⟩,
  ⟨0x1804800, 32, 16, .ro, 0, 0, false, false, false, 0, 0, 1, 0⟩,
  ⟨0x1804c00, 32, 8, .rw, 2, 16, false, false, false, 0, 0, 1, 0⟩,
  ⟨0x1805000, 64, 48, .ro, 0, 0, false, false, false, 0, 0, 1, 0⟩,
  ⟨0x1805800, 32, 32, .rw, 2, 0, false, false, false, 0, 0, 1, 0⟩]

/-- Every register field of the block outside the common page layout (R520 to R557). -/
def allSpecs : List FieldSpec :=
  specsGEN ++
  specsROLE ++
  specsAUD ++
  specsCLK ++
  specsPWR ++
  specsTIME ++
  specsQUE ++
  specsSEQ ++
  specsTBL ++
  specsSCH ++
  specsOBJ ++
  specsTIER ++
  specsCMB ++
  specsSPN ++
  specsSNP ++
  specsDIG ++
  specsPIN ++
  specsKX2C ++
  specsSLC ++
  specsINTK ++
  specsROOT ++
  specsCOD ++
  specsLP ++
  specsLPV ++
  specsCOL ++
  specsHIVE ++
  specsRAE ++
  specsSCRB ++
  specsRMAP ++
  specsHLT ++
  specsSNS

/-! Live counter keys: page index times 0x1000 plus the counter's byte offset (R540, R558). -/

namespace C

def GEN_BLKRST : Nat := 0x100
def GEN_SLCRST : Nat := 0x108
def GEN_SPARE : Nat := 0x110
def ROLE_FAIL_CNT : Nat := 0x1100
def ROLE_OPEN_CNT : Nat := 0x1108
def AUD_OVERWRITE : Nat := 0x2100
def CLK_FREEZE : Nat := 0x3100
def CLK_RELOCK : Nat := 0x3108
def PWR_WAKE_WARM : Nat := 0x4100
def PWR_WAKE_COLD : Nat := 0x4108
def PWR_LIMITED : Nat := 0x4110
def EVT_OVERFLOW : Nat := 0x6200
def EVT_POSTED : Nat := 0x6208
def EVT_CONS_BAD : Nat := 0x6210
def EVT_WR_FAIL : Nat := 0x6218
def QUE_FETCH_ERR : Nat := 0x6220
def SEQ_RANGE : Nat := 0x7100
def SEQ_ROW_VISITS : Nat := 0x7108
def SEQ_CMD_START : Nat := 0x7110
def SEQ_CMD_CANCEL : Nat := 0x7118
def TBL_LOAD_OK : Nat := 0x8100
def TBL_LOAD_FAIL : Nat := 0x8108
def SCH_CLAMP : Nat := 0x9100
def SCH_FORM : Nat := 0x9108
def OBJ_DIR_SUBMIT : Nat := 0xa100
def OBJ_DIR_REFUSE : Nat := 0xa108
def OBJ_MOVE_DONE : Nat := 0xa110
def TIER_POISON : Nat := 0xb100
def TIER_TMO : Nat := 0xb108
def TIER_IMG_STALE : Nat := 0xb110
def TIER_STREAM_STALE : Nat := 0xb118
def TIER_POOL_WAIT : Nat := 0xb120
def TIER_EVICT : Nat := 0xb128
def TIER_WB : Nat := 0xb130
def CMB_REPORT_DUP : Nat := 0xe100
def CMB_LOST_SEEN : Nat := 0xe108
def CMB_KEEP_SKIP : Nat := 0xe110
def CMB_RB_PULL : Nat := 0xe118
def CMB_CAPS : Nat := 0xe120
def CMB_ROLLBACKS : Nat := 0xe128
def SPN_SKIP : Nat := 0x19100
def SPN_SEAL_COW : Nat := 0x19108
def SPN_WRITES : Nat := 0x19110
def SPN_CRC_FAIL : Nat := 0x19118
def SNP_MISSED : Nat := 0x1a100
def DIG_MISMATCH : Nat := 0x1b100
def DIG_UNCOMPARED : Nat := 0x1b108
def INTK_ORDER_WAIT : Nat := 0xc100
def INTK_TRACK_WAIT : Nat := 0xc108
def INTK_OVERFULL : Nat := 0xc110
def INTK_OOB : Nat := 0xc118
def INTK_SPILL : Nat := 0xc120
def INTK_RELOAD : Nat := 0xc128
def INTK_PROMOTE : Nat := 0xc130
def INTK_PROMO_FULL : Nat := 0xc138
def INTK_MAP_FULL : Nat := 0xc140
def INTK_ASSOC_HIT : Nat := 0xc148
def ROOT_ARR_FAULT : Nat := 0xd100
def ROOT_FILL_CYC : Nat := 0xd108
def ROOT_VEC : Nat := 0xd110
def ROOT_BUBBLE : Nat := 0xd118
def ROOT_CMDS : Nat := 0xd120
def COD_SEG_CRC : Nat := 0xf100
def COD_DRAIN_BAD : Nat := 0xf108
def COD_DRAIN_DUP : Nat := 0xf110
def COD_DRAIN_STALE : Nat := 0xf118
def COD_DRAIN_RESEND : Nat := 0xf120
def COD_GRANT_WAIT : Nat := 0xf128
def COD_SEG_LOGGED : Nat := 0xf130
def COD_SEG_APPLIED : Nat := 0xf138
def COD_LOG_STALLS : Nat := 0xf140
def COD_DRAIN_GAP : Nat := 0xf148
def LP_DROP_TYPE : Nat := 0x10100
def LP_DROP_FOREIGN : Nat := 0x10108
def LP_DROP_MISROUTE : Nat := 0x10110
def LP_DROP_TAG : Nat := 0x10118
def LP_DROP_STALE : Nat := 0x10120
def LP_E2E_DUP : Nat := 0x10128
def LP_E2E_RESEND : Nat := 0x10130
def LP_ACK_DUP : Nat := 0x10138
def LP_UNREACH : Nat := 0x10140
def LP_SPARE_EVT : Nat := 0x10148
def LP_FLIT_TX : Nat := 0x10150
def LP_FLIT_RX : Nat := 0x10158
def COL_ABORT_MISMATCH : Nat := 0x12100
def COL_ABORT_DEAD : Nat := 0x12108
def COL_ABORT_OTHER : Nat := 0x12110
def COL_STRAY : Nat := 0x12118
def COL_CHUNK_CRC : Nat := 0x12120
def COL_DONE : Nat := 0x12128
def HIVE_OOR : Nat := 0x13100
def HIVE_HL_FULL : Nat := 0x13108
def HIVE_HL_HIT : Nat := 0x13110
def HIVE_HL_EVICT : Nat := 0x13118
def HIVE_TMO_CNT : Nat := 0x13120
def HIVE_LATE : Nat := 0x13128
def HIVE_STALE : Nat := 0x13130
def HIVE_APPLIED : Nat := 0x13138
def RAE_ADMIT_WAIT : Nat := 0x14100
def RAE_ISSUED : Nat := 0x14108
def RAE_LOCAL : Nat := 0x14110
def RAE_HFP_HOLD : Nat := 0x14118
def SCRB_SKIP : Nat := 0x151c0
def RMAP_FILL : Nat := 0x16100
def RMAP_RELOC : Nat := 0x16108
def RMAP_MIRROR_WR : Nat := 0x16110
def RMAP_PLAIN_FAIL : Nat := 0x16118
def HLT_LVL_CHG : Nat := 0x17100
def HLT_WATCH_MS : Nat := 0x17108
def HLT_ALARM_MS : Nat := 0x17110
def HLT_SEAL_REQS : Nat := 0x17118
def SNS_FRAMES : Nat := 0x18180
def SNS_CAL_FAIL : Nat := 0x18188
def QUE_STALL (i : Nat) : Nat := 0x6100 + 8 * i
def QUE_DB_BAD (i : Nat) : Nat := 0x6180 + 8 * i
def PIN_EVT_CNT (i : Nat) : Nat := 0x1c100 + 8 * i
def PIN_OVR_CNT (i : Nat) : Nat := 0x1c118 + 8 * i
def LP_LRTY (i : Nat) : Nat := 0x10160 + 8 * i
def LP_FEC_CORR (i : Nat) : Nat := 0x11100 + 8 * i
def LP_FEC_UNCORR (i : Nat) : Nat := 0x11220 + 8 * i
def SCRB_PASS (i : Nat) : Nat := 0x15100 + 8 * i
def SCRB_FIND (i : Nat) : Nat := 0x15160 + 8 * i
def SNS_DROOP_CNT (i : Nat) : Nat := 0x18100 + 8 * i
/-- SLCn_CLAMP of chain-stage KIND k = 0x01 to 0x11 (R558). -/
def SLC_CLAMP (n k : Nat) : Nat := 0x20100 + n * 0x1000 + 8 * (k - 1)
def SLC_CLAMP_ENTRY (n : Nat) : Nat := 0x20188 + n * 0x1000
def SLC_NOTREADY (n : Nat) : Nat := 0x20190 + n * 0x1000
def SLC_MERGE_RD (n : Nat) : Nat := 0x20198 + n * 0x1000
def SLC_RED_STALL (n : Nat) : Nat := 0x201a0 + n * 0x1000
def SLC_CELL_WAIT (n : Nat) : Nat := 0x201a8 + n * 0x1000
def SLC_UPD_STALL (n : Nat) : Nat := 0x201b0 + n * 0x1000
def SLC_ECC_CORR (n : Nat) : Nat := 0x201b8 + n * 0x1000
def SLC_ECC_UNCORR (n : Nat) : Nat := 0x201c0 + n * 0x1000
def SLC_CELL_FAIL (n : Nat) : Nat := 0x201c8 + n * 0x1000
def SLC_REPAIR (n : Nat) : Nat := 0x201d0 + n * 0x1000
def SLC_REPAIR_WAIT (n : Nat) : Nat := 0x201d8 + n * 0x1000
def SLC_GRP (n : Nat) : Nat := 0x201e0 + n * 0x1000
def SLC_HOLD (n : Nat) : Nat := 0x201e8 + n * 0x1000
def SLC_RD_GRAN (n : Nat) : Nat := 0x201f0 + n * 0x1000
def SLC_WR_GRAN (n : Nat) : Nat := 0x201f8 + n * 0x1000

end C

/-- Page type, live counters, tables shown, offset of the table-select register, PG_CAPS.INJ and whether the page
is always-on (R501, R503, R569, R540, R558). -/
def pageRows : List PageRow := [
  ⟨0x0, 3, 0, 0x0, false, true⟩,
  ⟨0x1, 2, 0, 0x0, false, true⟩,
  ⟨0x2, 1, 1, 0x40, true, true⟩,
  ⟨0x3, 2, 0, 0x0, false, true⟩,
  ⟨0x4, 3, 0, 0x0, false, true⟩,
  ⟨0x5, 0, 0, 0x0, false, true⟩,
  ⟨0x6, 37, 3, 0xe0, true, false⟩,
  ⟨0x7, 4, 1, 0x68, true, false⟩,
  ⟨0x8, 2, 4, 0x5c, true, false⟩,
  ⟨0x9, 2, 0, 0x0, true, false⟩,
  ⟨0xa, 3, 3, 0x40, true, false⟩,
  ⟨0xb, 7, 0, 0x0, true, false⟩,
  ⟨0xc, 10, 2, 0x88, true, false⟩,
  ⟨0xd, 5, 0, 0x0, true, false⟩,
  ⟨0xe, 6, 2, 0xb8, true, false⟩,
  ⟨0xf, 10, 0, 0x0, true, false⟩,
  ⟨0x10, 44, 2, 0x60, true, false⟩,
  ⟨0x11, 72, 0, 0x0, false, false⟩,
  ⟨0x12, 6, 1, 0x40, true, false⟩,
  ⟨0x13, 8, 0, 0x0, true, false⟩,
  ⟨0x14, 4, 1, 0x48, true, false⟩,
  ⟨0x15, 25, 0, 0x0, false, false⟩,
  ⟨0x16, 4, 2, 0x58, true, true⟩,
  ⟨0x17, 4, 1, 0x70, false, true⟩,
  ⟨0x18, 18, 3, 0x58, false, true⟩,
  ⟨0x19, 4, 0, 0x0, false, false⟩,
  ⟨0x1a, 1, 0, 0x0, false, true⟩,
  ⟨0x1b, 2, 1, 0x40, true, false⟩,
  ⟨0x1c, 6, 0, 0x0, false, true⟩,
  ⟨0x1d, 0, 0, 0x0, false, false⟩,
  ⟨0x20, 32, 1, 0x58, true, false⟩]

end Sys2Proof.Machine
end

