-- ==== Sys2Proof/Machine/Ops.lean ====
section
/-! DEFINITION. The named operations every meaning is built from: sparse maps, stored bytes, fields of
words, register fields, counters, table entries, events, and ending a command. -/

namespace Sys2Proof.Machine

/-! ## Bits and bytes -/

/-- Bits hi to lo of v. -/
def bits (v hi lo : Nat) : Nat := (v >>> lo) % 2 ^ (hi + 1 - lo)

/-- Bit i of v. -/
def bit (v i : Nat) : Bool := v.testBit i

/-- v with bits hi to lo replaced by x. -/
def setBits (v hi lo x : Nat) : Nat :=
  let w := 2 ^ (hi + 1 - lo)
  v - bits v hi lo * 2 ^ lo + (x % w) * 2 ^ lo

/-- x placed at bit lo. -/
def at' (x lo : Nat) : Nat := x * 2 ^ lo

/-- 1 for true. -/
def b2n (b : Bool) : Nat := if b then 1 else 0

/-- The little-endian value of bytes (R68). -/
def leVal : Bytes → Nat
  | [] => 0
  | b :: t => b.toNat + 256 * leVal t

/-- The n little-endian bytes of v (R68). -/
def leBytes : Nat → Nat → Bytes
  | 0, _ => []
  | n + 1, v => BitVec.ofNat 8 v :: leBytes n (v / 256)

/-- n bytes of a run from offset o, zero beyond its end. -/
def slice (b : Bytes) (o n : Nat) : Bytes :=
  let c := (b.drop o).take n
  c ++ List.replicate (n - c.length) 0#8

/-- The n-byte little-endian value at offset o. -/
def leAt (b : Bytes) (o n : Nat) : Nat := leVal (slice b o n)

/-- The value v read as a signed number of w bits. -/
def signed (w v : Nat) : Int := if v < 2 ^ (w - 1) then v else (v : Int) - 2 ^ w

/-- The w-bit two's complement of i. -/
def unsigned (w : Nat) (i : Int) : Nat := (i % (2 ^ w : Int)).toNat

/-- a is ahead of b by less than 2³¹ (R133). -/
def serialGt (a b : Nat) : Bool :=
  let d := (a + 2 ^ 32 - b) % 2 ^ 32
  0 < d && d < 2 ^ 31

/-- Quotient rounded up. -/
def ceilDiv (a b : Nat) : Nat := (a + b - 1) / b

/-- Bits set below bit n. -/
def popc : Nat → Nat → Nat
  | 0, _ => 0
  | n + 1, v => popc n v + b2n (bit v n)

/-- The numbers below n whose bit is set in v, ascending. -/
def setBitsOf (n v : Nat) : List Nat := (List.range n).filter fun i => bit v i

/-- The first number below n that satisfies p, if any. -/
def firstBelow (n : Nat) (p : Nat → Bool) : Option Nat := (List.range n).find? p

/-! ## Sparse maps -/

/-- The value at key k; an unlisted key reads 0. -/
def get : NMap → Nat → Nat
  | [], _ => 0
  | (a, v) :: t, k => if a = k then v else get t k

/-- The map with key k holding v, kept in canonical form: writing 0 removes the entry. -/
def put : NMap → Nat → Nat → NMap
  | [], k, v => if v = 0 then [] else [(k, v)]
  | (a, w) :: t, k, v =>
    if k < a then (if v = 0 then (a, w) :: t else (k, v) :: (a, w) :: t)
    else if k = a then (if v = 0 then t else (k, v) :: t)
    else (a, w) :: put t k v

/-- The map without the keys that satisfy p. -/
def dropKeys (m : NMap) (p : Nat → Bool) : NMap := m.filter fun e => !p e.1

/-- The canonical form of a sparse map: keys strictly rising, no value 0. -/
def NMap.wf : NMap → Bool
  | [] => true
  | [(_, v)] => v != 0
  | (a, v) :: (b, w) :: t => v != 0 && decide (a < b) && NMap.wf ((b, w) :: t)

/-! ## Stored bytes -/

/-- The byte at address a; an unlisted address reads 0. -/
def mget : Mem → Nat → Byte
  | [], _ => 0
  | (a, v) :: t, k => if a = k then v else mget t k

/-- The memory with the byte at k written, kept in canonical form. -/
def mput : Mem → Nat → Byte → Mem
  | [], k, v => if v = 0 then [] else [(k, v)]
  | (a, w) :: t, k, v =>
    if k < a then (if v = 0 then (a, w) :: t else (k, v) :: (a, w) :: t)
    else if k = a then (if v = 0 then t else (k, v) :: t)
    else (a, w) :: mput t k v

/-- n bytes from address a upward. -/
def mread (m : Mem) (a : Nat) : Nat → Bytes
  | 0 => []
  | n + 1 => mget m a :: mread m (a + 1) n

/-- The bytes written from address a upward. -/
def mwrite (m : Mem) (a : Nat) : Bytes → Mem
  | [] => m
  | b :: t => mwrite (mput m a b) (a + 1) t

/-- The canonical form of stored bytes. -/
def Memory.wf : Mem → Bool
  | [] => true
  | [(_, v)] => v != 0
  | (a, v) :: (b, w) :: t => v != 0 && decide (a < b) && Memory.wf ((b, w) :: t)

/-! ## Register fields, counters and table entries -/

/-- The stored value of a register field. -/
def rd (s : State) (k : Nat) : Nat := get s.regs k

/-- The state with a register field set. -/
def wr (s : State) (k v : Nat) : State := { s with regs := put s.regs k v }

/-- A one-bit register field as a Bool. -/
def rdb (s : State) (k : Nat) : Bool := rd s k != 0

/-- The largest value of a live counter (R511). -/
def cntMax : Nat := 2 ^ 64 - 1

/-- A live counter advanced by n, saturating (R511). -/
def countN (s : State) (k n : Nat) : State :=
  { s with cnt := put s.cnt k (min cntMax (get s.cnt k + n)) }

/-- A live counter advanced by one. -/
def count (s : State) (k : Nat) : State := countN s k 1

/-- The key of a page's table entry. -/
def tkey (page table idx : Nat) : Nat := (page * 16 + table) * 2 ^ 28 + idx

/-- A table entry as one word. -/
def tget (s : State) (page table idx : Nat) : Nat := get s.tab (tkey page table idx)

/-- The state with a table entry set. -/
def tput (s : State) (page table idx v : Nat) : State :=
  { s with tab := put s.tab (tkey page table idx) v }

/-- The port outputs of this step, with one more. -/
def emit (s : State) (o : Out) : State := { s with out := s.out ++ [o] }

/-- A fresh free value index: the counter's value, and the state with it advanced. -/
def fresh (s : State) : Nat × State := (s.free, { s with free := s.free + 1 })

/-! ## Error codes (R39 and the chapters that name them) -/

def ecOk : Nat := 0x00
def ecRemoteDead : Nat := 0x02
def ecRights : Nat := 0x0B
def ecDescriptor : Nat := 0x11

/-! ## Events (R148 to R152, R570) -/

/-- Whether a record of KIND raises IRQ_OUT; KIND 1 takes the command's own bit (R152). -/
def irqOfKind (s : State) (kind : Nat) : Bool := kind != 1 && bit (rd s R.EVT_IRQ_MASK) kind

/-- How many records that are not completions wait in the buffer (R151). -/
def waitingOthers (s : State) : Nat := (s.ev.buf.filter fun r => r.compl.isNone).length

/-- The records with one more occurrence folded into the first waiting one of that kind and source (R151). -/
def foldInto (kind source : Nat) : List EvRec → List EvRec
  | [] => []
  | r :: t =>
    if r.compl.isNone && r.kind == kind && r.source == source then
      { r with merged := min 0xFFFF (r.merged + 1) } :: t
    else r :: foldInto kind source t

/-- A record formed and put to wait for the ring. With 256 records waiting, it folds into one of its kind and
SOURCE or is lost and counted (R151). -/
def postRec (s : State) (r : EvRec) : State :=
  if r.compl.isNone && 256 ≤ waitingOthers s then
    if s.ev.buf.any fun x => x.compl.isNone && x.kind == r.kind && x.source == r.source then
      { s with ev := { s.ev with buf := foldInto r.kind r.source s.ev.buf } }
    else count s C.EVT_OVERFLOW
  else { s with ev := { s.ev with buf := s.ev.buf ++ [r] } }

/-- A record that is not a completion: KIND, STATUS, SOURCE page index, FLAGS, INFO0 and INFO1 (R148). -/
def event (s : State) (kind status source flags info0 info1 : Nat) : State :=
  postRec s { kind, status, cancelled := false, irq := irqOfKind s kind, flags, queue := 0, cmdId := 0,
              merged := 0, source, info0, info1, time := rd s R.TIME_TOD, compl := none }

/-- A kind 0x04 record (R570). -/
def unitError (s : State) (status source info0 info1 : Nat) : State :=
  event s 4 status source 0 info0 info1

/-! ## Page error registers (R505) -/

/-- PG_ERR_RAW, PG_ERR_EN and PG_ERR_STAT of a page. -/
def pgErrRaw (page : Nat) : Nat := page * 2 ^ 20 + 0x2000
def pgErrEn (page : Nat) : Nat := page * 2 ^ 20 + 0x2400
def pgErrStat (page : Nat) : Nat := page * 2 ^ 20 + 0x2800

/-- A cause occurs on a page: RAW records it; with its enable bit set and its STAT bit clear, STAT records it
and a kind 0x04 record is posted (R505). -/
def pgError (s : State) (page b info1 : Nat) : State :=
  let s := wr s (pgErrRaw page) (rd s (pgErrRaw page) ||| 2 ^ b)
  if bit (rd s (pgErrEn page)) b && !bit (rd s (pgErrStat page)) b then
    let s := wr s (pgErrStat page) (rd s (pgErrStat page) ||| 2 ^ b)
    unitError s 0 page (2 ^ b) info1
  else s

/-! ## Member state (R342) and the capped epoch -/

/-- The member's own state: 0 is ABSENT (R342). -/
def memberState (s : State) : Nat := rd s R.CMB_RANK_STATE

/-- The member is outside any job. -/
def isAbsent (s : State) : Bool := memberState s == 0

/-- The latest capped epoch. -/
def capped (s : State) : Nat := rd s R.CMB_CAPPED

/-! ## The audit ring (R492 to R496) -/

/-- Rights of a source: bit 0 operator, bit 1 installer, bit 2 maker (R481, R482). -/
def rightsOf (s : State) (src : Nat) : Nat :=
  if rdb s R.ROLE_STAT_OPEN && rd s R.ROLE_STAT_SRC == src then
    (if rd s R.ROLE_STAT_ROLE == 2 then 7 else 3)
  else 1

/-- ROLE of an audit entry for a source (R493). -/
def auditRole (s : State) (src : Nat) : Nat :=
  match rightsOf s src with
  | 7 => 2
  | 3 => 1
  | _ => 0

/-- An entry is appended to the audit ring (R493 to R496). -/
def audit (s : State) (kind addr src role status old new : Nat) : State :=
  let seq := rd s R.AUD_SEQ
  let e := at' (rd s R.TIME_TOD) 192 + at' (new % 2 ^ 64) 128 + at' (old % 2 ^ 64) 64 + at' src 48 +
    at' addr 30 + at' role 28 + at' kind 24 + at' status 16 + seq % 2 ^ 16
  let lost := 1024 ≤ (seq + 2 ^ 32 - rd s R.AUD_MIRRORED) % 2 ^ 32
  let s := if lost then count s C.AUD_OVERWRITE else s
  let s := tput s 2 0 (seq % 1024) e
  let s := wr s R.AUD_SEQ ((seq + 1) % 2 ^ 32)
  if (seq + 1 + 2 ^ 32 - rd s R.AUD_MIRRORED) % 2 ^ 32 = 768 then
    unitError (wr s R.AUD_STAT_NEAR 1) 0 2 ((seq + 1) % 2 ^ 32) 768
  else s

/-! ## Queues and commands -/

/-- An empty command of a queue, for reads beyond its list. -/
def Run.none : Run :=
  { raw := 0, idx := 0, phase := .unstarted, begun := false, err := 0, cancelled := false, info0 := 0, info1 := 0,
    posted := 0, noRecord := false, aux := [] }

/-- Queue q. -/
def qOf (s : State) (q : Nat) : Queue := s.queues.getD q Queue.empty

/-- The state with queue q replaced. -/
def setQ (s : State) (q : Nat) (x : Queue) : State := { s with queues := s.queues.set q x }

/-- The command of index i in a list of a queue's commands changed by f. -/
def mapRun (f : Run → Run) (i : Nat) : List Run → List Run
  | [] => []
  | r :: t => if r.idx = i then f r :: t else r :: mapRun f i t

/-- Command i of queue q changed by f. -/
def modRun (s : State) (q i : Nat) (f : Run → Run) : State :=
  let x := qOf s q
  setQ s q { x with cmds := mapRun f i x.cmds }

/-- Command i of queue q. -/
def findRun (s : State) (q i : Nat) : Option Run := (qOf s q).cmds.find? fun r => r.idx == i

/-- A command completes: done, with its error code (0 for success) and the record's INFO0 and INFO1. -/
def finish (s : State) (q i err info0 info1 : Nat) : State :=
  modRun s q i fun r =>
    if r.phase = .done then r
    else { r with phase := .done, err := err, info0 := info0, info1 := info1 }

/-- A command is cancelled with an error code, a complete one that has not retired too; what its record's INFO fields hold of it stays (R141,
R147, R148). -/
def cancelRun (s : State) (q i err : Nat) : State :=
  count (modRun s q i fun r => { r with phase := .done, err := err, cancelled := true }) C.SEQ_CMD_CANCEL

/-- What a started command's record will say of it, however it ends (R148). -/
def noteInfo (s : State) (q i info0 info1 : Nat) : State := modRun s q i fun r => { r with info0 := info0, info1 := info1 }

/-- A command's row has run and its completion waits; aux is what it keeps (the manual's transfer in progress). -/
def keepRunning (s : State) (q i : Nat) (aux : List Nat) : State :=
  modRun s q i fun r => { r with phase := .running, aux := aux }

/-! Header fields of a command (R136). -/

def opcodeOf (raw : Nat) : Nat := bits raw 7 0
def evtOf (raw : Nat) : Bool := bit raw 8
def irqOf (raw : Nat) : Bool := bit raw 9
def sigEnOf (raw : Nat) : Bool := bit raw 10
def waitEnOf (raw : Nat) : Nat := bits raw 15 12
def sigTallyOf (raw : Nat) : Nat := bits raw 23 16
def subopOf (raw : Nat) : Nat := bits raw 31 24
def cmdIdOf (raw : Nat) : Nat := bits raw 63 32

/-- The operand field OPD[hi:lo] (R136). -/
def opd (raw hi lo : Nat) : Nat := bits (bits raw 255 64) hi lo

/-- Wait condition k: the doubleword DW4 + k. -/
def waitWord (raw k : Nat) : Nat := bits raw (64 * (4 + k) + 63) (64 * (4 + k))

/-- The oldest command of queue q with this opcode and SUBOP that has started and has not completed. -/
def activeRun (s : State) (q opc sub : Nat) : Option Run :=
  (qOf s q).cmds.find? fun r =>
    (r.phase == .started || r.phase == .running) && opcodeOf r.raw == opc && subopOf r.raw == sub

/-! ## Host memory transfers (R43, R44) -/

/-- The state with the host interface changed. -/
def setHost (s : State) (h : HostIf) : State := { s with host := h }

/-- A tag no transfer of a list holds. -/
def freeTag (used : List Nat) : Nat := ((List.range 4096).find? fun t => !used.contains t).getD 0

/-- Tags of every transfer in flight. -/
def hostTags (h : HostIf) : List Nat :=
  (h.reads.filter (·.issued)).map (·.tag) ++ (h.writes.filter (·.issued)).map (·.tag)

/-- The waiting reads that have a credit are issued, oldest first (R37). -/
def issueReads (s : State) : List HostRead → List HostRead → State
  | done, [] => setHost s { s.host with reads := done }
  | done, r :: t =>
    if r.issued then issueReads s (done ++ [r]) t
    else if s.host.areq = 0 then setHost s { s.host with reads := done ++ r :: t }
    else
      let tag := freeTag (hostTags { s.host with reads := done ++ t })
      let s := setHost s { s.host with areq := s.host.areq - 1 }
      issueReads (emit s (.hostRead tag r.addr r.size)) (done ++ [{ r with tag := tag, issued := true }]) t

/-- Beats of AWD a write of n bytes takes (R44). -/
def awdBeats (s : State) (n : Nat) : Nat := if rdb s R.GEN_STRAP_HFP_W128 then ceilDiv n 16 else ceilDiv n 32

/-- The waiting writes that have their credits are issued, oldest first (R37). -/
def issueWrites (s : State) : List HostWrite → List HostWrite → State
  | done, [] => setHost s { s.host with writes := done }
  | done, w :: t =>
    if w.issued then issueWrites s (done ++ [w]) t
    else if s.host.areq = 0 ∨ s.host.awd < awdBeats s w.data.length then
      setHost s { s.host with writes := done ++ w :: t }
    else
      let tag := freeTag (hostTags { s.host with writes := done ++ t })
      let s := setHost s { s.host with areq := s.host.areq - 1,
                                       awd := s.host.awd - awdBeats s w.data.length }
      issueWrites (emit s (.hostWrite tag w.addr w.data w.be)) (done ++ [{ w with tag := tag, issued := true }]) t

/-- Everything that waits for a host credit and has one is issued: reads first, then writes. -/
def pumpHost (s : State) : State :=
  let s := issueReads s [] s.host.reads
  issueWrites s [] s.host.writes

/-- The reads that cover n bytes from address a in 256-byte pieces, the last in the smallest size that covers
the rest, in ascending address order (R44). fuel bounds the pieces. -/
def coverReads (q i a : Nat) : Nat → Nat → Nat → List HostRead
  | 0, _, _ => []
  | fuel + 1, off, n =>
    if n = 0 then []
    else
      let left := 256 - (a + off) % 256
      let want := min n left
      let size := if want ≤ 32 ∧ (a + off) % 32 = 0 then 32
        else if want ≤ 64 ∧ (a + off) % 64 = 0 then 64
        else if want ≤ 128 ∧ (a + off) % 128 = 0 then 128 else 64
      let size := if want = 256 then 256 else if size < want ∧ (a + off) % 128 = 0 ∧ 128 ≤ want then 128 else size
      { tag := 0, addr := a + off, size := size, off := off, queue := q, idx := i, issued := false } ::
        coverReads q i a fuel (off + size) (n - size)

/-- A command asks for n bytes of host memory from address a. -/
def hostFetch (s : State) (q i a n : Nat) : State :=
  pumpHost (setHost s { s.host with reads := s.host.reads ++ coverReads q i a (n / 32 + 2) 0 n })

/-- A command writes bytes to host memory. -/
def hostStore (s : State) (q i a : Nat) (data : Bytes) (be : Nat) : State :=
  pumpHost (setHost s { s.host with writes := s.host.writes ++
    [{ tag := 0, addr := a, data := data, be := be, queue := q, idx := i, issued := false }] })

/-- No read of command i of queue q is still out. -/
def readsBack (s : State) (q i : Nat) : Bool := s.host.reads.all fun r => !(r.queue == q && r.idx == i)

/-- No write of command i of queue q is still out. -/
def writesBack (s : State) (q i : Nat) : Bool := s.host.writes.all fun r => !(r.queue == q && r.idx == i)

/-- Bytes gathered for a command, placed by their offsets. -/
def gotBytes (s : State) (q i : Nat) : Bytes :=
  let parts := s.host.got.filter fun g => g.1 == q && g.2.1 == i
  let len := parts.foldl (fun m g => max m (g.2.2.1 + g.2.2.2.length)) 0
  (List.range len).map fun k =>
    match parts.find? fun g => g.2.2.1 ≤ k && k < g.2.2.1 + g.2.2.2.length with
    | some g => g.2.2.2.getD (k - g.2.2.1) 0
    | none => 0

/-- The gathered bytes of a command are dropped. -/
def dropGot (s : State) (q i : Nat) : State :=
  setHost s { s.host with got := s.host.got.filter fun g => !(g.1 == q && g.2.1 == i) }

end Sys2Proof.Machine
end

