-- ==== Sys2Proof/Machine/Crypto.lean ====
section
/-! DEFINITION. Checks over bytes: the two CRCs (R258, R288), GF(2⁸) (R253), SHA-256 and HMAC (R483),
SHA-512 and the Ed25519 verification of RFC 8032 (R161). -/

namespace Sys2Proof.Machine

/-! ## CRCs -/

/-- One bit step of the reflected IEEE 802.3 CRC-32. -/
def crc32Bit (c : Nat) : Nat := if c % 2 = 1 then (c / 2) ^^^ 0xEDB88320 else c / 2

/-- One byte step of CRC-32. -/
def crc32Byte (c : Nat) (b : Byte) : Nat :=
  crc32Bit (crc32Bit (crc32Bit (crc32Bit (crc32Bit (crc32Bit (crc32Bit (crc32Bit (c ^^^ b.toNat))))))))

/-- The IEEE 802.3 CRC-32 of bytes. -/
def crc32 (l : Bytes) : Nat := l.foldl crc32Byte 0xFFFFFFFF ^^^ 0xFFFFFFFF

/-- One bit step of CRC-64 (R258). -/
def crc64Bit (c : Nat) : Nat :=
  if bit c 63 then (c * 2 % 2 ^ 64) ^^^ 0x42F0E1EBA9EA3693 else c * 2

/-- One byte step of CRC-64. -/
def crc64Byte (c : Nat) (b : Byte) : Nat :=
  crc64Bit (crc64Bit (crc64Bit (crc64Bit (crc64Bit (crc64Bit (crc64Bit (crc64Bit (c ^^^ (b.toNat * 2 ^ 56)))))))))

/-- CRC-64 of ECMA-182: initial value 0, most significant bit first, no final inversion (R258). -/
def crc64 (l : Bytes) : Nat := l.foldl crc64Byte 0

/-! ## GF(2⁸) with polynomial 0x11D (R253) -/

/-- Multiplication by x. -/
def gfX (a : Nat) : Nat := if bit a 7 then (a * 2 % 256) ^^^ 0x1D else a * 2

/-- The product, one bit of b at a time; n counts the bits left. -/
def gfMulAux : Nat → Nat → Nat → Nat
  | 0, _, _ => 0
  | n + 1, a, b => (if b % 2 = 1 then a else 0) ^^^ gfMulAux n (gfX a) (b / 2)

/-- The product in GF(2⁸). -/
def gfMul (a b : Nat) : Nat := gfMulAux 8 a b

/-- a to the power 2ⁿ − 2 steps: the inverse is a²⁵⁴. -/
def gfPow (a : Nat) : Nat → Nat
  | 0 => 1
  | n + 1 => gfMul a (gfPow a n)

/-- The inverse in GF(2⁸); 0 for 0. -/
def gfInv (a : Nat) : Nat := gfPow a 254

/-- Bytes times a constant. -/
def gfScale (c : Nat) (l : Bytes) : Bytes := l.map fun b => BitVec.ofNat 8 (gfMul c b.toNat)

/-- Byte-wise XOR of two runs; the longer run's tail stands. -/
def xorBytes : Bytes → Bytes → Bytes
  | [], l => l
  | l, [] => l
  | a :: s, b :: t => (a ^^^ b) :: xorBytes s t

/-! ## SHA-2 (FIPS 180-4) -/

/-- The big-endian value of bytes. -/
def beVal (l : Bytes) : Nat := l.foldl (fun a b => a * 256 + b.toNat) 0

/-- The n big-endian bytes of v. -/
def beBytes (n v : Nat) : Bytes := (leBytes n v).reverse

/-- Right rotation of a w-bit word. -/
def rotr (w n x : Nat) : Nat := x / 2 ^ n + (x % 2 ^ n) * 2 ^ (w - n)

/-- The sizes and rotation amounts by which SHA-256 and SHA-512 differ. -/
structure Sha where
  w : Nat
  rounds : Nat
  k : List Nat
  h0 : List Nat
  s0 : Nat × Nat × Nat
  s1 : Nat × Nat × Nat
  e0 : Nat × Nat × Nat
  e1 : Nat × Nat × Nat

/-- The fractional bits of the square or cube root of a prime: the constants of FIPS 180-4. -/
def sqrtFracBits (w p : Nat) : Nat := isqrtBits (p * 2 ^ (2 * w)) % 2 ^ w
where
  /-- ⌊√n⌋ bit by bit. -/
  isqrtBits (n : Nat) : Nat :=
    ((List.range (w + 8)).reverse).foldl (fun r i => if (r + 2 ^ i) ^ 2 ≤ n then r + 2 ^ i else r) 0

/-- The fractional bits of the cube root of a prime. -/
def cbrtFracBits (w p : Nat) : Nat :=
  (((List.range (w + 8)).reverse).foldl (fun r i => if (r + 2 ^ i) ^ 3 ≤ p * 2 ^ (3 * w) then r + 2 ^ i else r) 0)
    % 2 ^ w

/-- The first n primes, by trial among the numbers below 420. -/
def primes (n : Nat) : List Nat :=
  ((List.range 420).filter fun p => 2 ≤ p && (List.range p).all fun d => d < 2 || p % d != 0).take n

/-- SHA-256. -/
def sha256p : Sha :=
  { w := 32, rounds := 64, k := (primes 64).map (cbrtFracBits 32), h0 := (primes 8).map (sqrtFracBits 32),
    s0 := (7, 18, 3), s1 := (17, 19, 10), e0 := (2, 13, 22), e1 := (6, 11, 25) }

/-- SHA-512. -/
def sha512p : Sha :=
  { w := 64, rounds := 80, k := (primes 80).map (cbrtFracBits 64), h0 := (primes 8).map (sqrtFracBits 64),
    s0 := (1, 8, 7), s1 := (19, 61, 6), e0 := (28, 34, 39), e1 := (14, 18, 41) }

/-- The message schedule, newest word first. -/
def shaSched (p : Sha) : Nat → List Nat → List Nat
  | 0, l => l
  | n + 1, l =>
    let a := l.getD 14 0
    let b := l.getD 1 0
    let x0 := rotr p.w p.s0.1 a ^^^ rotr p.w p.s0.2.1 a ^^^ (a / 2 ^ p.s0.2.2)
    let x1 := rotr p.w p.s1.1 b ^^^ rotr p.w p.s1.2.1 b ^^^ (b / 2 ^ p.s1.2.2)
    shaSched p n (((l.getD 15 0 + x0 + l.getD 6 0 + x1) % 2 ^ p.w) :: l)

/-- One round on the eight working variables. -/
def shaRound (p : Sha) (v : List Nat) (kw : Nat × Nat) : List Nat :=
  match v with
  | [a, b, c, d, e, f, g, h] =>
    let m := 2 ^ p.w
    let x1 := rotr p.w p.e1.1 e ^^^ rotr p.w p.e1.2.1 e ^^^ rotr p.w p.e1.2.2 e
    let ch := (e &&& f) ^^^ ((m - 1 - e) &&& g)
    let t1 := (h + x1 + ch + kw.1 + kw.2) % m
    let x0 := rotr p.w p.e0.1 a ^^^ rotr p.w p.e0.2.1 a ^^^ rotr p.w p.e0.2.2 a
    let mj := (a &&& b) ^^^ (a &&& c) ^^^ (b &&& c)
    [(t1 + x0 + mj) % m, a, b, c, (d + t1) % m, e, f, g]
  | _ => v

/-- One block. -/
def shaBlock (p : Sha) (h : List Nat) (blk : Bytes) : List Nat :=
  let wb := p.w / 8
  let w0 := (List.range 16).map fun i => beVal (slice blk (wb * i) wb)
  let ws := (shaSched p (p.rounds - 16) w0.reverse).reverse
  let v := (List.zip p.k ws).foldl (shaRound p) h
  List.zipWith (fun x y => (x + y) % 2 ^ p.w) h v

/-- The digest of a message. -/
def sha (p : Sha) (m : Bytes) : Bytes :=
  let bb := p.w * 2
  let lenB := p.w / 4
  let padN := (2 * bb - (m.length + 1 + lenB) % bb) % bb
  let msg := m ++ [0x80#8] ++ List.replicate padN 0#8 ++ beBytes lenB (8 * m.length)
  let h := (List.range (msg.length / bb)).foldl (fun h i => shaBlock p h (slice msg (bb * i) bb)) p.h0
  h.flatMap (beBytes (p.w / 8))

/-- SHA-256. -/
def sha256 (m : Bytes) : Bytes := sha sha256p m

/-- SHA-512. -/
def sha512 (m : Bytes) : Bytes := sha sha512p m

/-- HMAC-SHA-256 with a key of at most 64 bytes (RFC 2104). -/
def hmac256 (key m : Bytes) : Bytes :=
  let k := key ++ List.replicate (64 - key.length) 0#8
  sha256 (k.map (· ^^^ 0x5C#8) ++ sha256 (k.map (· ^^^ 0x36#8) ++ m))

/-! ## Ed25519 (RFC 8032) -/

/-- The field prime 2²⁵⁵ − 19. -/
def edP : Nat := 2 ^ 255 - 19

/-- The group order. -/
def edL : Nat := 2 ^ 252 + 27742317777372353535851937790883648493

/-- a to the power e modulo p; n bounds the bits of e. -/
def powMod (p : Nat) : Nat → Nat → Nat → Nat
  | 0, _, _ => 1 % p
  | n + 1, a, e =>
    let r := powMod p n (a * a % p) (e / 2)
    if e % 2 = 1 then r * a % p else r

/-- The inverse in the field. -/
def edInv (a : Nat) : Nat := powMod edP 256 a (edP - 2)

/-- The curve constant −121665/121666. -/
def edD : Nat := (edP - 121665) * edInv 121666 % edP

/-- A point in extended coordinates X, Y, Z, T. -/
abbrev EdPt := Nat × Nat × Nat × Nat

/-- Point addition. -/
def edAdd (a b : EdPt) : EdPt :=
  let p := edP
  let (x1, y1, z1, t1) := a
  let (x2, y2, z2, t2) := b
  let aa := (y1 + p - x1) * (y2 + p - x2) % p
  let bb := (y1 + x1) * (y2 + x2) % p
  let cc := 2 * t1 * t2 * edD % p
  let dd := 2 * z1 * z2 % p
  let e := (bb + p - aa) % p
  let f := (dd + p - cc) % p
  let g := (dd + cc) % p
  let h := (bb + aa) % p
  (e * f % p, g * h % p, f * g % p, e * h % p)

/-- Scalar multiple; n bounds the bits of the scalar. -/
def edMul : Nat → Nat → EdPt → EdPt
  | 0, _, _ => (0, 1, 1, 0)
  | n + 1, k, pt =>
    let r := edMul n (k / 2) (edAdd pt pt)
    if k % 2 = 1 then edAdd r pt else r

/-- Equality of points in extended coordinates. -/
def edEq (a b : EdPt) : Bool :=
  (a.1 * b.2.2.1 % edP == b.1 * a.2.2.1 % edP) && (a.2.1 * b.2.2.1 % edP == b.2.1 * a.2.2.1 % edP)

/-- The x coordinate for y and a sign bit, if the point exists. -/
def edX (y sgn : Nat) : Option Nat :=
  if edP ≤ y then none
  else
    let x2 := (y * y + edP - 1) * edInv ((edD * y * y + 1) % edP) % edP
    if x2 = 0 then (if sgn = 1 then none else some 0)
    else
      let x := powMod edP 256 x2 ((edP + 3) / 8)
      let x := if (x * x + edP - x2) % edP = 0 then x else x * powMod edP 256 2 ((edP - 1) / 4) % edP
      if (x * x + edP - x2) % edP ≠ 0 then none
      else some (if x % 2 = sgn then x else edP - x)

/-- Point decompression. -/
def edPoint (v : Nat) : Option EdPt :=
  let y := v % 2 ^ 255
  (edX y (bits v 255 255)).map fun x => (x, y, 1, x * y % edP)

/-- The base point. -/
def edBase : Option EdPt := edPoint (4 * edInv 5 % edP)

/-- Ed25519 verification with the equation [8][S]B = [8]R + [8][k]A (RFC 8032 section 5.1.7). -/
def edVerify (pub sig msg : Bytes) : Bool :=
  let rb := slice sig 0 32
  let s := leAt sig 32 32
  if edL ≤ s then false
  else
    match edPoint (leVal pub), edPoint (leVal rb), edBase with
    | some a, some r, some b =>
      let k := leVal (sha512 (rb ++ pub ++ msg)) % edL
      edEq (edMul 4 8 (edMul 256 s b)) (edMul 4 8 (edAdd r (edMul 256 k a)))
    | _, _, _ => false

end Sys2Proof.Machine
end

