-- ==== Sys2Proof/Machine/Wake.lean ====
section
/-! DEFINITION. The fast domains and what wakes them (R30, R449 to R455). -/

namespace Sys2Proof.Machine

/-- The state with clocks, power, time and pins changed. -/
def setChip (s : State) (c : Chip) : State := { s with chip := c }

/-! ## PLLs (R450 to R452): 0 PLL_SQ, 1 PLL_SLC, 2 PLL_LPH -/

/-- The state field of PLL k: 0 OFF, 1 LOCKING, 2 LOCKED, 3 FAILED. -/
def pllKey (k : Nat) : Nat := if k = 0 then R.CLK_STAT_PLL_SQ else if k = 1 then R.CLK_STAT_PLL_SLC else R.CLK_STAT_PLL_LPH

/-- The PLL that drives fast domain d: 0 the sequencer, 1 to 12 the slices, 13 root and tier, 14 the light port. -/
def pllOf (d : Nat) : Nat := if d = 0 then 0 else if d < 14 then 1 else 2

/-- Fast domain d. -/
def domain (s : State) (d : Nat) : Domain := s.chip.doms.getD d Domain.off

/-- The state with fast domain d replaced, PWR_DOM and WAKE_OUT with it. -/
def setDomain (s : State) (d : Nat) (x : Domain) : State :=
  let doms := s.chip.doms.set d x
  let s := setChip s { s.chip with doms := doms, wakeOut := doms.any fun y => y.phase != 0 }
  wr s R.PWR_DOM (setBits (rd s R.PWR_DOM) d d (b2n (x.steps != 0)))

/-- PLL k put in a state, with its count of attempts. -/
def setPll (s : State) (k st n : Nat) : State := wr (setChip s { s.chip with tries := s.chip.tries.set k n }) (pllKey k) st

/-! ## Waking (R30, R453, R454) -/

/-- A slice that stays gated: without a stack, or left out of service (R35, R465). -/
def sliceAbsent (s : State) (d : Nat) : Bool :=
  decide (1 ≤ d) && decide (d ≤ 12) && (!bit (rd s R.GEN_STRAP_SLICE_EN) (d - 1) || bit s.spr.sliceOut (d - 1))

/-- DOMAIN_WAKE: work for a gated domain starts a warm or cold wake; work during a ramp-down turns it round at the
step it had reached. -/
def wakeDomain (s : State) (d : Nat) : State :=
  let x := domain s d
  if s.chip.held || sliceAbsent s d || decide (rd s R.GEN_STAT_STAGE < 2) then s
  else if x.phase = 4 then setDomain s d { x with phase := if x.steps = 8 then 3 else 2 }
  else if x.phase ≠ 0 then s
  else
    let k := pllOf d
    let s := count s (if rd s (pllKey k) = 2 then C.PWR_WAKE_WARM else C.PWR_WAKE_COLD)
    let s := if rd s (pllKey k) = 0 then setPll s k 1 0 else s
    setDomain s d { phase := 1, steps := 0, live := false }

/-- Light-port traffic wakes the light-port domain while the member belongs to a job (R30). -/
def wakeLight (s : State) : State := if rd s R.CMB_JOB_JOB_TAG = 0 then s else wakeDomain s 14

/-- Work of slice n wakes its domain (R30). -/
def wakeSlice (s : State) (n : Nat) : State := if n < 12 then wakeDomain s (n + 1) else s

end Sys2Proof.Machine
end

