-- ==== Sys2Proof/Machine/LinkOps.lean ====
section
/-! DEFINITION. Sending on the light port (chapter 10): flits, links, the scheduler, streams and messages. -/

namespace Sys2Proof.Machine

/-- Logical link l. -/
def linkOf (s : State) (l : Nat) : LinkSt := s.lp.links.getD l LinkSt.down

/-- The state with logical link l replaced. -/
def setLink (s : State) (l : Nat) (x : LinkSt) : State :=
  { s with lp := { s.lp with links := s.lp.links.set l x } }

/-- Whether logical link l runs. -/
def linkUp (s : State) (l : Nat) : Bool := (linkOf s l).phase == 2

/-- Whether logical link l is not down: it runs, or it retrains and resumes with its numbers kept, which the path layer sees as delay
alone (R53, R306, R322). -/
def linkLives (s : State) (l : Nat) : Bool := decide (2 ≤ (linkOf s l).phase)

/-- A member whose light-port or slice PLL has failed sends nothing (R452). -/
def fallsSilent (s : State) : Bool := rd s R.CLK_STAT_PLL_LPH == 3 || rd s R.CLK_STAT_PLL_SLC == 3

/-- LP_LINKS_UP as a mask (R548). -/
def linksUp (s : State) : Nat := ((List.range 32).filter (linkUp s)).foldl (fun a l => a + 2 ^ l) 0

/-! ## The peer table (R300) -/

/-- Peer table entry i. -/
def peerEntry (s : State) (i : Nat) : Nat := tget s 0x10 0 i

def peerValid (e : Nat) : Bool := bit e 109
def peerProto (e : Nat) : Nat := bits e 108 107
def peerHive (e : Nat) : Nat := bits e 106 100
def peerFid (e : Nat) : Nat := bits e 47 32
def peerLinks (e : Nat) : Nat := bits e 31 0

/-- Peer table indices that hold an entry. -/
def peerIdxs (s : State) : List Nat :=
  (s.tab.filter fun e => e.1 / 2 ^ 28 == 0x10 * 16).map fun e => e.1 % 2 ^ 28

/-- The lowest valid peer table entry with a fabric identity. -/
def peerOfFid (s : State) (fid : Nat) : Option Nat :=
  (peerIdxs s).find? fun i => peerValid (peerEntry s i) && peerFid (peerEntry s i) == fid

/-! ## Flits -/

/-- A header (R289). -/
def flitHdr (dst src tag memb eseq len type vc : Nat) (first last : Bool) : Nat :=
  at' dst 112 + at' src 96 + at' tag 72 + at' memb 56 + at' eseq 24 + at' len 16 + at' type 11 + at' vc 8 +
    at' (b2n first) 7 + at' (b2n last) 6

def hdrDst (h : Nat) : Nat := bits h 127 112
def hdrSrc (h : Nat) : Nat := bits h 111 96
def hdrTag (h : Nat) : Nat := bits h 95 72
def hdrMemb (h : Nat) : Nat := bits h 71 56
def hdrEseq (h : Nat) : Nat := bits h 55 24
def hdrLen (h : Nat) : Nat := bits h 23 16
def hdrType (h : Nat) : Nat := bits h 15 11
def hdrVc (h : Nat) : Nat := bits h 10 8
def hdrFirst (h : Nat) : Bool := bit h 7
def hdrLast (h : Nat) : Bool := bit h 6

/-- The 256 bytes of a flit with its trailer: LSEQ, LACK and CRC-32 (R288). -/
def flitBytes (f : Flit) (lseq lack : Nat) : Bytes :=
  let b := leBytes 16 f.hdr ++ slice f.payload 0 232 ++ leBytes 2 lseq ++ leBytes 2 lack
  b ++ leBytes 4 (crc32 b)

/-- A message cut into payloads of at most 232 bytes; fuel bounds the cuts. -/
def cutPayloads : Nat → Bytes → List Bytes
  | 0, _ => []
  | f + 1, b => if b.length ≤ 232 then [b] else b.take 232 :: cutPayloads f (b.drop 232)

/-- The VC on which a TYPE travels; none for link-local and reserved types (R290). -/
def vcOfType (t : Nat) : Option Nat :=
  if t < 2 then none
  else if t < 8 then some 0
  else if t = 8 then some 1
  else if t = 9 then some 2
  else if t < 0x0F then some (t - 7)
  else none

/-! ## The scheduler (R293, R295, R308) -/

/-- Receive credit granted for a VC at link-up (R295). -/
def vcCred (s : State) (v : Nat) : Nat :=
  match v with
  | 0 => rd s R.LP_VCCRED_VC0
  | 1 => rd s R.LP_VCCRED_VC1
  | 2 => rd s R.LP_VCCRED_VC2
  | 3 => rd s R.LP_VCCRED_VC3
  | 4 => rd s R.LP_VCCRED_VC4
  | 5 => rd s R.LP_VCCRED_VC5
  | 6 => rd s R.LP_VCCRED_VC6
  | _ => rd s R.LP_VCCRED_VC7

/-- DRR weight of a VC (R308). -/
def vcWeight (s : State) (v : Nat) : Nat :=
  match v with
  | 1 => rd s R.LP_VCW_VC1
  | 2 => rd s R.LP_VCW_VC2
  | 3 => rd s R.LP_VCW_VC3
  | 4 => rd s R.LP_VCW_VC4
  | 5 => rd s R.LP_VCW_VC5
  | 6 => rd s R.LP_VCW_VC6
  | 7 => rd s R.LP_VCW_VC7
  | _ => 0

/-- RTB_SHARE of link l in flits: 16 KiB units (R293, R549). -/
def retryShare (s : State) (l : Nat) : Nat := bits (tget s 0x10 1 l) 69 64 * 64

/-- The first queued flit of a VC, taken from the queue. -/
def takeVc (v : Nat) : List Flit → Option (Flit × List Flit)
  | [] => none
  | f :: t =>
    if hdrVc f.hdr = v then some (f, t)
    else (takeVc v t).map fun r => (r.1, f :: r.2)

/-- A flit time passes: VC0's bucket gains a token every LP_VC0_GAP of them and holds at most 64 (R307). -/
def flitTime (s : State) (x : LinkSt) : LinkSt :=
  if rd s R.LP_VC0_GAP ≤ x.ft + 1 then { x with ft := 0, tok := min 64 (x.tok + 1) } else { x with ft := x.ft + 1 }

/-- A flit leaves on link l: it takes the next LSEQ, a credit of its VC and a place in the retry buffer. -/
def sendFlit (s : State) (l : Nat) (x : LinkSt) (f : Flit) (rest : List Flit) : State × LinkSt :=
  let v := hdrVc f.hdr
  let x := { x with txq := rest, retry := x.retry ++ [(x.tx, f)], credit := put x.credit v (get x.credit v - 1),
                    tx := (x.tx + 1) % 2 ^ 16 }
  let lseq := (x.tx + 2 ^ 16 - 1) % 2 ^ 16
  (count (emit s (.flit l lseq x.rx f.hdr f.payload)) C.LP_FLIT_TX, flitTime s x)

/-- VC0 goes first, while it holds credits and its bucket holds tokens, one a flit (R307). idle: nothing else goes, so that flit times
pass until the bucket gains its next token. fuel bounds the flits. -/
def serveVc0 (l : Nat) (idle : Bool) : Nat → State → LinkSt → State × LinkSt
  | 0, s, x => (s, x)
  | n + 1, s, x =>
    match takeVc 0 x.txq with
    | none => (s, x)
    | some (f, rest) =>
      if get x.credit 0 = 0 ∨ retryShare s l ≤ x.retry.length then (s, x)
      else if x.tok = 0 ∧ !idle then (s, x)
      else
        let x := if x.tok = 0 then { x with tok := 1, ft := 0 } else x
        let (s, x) := sendFlit s l { x with tok := x.tok - 1 } f rest
        serveVc0 l idle n s x

/-- One visit of the scheduler to VC v: its queue empty resets the deficit, otherwise it sends while deficit, credit and retry buffer
last, VC0 before each flit; a weight of 0 stops it (R308). fuel bounds the flits. -/
def serveVc (l v : Nat) : Nat → State → LinkSt → State × LinkSt
  | 0, s, x => (s, x)
  | n + 1, s, x =>
    match takeVc v x.txq with
    | none => (s, { x with deficit := put x.deficit v 0 })
    | some (f, rest) =>
      if vcWeight s v = 0 ∨ get x.deficit v = 0 ∨ get x.credit v = 0 ∨ retryShare s l ≤ x.retry.length then (s, x)
      else
        let (s, x) := sendFlit s l x f rest
        let (s, x) := serveVc0 l false (x.txq.length + 1) s { x with deficit := put x.deficit v (get x.deficit v - 1) }
        serveVc l v n s x

/-- Rounds of the deficit round robin over VC1 to VC7; fuel bounds the visits (R308). -/
def drr (l : Nat) : Nat → State → LinkSt → State × LinkSt
  | 0, s, x => (s, x)
  | n + 1, s, x =>
    if x.txq = [] then (s, x)
    else
      let v := x.turn
      let x := if x.txq.any fun f => hdrVc f.hdr == v then
          { x with deficit := put x.deficit v (get x.deficit v + vcWeight s v) } else x
      let (s, x) := serveVc l v (x.txq.length + 1) s x
      drr l n s { x with turn := v % 7 + 1 }

/-- Everything link l may send now is sent. A visit is made to each VC until a whole turn sends nothing. -/
def pumpLink (s : State) (l : Nat) : State :=
  let x := linkOf s l
  if x.phase ≠ 2 ∨ x.txq = [] ∨ fallsSilent s then s
  else
    let (s, x) := serveVc0 l false (x.txq.length + 1) s x
    let (s, x) := drr l (7 * (x.txq.length + 1)) s x
    let (s, x) := serveVc0 l true (x.txq.length + 1) s x
    setLink s l x

/-! ## Paths and streams (R303 to R306) -/

/-- The fold of R206: w-bit pieces of v combined by XOR; n bounds the pieces. -/
def fold (w : Nat) : Nat → Nat → Nat
  | 0, _ => 0
  | n + 1, v => v % 2 ^ w ^^^ fold w n (v / 2 ^ w)

/-- The link a message takes, or none when every link of the peer is down (R297, R303). -/
def chooseLink (s : State) (peer vc flow : Nat) : Option Nat :=
  let e := peerEntry s peer
  let up := (setBitsOf 32 (peerLinks e)).filter (linkLives s)
  if up = [] then none
  else if peerProto e = 2 then up.head?
  else
    let h := fold 8 5 (at' (flow % 2 ^ 16) 19 + at' vc 16 + peerFid e)
    up[h % up.length]?

/-- A flit put on the queue of link l. -/
def enqueueFlit (s : State) (l : Nat) (f : Flit) : State :=
  let x := linkOf s l
  setLink s l { x with txq := x.txq ++ [f] }

/-- A new sending stream: WINDOW 16 (R305). -/
def TxStream.new (peer vc : Nat) : TxStream :=
  { peer := peer, vc := vc, next := 0, ack := 0, window := 16, buf := [], wait := [], cur := 64, qs := [] }

/-- The sending stream of a peer and VC. -/
def txOf (s : State) (peer vc : Nat) : TxStream :=
  (s.lp.tx.find? fun t => t.peer == peer && t.vc == vc).getD (TxStream.new peer vc)

/-- The state with a sending stream stored. -/
def setTx (s : State) (t : TxStream) : State :=
  let others := s.lp.tx.filter fun u => !(u.peer == t.peer && u.vc == t.vc)
  { s with lp := { s.lp with tx := others ++ [t] } }

/-- Flits to a version-2 peer on one VC that a link has not yet carried past LACK (R297). -/
def oldLinkBusy (s : State) (peer vc l : Nat) : Bool :=
  let mine (f : Flit) : Bool := hdrDst f.hdr == peerFid (peerEntry s peer) && hdrVc f.hdr == vc
  decide (l < 64) && linkLives s l && ((linkOf s l).txq.any mine || (linkOf s l).retry.any fun f => mine f.2)

/-- The link of a stream's next flit: a message keeps the link its first flit took while that is not down (R303); toward a version-2 peer a
change of link waits until every flit on the old link has passed LACK (R297). -/
def nextLink (s : State) (t : TxStream) (flow : Nat) (first : Bool) : Option Nat :=
  match chooseLink s t.peer t.vc flow with
  | none => none
  | some l =>
    if peerProto (peerEntry s t.peer) = 2 then (if l != t.cur && oldLinkBusy s t.peer t.vc t.cur then none else some l)
    else if !first && linkLives s t.cur then some t.cur else some l

/-- Waiting flits of a stream that its WINDOW now admits are given to their links, in order. A message whose
peer's links are all down waits (R306). A version-2 stream has no WINDOW and keeps no flit (R297). -/
def admitFlits : Nat → State → TxStream → State × TxStream
  | 0, s, t => (s, t)
  | n + 1, s, t =>
    match t.wait with
    | [] => (s, t)
    | (flow, f) :: rest =>
      let v2 := peerProto (peerEntry s t.peer) == 2
      if !v2 && decide (t.window ≤ t.buf.length) then (s, t)
      else
        match nextLink s t flow (hdrFirst f.hdr) with
        | none => (s, t)
        | some l =>
          admitFlits n (enqueueFlit s l f) { t with wait := rest, cur := l,
                                                    buf := if v2 then [] else t.buf ++ [(hdrEseq f.hdr, flow, f, l)] }

/-- A stream's admitted flits go out on every link. -/
def pumpStream (s : State) (peer vc : Nat) : State :=
  let t := txOf s peer vc
  let (s, t) := admitFlits (t.wait.length + 1) s t
  (List.range 32).foldl pumpLink (setTx s t)

/-- Waiting flits renumbered from ESEQ e on. -/
def renumber (e : Nat) : List (Nat × Flit) → List (Nat × Flit)
  | [] => []
  | (flow, f) :: t =>
    (flow, { f with hdr := setBits f.hdr 55 24 e }) :: renumber ((e + 1) % 2 ^ 32) t

/-- The own position is lost: of what waits to be sent only TYPE 0x03 stays, in unbroken numbers (R362). -/
def hushStream (s : State) (t : TxStream) : TxStream :=
  let keep := t.wait.filter fun x => hdrType x.2.hdr == 3
  let e := (t.next + 2 ^ 32 - t.wait.length) % 2 ^ 32
  if peerProto (peerEntry s t.peer) = 2 then { t with wait := keep }
  else { t with wait := renumber e keep, next := (e + keep.length) % 2 ^ 32, buf := t.buf.filter fun b => hdrType b.2.2.1.hdr == 3 }

/-- Job traffic other than TYPE 0x03 is no longer sent, and none of it is kept to be sent again (R362). A flit that its link has
already numbered is the link layer's. -/
def hush (s : State) : State :=
  { s with lp := { s.lp with tx := s.lp.tx.map (hushStream s),
                             links := s.lp.links.map fun x => { x with txq := x.txq.filter fun f => hdrType f.hdr == 3 } } }

/-- A message to a peer: cut into flits, numbered (version 3) and sent or queued (R288, R303, R304). A member that has learned of its own
loss sends nothing but TYPE 0x03 (R362). -/
def sendMsg (s : State) (peer type flow : Nat) (body : Bytes) : State :=
  if memberState s = 7 ∧ type ≠ 3 then s else
  let vc := (vcOfType type).getD 0
  let e := peerEntry s peer
  let parts := cutPayloads (body.length + 1) body
  let tag := rd s R.CMB_JOB_JOB_TAG
  let memb := rd s R.CMB_JOB_MEMB_EPOCH
  let mk (eseq i : Nat) (p : Bytes) : Flit :=
    { hdr := flitHdr (peerFid e) (rd s R.LP_FID) tag memb eseq p.length type vc (i == 0) (i + 1 == parts.length),
      payload := p }
  let t := txOf s peer vc
  if peerProto e = 2 then
    let fs := (List.range parts.length).map fun i => (flow, mk 0 i (parts.getD i []))
    pumpStream (setTx s { t with wait := t.wait ++ fs }) peer vc
  else
    let fs := (List.range parts.length).map fun i => (flow, mk ((t.next + i) % 2 ^ 32) i (parts.getD i []))
    pumpStream (setTx s { t with next := (t.next + parts.length) % 2 ^ 32, wait := t.wait ++ fs }) peer vc

/-- The stream of a peer and VC has carried a chunk or segment of a command of queue q (R321); 16 is no queue. -/
def carryFor (s : State) (peer vc q : Nat) : State :=
  let t := txOf s peer vc
  if q = 16 ∨ t.qs.contains q then s else setTx s { t with qs := t.qs ++ [q] }

/-- A link control flit with a body from payload byte 0 (frame byte 16) upward (R292). -/
def sendControl (s : State) (l : Nat) (body : Bytes) : State :=
  if fallsSilent s then s
  else emit s (.flit l (linkOf s l).tx (linkOf s l).rx (at' 1 11) body)

end Sys2Proof.Machine
end

