-- ==== Sys2Proof/Machine/Objects.lean ====
section
/-! DEFINITION. Objects, homes and memory accesses (chapters 2 and 4): the directory, shapes, where a cell
lies, stored bytes behind the memory and tier ports, and the requests on those ports. -/

namespace Sys2Proof.Machine

/-! ## Directory entries (R101) -/

/-- The entry of an object. -/
def dir (s : State) (o : Nat) : Nat := tget s 0x0A 0 o

def oHomeEpoch (e : Nat) : Nat := bits e 255 240
def oStk (e : Nat) : Nat := bits e 235 224
def oComp (e : Nat) : Nat := bits e 210 192
def oMap (e : Nat) : Nat := bits e 191 184
def oLink (e : Nat) : Nat := bits e 178 160
def oParam (e : Nat) : Nat := bits e 159 152
def oSeed (e : Nat) : Nat := bits e 146 128
def oHome (e : Nat) : Nat := bits e 123 96
def oSched (e : Nat) : Nat := bits e 95 92
def oRule (e : Nat) : Nat := bits e 91 89
def oCols (e : Nat) : Nat := bits e 87 64
def oNm (e : Nat) : Nat := bits e 63 61
def oCmp (e : Nat) : Nat := bits e 60 59
def oTier (e : Nat) : Nat := bits e 58 57
def oRows (e : Nat) : Nat := bits e 55 32
def oValid (e : Nat) : Bool := bit e 31
def oClass (e : Nat) : Nat := bits e 30 28
def oFmt (e : Nat) : Nat := bits e 27 24
def oAxis (e : Nat) : Bool := bit e 23
def oRowTrk (e : Nat) : Bool := bit e 22
def oImg (e : Nat) : Bool := bit e 21
def oId (e : Nat) : Nat := bits e 18 0

def clsScratch : Nat := 0
def clsUnique : Nat := 1
def clsReplica : Nat := 2
def clsScale : Nat := 3
def clsCompat : Nat := 4

def fmtS32 : Nat := 0
def fmtW16 : Nat := 1
def fmtL16 : Nat := 2
def fmtByte : Nat := 8

/-- A valid object: id 0 is never one (R100). -/
def objValid (s : State) (o : Nat) : Bool := o != 0 && oValid (dir s o)

/-- The bytes of one cell. -/
def cellSize : Nat := 65536

/-- Tile columns by format (R106). -/
def tileCols (fmt : Nat) : Nat :=
  if fmt = 0 then 128 else if fmt < 3 then 256 else if fmt < 7 then 512 else 1024

/-- Bytes of one element of a state format. -/
def elemBytes (fmt : Nat) : Nat := if fmt = 0 then 4 else if fmt < 3 then 2 else 1

/-- Tile columns of an object's grid, T of R107. -/
def gridCols (e : Nat) : Nat := ceilDiv (oCols e) (tileCols (oFmt e))

/-- Cells of an object (R106). -/
def objCells (e : Nat) : Nat :=
  if oFmt e = fmtByte then ceilDiv (oRows e * oCols e) cellSize
  else ceilDiv (oRows e) 128 * gridCols e

/-- Logical bytes of an object as the coded window addresses it (R108). -/
def objBytes (e : Nat) : Nat :=
  if oFmt e < 3 then oRows e * oCols e * elemBytes (oFmt e)
  else if oFmt e = fmtByte then oRows e * oCols e
  else objCells e * cellSize

/-- The hive object while the hive is enabled: no command may name it (R326). -/
def hiveTaken (s : State) (o : Nat) : Bool := rdb s R.HIVE_CFG_EN && o == rd s R.HIVE_OBJ

/-- Cell and byte offset of element (r, c) of a state format, or of byte r × COLS + c of a BYTE object (R106, R107). -/
def elemPlace (e r c : Nat) : Nat × Nat :=
  if oFmt e = fmtByte then ((r * oCols e + c) / cellSize, (r * oCols e + c) % cellSize)
  else
  let tc := tileCols (oFmt e)
  (r / 128 * gridCols e + c / tc, ((r % 128) * tc + c % tc) * elemBytes (oFmt e))

/-! ## Stacks and regions (R109, R110, R257) -/

/-- Whether stack n is enabled by the straps, and its slice was not left out of service (R35, R465). -/
def stackOn (s : State) (n : Nat) : Bool := bit (rd s R.GEN_STRAP_SLICE_EN) n && !bit s.spr.sliceOut n

/-- Slots of stack n, from MRPn_CAP in units of 4 GiB. -/
def stackSlots (s : State) (n : Nat) : Nat := rd s (R.SLC_CAP n) * 65536

/-- K of a stack mask. -/
def maskK (m : Nat) : Nat := popc 12 m

/-- The i-th set bit of a stack mask. -/
def maskStack (m i : Nat) : Nat := (setBitsOf 12 m).getD i 0

/-- Slots of the brood reserve: the register, or 1.5 % of the smallest enabled stack (R555). -/
def broodSlots (s : State) : Nat :=
  let r := rd s R.RMAP_BROOD_SLOTS
  if r ≠ 0 then r
  else
    let caps := ((List.range 12).filter (stackOn s)).map (stackSlots s)
    (caps.foldl min (caps.headD 0)) * 15 / 1000

/-- First slot of stack n's brood reserve. -/
def broodBase (s : State) (n : Nat) : Nat :=
  if rd s R.RMAP_BROOD_SLOTS ≠ 0 then rd s R.RMAP_BROOD_BASE else stackSlots s n - broodSlots s

/-- Members n and parity m of the comb, and the number of stripes (R251). -/
def cmbN (s : State) : Nat := rd s R.CMB_GEOM_N
def cmbM (s : State) : Nat := rd s R.CMB_GEOM_M
def cmbS (s : State) : Nat := rd s R.CMB_GEOM_S
def cmbRank (s : State) : Nat := rd s R.CMB_RANK_RANK
def cmbFixed (s : State) : Bool := rdb s R.CMB_GEOM_FIXED_PAR

/-- The member's data cell indices D_max (R252). -/
def dMax (s : State) : Nat :=
  let n := cmbN s
  let m := cmbM s
  if cmbFixed s then (if cmbRank s < n - m then cmbS s else 0) else cmbS s * (n - m) / n

/-- The member's parity cells P (R252). -/
def parCells (s : State) : Nat :=
  let n := cmbN s
  let m := cmbM s
  if cmbFixed s then (if cmbRank s < n - m then 0 else cmbS s) else cmbS s * m / n

/-- K of CMB_STKMASK. -/
def codK (s : State) : Nat := maskK (rd s R.CMB_STKMASK)

/-- Delta log share in bytes: an equal share rounded down to 256 KiB (R266). -/
def shareBytes (s : State) : Nat := rd s R.COD_LOG_SIZE * 2 ^ 30 / (max 1 (codK s)) / 2 ^ 18 * 2 ^ 18

/-- Bytes of a share's locator, rounded up to a 64 KiB unit so that slot indices are whole (R266). -/
def locBytes (s : State) : Nat := ceilDiv (16 * ceilDiv (rd s R.CMB_DATA_CELLS) (max 1 (codK s))) 65536 * 65536

/-- L_D of R261. -/
def ledgerLD (s : State) : Nat := ceilDiv (ceilDiv (rd s R.CMB_DATA_CELLS) (max 1 (codK s))) 4 * 4

/-- Bytes of a stack's ledger region (R261). -/
def ledgerBytes (s : State) : Nat := 16 * ledgerLD s + 32 * ceilDiv (parCells s) (max 1 (codK s))

/-- A region of a stack as first slot and slots. -/
abbrev Region := Nat × Nat

/-- The block's regions on stack n other than plain homes: brood reserve, delta log, ledger, data, parity, SCALE
mirror and image pool (R109). -/
def regions (s : State) (n : Nat) : List Region :=
  let coded := bit (rd s R.CMB_STKMASK) n
  let k := max 1 (codK s)
  [(broodBase s n, broodSlots s), (rd s R.TIER_POOL_BASE, rd s R.TIER_POOL_SLOTS)] ++
  (if coded then
    [(rd s R.COD_LOG_BASE, shareBytes s / cellSize), (rd s R.CMB_LEDGER_BASE, ceilDiv (ledgerBytes s) cellSize),
     (rd s R.CMB_DATA_BASE, ceilDiv (rd s R.CMB_DATA_CELLS) k), (rd s R.CMB_PAR_BASE, ceilDiv (parCells s) k),
     (rd s R.CMB_SCALE_BASE, 1 + ceilDiv (64 * cmbN s) k)]
   else [])

/-- Two regions share a slot. -/
def overlap (a b : Region) : Bool := a.2 != 0 && b.2 != 0 && decide (a.1 < b.1 + b.2) && decide (b.1 < a.1 + a.2)

/-- The slots a plain HBM home of n cells takes on the stack that is the i-th of its mask (R110). -/
def homeSlots (home n k i : Nat) : Region := (home, ceilDiv (n - i) k)

/-- The slots a plain HBM home takes on stack st. -/
def homeOn (mask home n st : Nat) : Region :=
  if bit mask st then homeSlots home n (maskK mask) (popc st mask) else (0, 0)

/-! ## Where a cell lies -/

/-- The place of a cell: an HBM slot, a board-tier slot, or a cell of a kept rank (R112). -/
inductive Place where
  | hbm (stack slot : Nat)
  | board (slot : Nat)
  | kept (k d : Nat)
  deriving DecidableEq, Repr

/-- The stack and slot of stored data cell d (R257). -/
def dataPlace (s : State) (d : Nat) : Nat × Nat :=
  let m := rd s R.CMB_STKMASK
  let k := max 1 (codK s)
  (maskStack m (d % k), rd s R.CMB_DATA_BASE + d / k)

/-- The stack and slot of parity cell k (R257). -/
def parPlace (s : State) (p : Nat) : Nat × Nat :=
  let m := rd s R.CMB_STKMASK
  let k := max 1 (codK s)
  (maskStack m (p % k), rd s R.CMB_PAR_BASE + p / k)

/-- The place of cell c for a home given as TIER, HOME, STKMASK and CLASS (R110 to R112). -/
def homePlace (s : State) (cls tier home mask c : Nat) : Place :=
  if cls = clsUnique then
    if home / 2 ^ 25 = 0 then
      let p := dataPlace s (home % 2 ^ 25 + c)
      .hbm p.1 p.2
    else .kept (home / 2 ^ 25 - 1) (home % 2 ^ 25 + c)
  else if tier = 0 then .hbm (maskStack mask (c % max 1 (maskK mask))) (home + c / max 1 (maskK mask))
  else .board (home + c)

/-- The place of cell c of an object. -/
def cellPlace (s : State) (e c : Nat) : Place := homePlace s (oClass e) (oTier e) (oHome e) (oStk e) c

/-! ## Remap, relocation and stored bytes (R399, R401) -/

/-- The relocated place of a slot: the valid relocation entry of its source stack and slot, if any. -/
def relocate (s : State) (st slot : Nat) : Nat × Nat :=
  match s.tab.find? fun e => e.1 / 2 ^ 28 == 0x16 * 16 + 1 && bit e.2 63 && bits e.2 57 54 == st &&
      bits e.2 41 21 == slot with
  | some e => (bits e.2 53 50, bits e.2 20 0)
  | none => (st, slot)

/-- The stack byte address behind a 4 KiB range: a valid remap entry sends it to its target (R399). -/
def remapped (s : State) (st a : Nat) : Nat :=
  match (List.range 8).find? fun e => bit (tget s 0x16 0 (8 * st + e)) 63 &&
      bits (tget s 0x16 0 (8 * st + e)) 24 0 == a / 4096 with
  | some e => (broodBase s st + 33) * cellSize + 4096 * e + a % 4096
  | none => a

/-- A slot of a stack lies in a block-private region: coded data or parity, ledger, delta log, SCALE mirror, or
the hive object's home while HIVE_CFG.EN = 1 (R400). -/
def isPrivate (s : State) (st slot : Nat) : Bool :=
  let hive := dir s (rd s R.HIVE_OBJ)
  let rs := (regions s st).drop 2 ++
    (if rdb s R.HIVE_CFG_EN then [homeOn (oStk hive) (oHome hive) (objCells hive) st] else [])
  rs.any fun r => decide (r.1 ≤ slot) && decide (slot < r.1 + r.2)

/-- The key in State.hbm of a byte of a stack, after relocation and remap, which reach block-private slots only. -/
def hbmKey (s : State) (st a : Nat) : Nat :=
  if !isPrivate s st (a / cellSize) then st * 2 ^ 37 + a
  else
  let p := relocate s st (a / cellSize)
  p.1 * 2 ^ 37 + remapped s p.1 (p.2 * cellSize + a % cellSize)

/-- A byte range cut at 4 KiB boundaries; fuel bounds the pieces. -/
def pieces : Nat → Nat → Nat → List (Nat × Nat)
  | 0, _, _ => []
  | f + 1, a, n =>
    if n = 0 then []
    else
      let k := min n (4096 - a % 4096)
      (a, k) :: pieces f (a + k) (n - k)

/-- n stored bytes of stack st from byte address a. -/
def hbRead (s : State) (st a n : Nat) : Bytes :=
  (pieces (n / 4096 + 2) a n).flatMap fun p => mread s.hbm (hbmKey s st p.1) p.2

/-- Bytes written to stack st from byte address a. -/
def hbWrite (s : State) (st a : Nat) (b : Bytes) : State :=
  let m := (pieces (b.length / 4096 + 2) a b.length).foldl
    (fun m p => mwrite m (hbmKey s st p.1) (slice b (p.1 - a) p.2)) s.hbm
  { s with hbm := m }

/-- n stored bytes of the board tier from byte c × 65,536 + off of cell slot c. -/
def boardRead (s : State) (slot off n : Nat) : Bytes := mread s.board (slot * cellSize + off) n

/-- Bytes written to the board tier. -/
def boardWrite (s : State) (slot off : Nat) (b : Bytes) : State :=
  { s with board := mwrite s.board (slot * cellSize + off) b }

/-! ## Requests on the ports (R45, R46, R55) -/

/-- Memory request port n. -/
def mrpOf (s : State) (n : Nat) : Mrp := s.mrp.getD n Mrp.idle

/-- The state with memory request port n replaced. -/
def setMrp (s : State) (n : Nat) (x : Mrp) : State := { s with mrp := s.mrp.set n x }

/-- A request conflicts with an outstanding one: a read with a write, or two writes, of one granule (R48). -/
def memHazard (r : MemReq) (l : List MemReq) : Bool :=
  l.any fun x => x.issued && (x.write || r.write) && !(!x.write && !r.write) &&
    decide (x.gran < r.gran + r.n) && decide (r.gran < x.gran + x.n)

/-- A tag of the request's space that no outstanding request holds. -/
def memTag (write : Bool) (l : List MemReq) : Option Nat :=
  let used := (l.filter fun x => x.issued && x.write == write).map (·.tag)
  (List.range 1024).find? fun t => !used.contains t

/-- Waiting requests of a port go out in order while credits, tags and R48 allow and READY is high (R50);
PRIO requests go first (R25). A write's DATA is what the stack is to hold (R45). done holds the requests already looked at, last first. -/
def issueMem (n : Nat) : State → Mrp → List MemReq → List MemReq → State × Mrp
  | s, x, done, [] => (s, { x with reqs := done.reverse })
  | s, x, done, r :: t =>
    if x.rrq = 0 ∧ (x.wrq = 0 ∨ x.wd = 0) then (s, { x with reqs := done.reverse ++ r :: t })
    else
      let can := !r.issued && (if r.write then 0 < x.wrq && 0 < x.wd else 0 < x.rrq) && rdb s (R.SLC_STAT_READY n) &&
        !rdb s (R.SLC_STAT_OUT n) && !memHazard r done && !memHazard r t
      if can then
        match memTag r.write (done ++ t) with
        | some tag =>
          let x := if r.write then { x with wrq := x.wrq - 1, wd := x.wd - 1 } else { x with rrq := x.rrq - 1 }
          let s := emit s (if r.write then
              .mrp n true tag r.gran r.n r.prio (2 ^ r.n - 1) (mread s.hbm (n * 2 ^ 37 + r.gran * 64) (64 * r.n))
            else .mrp n false tag r.gran r.n r.prio 0 [])
          issueMem n s x ({ r with tag := tag, issued := true } :: done) t
        | none => issueMem n s x (r :: done) t
      else issueMem n s x (r :: done) t

/-- Everything memory request port n may issue is issued. -/
def pumpMrp (s : State) (n : Nat) : State :=
  let x := mrpOf s n
  let (s, x) := issueMem n s x [] (x.reqs.filter (·.prio) ++ x.reqs.filter (!·.prio))
  setMrp s n x

/-- Requests of at most four granules that do not cross 256 bytes, for granules g to g + n (R45); two granules in
generation-2 mode. src is the block's own address of the first. fuel bounds the requests. -/
def cutReqs (lim owner : Nat) (write prio : Bool) : Nat → Nat → Nat → Nat → List MemReq
  | 0, _, _, _ => []
  | f + 1, g, src, n =>
    if n = 0 then []
    else
      let k := min (min n lim) (4 - g % 4)
      { tag := 0, gran := g, src := src, n := k, write := write, prio := prio, owner := owner, issued := false, old := [] } ::
        cutReqs lim owner write prio f (g + k) (src + k) (n - k)

/-- The granules of one 4 KiB piece are requested on the port of the stack that holds it, behind relocation and remap. -/
def pieceRequest (owner : Nat) (write prio : Bool) (st : Nat) (s : State) (p : Nat × Nat) : State :=
  let key := hbmKey s st p.1
  let port := key / 2 ^ 37
  let g := key % 2 ^ 37 / 64
  let cnt := (key % 64 + p.2 + 63) / 64
  let lim := if rdb s R.GEN_STRAP_MRP_W1024 then 2 else 4
  let x := mrpOf s port
  let s := setMrp s port { x with reqs := x.reqs ++ cutReqs lim owner write prio (cnt + 1) g (st * 2 ^ 31 + p.1 / 64) cnt }
  countN s (if write then C.SLC_WR_GRAN port else C.SLC_RD_GRAN port) cnt

/-- A byte range of a stack is requested on its port. -/
def memRequest (s : State) (owner : Nat) (write prio : Bool) (st a n : Nat) : State :=
  let s := (pieces (n / 4096 + 2) a n).foldl (pieceRequest owner write prio st) s
  (List.range 12).foldl pumpMrp s

/-- Bytes read from a stack, with the requests of the access. -/
def memRead (s : State) (owner : Nat) (prio : Bool) (st a n : Nat) : Bytes × State :=
  (hbRead s st a n, memRequest s owner false prio st a n)

/-- Bytes written to a stack, with the requests of the access. -/
def memWrite (s : State) (owner : Nat) (prio : Bool) (st a : Nat) (b : Bytes) : State :=
  memRequest (hbWrite s st a b) owner true prio st a b.length

/-- No write of a unit is waiting or outstanding on any port. -/
def writesAcked (s : State) (owner : Nat) : Bool :=
  s.mrp.all (fun x => x.reqs.all fun r => !(r.write && r.owner == owner)) &&
  s.tier.all (fun x => x.reqs.all fun r => !(r.write && r.owner == owner))

/-- No read of a unit is waiting or outstanding on any port. -/
def readsIn (s : State) (owner : Nat) : Bool :=
  s.mrp.all (fun x => x.reqs.all fun r => r.write || r.owner != owner) &&
  s.tier.all (fun x => x.reqs.all fun r => r.write || r.owner != owner)

/-- The cell slots of stack st that a waiting or outstanding read covers, as the block addresses them. -/
def slotsRead (s : State) (st : Nat) : List Nat :=
  (s.mrp.flatMap fun x => (x.reqs.filter fun r => !r.write && r.src / 2 ^ 31 == st).map fun r => r.src % 2 ^ 31 / 1024).eraseDups

/-- Tier port n. -/
def tierOf (s : State) (n : Nat) : TierPort := s.tier.getD n TierPort.idle

/-- The state with tier port n replaced. -/
def setTier (s : State) (n : Nat) (x : TierPort) : State := { s with tier := s.tier.set n x }

/-- Tags of a tier port in use for reads or writes. -/
def tierTag (write : Bool) (l : List TierReq) : Option Nat :=
  let used := (l.filter fun x => x.issued && x.write == write).map (·.tag)
  (List.range 1024).find? fun t => !used.contains t

/-- Waiting requests of a tier port go out in order while credits and tags last. -/
def issueTier (n : Nat) : State → TierPort → List TierReq → List TierReq → State × TierPort
  | s, x, done, [] => (s, { x with reqs := done })
  | s, x, done, r :: t =>
    let can := !r.issued && 0 < x.rq && (!r.write || 0 < x.wd)
    match can, tierTag r.write (done ++ t) with
    | true, some tag =>
      let x := { x with rq := x.rq - 1, wd := if r.write then x.wd - 1 else x.wd }
      issueTier n (emit s (.tier n r.write tag r.addr)) x (done ++ [{ r with tag := tag, issued := true }]) t
    | _, _ => issueTier n s x (done ++ [r]) t

/-- Everything tier port n may issue is issued. -/
def pumpTier (s : State) (n : Nat) : State :=
  let x := tierOf s n
  let (s, x) := issueTier n s x [] x.reqs
  setTier s n x

/-- The enabled tier ports, ascending. -/
def tierPorts (s : State) : List Nat := setBitsOf 4 (rd s R.GEN_STRAP_TIER_EN)

/-- Port and host-physical address of a board-tier cell slot; none beyond the board tier (R111). -/
def boardPlace (s : State) (slot : Nat) : Option (Nat × Nat) :=
  let ps := tierPorts s
  if ps = [] then none
  else
    let p := ps.getD (slot % ps.length) 0
    let a := rd s (R.TIER_BASE p) * 65536 + slot / ps.length * cellSize
    if a + cellSize ≤ rd s (R.TIER_LIM p) * 65536 then some (p, a) else none

/-- The granules of a board-tier range are requested on its port. -/
def tierRequest (s : State) (owner : Nat) (write : Bool) (slot off n : Nat) : State :=
  match boardPlace s slot with
  | none => s
  | some (p, a) =>
    let g0 := (a + off) / 64
    let cnt := if n = 0 then 0 else (a + off + n - 1) / 64 + 1 - g0
    let x := tierOf s p
    let rs := (List.range cnt).map fun i =>
      ({ tag := 0, addr := g0 + i, write := write, owner := owner, issued := false } : TierReq)
    wakeDomain (pumpTier (setTier s p { x with reqs := x.reqs ++ rs }) p) 13

/-- The key of data cell d of kept slot k: HOME's own numbering (R376). -/
def keptKey (k d : Nat) : Nat := (k + 1) * 2 ^ 25 + d

/-- The decoded bytes of a kept cell; zero while it has not been decoded. -/
def keptBytes (s : State) (i : Nat) : Bytes :=
  match s.cod.kept.find? fun c => c.1 == i with
  | some c => c.2
  | none => List.replicate cellSize 0

/-- The state with bytes of a decoded cell of a kept rank changed. -/
def setKept (s : State) (i off : Nat) (b : Bytes) : State :=
  let old := keptBytes s i
  let new := old.take off ++ b ++ old.drop (off + b.length)
  { s with cod := { s.cod with kept := (s.cod.kept.filter fun c => c.1 != i) ++ [(i, new)] } }

/-- Bytes read at a place, with the requests of the access. Cells of a kept rank have no storage: they have been
decoded from the comb (R112, R377). -/
def placeRead (s : State) (owner : Nat) (p : Place) (off n : Nat) : Bytes × State :=
  match p with
  | .hbm st slot => memRead s owner false st (slot * cellSize + off) n
  | .board slot => (boardRead s slot off n, tierRequest s owner false slot off n)
  | .kept k d => (slice (keptBytes s (keptKey k d)) off n, s)

/-- Bytes at a place without the requests: what the access returns. -/
def placeBytes (s : State) (p : Place) (off n : Nat) : Bytes :=
  match p with
  | .hbm st slot => hbRead s st (slot * cellSize + off) n
  | .board slot => boardRead s slot off n
  | .kept k d => slice (keptBytes s (keptKey k d)) off n

/-- Bytes written at a place, with the requests of the access. -/
def placeWrite (s : State) (owner : Nat) (p : Place) (off : Nat) (b : Bytes) : State :=
  match p with
  | .hbm st slot => memWrite s owner false st (slot * cellSize + off) b
  | .board slot => tierRequest (boardWrite s slot off b) owner true slot off b.length
  | .kept k d => setKept s (keptKey k d) off b

/-- The whole bytes of cell c of an object as stored. -/
def objCell (s : State) (o c : Nat) : Bytes := placeBytes s (cellPlace s (dir s o) c) 0 cellSize

/-- n bytes of an object's linear array from offset off, cell by cell (BYTE objects, R106). -/
def objBytesAt (s : State) (o off n : Nat) : Bytes :=
  let c0 := off / cellSize
  let b := (List.range ((off + n) / cellSize + 1 - c0)).flatMap fun i => objCell s o (c0 + i)
  slice b (off % cellSize) n

/-- The UNIQUE object and cell that a data cell index belongs to. -/
def objOfData (s : State) (d : Nat) : Option (Nat × Nat) :=
  (((s.tab.filter fun x => x.1 / 2 ^ 28 == 0xA * 16).map fun x => x.1 % 2 ^ 28).find? fun o =>
    let e := dir s o
    objValid s o && oClass e == clsUnique && decide (oHome e ≤ d) && decide (d < oHome e + objCells e)).map
      fun o => (o, d - oHome (dir s o))

end Sys2Proof.Machine
end

