-- ==== Sys2Proof/Machine/Coding.lean ====
section
/-! DEFINITION. The coding unit (chapter 9): coefficients, layout, ledger, delta segments, the log, the views of
a cell, epochs, the cap's conversions and the undo. -/

namespace Sys2Proof.Machine

/-! ## Arithmetic and layout (R253 to R257) -/

/-- The Cauchy coefficient c(j, i) for m parities (R254). -/
def coef (m j i : Nat) : Nat := gfInv (j ^^^ (m + i))

/-- The p-th offset t of 0 .. n−1 at which rank r holds data (R256). -/
def dataOffset (n m r p : Nat) : Nat := ((List.range n).filter fun t => decide (m ≤ (r + n - t) % n)).getD p 0

/-- The stripe of data cell d of rank r (R256, R284). -/
def dataStripe (n m : Nat) (fixed : Bool) (r d : Nat) : Nat :=
  if fixed then d else d / (n - m) * n + dataOffset n m r (d % (n - m))

/-- The data position of rank r in stripe t (R256, R284). -/
def dataPos (n m : Nat) (fixed : Bool) (r t : Nat) : Nat :=
  if fixed then r else r - ((List.range r).filter fun h => decide ((h + n * (t + 1) - t) % n < m)).length

/-- The parity index rank r holds in stripe t, if it holds one (R255, R284). -/
def parIndex (n m : Nat) (fixed : Bool) (r t : Nat) : Option Nat :=
  if fixed then (if n - m ≤ r ∧ r < n then some (r - (n - m)) else none)
  else
    let j := (r + n * (t + 1) - t) % n
    if j < m then some j else none

/-- The parity cell index of rank r in stripe t (R256, R284). -/
def parCellOf (n m : Nat) (fixed : Bool) (r t : Nat) : Nat :=
  if fixed then t else t / n * m + (r + n * (t + 1) - t) % n

/-- The data cell of rank r in stripe t, if r holds data there: the inverse of R256. -/
def dataCellOf (n m : Nat) (fixed : Bool) (r t : Nat) : Option Nat :=
  match parIndex n m fixed r t with
  | some _ => none
  | none =>
    if fixed then some t
    else
      let ts := (List.range n).filter fun x => decide (m ≤ (r + n - x) % n)
      some (t / n * (n - m) + ts.idxOf (t % n))

/-- The ranks that hold parity j = 0 .. m−1 of stripe t. -/
def parHolders (n m : Nat) (fixed : Bool) (t : Nat) : List Nat :=
  (List.range m).map fun j => if fixed then n - m + j else (t + j) % n

/-- The stripe of parity cell p of rank r (the inverse of R256). -/
def parStripe (n m : Nat) (fixed : Bool) (r p : Nat) : Nat :=
  if fixed then p
  else p / m * n + (r + n - p % m) % n

/-! ## Members of the comb (R345) -/

/-- Member table entry of list index x (R534). -/
def member (s : State) (x : Nat) : Nat := tget s 0x0E 0 x

def memFid (e : Nat) : Nat := bits e 127 112
def memPeer (e : Nat) : Nat := bits e 111 100
def memRank (e : Nat) : Nat := bits e 99 96
def memComb (e : Nat) : Nat := bits e 95 80
def memRole (e : Nat) : Nat := bits e 79 78
def memExcl (e : Nat) : Bool := bit e 77
def memState (e : Nat) : Nat := bits e 75 72
def memCapped (e : Nat) : Nat := bits e 47 0

/-- The block's own list index. -/
def ownIdx (s : State) : Nat := rd s R.CMB_RANK_LIST_IDX

/-- The block's comb number. -/
def ownComb (s : State) : Nat := memComb (member s (ownIdx s))

/-- List index of the position that holds rank r of the block's comb: not a standby, not a non-comb member, not
a shadow. -/
def rankIdx (s : State) (r : Nat) : Option Nat :=
  (List.range s.comb.listN).find? fun x =>
    let e := member s x
    memRole e == 0 && memComb e == ownComb s && memRank e == r

/-- Peer table index of rank r of the block's comb. -/
def rankPeer (s : State) (r : Nat) : Option Nat := (rankIdx s r).map fun x => memPeer (member s x)

/-- Rank of a peer in the block's comb. -/
def peerRank (s : State) (p : Nat) : Option Nat :=
  ((List.range s.comb.listN).find? fun x =>
    let e := member s x
    memRole e == 0 && memComb e == ownComb s && memPeer e == p).map fun x => memRank (member s x)

/-- State code of the position that holds a rank; LOST when none does. -/
def rankState (s : State) (r : Nat) : Nat :=
  match rankIdx s r with
  | some x => memState (member s x)
  | none => 7

/-- List index of a peer. -/
def peerIdx (s : State) (p : Nat) : Option Nat :=
  (List.range s.comb.listN).find? fun x => memPeer (member s x) == p

/-- The other ranks of the comb; to a member that holds none, every rank. -/
def otherRanks (s : State) : List Nat :=
  (List.range (cmbN s)).filter fun r => r != cmbRank s || memRole (member s (ownIdx s)) != 0

/-- The other STANDBY and SHADOW positions of the comb, which hold SCALE mirrors too (R113, R277, R370). A holder's number is its rank, or
for these 16 plus the list index. -/
def mirrorHolders (s : State) : List Nat :=
  ((List.range s.comb.listN).filter fun x =>
    let e := member s x
    x != ownIdx s && memComb e == ownComb s && (memRole e == 1 && memState e == 3 || memRole e == 3 && memState e == 4)).map (16 + ·)

/-- List index of a holder. -/
def holderIdx (s : State) (h : Nat) : Option Nat := if h < 16 then rankIdx s h else some (h - 16)

/-- Peer of a holder. -/
def holderPeer (s : State) (h : Nat) : Option Nat := (holderIdx s h).map fun x => memPeer (member s x)

/-- The holder a peer is. -/
def peerHolder (s : State) (p : Nat) : Option Nat :=
  match peerRank s p with
  | some r => some r
  | none => (mirrorHolders s).find? fun h => holderPeer s h == some p

/-! ## The ledger (R259 to R262) -/

/-- Stack and byte address of data cell d's entry (R261). -/
def ledgerAt (s : State) (d : Nat) : Nat × Nat :=
  let k := max 1 (codK s)
  (maskStack (rd s R.CMB_STKMASK) (d % k), rd s R.CMB_LEDGER_BASE * cellSize + 16 * (d / k))

/-- Stack and byte address of parity cell p's entry pair (R261). -/
def ledgerParAt (s : State) (p : Nat) : Nat × Nat :=
  let k := max 1 (codK s)
  (maskStack (rd s R.CMB_STKMASK) (p % k), rd s R.CMB_LEDGER_BASE * cellSize + 16 * ledgerLD s + 32 * (p / k))

/-- Data cell d's ledger entry. -/
def ledger (s : State) (d : Nat) : Nat := leVal (hbRead s (ledgerAt s d).1 (ledgerAt s d).2 16)

/-- Data cell d's ledger entry written. -/
def setLedger (s : State) (d v : Nat) : State :=
  memWrite s s.cod.owner false (ledgerAt s d).1 (ledgerAt s d).2 (leBytes 16 v)

/-- Parity cell p's primary entry. -/
def ledgerP (s : State) (p : Nat) : Nat := leVal (hbRead s (ledgerParAt s p).1 (ledgerParAt s p).2 16)

/-- Parity cell p's extension entry (R260). -/
def ledgerX (s : State) (p : Nat) : Nat := leVal (hbRead s (ledgerParAt s p).1 ((ledgerParAt s p).2 + 16) 16)

/-- Parity cell p's entry pair written. -/
def setLedgerPX (s : State) (p v x : Nat) : State :=
  memWrite s s.cod.owner true (ledgerParAt s p).1 (ledgerParAt s p).2 (leBytes 16 v ++ leBytes 16 x)

def lCapTag (e : Nat) : Nat := bits e 127 112
def lTag (e : Nat) : Nat := bits e 111 96
def lSuspect (e : Nat) : Bool := bit e 67
def lCrc (e : Nat) : Nat := bits e 63 0
def xUndoU (e : Nat) : Nat := bits e 127 96
def xUndoB (e : Nat) : Nat := bits e 95 64
def xPos (e i : Nat) : Nat := bits e (4 * i + 3) (4 * i)

/-- A settled cell: TAG = CAP_TAG (R259). -/
def settled (e : Nat) : Bool := lTag e == lCapTag e

/-- A data cell index in HOME's numbering that names a cell of a kept rank (R376). -/
def isKept (d : Nat) : Bool := decide (2 ^ 25 ≤ d)

/-- The rank whose data cell an index in HOME's numbering names. -/
def srcRank (s : State) (d : Nat) : Nat := if isKept d then rd s (R.CMB_KEEP_RANK (d / 2 ^ 25 - 1)) else cmbRank s

/-- The stored bytes of data cell d; a virtual cell is zero (R252). -/
def dataCell (s : State) (d : Nat) : Bytes :=
  if rd s R.CMB_DATA_CELLS ≤ d then List.replicate cellSize 0
  else hbRead s (dataPlace s d).1 ((dataPlace s d).2 * cellSize) cellSize

/-- The stored bytes of parity cell p. -/
def parCell (s : State) (p : Nat) : Bytes := hbRead s (parPlace s p).1 ((parPlace s p).2 * cellSize) cellSize

/-- The slice that does the coding work of data cell d: that of its stack, or of the stack it is relocated to. -/
def dataSlice (s : State) (d : Nat) : Nat :=
  let p := dataPlace s (d % 2 ^ 25)
  if isKept d then p.1 else (relocate s p.1 p.2).1

/-- The slice that does the coding work of parity cell p. -/
def parSlice (s : State) (p : Nat) : Nat := (relocate s (parPlace s p).1 (parPlace s p).2).1

/-! ## Log shares (R266 to R268) -/

/-- The share of a slice. -/
def share (s : State) (sl : Nat) : Share := s.cod.shares.getD sl Share.empty

/-- The state with the coding unit's part changed. -/
def setCod (s : State) (c : Coding) : State := { s with cod := c }

/-- The state with a slice's share replaced. -/
def setShare (s : State) (sl : Nat) (x : Share) : State :=
  setCod s { s.cod with shares := s.cod.shares.set sl x }

/-- 64-byte units in a log block. -/
def blkUnits : Nat := 4096

/-- Blocks of a share after its locator (R547). -/
def shareBlocks (s : State) : Nat := (shareBytes s - locBytes s) / 2 ^ 18

/-- Stack byte address of 64-byte unit u of a share's blocks. -/
def shareAddr (s : State) (u : Nat) : Nat := rd s R.COD_LOG_BASE * cellSize + u * 64

/-- First unit of block b: blocks follow the locator. -/
def blkUnit (s : State) (b : Nat) : Nat := locBytes s / 64 + b * blkUnits

/-- The parity cells on a slice's stack. -/
def parCellsOn (s : State) (sl : Nat) : List Nat := (List.range (parCells s)).filter fun p => parSlice s p == sl

/-- 64-byte units in a quarter of a block, the size of an undo slot. -/
def qUnits : Nat := 1024

/-- Unused units of an epoch's segment quarters. -/
def segRoom (x : Share) (ep : Nat) : Nat :=
  ((x.blks.filter fun b => b.epoch == ep).map fun b => (b.quarters.map fun q => match q with
    | some n => qUnits - n
    | none => 0).sum).sum

/-- Quarters of an epoch's blocks not given out. -/
def freeQuarters (x : Share) (ep : Nat) : Nat :=
  ((x.blks.filter fun b => b.epoch == ep).map fun b => 4 - b.quarters.length).sum

/-- Free blocks an epoch must still take for so many segment units and so many undo slots: each epoch's space lies in its own
blocks, and an undo slot takes a whole quarter (R266, R268; DEDUCED, notes/assumptions/76). -/
def blocksFor (x : Share) (ep units slots : Nat) : Nat :=
  ceilDiv (ceilDiv (units - segRoom x ep) qUnits + slots - freeQuarters x ep) 4

/-- Units that open cells of a slice have reserved for an epoch and not yet used (R268). -/
def reservedUnits (s : State) (sl ep : Nat) : Nat :=
  ((s.cod.open_.filter fun o => o.slice == sl && o.epoch == ep).map fun o => o.reserved / 64 - o.units.length).sum

/-- Parity cells on a slice's stack that have no B slot: each has a quarter kept free for it (R268). -/
def bNeed (s : State) (sl : Nat) : Nat := ((parCellsOn s sl).filter fun p => xUndoB (ledgerX s p) == 0).length

/-- The slice whose share keeps KIND 3 segments: the lowest named stack's. -/
def scaleSlice (s : State) : Nat := maskStack (rd s R.CMB_STKMASK) 0

/-- Units kept for the KIND 3 segments of the other members of the comb: 4 MiB a sender, less what is stored already (R277). -/
def scaleRoom (s : State) : Nat :=
  ((otherRanks s).map fun r =>
    2 ^ 16 - ((s.cod.segs.filter fun g => !g.own && g.kind == 3 && g.rank == r).map fun g => g.units.length).sum).sum

/-- Free blocks of a share that are spoken for: open reservations, the B slots still to come and a taken U reserve, each with its undo list
entry, and the KIND 3 segments still to come, with n more units asked for epoch e (R268, R269, R277; notes/assumptions/76). The KIND 3 segments may fall
to either epoch, which can cost one block more. -/
def blocksDue (s : State) (sl e n : Nat) : Nat :=
  let c := capped s
  let sh := share s sl
  let b := bNeed s sl
  let k := if sl = scaleSlice s then scaleRoom s else 0
  let units (ep : Nat) : Nat := reservedUnits s sl ep + if ep = e then n else 0
  blocksFor sh (c + 1) (units (c + 1) + ceilDiv b 4 + k) b + blocksFor sh (c + 2) (units (c + 2) + ceilDiv sh.uLeft 4) sh.uLeft + min k 1

/-- The bytes R268 reserves for g granules. -/
def reserveBytes (g : Nat) : Nat := 64 * ceilDiv (160 + 72 * g) 64

/-- A stack migrates: its log share takes no new reservation (R401). -/
def migrating (s : State) (st : Nat) : Bool := rdb s R.RMAP_MIG_STAT_ACTIVE && rd s R.RMAP_MIG_STAT_STK == st

/-- The reservation of R268 for g granules of epoch e can be met. -/
def canReserve (s : State) (sl e g : Nat) : Bool :=
  !migrating s sl && decide (blocksDue s sl e (reserveBytes g / 64) ≤ (share s sl).free.length)

/-- The first segment quarter of a block with an unused unit: its number and the units used. -/
def segQuarter (b : LogBlk) : Option (Nat × Nat) :=
  (List.range b.quarters.length).findSome? fun j => match b.quarters.getD j none with
    | some n => if n < qUnits then some (j, n) else none
    | none => none

/-- A quarter of a block given its use. -/
def setQuarter (x : Share) (idx j : Nat) (q : Option Nat) : Share :=
  { x with blks := x.blks.map fun b => if b.idx = idx then { b with quarters := b.quarters.set j q } else b }

/-- A block taken from the head of the free queue for an epoch (R266). -/
def takeBlk (x : Share) (ep : Nat) : Option Share :=
  match x.free with
  | [] => none
  | b :: t => some { x with free := t, blks := x.blks ++ [{ idx := b, epoch := ep, quarters := [] }] }

/-- The first block of an epoch with a quarter not given out gives one out. -/
def giveQuarter (x : Share) (ep : Nat) (q : Option Nat) : Option (Nat × Nat × Share) :=
  match x.blks.find? fun b => b.epoch == ep && decide (b.quarters.length < 4) with
  | some b => some (b.idx, b.quarters.length,
      { x with blks := x.blks.map fun c => if c.idx = b.idx then { c with quarters := c.quarters ++ [q] } else c })
  | none => none

/-- A quarter of an epoch's blocks, of a further block if need be: the block, the quarter's number and the share. -/
def newQuarter (x : Share) (ep : Nat) (q : Option Nat) : Option (Nat × Nat × Share) :=
  match giveQuarter x ep q with
  | some r => some r
  | none => (takeBlk x ep).bind fun x => giveQuarter x ep q

/-- n units for an epoch's segments and undo list, in quarters with room and then in further ones: the units in order, and the
share. fuel bounds the quarters. -/
def allocUnits (s : State) (ep : Nat) : Nat → Share → Nat → List Nat × Share
  | 0, x, _ => ([], x)
  | f + 1, x, n =>
    if n = 0 then ([], x)
    else
      match x.blks.findSome? fun b => if b.epoch = ep then (segQuarter b).map fun r => (b.idx, r) else none with
      | some (idx, j, used) =>
        let k := min n (qUnits - used)
        let us := (List.range k).map fun i => blkUnit s idx + j * qUnits + used + i
        let r := allocUnits s ep f (setQuarter x idx j (some (used + k))) (n - k)
        (us ++ r.1, r.2)
      | none =>
        match newQuarter x ep (some 0) with
        | some r => allocUnits s ep f r.2.2 n
        | none => ([], x)

/-- A 64 KiB undo slot in an epoch's blocks: its index in 64 KiB units within the share (R260). -/
def allocSlot (s : State) (ep : Nat) (x : Share) : Option (Nat × Share) :=
  (newQuarter x ep none).map fun r => (blkUnit s r.1 / qUnits + r.2.1, r.2.2)

/-- Bytes of an undo slot. -/
def slotBytes (s : State) (sl idx : Nat) : Bytes :=
  hbRead s (sl) (rd s R.COD_LOG_BASE * cellSize + idx * cellSize) cellSize

/-- An undo slot written. -/
def setSlot (s : State) (sl idx : Nat) (b : Bytes) : State :=
  memWrite s s.cod.owner true sl (rd s R.COD_LOG_BASE * cellSize + idx * cellSize) b

/-- The stored bytes of a segment, unit by unit through its chaining. -/
def segBytes (s : State) (g : Seg) : Bytes := g.units.flatMap fun u => hbRead s g.slice (shareAddr s u) 64

/-- Bytes written to units of a slice's log. -/
def writeUnits (s : State) (sl : Nat) : List Nat → Bytes → State
  | [], _ => s
  | u :: t, b => writeUnits (memWrite s s.cod.owner false sl (shareAddr s u) (slice b 0 64)) sl t (b.drop 64)

/-! ## Segments and records (R128, R263, R264) -/

/-- The mask of a granule's nonzero bytes (R128). -/
def nzMask : Nat → Bytes → Nat
  | _, [] => 0
  | i, b :: t => (if b = 0 then 0 else 2 ^ i) + nzMask (i + 1) t

/-- A granule record: mask and nonzero bytes (R128, R264). -/
def recordOf (d : Bytes) : Bytes := leBytes 8 (nzMask 0 d) ++ d.filter (· != 0)

/-- A granule from its mask and the bytes that follow; the rest of the bytes. -/
def expandRec (mask : Nat) : Nat → Bytes → Bytes × Bytes
  | 0, l => ([], l)
  | n + 1, l =>
    let i := 63 - n
    if bit mask i then
      let r := expandRec mask n (l.drop 1)
      (l.headD 0 :: r.1, r.2)
    else
      let r := expandRec mask n l
      (0 :: r.1, r.2)

/-- The records of the granules a bitmap names, in ascending order: granule and its 64 delta bytes. -/
def parseRecs : List Nat → Bytes → List (Nat × Bytes)
  | [], _ => []
  | g :: t, l =>
    let r := expandRec (leAt l 0 8) 64 (l.drop 8)
    (g, r.1) :: parseRecs t r.2

/-- A segment's header fields (R263). -/
structure SegHdr where
  crc : Nat
  prev : Nat
  seq : Nat
  nrec : Nat
  len : Nat
  cell : Nat
  attempt : Nat
  slice : Nat
  kind : Nat
  epoch : Nat
  deriving DecidableEq, Repr

/-- The header of a segment's bytes. -/
def segHdr (b : Bytes) : SegHdr :=
  let h := leAt b 0 32
  { crc := bits h 255 224, prev := bits h 191 160, seq := bits h 159 128, nrec := bits h 122 112,
    len := bits h 106 96, cell := bits h 88 64, attempt := bits h 63 56, slice := bits h 55 52,
    kind := bits h 51 48, epoch := bits h 47 0 }

/-- The granules of a segment's bitmap. -/
def segGrans (b : Bytes) : List Nat := setBitsOf 1024 (leAt b 32 128)

/-- The records of a segment. -/
def segRecs (b : Bytes) : List (Nat × Bytes) := parseRecs (segGrans b) (b.drop 160)

/-- The CRC of a segment with its own field taken as zero. -/
def segCrc (b : Bytes) : Nat := crc32 (slice b 0 28 ++ List.replicate 4 0 ++ b.drop 32)

/-- SEG_CRC agrees. -/
def segOk (b : Bytes) : Bool := (segHdr b).crc == segCrc b

/-- A segment's bytes from its fields and records (R263, R264). -/
def buildSeg (h : SegHdr) (recs : List (Nat × Bytes)) : Bytes :=
  let body := recs.flatMap fun r => recordOf r.2
  let len := ceilDiv (160 + body.length) 64
  let map := (recs.map fun r => 2 ^ r.1).sum
  let v := at' h.prev 160 + at' h.seq 128 + at' recs.length 112 + at' len 96 + at' h.cell 64 + at' h.attempt 56 +
    at' h.slice 52 + at' h.kind 48 + h.epoch
  let b := leBytes 32 v ++ leBytes 128 map ++ body
  let b := b ++ List.replicate (64 * len - b.length) 0
  leBytes 32 (v + at' (segCrc b) 224) ++ b.drop 32

/-- The granules of a cell from granule g on, each XORed with the records that name it; n bounds the granules. -/
def xorRecs (recs : List (Nat × Bytes)) : Nat → Nat → Bytes → Bytes
  | 0, _, c => c
  | n + 1, g, c => recs.foldl (fun b r => if r.1 = g then xorBytes b r.2 else b) (c.take 64) ++ xorRecs recs n (g + 1) (c.drop 64)

/-- A cell with granule records XORed into it (R258). -/
def applyRecs (cell : Bytes) (recs : List (Nat × Bytes)) : Bytes := xorRecs recs 1024 0 cell

/-- The cell that holds records at their granules and zero elsewhere (R258). -/
def deltaCell (recs : List (Nat × Bytes)) : Bytes := applyRecs (List.replicate cellSize 0) recs

/-! ## Epochs (R16, R27, R142) -/

/-- An epoch that nothing has named yet. -/
def Epoch.new (e : Nat) : Epoch :=
  { num := e, opened := false, phase := 0, clean := true, capQ := 0, capIdx := 0, armTbl := false, armUcode := false,
    reports := [], own := 0, told := 0, announced := false, seeds := [], droop0 := [], scaled := [] }

/-- The record of an epoch, if this member has one. -/
def epochRec (s : State) (e : Nat) : Option Epoch := s.cod.epochs.find? fun x => x.num == e

/-- The record of an epoch. -/
def epochOf (s : State) (e : Nat) : Epoch := (epochRec s e).getD (Epoch.new e)

/-- A command has opened the epoch, and it has not capped or been rolled back. -/
def isOpen (s : State) (e : Nat) : Bool := (epochOf s e).opened && decide ((epochOf s e).phase < 2)

/-- The state with an epoch's record stored. -/
def setEpoch (s : State) (x : Epoch) : State :=
  let others := s.cod.epochs.filter fun y => y.num != x.num
  setCod s { s.cod with epochs := others ++ [x] }

/-- Epoch verdict of R16 and R142: 0 accepted, 1 held, 2 refused. -/
def epochCheck (s : State) (e : Nat) : Nat :=
  let c := capped s
  if e = c + 1 ∨ e = c + 2 then 0 else if e = c + 3 then 1 else 2

/-- ATTEMPT of an epoch on this member (R283). -/
def attemptOf (s : State) (e : Nat) : Nat := get s.cod.attempts e

/-- The epochs the member has open beyond the capped one, older first. -/
def uncapped (s : State) : List Nat := [capped s + 1, capped s + 2]

/-- The member's cap report for an epoch becomes unclean (R18, R271). -/
def markUnclean (s : State) (e : Nat) : State := setEpoch s { epochOf s e with clean := false }

/-! ## The seal's copies (R413 to R415) -/

/-- A segment this member wrote to a cell of its own rank. -/
def Seg.mine (g : Seg) (s : State) : Bool := g.own && g.rank == cmbRank s

/-- The stored bytes of data cell d in HOME's numbering: of the own rank, or the decoded copy of a kept rank's cell. -/
def homeCell (s : State) (d : Nat) : Bytes := if isKept d then keptBytes s d else dataCell s d

/-- The own segments that hold records of data cell d, in HOME's numbering. -/
def segsOf (s : State) (d : Nat) : List Seg :=
  s.cod.segs.filter fun g => g.own && g.kind < 3 && g.rank == srcRank s d && g.cell == d % 2 ^ 25

/-- Data cell d as it stood when epoch c had capped: the records of the epochs above c XORed out (R28, R267). -/
def dataAt (s : State) (c d : Nat) : Bytes :=
  let logged := ((segsOf s d).filter fun g => decide (c < g.epoch)).foldl
    (fun b g => applyRecs b (segRecs (segBytes s g))) (homeCell s d)
  (s.cod.open_.filter fun o => o.d == d).foldl (fun b o => applyRecs b o.recs) logged

/-- Data cell d as it stood at the capped epoch (R28, R267). -/
def dataCapped (s : State) (d : Nat) : Bytes := dataAt s (capped s) d

/-- The state with the spine changed. -/
def setSpine (s : State) (x : Spine) : State := { s with spine := x }

/-- Owner of the spine's and the seal's port requests. -/
def spineOwner : Nat := 21

/-- Board-tier slot of image cell c of a half of the seal-in region. -/
def sealSlot (s : State) (half c : Nat) : Nat := rd s R.SPN_SEALIN_BASE + half * rd s R.SPN_SEALIN_CELLS + c

/-- Bytes written to a board-tier slot with the requests of the access. -/
def boardStore (s : State) (owner slot : Nat) (b : Bytes) : State :=
  tierRequest (boardWrite s slot 0 b) owner true slot 0 b.length

/-- The epoch that a half of the seal-in region holds is set. -/
def setHeld (s : State) (half e : Nat) : State :=
  setSpine s { s.spine with held := (s.spine.held.filter fun h => h.1 != half) ++ [(half, e)] }

/-- The 16-byte sub-header of R415 and R416. -/
def sealHdr (kind e half c : Nat) : Bytes := leBytes 16 (e + at' half 48 + at' c 52 + at' kind 120)

/-- An image cell goes to its store: the own seal-in region, or the peer on VC7. -/
def sealPut (s : State) (x : SealRun) (c : Nat) (b : Bytes) : State :=
  if x.peer = 0xFFF then boardStore (setHeld s x.half x.epoch) spineOwner (sealSlot s x.half c) b
  else sendMsg s x.peer 0x0E 0 (sealHdr 0 x.epoch x.half c ++ b ++ leBytes 4 (crc32 b))

/-- Data cell d is copied in the capped view. -/
def sealCell (s : State) (x : SealRun) (d : Nat) : State :=
  let b := dataCapped s d
  sealPut (setSpine s { s.spine with run := some { x with crcs := put x.crcs d (crc64 b), reading := x.reading.filter (· != d) } }) x d b

/-- The reads of data cell d go out. -/
def sealRead (s : State) (d : Nat) : State :=
  memRequest s spineOwner false false (dataPlace s d).1 ((dataPlace s d).2 * cellSize) cellSize

/-- Data cells that epochs above e have written (R267). -/
def cellsAbove (s : State) (e : Nat) : List Nat :=
  (((s.cod.segs.filter fun g => g.own && decide (g.kind < 3) && g.rank == cmbRank s && decide (e < g.epoch)).map (·.cell)) ++ ((s.cod.open_.filter fun o => decide (e < o.epoch)).map (·.d))).eraseDups

/-- A seal still needs the log records of cells that later epochs had written when it began (R413). -/
def sealOwes (s : State) : Bool :=
  match s.spine.run with
  | some x => x.phase == 0 && x.late.any fun d => !x.crcs.any fun e => e.1 == d
  | none => false

/-- A write of a later epoch waits while the seal copies its cell out of order (R413). -/
def sealCow (s : State) (d e : Nat) : State :=
  match s.spine.run with
  | none => s
  | some x =>
    if x.phase ≠ 0 ∨ e ≤ x.epoch ∨ isKept d ∨ x.cells ≤ d then s
    else if x.reading.contains d then sealCell (count s C.SPN_SEAL_COW) x d
    else if d < x.next ∨ x.ahead.contains d then s
    else sealCell (sealRead (count s C.SPN_SEAL_COW) d) { x with ahead := x.ahead ++ [d] } d

/-! ## Writing coded cells (R20, R21, R182, R268) -/

/-- The open cell of a thread's row visit, if there is one. -/
def openOf (s : State) (th d : Nat) : Option OpenCell := s.cod.open_.find? fun o => o.thread == th && o.d == d

/-- A slot is being copied: by a relocation of the slot, or to a remap target (R399, R401). -/
def slotCopied (s : State) (p : Nat × Nat) : Bool :=
  let q := relocate s p.1 p.2
  s.hl.copies.any fun c =>
    if c.owner = 112 then c.stk == p.1 && c.place == p.2 else c.stk == q.1 && c.place / 16 == q.2

/-- A coded cell a copy or a forager's read holds: a data cell as a row does, a parity cell as the cell lock does (R397, R423,
R424). -/
def cellHeld (s : State) (par : Bool) (c : Nat) : Bool :=
  slotCopied s (if par then parPlace s c else dataPlace s c) || s.hl.scrub.any fun x => x.2.1 == par && x.2.2 == c

/-- A cell another row is still writing (R197), or a copy or the forager holds. -/
def openElsewhere (s : State) (th d : Nat) : Bool :=
  (s.cod.open_.any fun o => o.thread != th && o.d == d) || cellHeld s false d

/-- A reservation of a thread for data cell d fails: one event a stall episode, FLAGS[3] when no older uncapped epoch exists
(R21, R22, R269). -/
def logStall (s : State) (th d e : Nat) : State :=
  let s := count s (C.SLC_UPD_STALL (dataSlice s d))
  if s.cod.stalls.contains (th, d) then s
  else
    let selfLim := e ≤ capped s + 1 || !isOpen s (capped s + 1)
    let s := count (setCod s { s.cod with stalls := s.cod.stalls ++ [(th, d)] }) C.COD_LOG_STALLS
    event s 3 0x06 0x0F (if selfLim then 1 else 0) e 0

/-- A row opens a data cell for writing with room for g granules; none when the reservation fails (R268). -/
def openCell (s : State) (th visit d e kind g : Nat) : Option State :=
  match openOf s th d with
  | some _ => some s
  | none =>
    let sl := dataSlice s d
    if canReserve s sl e g then
      let s := sealCow s d e
      some (setCod s { s.cod with stalls := s.cod.stalls.filter (· != (th, d)), open_ := s.cod.open_ ++
        [{ thread := th, visit := visit, d := d, slice := sl, epoch := e, kind := kind,
           reserved := reserveBytes g, recs := [], units := [] }] })
    else none

/-- A delta merged into an open cell's records by granule, ascending. -/
def addRec (g : Nat) (d : Bytes) : List (Nat × Bytes) → List (Nat × Bytes)
  | [] => [(g, d)]
  | (h, x) :: t => if g < h then (g, d) :: (h, x) :: t else if g = h then (g, xorBytes x d) :: t else (h, x) :: addRec g d t

/-- Bytes the records of granules below g take. -/
def recsBelow (g : Nat) (recs : List (Nat × Bytes)) : Nat :=
  ((recs.filter fun r => decide (r.1 < g)).map fun r => (recordOf r.2).length).sum

/-- The delta of a granule enters an open cell's segment in the log: its records from that granule on are written, in units taken
from the reservation (R20, R263). The segment's header follows when it closes. -/
def logRecord (s : State) (o : OpenCell) (g : Nat) (dl : Bytes) : State :=
  let recs := addRec g dl o.recs
  let b := List.replicate 160 0 ++ recs.flatMap fun r => recordOf r.2
  let need := ceilDiv b.length 64
  let r := allocUnits s o.epoch (need / qUnits + 4) (share s o.slice) (need - o.units.length)
  let units := o.units ++ r.1
  let first := (160 + recsBelow g recs) / 64
  let s := setShare s o.slice r.2
  let s := setCod s { s.cod with open_ := s.cod.open_.map fun x =>
    if x.thread = o.thread ∧ x.d = o.d then { x with recs := recs, units := units } else x }
  writeUnits s o.slice (units.drop first) (b.drop (64 * first))

/-- One granule of an open data cell written: its delta enters the log, then the data is written. A granule that does not
change is neither logged nor written (R20, R180). -/
def writeGran (s : State) (th d g : Nat) (new : Bytes) : State :=
  let p := dataPlace s d
  let a := p.2 * cellSize + 64 * g
  let old := if isKept d then slice (keptBytes s d) (64 * g) 64 else hbRead s p.1 a 64
  if old = new then s
  else
    let s := match openOf s th d with
      | some o => logRecord s o g (xorBytes old new)
      | none => s
    if isKept d then setKept s d (64 * g) new else memWrite s th false p.1 a new

/-- The drain stream of a sender rank, slice and epoch at this attempt (R272). -/
def outOf (s : State) (src sl e : Nat) : DrainOut :=
  (s.cod.outs.find? fun o => o.src == src && o.slice == sl && o.epoch == e && o.attempt == attemptOf s e).getD
    { src := src, slice := sl, epoch := e, attempt := attemptOf s e, next := 0, sent := [], acked := [], tries := [] }

/-- The state with a drain stream stored. -/
def setOut (s : State) (o : DrainOut) : State :=
  let others := s.cod.outs.filter fun x => !(x.src == o.src && x.slice == o.slice && x.epoch == o.epoch && x.attempt == o.attempt)
  setCod s { s.cod with outs := others ++ [o] }

/-- Segments this member wrote to a cell of a rank in an epoch, in log order. -/
def cellSegs (s : State) (rank e kind d : Nat) : List Seg :=
  s.cod.segs.filter fun g => g.own && g.rank == rank && g.epoch == e && decide (g.kind < 3) == decide (kind < 3) && g.cell == d

/-- SLICE of a segment's stream. -/
def segStream (g : Seg) : Nat := if g.kind = 3 then 12 else g.slice

/-- Whether the parity of a segment's stripe, or its SCALE mirror, lies with a rank. -/
def segTo (s : State) (g : Seg) (r : Nat) : Bool :=
  if g.kind = 3 then (otherRanks s ++ mirrorHolders s).contains r
  else (parHolders (cmbN s) (cmbM s) (cmbFixed s) (dataStripe (cmbN s) (cmbM s) (cmbFixed s) g.rank g.cell)).contains r

/-- SEQ of a segment toward a holder: a holder receives only the segments of a stream whose parity it holds, and it counts these
without a gap (R272, R274; DEDUCED, notes/assumptions/76). -/
def holderSeq (s : State) (g : Seg) (r : Nat) : Nat :=
  ((s.cod.segs.takeWhile (· != g)).filter fun x => x.own && x.rank == g.rank && x.epoch == g.epoch && segStream x == segStream g &&
    segTo s x r).length

/-- The locator entry of a data cell for an epoch is written (R266). -/
def setLocator (s : State) (d e off : Nat) : State :=
  let k := max 1 (codK s)
  let a := rd s R.COD_LOG_BASE * cellSize + 16 * (d / k) + 8 * (e % 2)
  memWrite s s.cod.owner false (dataPlace s d).1 a (leBytes 8 (at' (e % 2 ^ 16) 32 + (1 + off)))

/-- A segment appended to a slice's log for a command of queue q, in the units its records already lie in and in further ones: the state
with its bytes stored and its record kept. -/
def logSegment (s : State) (sl e kind cell rank : Nat) (own : Bool) (q seq prev : Nat) (recs : List (Nat × Bytes))
    (units : List Nat) : State :=
  let b := buildSeg { crc := 0, prev := prev, seq := seq, nrec := recs.length, len := 0, cell := cell,
                      attempt := attemptOf s e, slice := if kind = 3 then 12 else sl, kind := kind, epoch := e } recs
  let n := b.length / 64
  let r := allocUnits s e (n / qUnits + 4) (share s sl) (n - units.length)
  let us := units.take n ++ r.1
  -- the records that are in the log already are not written again
  let old := segBytes s { slice := sl, off := 0, units := us, len := n, epoch := e, kind := kind, cell := cell, seq := seq,
                          attempt := 0, nrec := 0, rank := rank, own := own, queue := q }
  let k := if old.drop 192 = b.drop 192 then 3 else n
  let s := writeUnits (setShare s sl r.2) sl (us.take k) (b.take (64 * k))
  let g : Seg := { slice := sl, off := us.headD 0, units := us, len := n, epoch := e, kind := kind, cell := cell, seq := seq,
                   attempt := attemptOf s e, nrec := recs.length, rank := rank, own := own, queue := q }
  setCod s { s.cod with segs := s.cod.segs ++ [g] }

/-- A KIND 1 write of a cell ended: the epoch's digest covers the cell with its new CRC (R431). -/
def noteDigest (s : State) (e kind d crc : Nat) : State :=
  match kind, objOfData s d with
  | 1, some (o, k) =>
    let rest := s.cod.digs.filter fun x => !(x.epoch == e && x.obj == o && x.cell == k)
    setCod s { s.cod with digs := rest ++ [{ epoch := e, obj := o, cell := k, crc := crc }] }
  | _, _ => s

/-- A segment is logged. Those of its parity holders that are DEGRADED never get it, and CMB_KEEP_SKIP counts them (R378). -/
def noteLogged (s : State) (rank d : Nat) : State :=
  let hs := parHolders (cmbN s) (cmbM s) (cmbFixed s) (dataStripe (cmbN s) (cmbM s) (cmbFixed s) rank d)
  countN (count s C.COD_SEG_LOGGED) C.CMB_KEEP_SKIP (hs.filter fun r => rankState s r == 5).length

/-- An open cell closes: its segment is logged, the reservation's unused part returns, and the ledger entry is
rewritten with the new TAG and CRC (R182, R262, R268). A kept rank's cell leaves its decoded copy and no ledger entry
(R377). -/
def closeCell (s : State) (o : OpenCell) : State :=
  let s := setCod s { s.cod with open_ := s.cod.open_.filter fun y => !(y.thread == o.thread && y.d == o.d) }
  let recs := o.recs.filter fun r => r.2.any (· != 0)
  let d := o.d % 2 ^ 25
  let src := srcRank s o.d
  let crc := crc64 (keptBytes s o.d)
  let s := if isKept o.d then setCod s { s.cod with kept := s.cod.kept.filter fun c => c.1 != o.d } else s
  if recs = [] then s
  else
    let ds := outOf s src o.slice o.epoch
    let prev := match (cellSegs s src o.epoch 1 d).getLast? with
      | some g => 1 + g.off
      | none => 0
    let q := if o.thread < 8 then (s.seq.threads.getD o.thread Thread.idle).queue else 16
    let s := logSegment s o.slice o.epoch o.kind d src true q ds.next prev recs o.units
    let off := (s.cod.segs.getLast?.map (·.off)).getD 0
    let s := noteLogged (setOut s { ds with next := ds.next + 1 }) src d
    if isKept o.d then noteDigest s o.epoch o.kind o.d crc
    else
      let s := setLocator s d o.epoch off
      let e := ledger s d
      let e := setBits (setBits e 111 96 (o.epoch % 2 ^ 16)) 63 0 (lCrc e ^^^ crc64 (deltaCell recs))
      noteDigest (setLedger s d e) o.epoch o.kind d (lCrc e)

/-- Every open cell of a thread closes, and its stall episodes end. -/
def closeThread (s : State) (th : Nat) : State :=
  let s := setCod s { s.cod with stalls := s.cod.stalls.filter fun x => x.1 != th }
  (s.cod.open_.filter fun o => o.thread == th).foldl closeCell s

/-! ## Views (R28, R267, R278) -/

/-- Data cell d in a view: capped (false) or live (true). -/
def dataView (s : State) (live : Bool) (d : Nat) : Bytes := if live then homeCell s d else dataCapped s d

/-- The slice whose log share holds a parity cell's B slot, or its U slot: that which did the cell's coding work when the slot was
allocated, also after a relocation of the cell (R274, R401). -/
def undoSlice (s : State) (p : Nat) (isU : Bool) : Nat :=
  match s.cod.undo.find? fun u => u.k == p && u.isU == isU with
  | some u => u.slice
  | none => parSlice s p

/-- The bytes of a parity cell's B slot. -/
def bSlot (s : State) (p : Nat) : Bytes := slotBytes s (undoSlice s p false) (xUndoB (ledgerX s p) - 1)

/-- The CRC an undo list holds for a parity cell's B slot. -/
def bSlotCrc (s : State) (p : Nat) : Nat := ((s.cod.undo.find? fun u => u.k == p && !u.isU).map (·.crc)).getD 0

/-- Parity cell p in a view: the B slot is the capped view when there is one (R278). -/
def parView (s : State) (live : Bool) (p : Nat) : Bytes :=
  if live || xUndoB (ledgerX s p) == 0 then parCell s p else bSlot s p

/-! ## Parity application (R274) -/

/-- The product cell of records by a coefficient. -/
def product (c : Nat) (recs : List (Nat × Bytes)) : List (Nat × Bytes) := recs.map fun r => (r.1, gfScale c r.2)

/-- A granule of a parity cell XORed in place. -/
def xorGran (s : State) (st a : Nat) (d : Bytes) : State := memWrite s s.cod.owner true st a (xorBytes (hbRead s st a 64) d)

/-- Undo entries without a cell's entry of one kind in an epoch. -/
def dropUndo (l : List Undo) (e p : Nat) (isU : Bool) : List Undo :=
  l.filter fun u => !(u.epoch == e && u.k == p && u.isU == isU)

/-- An entry of an undo list is stored where its epoch's blocks hold it (DESIGN CHOICE of its 16 bytes, notes/assumptions/76). -/
def storeUndo (s : State) (u : Undo) : State :=
  if u.place = 0 then s
  else memWrite s s.cod.owner true u.slice (rd s R.COD_LOG_BASE * cellSize + 16 * (u.place - 1)) (leBytes 8 u.k ++ leBytes 8 u.crc)

/-- The place of the next entry of an epoch's undo list and the share with it taken: behind the list's last entry, or in a unit of its
own; none without a free unit. -/
def undoPlace (s : State) (sl e : Nat) (x : Share) : Option (Nat × Share) :=
  let last := (((s.cod.undo.filter fun u => u.slice == sl && u.epoch == e).getLast?).map (·.place)).getD 0
  if last % 4 ≠ 0 then some (last + 1, x)
  else match allocUnits s e 4 x 1 with
  | (u :: _, x) => some (4 * u + 1, x)
  | ([], _) => none

/-- An entry appended to an epoch's undo list (R274). -/
def noteUndo (s : State) (sl e k crc : Nat) (isU : Bool) : State :=
  let r := (undoPlace s sl e (share s sl)).getD (0, share s sl)
  let u : Undo := { slice := sl, epoch := e, k := k, crc := crc, isU := isU, place := r.1 }
  let s := setShare s sl r.2
  storeUndo (setCod s { s.cod with undo := s.cod.undo ++ [u] }) u

/-- The B copy of a parity cell at its first application (R274 step 5). -/
def copyB (s : State) (p : Nat) : State :=
  let x := ledgerX s p
  if xUndoB x ≠ 0 then s
  else
    let sl := parSlice s p
    let cell := parCell s p
    match allocSlot s (capped s + 1) (share s sl) with
    | none => s
    | some (idx, sh) =>
      let s := setSlot (setShare s sl sh) sl idx cell
      let s := noteUndo s sl (capped s + 1) p (crc64 cell) false
      setLedgerPX s p (ledgerP s p) (setBits x 95 64 (1 + idx))

/-- The U slot of a parity cell takes a segment's products, the first time from the U reserve (R274 step 7). -/
def applyU (s : State) (p e : Nat) (prod : List (Nat × Bytes)) : State :=
  let sl := parSlice s p
  let x := ledgerX s p
  let dc := crc64 (deltaCell prod)
  if xUndoU x = 0 then
    let sh := share s sl
    match allocSlot s e { sh with uLeft := sh.uLeft - 1 } with
    | none => s
    | some (idx, sh) =>
      let s := setSlot (setShare s sl sh) sl idx (deltaCell prod)
      let s := noteUndo s sl e p dc true
      setLedgerPX s p (ledgerP s p) (setBits x 127 96 (1 + idx))
  else
    let sl := undoSlice s p true
    let s := setSlot s sl (xUndoU x - 1) (applyRecs (slotBytes s sl (xUndoU x - 1)) prod)
    match s.cod.undo.find? fun u => u.epoch == e && u.k == p && u.isU with
    | some u =>
      let v := { u with crc := u.crc ^^^ dc }
      storeUndo (setCod s { s.cod with undo := s.cod.undo.map fun y => if y = u then v else y }) v
    | none => s

/-- A parity cell's undo slots and their list entries for an application of epoch e can be had together (R274 steps 5 and 7). By the
floor of R268 they can, unless the log is smaller than the floor itself (R32). -/
def slotsReady (s : State) (p e : Nat) : Bool :=
  let sl := parSlice s p
  let x := ledgerX s p
  let take (ep : Nat) (sh : Share) : Option Share := (allocSlot s ep sh).bind fun r => (undoPlace s sl ep r.2).map (·.2)
  let b := if xUndoB x ≠ 0 then some (share s sl) else take (capped s + 1) (share s sl)
  (b.bind fun sh => if e ≠ capped s + 2 ∨ xUndoU x ≠ 0 then some sh else take e sh).isSome

/-- A segment's products applied to parity cell p for data position i and epoch e (R274 steps 5 to 8). -/
def applyParity (s : State) (p j i e : Nat) (recs : List (Nat × Bytes)) : State :=
  let prod := product (coef (cmbM s) j i) recs
  let s := copyB s p
  let pl := parPlace s p
  let s := prod.foldl (fun s r => xorGran s pl.1 (pl.2 * cellSize + 64 * r.1) r.2) s
  let s := if e = capped s + 2 then applyU s p e prod else s
  let v := ledgerP s p
  let v := setBits (setBits v 111 96 (e % 2 ^ 16)) 63 0 (lCrc v ^^^ crc64 (deltaCell prod))
  let x := ledgerX s p
  setLedgerPX s p v (setBits x (4 * i + 3) (4 * i) (xPos x i ||| 2 ^ (e % 2)))

/-! ## The cap's conversions (R270, R282) and the undo (R283) -/

/-- The conversion of one parity cell at the cap of e (R282). -/
def convertPar (s : State) (e p : Nat) : State :=
  let sl := undoSlice s p true
  let x := ledgerX s p
  let younger := (List.range 15).any fun i => bit (xPos x i) ((e + 1) % 2)
  let clr (x : Nat) := (List.range 15).foldl
    (fun x i => setBits x (4 * i + 3) (4 * i) (xPos x i &&& (15 - 2 ^ (e % 2)))) x
  let v := setBits (ledgerP s p) 127 112 (e % 2 ^ 16)
  if younger then
    let u := xUndoU x - 1
    let old := (s.cod.undo.find? fun y => y.epoch == e + 1 && y.k == p && y.isU).getD
      { slice := sl, epoch := e + 1, k := p, crc := 0, isU := true, place := 0 }
    let new := { old with crc := lCrc v ^^^ old.crc, isU := false }
    let s := setSlot s sl u (xorBytes (parCell s p) (slotBytes s sl u))
    let s := storeUndo (setCod s { s.cod with undo := (dropUndo s.cod.undo (e + 1) p false).map fun y =>
      if y = old then new else y }) new
    setLedgerPX s p v (setBits (setBits (clr x) 95 64 (xUndoU x)) 127 96 0)
  else setLedgerPX s p v (setBits (setBits (clr x) 95 64 0) 127 96 0)

/-- The cells tagged at the cap of e, with skip leaving parity already converted (R381): CAP_TAG in every data entry its segments name, then every parity cell of its
undo list (R282). -/
def convertCap (s : State) (e : Nat) (skip : Bool) : State :=
  let ds := ((s.cod.segs.filter fun g => g.mine s && g.kind < 3 && g.epoch == e).map (·.cell)).eraseDups
  let s := ds.foldl (fun s d => setLedger s d (setBits (ledger s d) 127 112 (e % 2 ^ 16))) s
  let ps := ((s.cod.undo.filter fun u => u.epoch == e).map (·.k)).eraseDups
  ps.foldl (fun s p => if skip && lCapTag (ledgerP s p) == e % 2 ^ 16 then s else convertPar s e p) s

/-- Every block of an epoch returns to the free queue, in allocation order (R266, R270). -/
def freeEpochBlks (e : Nat) (x : Share) : Share :=
  { x with free := x.free ++ (x.blks.filter fun b => b.epoch == e).map (·.idx),
           blks := x.blks.filter fun b => b.epoch != e }

/-- The key of a byte of a SCALE object's capped copy. -/
def scaleKey (rank o b : Nat) : Nat := (rank * 2 ^ 19 + o) * 2 ^ 21 + b

/-- The records of a KIND 3 segment applied to the mirror of a rank's capped copy (R277). DEDUCED (notes/assumptions/112): CELL has 4 bits
for the object's cell, so the records of a 17th cell fall on the copy of the first. -/
def applyScale (m : Mem) (rank cell : Nat) (recs : List (Nat × Bytes)) : Mem :=
  let o := bits cell 18 0
  let c := bits cell 22 19
  recs.foldl (fun m r =>
    let k := scaleKey rank o (c * cellSize + 64 * r.1)
    mwrite m k (xorBytes (mread m k 64) r.2)) m

/-- The received and own KIND 3 segments of an epoch take effect on the mirrors, and every own object that the fetch of its CAP
compared has a capped copy from here on (R113, R277). -/
def capScale (s : State) (e : Nat) : State :=
  let gs := s.cod.segs.filter fun g => g.kind == 3 && g.epoch == e
  let s := gs.foldl (fun s g =>
    setCod s { s.cod with scaleCap := applyScale s.cod.scaleCap g.rank g.cell (segRecs (segBytes s g)) }) s
  let new := (epochOf s e).scaled.filter fun o => objValid s o && !s.cod.scaleHas.contains o
  setCod s { s.cod with scaleHas := s.cod.scaleHas ++ new }

/-- A SCALE object's own copy in the mirror is zero, and it has no capped copy: at its creation within a job and at its deletion
(R113; DEDUCED, notes/assumptions/77). -/
def dropScale (s : State) (o : Nat) : State :=
  let k := scaleKey (rd s R.CMB_RANK_RANK) o 0
  setCod s { s.cod with scaleHas := s.cod.scaleHas.filter (· != o),
                        scaleCap := s.cod.scaleCap.filter fun c => !(decide (k ≤ c.1) && decide (c.1 < k + 2 ^ 21)) }

/-- What belongs to an epoch in the log is released: its blocks, segments, undo entries and streams (R270). -/
def releaseEpoch (s : State) (e : Nat) : State :=
  setCod s { s.cod with
    shares := s.cod.shares.map (freeEpochBlks e),
    segs := s.cod.segs.filter fun g => g.epoch != e,
    undo := s.cod.undo.filter fun u => u.epoch != e,
    outs := s.cod.outs.filter fun o => o.epoch != e,
    ins := s.cod.ins.filter fun o => o.epoch != e,
    badSegs := s.cod.badSegs.filter fun x => x.2.2 != e,
    digs := s.cod.digs.filter fun x => x.epoch != e }

/-- One own segment of KIND 1 or 2 XORed back into its cell (R283 step 1). -/
def undoSeg (s : State) (g : Seg) : State :=
  let recs := segRecs (segBytes s g)
  let p := dataPlace s g.cell
  let s := recs.foldl (fun s r => xorGran s p.1 (p.2 * cellSize + 64 * r.1) r.2) s
  let e := ledger s g.cell
  setLedger s g.cell (setBits (setBits e 63 0 (lCrc e ^^^ crc64 (deltaCell recs))) 111 96 (lCapTag e))

/-- The records of a cell whose writes were cut short, XORed back: its ledger entry is as it was (R20, R283 step 1). -/
def undoOpen (s : State) (o : OpenCell) : State :=
  if isKept o.d then s
  else o.recs.foldl (fun s r => xorGran s (dataPlace s o.d).1 ((dataPlace s o.d).2 * cellSize + 64 * r.1) r.2) s

/-- One parity cell restored from its B slot (R283 step 2). -/
def undoPar (s : State) (u : Undo) : State :=
  let x := ledgerX s u.k
  if xUndoB x = 0 then s
  else
    let pl := parPlace s u.k
    let b := slotBytes s u.slice (xUndoB x - 1)
    let s := memWrite s s.cod.owner true pl.1 (pl.2 * cellSize) b
    let v := ledgerP s u.k
    -- a B slot that passes its check makes the cell correct (R423), unless its entry was lost (R394)
    let v := if crc64 b = u.crc ∧ !s.hl.lost.contains (true, u.k) then setBits v 67 67 0 else v
    setLedgerPX s u.k (setBits (setBits v 63 0 u.crc) 111 96 (lCapTag v)) 0

/-- The undo of every uncapped epoch: the member stands at its capped epoch again (R283). -/
def undoAll (s : State) : State :=
  let s := s.cod.open_.reverse.foldl undoOpen s
  let s := (s.cod.segs.filter fun g => g.mine s && g.kind < 3 && decide (capped s < g.epoch)).reverse.foldl undoSeg s
  let s := (s.cod.undo.filter fun u => u.epoch == capped s + 1 && !u.isU).foldl undoPar s
  let s := [capped s + 1, capped s + 2].foldl
    (fun s e => setCod (releaseEpoch s e) { (releaseEpoch s e).cod with
      attempts := put s.cod.attempts e ((attemptOf s e + 1) % 256) }) s
  setCod s { s.cod with shares := s.cod.shares.map fun x => { x with uLeft := 0, uEpoch := 0 },
                        open_ := [], stalls := [] }

/-! ## Grants and acknowledgements (R273, R275) -/

/-- The member's grant as parity holder: C + 1, or C + 2 with the U reserve taken. -/
def grantOf (s : State) : Nat :=
  if s.cod.shares.any fun x => x.uEpoch == capped s + 3 then capped s + 2 else capped s + 1

/-- A drain acknowledgement message (R275). -/
def ackMsg (e sl att ackSeq grant : Nat) (only : Bool) : Bytes :=
  leBytes 32 (e + at' sl 48 + at' att 56 + at' ackSeq 64 + at' grant 96 + at' (b2n only) 144)

/-- A message of TYPE 8 to a rank of the comb. -/
def sendRank (s : State) (r type flow : Nat) (b : Bytes) : State :=
  match rankPeer s r with
  | some p => sendMsg s p type flow b
  | none => s

/-- A grant change told to every other rank (R275). -/
def sendGrants (s : State) : State :=
  (otherRanks s).foldl (fun s r => sendRank s r 8 0 (ackMsg 0 0 0 0 (grantOf s) true)) (wr s R.COD_GRANT (grantOf s))

/-- n blocks from the head of a free queue for an epoch. -/
def takeBlks (ep : Nat) : Nat → Share → Share
  | 0, x => x
  | n + 1, x => takeBlks ep n ((takeBlk x ep).getD x)

/-- The U reserve: 64 KiB for every parity cell on each stack, in blocks of epoch C + 2 taken from the free queue, when each
share's free space covers it beyond the floor (R273). uEpoch keeps the reserve's epoch plus one. -/
def takeReserve (s : State) : Option State :=
  let e := capped s + 2
  let blks (sl : Nat) := ceilDiv (parCellsOn s sl).length 4
  let sls := (List.range 12).filter fun sl => bit (rd s R.CMB_STKMASK) sl
  if sls.any fun sl => (share s sl).uEpoch == e + 1 then none
  else if sls.all fun sl => decide (blks sl + blocksDue s sl e 0 ≤ (share s sl).free.length) then
    some (sls.foldl (fun s sl =>
      setShare s sl { takeBlks e (blks sl) (share s sl) with uLeft := (parCellsOn s sl).length, uEpoch := e + 1 }) s)
  else none

/-! ## Capped-view reads accepted before a cap (R27, R29) -/

/-- The records of epoch e that the capped views of unanswered window reads XOR out once its log space is released. -/
def keepOld (s : State) (e : Nat) : State :=
  let kept (r : Nat) : Nat := ((List.range 3).find? fun k =>
    rdb s (R.CMB_KEEP_VALID k) && rd s (R.CMB_KEEP_RANK k) == r).elim 0 fun k => (k + 1) * 2 ^ 25
  let gs := (s.cod.segs.filter fun g => g.own && g.kind < 3 && g.epoch == e).map fun g =>
    ((if g.rank = cmbRank s then g.cell else kept g.rank + g.cell), segRecs (segBytes s g))
  { s with hive := { s.hive with wins := s.hive.wins.map (fun w =>
    if bit w.addr 57 ∨ e ≤ w.cap then w else { w with old := w.old ++ gs }) } }

/-- COD_FREE_MIN: free blocks of the share with the fewest (R547). -/
def freeMin (s : State) : Nat :=
  let l := ((List.range 12).filter fun sl => bit (rd s R.CMB_STKMASK) sl).map fun sl => (share s sl).free.length
  l.foldl min (l.headD 0)

end Sys2Proof.Machine
end

