-- ==== Sys2Proof/Machine/Num.lean ====
section
/-! DEFINITION. Number formats and arithmetic (chapter 3): exact dyadic values, one rounding per result,
the conversions, stochastic rounding, the counter-based generator and the reference order. -/

namespace Sys2Proof.Machine

/-- An exact dyadic value: sign, integer significand and exponent of two. -/
structure Dy where
  neg : Bool
  m : Nat
  e : Int
  deriving DecidableEq, Repr

/-- The result of an operation: bits, whether a clamp counter counts it, whether the mask bit is cleared (R77). -/
structure Res where
  v : Nat
  cnt : Bool
  clr : Bool
  deriving DecidableEq, Repr

/-- A result that nothing counts. -/
def Res.plain (v : Nat) : Res := { v := v, cnt := false, clr := false }

/-- The largest finite S32, 0x7F7F_FFFF (R69). -/
def maxS32 : Nat := 0x7F7FFFFF

/-- The sign bit of S32. -/
def sgn32 (neg : Bool) : Nat := if neg then 0x80000000 else 0

/-- Shift left by a signed amount that is not negative where used. -/
def shl (m : Nat) (k : Int) : Nat := m * 2 ^ k.toNat

/-- RNE of (m + sticky) × 2^e to mb fraction bits with least exponent emin: the code without sign, that is
exponent field and fraction together, before any saturation (R73, R76). -/
def roundCode (mb : Nat) (emin : Int) (m : Nat) (e : Int) (sticky : Bool) : Nat :=
  if m = 0 then 0
  else
    let ex : Int := max ((m.log2 : Int) + e) emin
    let u := ex - mb
    let k := u - e
    let base := ((ex - emin).toNat) * 2 ^ mb
    if k ≤ 0 then shl m (-k) + base
    else
      let d := 2 ^ k.toNat
      let q := m / d
      let r := 2 * (m % d)
      let up := decide (r > d) || (r == d && (sticky || q % 2 == 1))
      q + b2n up + base

/-- The exact value of a finite S32 encoding (R69). -/
def dyOf (x : Nat) : Dy :=
  let ef := bits x 30 23
  let f := bits x 22 0
  if ef = 0 then { neg := bit x 31, m := f, e := -149 }
  else { neg := bit x 31, m := f + 2 ^ 23, e := (ef : Int) - 150 }

/-- S32 of a sign and a rounded code: beyond ±MAX it saturates and counts (R76). -/
def pack32 (neg : Bool) (code : Nat) : Res :=
  if maxS32 < code then { v := maxS32 + sgn32 neg, cnt := true, clr := false }
  else Res.plain (code + sgn32 neg)

/-- S32 of an exact dyadic value under RNE; an exact zero keeps the value's sign. -/
def round32 (d : Dy) : Res := pack32 d.neg (roundCode 23 (-126) d.m d.e false)

/-- The exact sum of two dyadic values; an exact zero is +0 unless both are −0 (R74). -/
def dyAdd (a b : Dy) : Dy :=
  let e := min a.e b.e
  let x := shl a.m (a.e - e)
  let y := shl b.m (b.e - e)
  if a.neg = b.neg then { neg := a.neg, m := x + y, e := e }
  else if x = y then { neg := false, m := 0, e := e }
  else if y < x then { neg := a.neg, m := x - y, e := e }
  else { neg := b.neg, m := y - x, e := e }

/-- The exact product of two dyadic values. -/
def dyMul (a b : Dy) : Dy := { neg := a.neg != b.neg, m := a.m * b.m, e := a.e + b.e }

/-! ## The stages' arithmetic (R73 to R78) -/

def fAdd (a b : Nat) : Res := round32 (dyAdd (dyOf a) (dyOf b))
def fMul (a b : Nat) : Res := round32 (dyMul (dyOf a) (dyOf b))
def fFma (a b c : Nat) : Res := round32 (dyAdd (dyMul (dyOf a) (dyOf b)) (dyOf c))

/-- S32 with its sign turned. -/
def fNeg (x : Nat) : Nat := if bit x 31 then x - 0x80000000 else x + 0x80000000

/-- Whether S32 is a zero of either sign. -/
def isZero (x : Nat) : Bool := bits x 30 0 == 0

/-- A key whose order is the order of S32 values with −0 below +0 (R77). -/
def ordKey (x : Nat) : Int := if bit x 31 then -((bits x 30 0 : Nat) : Int) - 1 else (bits x 30 0 : Nat)

def fMax (a b : Nat) : Nat := if ordKey a < ordKey b then b else a
def fMin (a b : Nat) : Nat := if ordKey b < ordKey a then b else a
def fAbs (a : Nat) : Nat := bits a 30 0

/-- Comparison of S32 values with ±0 equal (R77): less, equal. -/
def fLt (a b : Nat) : Bool := !(isZero a && isZero b) && decide (ordKey a < ordKey b)
def fEq (a b : Nat) : Bool := (isZero a && isZero b) || a == b

/-- CLAMP(x, lo, hi) = MIN(MAX(x, lo), hi) (R77). -/
def fClamp (x lo hi : Nat) : Nat := fMin (fMax x lo) hi

/-- The integer square root by Newton steps from above; 64 steps suffice for any number below 2^(2^60). -/
def isqrtFrom : Nat → Nat → Nat → Nat
  | 0, _, x => x
  | f + 1, n, x =>
    let y := (x + n / x) / 2
    if y < x then isqrtFrom f n y else x

/-- ⌊√n⌋. -/
def isqrt (n : Nat) : Nat := if n = 0 then 0 else isqrtFrom 64 n (2 ^ (n.log2 / 2 + 1))

/-- RECIP (R77, R78). -/
def fRecip (x : Nat) : Res :=
  let d := dyOf x
  if d.m = 0 then { v := maxS32 + sgn32 d.neg, cnt := true, clr := false }
  else
    let n := 2 ^ 80
    pack32 d.neg (roundCode 23 (-126) (n / d.m) (-80 - d.e) (n % d.m != 0))

/-- SQRT (R77, R78). -/
def fSqrt (x : Nat) : Res :=
  let d := dyOf x
  if d.m = 0 then Res.plain x
  else if d.neg then { v := 0, cnt := true, clr := true }
  else
    let m := if d.e % 2 = 0 then d.m * 2 ^ 60 else d.m * 2 ^ 61
    let e := if d.e % 2 = 0 then d.e - 60 else d.e - 61
    let r := isqrt m
    pack32 false (roundCode 23 (-126) r (e / 2) (r * r != m))

/-- RSQRT (R77, R78). -/
def fRsqrt (x : Nat) : Res :=
  let d := dyOf x
  if d.m = 0 then { v := maxS32, cnt := true, clr := false }
  else if d.neg then { v := 0, cnt := true, clr := true }
  else
    let m := if d.e % 2 = 0 then d.m else d.m * 2
    let e := if d.e % 2 = 0 then d.e else d.e - 1
    let n := 2 ^ 140
    let r := isqrt (n / m)
    pack32 false (roundCode 23 (-126) r (-70 - e / 2) (r * r * m != n))

/-- Working precision of the transcendental stages, in bits. -/
def precBits : Nat := 320

/-- 2^f in fixed point for f = fr / 2^w below 1: one square root per bit of f, the top bit first. -/
def exp2Frac : Nat → Nat → Nat → Nat → Nat
  | 0, _, _, acc => acc
  | w + 1, fr, root, acc =>
    let root := isqrt (root * 2 ^ precBits)
    let acc := if bit fr w then acc * root / 2 ^ precBits else acc
    exp2Frac w fr root acc

/-- EXP2, correctly rounded (R77, R78). -/
def fExp2 (x : Nat) : Res :=
  let d := dyOf x
  if d.m = 0 then Res.plain 0x3F800000
  else if !d.neg && decide (7 ≤ (d.m.log2 : Int) + d.e) then { v := maxS32, cnt := true, clr := false }
  else if d.neg && (decide (8 ≤ (d.m.log2 : Int) + d.e) || decide (150 * 2 ^ 149 ≤ shl d.m (d.e + 149))) then
    Res.plain 0
  else
    let fx : Int := (if d.neg then -1 else 1) * (shl d.m (d.e + 149) : Nat)
    let n := fx / 2 ^ 149
    let fr := (fx % 2 ^ 149).toNat
    if fr = 0 then pack32 false (roundCode 23 (-126) 1 n false)
    else
      let v := exp2Frac 149 fr (2 * 2 ^ precBits) (2 ^ precBits)
      pack32 false (roundCode 23 (-126) v (n - precBits) true)

/-- Binary digits of log₂ y for y in [1, 2) in fixed point, by repeated squaring. -/
def log2Bits : Nat → Nat → Nat → Nat
  | 0, _, acc => acc
  | k + 1, y, acc =>
    let y2 := y * y / 2 ^ precBits
    if 2 * 2 ^ precBits ≤ y2 then log2Bits k (y2 / 2) (2 * acc + 1) else log2Bits k y2 (2 * acc)

/-- LOG2, correctly rounded (R77, R78). -/
def fLog2 (x : Nat) : Res :=
  let d := dyOf x
  if d.m = 0 then { v := maxS32 + 0x80000000, cnt := true, clr := false }
  else if d.neg then { v := maxS32 + 0x80000000, cnt := true, clr := true }
  else
    let l := d.m.log2
    let ex : Int := (l : Int) + d.e
    if d.m = 2 ^ l then round32 { neg := decide (ex < 0), m := ex.natAbs, e := 0 }
    else
      let y := d.m * 2 ^ precBits / 2 ^ l
      let fr := log2Bits 160 y 0
      let tot : Int := ex * 2 ^ 160 + fr
      if 0 ≤ tot then pack32 false (roundCode 23 (-126) tot.toNat (-160) true)
      else pack32 true (roundCode 23 (-126) ((-tot).toNat - 1) (-160) true)

/-! ## Conditioning and conversions (R75, R80 to R84) -/

/-- Stream-entry conditioning of S32: infinities become ±MAX, a NaN becomes +0 and clears the mask (R75). -/
def condition (x : Nat) : Res :=
  if bits x 30 23 = 0xFF then
    if bits x 22 0 = 0 then { v := maxS32 + sgn32 (bit x 31), cnt := true, clr := false }
    else { v := 0, cnt := true, clr := true }
  else Res.plain x

/-- S32 to W16 (R81). -/
def toW16 (x : Nat) : Res :=
  let d := dyOf x
  let c := roundCode 7 (-126) d.m d.e false
  let s := if d.neg then 0x8000 else 0
  if 0x7F7F < c then { v := 0x7F7F + s, cnt := true, clr := false } else Res.plain (c + s)

/-- W16 to S32, exact (R80). -/
def ofW16 (x : Nat) : Nat := x * 2 ^ 16

/-- S32 to L16 (R77, R83): ⌊512 log₂ x⌋ from the exact 512th power, then half of it rounded. -/
def toL16 (x : Nat) : Res :=
  let d := dyOf x
  if d.m = 0 then Res.plain 0
  else if d.neg then { v := 0, cnt := true, clr := true }
  else
    let t : Int := ((d.m ^ 512).log2 : Int) + 512 * d.e + 65536
    let c := (t + 1) / 2
    if c < 1 then { v := 1, cnt := true, clr := false }
    else if 0xFFFF < c then { v := 0xFFFF, cnt := true, clr := false }
    else Res.plain c.toNat

/-- L16 to S32, correctly rounded: eight square roots give the 256th root (R84). -/
def ofL16 (c : Nat) : Nat :=
  if c = 0 then 0
  else
    let b := c % 256
    let a : Int := (c / 256 : Nat) - 128
    if b = 0 then (round32 { neg := false, m := 1, e := a }).v
    else
      let r := (List.range 8).foldl (fun n _ => isqrt n) (2 ^ (b + 256 * 64))
      (pack32 false (roundCode 23 (-126) r (a - 64) true)).v

/-- An MX element format: fraction bits, least exponent, emax, largest code, width (R71). -/
structure MxFmt where
  mb : Nat
  emin : Int
  emax : Int
  maxCode : Nat
  width : Nat
  deriving DecidableEq, Repr

def mxE4M3 : MxFmt := { mb := 3, emin := -6, emax := 8, maxCode := 0x7E, width := 8 }
def mxE5M2 : MxFmt := { mb := 2, emin := -14, emax := 15, maxCode := 0x7B, width := 8 }
def mxE3M2 : MxFmt := { mb := 2, emin := -2, emax := 4, maxCode := 0x1F, width := 6 }
def mxE2M3 : MxFmt := { mb := 3, emin := 0, emax := 2, maxCode := 0x1F, width := 6 }
def mxE2M1 : MxFmt := { mb := 1, emin := 0, emax := 2, maxCode := 0x7, width := 4 }

/-- Magnitude order within an N:M group: how many elements of the group come before element i, larger magnitudes
first and lower indices first among equals (R82). -/
def mxRank (g : List Nat) (i : Nat) : Nat :=
  ((List.range g.length).filter fun j =>
    let a := fAbs (g.getD j 0)
    let b := fAbs (g.getD i 0)
    decide (b < a) || (a == b && decide (j < i))).length

/-- N:M pruning of one group: which elements stay (R82). -/
def keepNM (n : Nat) (g : List Nat) : List Bool := (List.range g.length).map fun i => decide (mxRank g i < n)

/-- A block of S32 values into MX: element codes, scale code, elements counted (R82). keep says which are not
pruned; a pruned element is +0. -/
def toMx (f : MxFmt) (keep : List Bool) (v : List Nat) : List Nat × Nat × Nat :=
  let kept := (List.range v.length).map fun i => if keep.getD i true then v.getD i 0 else 0
  let amax := kept.foldl (fun a x => max a (fAbs x)) 0
  let d := dyOf amax
  let x : Int := if amax = 0 then -127 else max (-127) (min 127 ((d.m.log2 : Int) + d.e - f.emax))
  let q := kept.map fun y =>
    let dy := dyOf y
    let c := roundCode f.mb f.emin dy.m (dy.e - x) false
    let s := if dy.neg then 2 ^ (f.width - 1) else 0
    if f.maxCode < c then (f.maxCode + s, 1) else (c + s, 0)
  (q.map (·.1), (x + 127).toNat, (q.map (·.2)).sum)

/-- Elements packed at their width, lowest index in the least significant bits (R72). -/
def packBits (w : Nat) : List Nat → Nat
  | [] => 0
  | x :: t => x % 2 ^ w + 2 ^ w * packBits w t

/-! ## Stochastic rounding and the generator (R85 to R91) -/

/-- SR of an exact value with a generator word: S32, whether it counts, and whether a word was used (R86). -/
def stochRound (s : Dy) (w : Nat) : Res :=
  if s.m = 0 then Res.plain (sgn32 s.neg)
  else
    let e : Int := max ((s.m.log2 : Int) + s.e) (-126)
    let k0 := (e - 23) - s.e
    if k0 ≤ 0 then round32 s
    else
      let dn := k0.toNat
      let big := s.m / 2 ^ dn
      let f := s.m % 2 ^ dn
      if f = 0 then round32 s
      else
        -- bits of the discarded part up to its last 1 bit
        let tz := ((List.range dn).find? fun i => bit f i).getD 0
        let d := dn - tz
        let k := min d 16
        let frac := f / 2 ^ (dn - k)
        let rnd := bits w 31 (32 - k)
        let big := if 2 ^ k ≤ frac + rnd then big + 1 else big
        pack32 s.neg (big + ((e + 126).toNat) * 2 ^ 23)

/-- One 32-bit left rotation. -/
def rotl32 (x n : Nat) : Nat := (x * 2 ^ n % 2 ^ 32) + x / 2 ^ (32 - n)

/-- A ChaCha quarter round on words a, b, c, d of the state (R87). -/
def quarter (st : List Nat) (a b c d : Nat) : List Nat :=
  let x (i : Nat) := st.getD i 0
  let a1 := (x a + x b) % 2 ^ 32
  let d1 := rotl32 (x d ^^^ a1) 16
  let c1 := (x c + d1) % 2 ^ 32
  let b1 := rotl32 (x b ^^^ c1) 12
  let a2 := (a1 + b1) % 2 ^ 32
  let d2 := rotl32 (d1 ^^^ a2) 8
  let c2 := (c1 + d2) % 2 ^ 32
  let b2 := rotl32 (b1 ^^^ c2) 7
  (((st.set a a2).set b b2).set c c2).set d d2

/-- A column round and a diagonal round. -/
def doubleRound (st : List Nat) : List Nat :=
  let st := quarter (quarter (quarter (quarter st 0 4 8 12) 1 5 9 13) 2 6 10 14) 3 7 11 15
  quarter (quarter (quarter (quarter st 0 5 10 15) 1 6 11 12) 2 7 8 13) 3 4 9 14

/-- The 16 output words of ChaCha8 for a key, block counter and nonce words (R87). -/
def chacha8 (key : Bytes) (ctr n0 n1 n2 : Nat) : List Nat :=
  let init := [0x61707865, 0x3320646E, 0x79622D32, 0x6B206574] ++
    (List.range 8).map (fun i => leAt key (4 * i) 4) ++ [ctr % 2 ^ 32, n0, n1, n2]
  let fin := (List.range 4).foldl (fun st _ => doubleRound st) init
  (List.range 16).map fun i => (init.getD i 0 + fin.getD i 0) % 2 ^ 32

/-- The generator word of an element (R87 to R89). -/
def genWord (key : Bytes) (epoch purpose round obj elem : Nat) : Nat :=
  (chacha8 key (elem / 16) (epoch % 2 ^ 32)
    (at' (round % 256) 24 + at' purpose 16 + bits epoch 47 32) obj).getD (elem % 16) 0

/-- DRAW's uniform output, (w >> 8) × 2⁻²⁴ (R90). -/
def uniform (w : Nat) : Nat := (round32 { neg := false, m := w / 256, e := -24 }).v

/-! ## The reference order (R92 to R96) -/

/-- A node of a reference tree: an empty child passes the other through (R92, R93). -/
def node : Option Nat → Option Nat → Option Nat
  | none, b => b
  | a, none => a
  | some a, some b => some (fAdd a b).v

/-- One level of the canonical tree (R92). -/
def treeLevel : List (Option Nat) → List (Option Nat)
  | a :: b :: t => node a b :: treeLevel t
  | l => l

/-- Levels of the canonical tree; fuel bounds them. -/
def treeLevels : Nat → List (Option Nat) → List (Option Nat)
  | 0, l => l
  | f + 1, l => if l.length ≤ 1 then l else treeLevels f (treeLevel l)

/-- The canonical tree sum over leaves at positions 0 upward (R92). -/
def treeSum (l : List (Option Nat)) : Option Nat := ((treeLevels 40 l).head?).join

/-- Overflows a node meets (R76, R79). -/
def nodeCnt : Option Nat → Option Nat → Nat
  | some a, some b => b2n (fAdd a b).cnt
  | _, _ => 0

/-- Overflows in one level. -/
def levelCnt : List (Option Nat) → Nat
  | a :: b :: t => nodeCnt a b + levelCnt t
  | _ => 0

/-- Overflows in a canonical tree sum. -/
def treeCnt : Nat → List (Option Nat) → Nat
  | 0, _ => 0
  | f + 1, l => if l.length ≤ 1 then 0 else levelCnt l + treeCnt f (treeLevel l)

end Sys2Proof.Machine
end

