-- ==== Sys2Proof/Machine/Queues.lean ====
section
/-! DEFINITION. Command queues, tally counters, the start and retirement of commands, events and the initiator
(chapter 5). -/

namespace Sys2Proof.Machine

/-- Every meaning begins by clearing the outputs of the step before. -/
def begin (s : State) : State := { s with out := [] }

/-! ## Tally counters (R140, R143, R144) -/

/-- The value of a tally counter. -/
def tally (s : State) (c : Nat) : Nat := get s.tallyVal c

/-- The error code of a tally counter; nonzero means its error flag is set (R527). -/
def tallyErr (s : State) (c : Nat) : Nat := get s.tallyCode c

/-- A tally counter with v added, saturating. -/
def tallyAdd (s : State) (c v : Nat) : State :=
  { s with tallyVal := put s.tallyVal c (min cntMax (tally s c + v)) }

/-- A tally counter marked in error; a code already stored stays (R143). -/
def tallyFail (s : State) (c code : Nat) : State :=
  if tallyErr s c = 0 then { s with tallyCode := put s.tallyCode c code } else s

/-! ## Command checks (R137, R138) -/

/-- The OPD bits an opcode and SUBOP use, or none when the pair is not defined (R138). -/
def usedOpd (opc sub : Nat) : Option Nat :=
  match opc, sub with
  | 0x00, 0 => some 0
  | 0x01, 0 => some (2 ^ 62 - 1 + at' (2 ^ 46 - 1) 64 + at' 63 112)
  | 0x01, 1 | 0x01, 2 => some (2 ^ 46 - 1)
  | 0x02, 0 | 0x02, 1 | 0x02, 3 | 0x02, 4 => some (2 ^ 178 - 1)
  | 0x02, 2 => some (2 ^ 190 - 1)
  | 0x03, 0 => some (2 ^ 61 - 1 + at' (2 ^ 48 - 1) 64)
  | 0x04, 0 => some (2 ^ 61 - 1)
  | 0x04, 1 => some (2 ^ 14 - 1)
  | 0x04, 2 | 0x04, 3 => some (2 ^ 19 - 1)
  | 0x04, 4 => some 3
  | 0x05, 0 => some (2 ^ 50 - 1)
  | 0x06, 0 => some (2 ^ 48 - 1)
  | 0x07, 0 => some (2 ^ 16 - 1)
  | 0x08, 0 => some (2 ^ 49 - 1)
  | 0x09, 0 => some (2 ^ 56 - 1)
  | 0x0A, 0 => some (2 ^ 100 - 1)
  | 0x0B, 0 | 0x0B, 1 => some (2 ^ 24 - 1)
  | 0x0C, 0 => some (7 + at' 0xFFFF 16)
  | 0x0D, 0 => some 0
  | 0x0D, 1 => some (2 ^ 64 - 1)
  | 0x0E, 0 => some (2 ^ 48 - 1 + at' (2 ^ 46 - 1) 64 + at' 0xFFFF 112)
  | 0x0F, 0 => some (2 ^ 96 - 1)
  | 0x10, 0 | 0x10, 1 => some (2 ^ 192 - 1)
  | 0x11, 0 | 0x11, 1 | 0x11, 2 => some (255 + at' (2 ^ 64 - 1) 64)
  | _, _ => none

/-- The check of R137: opcode and SUBOP defined, every reserved bit zero. -/
def wellFormedCmd (raw : Nat) : Bool :=
  match usedOpd (opcodeOf raw) (subopOf raw) with
  | none => false
  | some m =>
    let o := opd raw 191 0
    (o &&& m) == o && !bit raw 11 && (List.range 4).all fun k =>
      if bit (waitEnOf raw) k then bits (waitWord raw k) 55 48 == 0 else waitWord raw k == 0

/-- The epoch a command names, for those that name one (R142, R147). -/
def namedEpoch (raw : Nat) : Option Nat :=
  match opcodeOf raw, subopOf raw with
  | 0x01, 0 => some (opd raw 47 0)
  | 0x02, _ => some (opd raw 47 0)
  | 0x03, _ => if opd raw 111 64 = 0 then none else some (opd raw 111 64)
  | 0x05, _ => some (opd raw 47 0)
  | 0x06, _ => some (opd raw 47 0)
  | 0x0F, _ => some (opd raw 47 0)
  | _, _ => none

/-! ## Step-table banks (R164, R165) -/

/-- Table bank 0 (A) or 1 (B). -/
def bank (s : State) (b : Nat) : Store := if b = 0 then s.seq.bankA else s.seq.bankB

/-- The state with a table bank replaced. -/
def setBank (s : State) (b : Nat) (x : Store) : State :=
  if b = 0 then { s with seq := { s.seq with bankA := x } } else { s with seq := { s.seq with bankB := x } }

/-- The active table bank's number. -/
def activeBank (s : State) : Nat := rd s R.TBL_BANKS_ACTIVE

/-- Whether a store serves an epoch: ACTIVE from its first epoch, RETIRING to its last (R164). -/
def serves (x : Store) (e : Nat) : Bool :=
  (x.state == 4 && decide (x.first ≤ e)) || (x.state == 5 && decide (x.first ≤ e) && decide (e ≤ x.last))

/-- The bank that serves an epoch, if one does. -/
def bankFor (s : State) (e : Nat) : Option Nat :=
  if serves s.seq.bankA e then some 0 else if serves s.seq.bankB e then some 1 else none

/-! ## Threads -/

/-- Thread t. -/
def thread (s : State) (t : Nat) : Thread := s.seq.threads.getD t Thread.idle

/-- The state with thread t replaced. -/
def setThread (s : State) (t : Nat) (x : Thread) : State :=
  { s with seq := { s.seq with threads := s.seq.threads.set t x } }

/-- The lowest free thread. -/
def freeThread (s : State) : Option Nat := firstBelow 8 fun t => !(thread s t).busy

/-- The thread that runs a command. -/
def threadOf (s : State) (q i : Nat) : Option Nat :=
  firstBelow 8 fun t => (thread s t).busy && (thread s t).queue == q && (thread s t).idx == i

/-! ## Epoch opening (R16, R27, R91) -/

/-- The SCALE BYTE objects of 32 bytes: what may key the generator (R103). -/
def seedObjs (s : State) : List Nat :=
  ((s.tab.filter fun e => e.1 / 2 ^ 28 == 0xA * 16).map fun e => e.1 % 2 ^ 28).filter fun o =>
    let e := dir s o
    objValid s o && oClass e == clsScale && oFmt e == fmtByte && oRows e * oCols e == 32

/-- n bytes of a SCALE object's capped copy, or of its live copy before its first cap and while ABSENT (R113). -/
def scaleCopy (s : State) (o n : Nat) : Bytes :=
  if !isAbsent s && s.cod.scaleHas.contains o then mread s.cod.scaleCap (scaleKey (cmbRank s) o 0) n
  else objBytesAt s o 0 n

/-- The mode of an epoch: SEQ_MODE.FAST from SEQ_MODE_EPOCH on, the other mode before it (R425). -/
def fastMode (s : State) (e : Nat) : Bool :=
  if rd s R.SEQ_MODE_EPOCH ≤ e then rdb s R.SEQ_MODE_FAST else !rdb s R.SEQ_MODE_FAST

/-- An epoch's first accepted command opens it and latches the seeds; the first epoch to open in FAST mode taints the
digests from there on (R91, R426). -/
def openEpoch (s : State) (e : Nat) : State :=
  let go (s : State) : State :=
    let s := if fastMode s e && rd s R.DIG_TAINT_EPOCH == 0 then wr s R.DIG_TAINT_EPOCH e else s
    setEpoch s { epochOf s e with opened := true, phase := 0, seeds := (seedObjs s).map fun o => (o, scaleCopy s o 32),
                                  droop0 := (List.range 16).map fun c => get s.cnt (C.SNS_DROOP_CNT c) }
  if isOpen s e then s else go s

/-- A SCALE object created while epochs are open is latched for them as it is then: later writes do not reach these epochs (R91). -/
def latchSeeds (s : State) : State :=
  ((s.cod.epochs.filter (·.opened)).map (·.num)).foldl (fun s e =>
    let x := epochOf s e
    let new := (seedObjs s).filter fun o => x.seeds.all fun p => p.1 != o
    if new = [] then s else setEpoch s { x with seeds := x.seeds ++ new.map fun o => (o, scaleCopy s o 32) }) s

/-- The generator key of a seed object for an epoch (R91). -/
def seedKey (s : State) (e o : Nat) : Bytes :=
  match (epochOf s e).seeds.find? fun p => p.1 == o with
  | some p => p.2
  | none => scaleCopy s o 32

/-! ## SCALE deltas at the fetch of a CAP (R113) -/

/-- The delta records of one cell of a SCALE object: live copy against capped copy. -/
def scaleRecs (s : State) (o c : Nat) : List (Nat × Bytes) :=
  let live := objCell s o c
  let cap := if s.cod.scaleHas.contains o then mread s.cod.scaleCap (scaleKey (cmbRank s) o (c * cellSize)) cellSize
    else List.replicate cellSize 0
  ((List.range 1024).map fun g => (g, xorBytes (slice live (64 * g) 64) (slice cap (64 * g) 64))).filter
    fun r => r.2.any (· != 0)

/-- KIND 3 segments of an epoch are formed for one cell of a SCALE object. -/
def scaleSeg (s : State) (e o c : Nat) : State :=
  let recs := scaleRecs s o c
  if recs = [] then s
  else
    let sl := scaleSlice s
    let ds := outOf s (cmbRank s) 12 e
    let prev := match (cellSegs s (cmbRank s) e 3 (o + at' c 19)).getLast? with
      | some g => 1 + g.off
      | none => 0
    let s := logSegment s sl e 3 (o + at' c 19) (cmbRank s) true 16 ds.next prev recs []
    count (setOut s { ds with next := ds.next + 1 }) C.COD_SEG_LOGGED

/-- The CAP command of an epoch is fetched: the live copies of the member's SCALE objects are compared with their
capped copies and every changed granule leaves a delta record (R113). -/
def scaleDelta (s : State) (e : Nat) : State :=
  let os := ((s.tab.filter fun x => x.1 / 2 ^ 28 == 0xA * 16).map fun x => x.1 % 2 ^ 28).filter fun o =>
    objValid s o && oClass (dir s o) == clsScale
  let s := os.foldl (fun s o => (List.range (objCells (dir s o))).foldl (fun s c => scaleSeg s e o c) s) s
  setEpoch s { epochOf s e with scaled := os }

/-! ## Queue fetch (R132, R135) -/

/-- Commands of a queue that are fetched and not started. -/
def unstarted (x : Queue) : Nat := (x.cmds.filter fun r => r.phase == .unstarted).length

/-- How many commands the next fetch of a queue takes: up to four from one aligned 256-byte group, no further than
the doorbell (or the ABORT's doorbell value) and the eight the queue buffers. -/
def fetchCount (x : Queue) : Nat :=
  let limit := match x.abortTo with
    | some d => (d + 2 ^ 32 - x.head) % 2 ^ 32
    | none => (x.db + 2 ^ 32 - x.head) % 2 ^ 32
  let room := if x.abortTo.isSome then 4 else 8 - unstarted x
  min (min (4 - x.head % 4) limit) room

/-- Host-physical address of a slot. -/
def slotAddr (x : Queue) (i : Nat) : Nat := x.base + 64 * (i % 2 ^ x.size)

/-- A queue may fetch now. -/
def canFetch (x : Queue) : Bool := (x.en || x.abortTo.isSome) && x.fetching.isNone && decide (0 < fetchCount x)

/-- The fetch of queue q goes out: one AREQ read of the slot group (R44, R132). -/
def fetchQ (s : State) (q : Nat) : State :=
  let x := qOf s q
  let n := fetchCount x
  let s := setQ s q { x with fetching := some (x.head, n) }
  let a := slotAddr x x.head / 256 * 256
  pumpHost (setHost s { s.host with reads := s.host.reads ++
    [{ tag := 0, addr := a, size := 256, off := 0, queue := 16 + q, idx := x.head, issued := false }] })

/-- QUEUE_FETCH: the next queue in round-robin order that has something to fetch issues one fetch (R132, R135). -/
def queueFetchEffect (s : State) : State :=
  match (List.range 16).find? fun k => canFetch (qOf s ((s.seq.rr + k) % 16)) with
  | none => s
  | some k =>
    let q := (s.seq.rr + k) % 16
    { fetchQ s q with seq := { s.seq with rr := (q + 1) % 16 } }

/-- A fresh command as the queue holds it. -/
def newRun (raw i : Nat) : Run := { Run.none with raw := raw, idx := i }

/-- The CAP noted for an epoch still stands in its queue. -/
def capNoted (s : State) (e : Nat) : Bool :=
  let x := epochOf s e
  x.capIdx != 0 && match findRun s x.capQ (x.capIdx - 1) with
    | some r => r.phase != .done && opcodeOf r.raw == 5
    | none => false

/-- What the fetch of a command does at once: the CAP of an epoch that R16 accepts is noted with its queue, and the SCALE deltas
of that epoch are formed (R26, R113). A CAP of a later epoch is noted when it starts (DEDUCED, notes/assumptions/77). -/
def noteFetched (s : State) (q : Nat) (r : Run) : State :=
  let e := opd r.raw 47 0
  if opcodeOf r.raw = 5 ∧ wellFormedCmd r.raw ∧ epochCheck s e = 0 ∧ !isAbsent s ∧ !capNoted s e then
    let s := setEpoch s { epochOf s e with capQ := q, capIdx := r.idx + 1 }
    if (epochOf s e).scaled = [] then scaleDelta s e else s
  else s

/-- Fetched commands enter their queue; under an ABORT they enter cancelled (R135). -/
def takeCmds (s : State) (q : Nat) (data : Bytes) : State :=
  let x := qOf s q
  match x.fetching with
  | none => s
  | some (h, n) =>
    let rs := (List.range n).map fun i => newRun (leAt data (64 * ((h + i) % 4)) 64) ((h + i) % 2 ^ 32)
    let ab := x.abortTo.isSome
    let rs := if ab then rs.map fun r => { r with phase := .done, err := ecDescriptor, cancelled := true } else rs
    let head := (h + n) % 2 ^ 32
    let s := setQ s q { x with head := head, fetching := none, cmds := x.cmds ++ rs,
                               abortTo := if x.abortTo = some head then none else x.abortTo }
    let s := if ab then countN s C.SEQ_CMD_CANCEL n else rs.foldl (fun s r => noteFetched s q r) s
    if canFetch (qOf s q) && (qOf s q).abortTo.isSome then fetchQ s q else s

/-- The read of a fetch meets a network error (R132, R135). -/
def failFetch (s : State) (q : Nat) : State :=
  let x := qOf s q
  match x.fetching with
  | none => s
  | some (h, n) =>
    let s := count s C.QUE_FETCH_ERR
    let s := unitError s ecDescriptor 6 q h
    match x.abortTo with
    | none => setQ s q { x with fetching := none, en := false, fetchErr := true }
    | some d =>
      -- the commands of that read retire without records, and HEAD still reaches the doorbell value
      let rs := (List.range n).map fun i =>
        { newRun 0 ((h + i) % 2 ^ 32) with phase := .done, err := ecDescriptor, cancelled := true, noRecord := true }
      let head := (h + n) % 2 ^ 32
      let s := setQ s q { x with fetching := none, fetchErr := true, head := head, cmds := x.cmds ++ rs,
                                 abortTo := if head = d then none else some d }
      if canFetch (qOf s q) then fetchQ s q else s

/-- QUEUE_FETCH_DATA: the answer of a fetch read by its tag. STAT 0 brings the commands; any other is a network
error (R43, R44, R132). -/
def queueFetchDataEffect (s : State) (tag stat : Nat) (data : Bytes) : State :=
  match s.host.reads.find? fun r => r.issued && r.tag == tag && decide (16 ≤ r.queue) with
  | none => s
  | some r =>
    let s := setHost s { s.host with reads := s.host.reads.filter fun y => !(y.issued && y.tag == tag) }
    let q := r.queue - 16
    if stat = 0 then takeCmds s q data else failFetch s q

/-! ## Doorbells, aborts, queue entries (R131 to R135, R527) -/

/-- A doorbell of queue q judged and taken or rejected; on an enabled queue it wakes the sequencer domain (R133, R134). -/
def doorbell (s : State) (q v : Nat) : State :=
  let x := qOf s q
  let reject (s : State) : State :=
    let s := setQ s q { x with dbBad := true }
    unitError (count s (C.QUE_DB_BAD q)) ecDescriptor 6 q (v + at' x.db 32)
  if x.size < 6 ∨ 16 < x.size then reject s
  else if v = x.db then s
  else if serialGt v x.db && decide ((v + 2 ^ 32 - x.ret) % 2 ^ 32 ≤ 2 ^ x.size) then
    let s := setQ s q { x with db := v, dbBad := false }
    if x.en then wakeDomain s 0 else s
  else reject s

/-- QUE_CTRLq.ABORT: every unstarted command is cancelled, and the enqueued rest is read from the ring (R135). -/
def abortQ (s : State) (q : Nat) : State :=
  let x := qOf s q
  let n := unstarted x
  let cmds := x.cmds.map fun r =>
    if r.phase = .unstarted then { r with phase := .done, err := ecDescriptor, cancelled := true } else r
  let s := countN s C.SEQ_CMD_CANCEL n
  if x.head = x.db then setQ s q { x with cmds := cmds }
  else
    let s := setQ s q { x with cmds := cmds, abortTo := some x.db }
    if canFetch (qOf s q) then fetchQ s q else s

/-- A submission of words 0 to 2 of queue q's entry: accepted with its state, or refused (R131, R134, R527). -/
def submitQueue (s : State) (q e : Nat) : Option State :=
  let x := qOf s q
  let base := bits e 63 0
  let en := bit e 72
  let size := bits e 84 80
  let busy := x.en || x.ret != x.db
  if bits base 11 0 ≠ 0 ∨ bits base 63 52 ≠ 0 then none
  else if busy && (base != x.base || size != x.size) then none
  else if size ≠ x.size ∧ (size < 6 ∨ 16 < size) ∧ size ≠ 0 then none
  else if en && (rd s R.EVT_SIZE == 0 || decide (size < 6) || decide (16 < size)) then none
  else some (setQ s q { x with base := base, size := size, tenant := bits e 77 76, en := en,
                               fetchErr := if en && !x.en then false else x.fetchErr })

/-! ## Store switches (R163 to R165, R564) -/

/-- The record and the audit entry of a switch: store, VERSION, first epoch served. -/
def switchRec (s : State) (store ver first : Nat) : State :=
  let s := audit s 5 0 0xFFFF 0 0 (store + at' ver 32) first
  event s 0x0A 0 (if store = 0 then 8 else 7) 0 (store + at' ver 32) first

/-- The idle table bank becomes active from an epoch on; the bank it replaces serves up to the epoch before, or becomes
EMPTY when it serves none. -/
def switchTable (s : State) (first : Nat) (serve : Bool) : State :=
  let b := 1 - activeBank s
  let old := bank s (activeBank s)
  let x := bank s b
  let old := if serve && old.state == 4 then { old with state := 5, last := first - 1 } else Store.empty
  let s := setBank s (activeBank s) old
  let s := setBank s b { x with state := 4, first := first, last := 0 }
  switchRec (wr (wr s R.TBL_BANKS_ACTIVE b) R.TBL_SW_EPOCH first) 0 x.version first

/-- The idle microcode store becomes active from an epoch on. -/
def switchUcode (s : State) (first : Nat) (serve : Bool) : State :=
  let old := s.seq.ucAct
  let x := s.seq.ucIdle
  let old := if serve && old.state == 4 then { old with state := 5, last := first - 1 } else Store.empty
  let s := { s with seq := { s.seq with ucAct := { x with state := 4, first := first, last := 0 }, ucIdle := old } }
  switchRec (wr (wr s R.SEQ_UCODE_VER x.version) R.SEQ_UCODE_SW_EPOCH first) 1 x.version first

def capTbl (raw : Nat) : Bool := bit (opd raw 48 48) 0
def capUcode (raw : Nat) : Bool := bit (opd raw 49 49) 0

/-- The stores a CAP selects, if LOADED, are armed (R164). -/
def armStores (s : State) (e raw : Nat) : State :=
  let b := 1 - activeBank s
  let t := capTbl raw && (bank s b).state == 2
  let u := capUcode raw && s.seq.ucIdle.state == 2
  let s := if t then setBank s b { bank s b with state := 3 } else s
  let s := if u then { s with seq := { s.seq with ucIdle := { s.seq.ucIdle with state := 3 } } } else s
  let x := epochOf s e
  setEpoch s { x with armTbl := x.armTbl || t, armUcode := x.armUcode || u }

/-- The first switch (R564): LOADED stores become ACTIVE for every epoch after the base, at once. -/
def firstSwitch (s : State) (q : Nat) (r : Run) : State :=
  let e := opd r.raw 47 0
  let t := capTbl r.raw && (bank s (1 - activeBank s)).state == 2
  let u := capUcode r.raw && s.seq.ucIdle.state == 2
  let s := if t then switchTable s (e + 1) false else s
  let s := if u then switchUcode s (e + 1) false else s
  let s := { s with comb := { s.comb with firstSwitch := false } }
  finish s q r.idx 0 e (b2n t + 2 * b2n u)

/-! ## Starting (R141, R142) -/

/-- Commands of a queue started and not retired. -/
def inFlight (x : Queue) : Nat := (x.cmds.filter (·.begun)).length

/-- Commands of the block started and not retired. -/
def inFlightAll (s : State) : Nat := (s.queues.map inFlight).sum

/-- The lowest wait condition in force whose counter is in error: its code (R141). -/
def waitError (s : State) (raw : Nat) : Option Nat :=
  ((List.range 4).find? fun k => bit (waitEnOf raw) k && tallyErr s (bits (waitWord raw k) 63 56) != 0).map
    fun k => tallyErr s (bits (waitWord raw k) 63 56)

/-- Wait conditions in force and unmet, as a mask: QUE_WAITq (R146). -/
def waitMask (s : State) (raw : Nat) : Nat :=
  ((List.range 4).filter fun k => bit (waitEnOf raw) k &&
    (decide (tally s (bits (waitWord raw k) 63 56) < bits (waitWord raw k) 47 0) ||
     tallyErr s (bits (waitWord raw k) 63 56) != 0)).foldl (fun a k => a + 2 ^ k) 0

/-- Move table entries in use (R114). -/
def moveIdxs (s : State) : List Nat := (List.range 64).filter fun i => bit (tget s 0xA 1 i) 19

/-- What the start point decides of the oldest unstarted command. -/
inductive Verdict where
  | cancel (code : Nat)
  | wait
  | fail (code : Nat)
  | start
  deriving DecidableEq, Repr

/-- A command carries a rolled-back epoch below its queue's mark (R147): the REASON. -/
def rbReason (x : Queue) (r : Run) : Option Nat :=
  (x.rbMarks.find? fun m => serialGt m.db r.idx && (match namedEpoch r.raw with
    | some e => decide (m.target < e) && decide (e ≤ m.newest)
    | none => false)).map (·.reason)

/-- Commands that run before stage 5 (R466). -/
def earlyOk (raw : Nat) : Bool :=
  match opcodeOf raw, subopOf raw with
  | 0x01, 1 | 0x01, 2 => true
  | 0x10, _ | 0x11, _ | 0x00, _ | 0x0D, _ | 0x0E, _ => true
  | _, _ => false

/-- Step 4 of R141: the epoch checks of R142 and R117, the operands of R153, and what R163, R466 and R564 add.
some code retires the command, none lets it pass; held commands are left to step4Held. -/
def step4Fail (s : State) (raw : Nat) : Bool :=
  let opc := opcodeOf raw
  let sub := subopOf raw
  let e := opd raw 47 0
  let st := memberState s
  if rd s R.GEN_STAT_STAGE < 5 ∧ !earlyOk raw then true
  else if opc = 0x0A ∧ rdb s R.GEN_STAT_CFG_BAD then true
  else if (namedEpoch raw).isSome ∧ (s.comb.needRestore ∨ (s.comb.leave.isSome ∧ st ≠ 0)) then true
  else if opc = 6 then st == 0 || decide (e < capped s)
  else if opc = 9 then !([2, 3, 4, 6].contains st) || bits (opd raw 55 48) 7 0 == 0 || decide (e < capped s)
  else if opc = 1 ∧ sub = 0 then
    epochCheck s e == 2 || opd raw 117 112 == 0 || decide (16 < opd raw 117 112) ||
      (epochCheck s e == 0 && (match bankFor s e with
        | none => true
        | some b => decide ((bank s b).rows.length ≤ opd raw 61 48)))
  else if opc = 1 then
    (if sub = 1 then (bank s (1 - activeBank s)).state == 3 else s.seq.ucIdle.state == 3)
  else if opc = 2 ∨ opc = 0x0F then epochCheck s e == 2
  else if opc = 3 then
    let o := opd raw 18 0
    oClass (dir s o) == clsUnique && objValid s o && epochCheck s (opd raw 111 64) == 2
  else if opc = 5 then
    epochCheck s e == 2 && !(e == capped s && s.comb.firstSwitch && !isOpen s (e + 1))
  else false

/-- A command of an opcode has started and not ended, in any queue. -/
def opRuns (s : State) (opc : Nat) : Bool :=
  s.queues.any fun x => x.cmds.any fun r => (r.phase == .started || r.phase == .running) && opcodeOf r.raw == opc

/-- What holds a command at its start point after step 4: the epoch three beyond the capped one (R142), a store
that is loading or retiring (R163). No epoch opens before GO (R387), and JOIN and REPLAY wait for each other (R447, R448; DEDUCED,
notes/assumptions/102). -/
def step4Held (s : State) (raw : Nat) : Bool :=
  let opc := opcodeOf raw
  let sub := subopOf raw
  if memberState s = 1 ∧ (namedEpoch raw).isSome then true
  else if opc = 0x0A then opRuns s 0x0E
  else if opc = 0x0E then isAbsent s && opRuns s 0x0A
  else if (opc = 1 ∧ sub = 0) ∨ opc = 2 ∨ opc = 0x0F then
    epochCheck s (opd raw 47 0) == 1 || (opc == 1 && memRole (member s (ownIdx s)) == 3 && !isAbsent s &&
      !s.shd.ready.contains (opd raw 47 0))
  else if opc = 5 then epochCheck s (opd raw 47 0) == 1
  else if opc = 6 then decide (capped s < opd raw 47 0) || s.spine.run.isSome
  else if opc = 9 then decide (capped s < opd raw 47 0) || s.comb.rb.isSome
  else if opc = 1 then
    let x := if sub = 1 then (bank s (1 - activeBank s)).state else s.seq.ucIdle.state
    x == 5 || x == 1
  else if opc = 3 then
    oClass (dir s (opd raw 18 0)) == clsUnique && objValid s (opd raw 18 0) && epochCheck s (opd raw 111 64) == 1
  else false

/-- A SNAP with SUBOP 1 has started and its time has not come (R444). -/
def snapPending (s : State) : Bool :=
  s.chip.timer.isSome || s.queues.any fun x => x.cmds.any fun r =>
    (r.phase == .started || r.phase == .running) && opcodeOf r.raw == 0x0D && subopOf r.raw == 1

/-- Step 5 of R141: the in-flight limits and the resources. -/
def step5Wait (s : State) (q raw : Nat) : Bool :=
  let opc := opcodeOf raw
  let sub := subopOf raw
  decide (32 ≤ inFlight (qOf s q)) || decide (128 ≤ inFlightAll s) ||
    (((opc == 1 && sub == 0) || opc == 0x0E) && (freeThread s).isNone) ||
    (opc == 3 && decide (64 ≤ (moveIdxs s).length)) ||
    (opc == 4 && sub == 3 && (s.streams.all (·.isSome))) || (opc == 0x0F && rdb s R.ROOT_STAT_ITER_BUSY) ||
    (opc == 0x0D && sub == 1 && (rdb s R.SNP_CTRL_ARM || snapPending s))

/-- A command of the queue that works at its start point, a TALLY or a NOP, has started and its row has not run: later commands of
its queue see what it does (R138, R144). -/
def startPending (x : Queue) : Bool :=
  x.cmds.any fun r => r.phase == .started && (opcodeOf r.raw == 0x11 || opcodeOf r.raw == 0)

/-- The judgement of R141 on a command of queue q. -/
def judge (s : State) (q : Nat) (r : Run) : Verdict :=
  if startPending (qOf s q) then .wait
  else
  match waitError s r.raw with
  | some c => .cancel c
  | none =>
    if waitMask s r.raw ≠ 0 then .wait
    else if !wellFormedCmd r.raw then .fail ecDescriptor
    else
      match rbReason (qOf s q) r with
      | some c => .cancel c
      | none =>
        if memberState s = 7 ∧ (namedEpoch r.raw).isSome then .fail ecRemoteDead
        else if step4Fail s r.raw then .fail ecDescriptor
        else if step4Held s r.raw then .wait
        else if step5Wait s q r.raw then .wait
        else .start

/-- The oldest unstarted command of a queue. -/
def oldestUnstarted (x : Queue) : Option Run := x.cmds.find? fun r => r.phase == .unstarted

/-! ## Shadow copies (R385, R416) -/

/-- An object that a reduce-scatter or a COMMIT of an epoch wrote is noted for the shadow. -/
def noteWrote (s : State) (e o : Nat) : State :=
  if s.shd.wrote.contains (e, o) then s else { s with shd := { s.shd with wrote := s.shd.wrote ++ [(e, o)] } }

/-- The position that shadows this member, if there is one. -/
def shadowIdx (s : State) : Option Nat :=
  (List.range s.comb.listN).find? fun x =>
    let e := member s x
    memRole e == 3 && memComb e == ownComb s && memRank e == cmbRank s && memState e == 4

/-! ## Events and retirement (R143, R148 to R152) -/

/-- Free records of the event ring (R151). -/
def ringFree (s : State) : Nat :=
  if rd s R.EVT_SIZE = 0 then 0
  else (rd s R.EVT_CONS + 2 ^ rd s R.EVT_SIZE + 2 ^ 32 - rd s R.EVT_PROD) % 2 ^ 32

/-- The 32 bytes of a record with its PHASE (R148). -/
def recBytes (r : EvRec) (phase : Nat) : Bytes :=
  let b2 := phase + 2 * b2n r.cancelled + 4 * b2n r.irq + 8 * r.flags
  let w := if r.compl.isSome then r.cmdId else r.merged + at' r.source 16
  leBytes 4 (r.kind + at' r.status 8 + at' b2 16 + at' r.queue 24) ++ leBytes 4 w ++ leBytes 8 r.info0 ++
    leBytes 8 r.info1 ++ leBytes 8 r.time

/-- PHASE of the record at EVT_PROD: 1 on the first pass, inverted on each wrap. -/
def phaseAt (s : State) : Nat := 1 - rd s R.EVT_PROD / 2 ^ rd s R.EVT_SIZE % 2

/-- EVENT_POST: the oldest waiting record is written when the ring has room and no record is being written. In
generation-2 mode byte 2 is held back for a second write (R149, R151). -/
def eventPostEffect (s : State) : State :=
  match s.ev.writing, s.ev.buf with
  | none, r :: t =>
    if ringFree s = 0 then s
    else
      let a := rd s R.EVT_BASE * 4096 + 32 * (rd s R.EVT_PROD % 2 ^ rd s R.EVT_SIZE)
      let g2 := rdb s R.GEN_STRAP_HFP_W128
      let s := { s with ev := { s.ev with buf := t, writing := some (r, 0) } }
      hostStore s 16 0 a (recBytes r (phaseAt s)) (if g2 then 2 ^ 32 - 1 - 4 else 2 ^ 32 - 1)
  | _, _ => s

/-- IRQ_OUT after a change of the ring, its enable or the hold-off: it is high while enabled, a flagged record is
unconsumed and no hold-off runs; its fall starts the hold-off (R152). -/
def updateIrq (s : State) : State :=
  let want := rdb s R.EVT_CTRL_IRQ_EN && s.ev.flagged.any fun i =>
    decide ((i + 2 ^ 32 - rd s R.EVT_CONS) % 2 ^ 32 < (rd s R.EVT_PROD + 2 ^ 32 - rd s R.EVT_CONS) % 2 ^ 32)
  if s.ev.irqOut then
    if want then s
    else { s with ev := { s.ev with irqOut := false, holdoff := rd s R.EVT_HOLDOFF != 0 } }
  else if want && !s.ev.holdoff then { s with ev := { s.ev with irqOut := true } }
  else s

/-- A record has been written, or its write failed: its command, if it has one, goes on to retire (R143). -/
def recordDone (s : State) (r : EvRec) (ok : Bool) : State :=
  let s := { s with ev := { s.ev with writing := none } }
  let s := match r.compl with
    | some (q, i) => modRun s q i fun x => { x with posted := 2 }
    | none => s
  if ok then
    let p := rd s R.EVT_PROD
    let s := if r.irq then { s with ev := { s.ev with flagged := s.ev.flagged ++ [p] } } else s
    updateIrq (count (wr s R.EVT_PROD ((p + 1) % 2 ^ 32)) C.EVT_POSTED)
  else count s C.EVT_WR_FAIL

/-- EVENT_RECORD_ACK: the ARSP of a record's write. The first step of a generation-2 record is followed by the write
of byte 2; the last ARSP advances EVT_PROD; an error loses the record (R149). -/
def eventAckEffect (s : State) (stat : Nat) : State :=
  match s.ev.writing with
  | none => s
  | some (r, stepNo) =>
    if s.host.writes.all fun w => !(w.queue == 16 && w.issued) then s
    else
      let s := setHost s { s.host with writes := s.host.writes.filter fun w => w.queue != 16 }
      if stat ≠ 0 then recordDone s r false
      else if rdb s R.GEN_STRAP_HFP_W128 ∧ stepNo = 0 then
        let a := rd s R.EVT_BASE * 4096 + 32 * (rd s R.EVT_PROD % 2 ^ rd s R.EVT_SIZE)
        let s := { s with ev := { s.ev with writing := some (r, 1) } }
        hostStore s 16 0 a (recBytes r (phaseAt s)) 4
      else recordDone s r true

/-- The completion record of a command (R148). -/
def completionRec (s : State) (q : Nat) (r : Run) : EvRec :=
  { kind := 1, status := r.err, cancelled := r.cancelled, irq := irqOf r.raw, flags := 0, queue := q,
    cmdId := cmdIdOf r.raw, merged := 0, source := 0, info0 := r.info0, info1 := r.info1,
    time := rd s R.TIME_TOD, compl := some (q, r.idx) }

/-- Whether a completed command posts a record: it failed, was cancelled, or asked for one (R143). -/
def needsRecord (r : Run) : Bool := !r.noRecord && (r.err != 0 || r.cancelled || evtOf r.raw)

/-- Steps 2 to 4 of R143: the signal, then the retire index. An ABORT completes when it reaches the doorbell (R135). -/
def retire (s : State) (q : Nat) (r : Run) : State :=
  let s := if sigEnOf r.raw && !r.noRecord then
      (if r.err != 0 || r.cancelled then tallyFail s (sigTallyOf r.raw) r.err else tallyAdd s (sigTallyOf r.raw) 1)
    else s
  let x := qOf s q
  let s := setQ s q { x with cmds := x.cmds.drop 1, ret := (x.ret + 1) % 2 ^ 32 }
  if (qOf s q).ret = x.db ∧ rdb s (R.QUE_CTRL_ABORT q) then wr s (R.QUE_CTRL_ABORT q) 0 else s

/-- COMMAND_RETIRE: the oldest command of queue q, once complete, posts its record if it needs one and, when that
is posted, signals its tally and leaves the queue (R143). -/
def commandRetireEffect (s : State) (q : Nat) : State :=
  match (qOf s q).cmds with
  | [] => s
  | r :: _ =>
    if r.phase ≠ .done then s
    else if needsRecord r && r.posted == 0 then
      postRec (modRun s q r.idx fun x => { x with posted := 1 }) (completionRec s q r)
    else if needsRecord r && r.posted == 1 then s
    else retire s q r

/-! ## The initiator's answers (R43) -/

/-- Data of a read that is not a queue fetch is kept for the command that asked; a network error fails it. -/
def readData (s : State) (tag stat : Nat) (data : Bytes) : Option (HostRead × State) :=
  match s.host.reads.find? fun r => r.issued && r.tag == tag && decide (r.queue < 16) with
  | none => none
  | some r =>
    let h := { s.host with reads := s.host.reads.filter fun y => !(y.issued && y.tag == tag) }
    if stat = 0 then
      some (r, setHost s { h with got := h.got ++ [(r.queue, r.idx, r.off, slice data 0 r.size)] })
    else some (r, setHost s h)

/-- INITIATOR_WRITE_RESPONSE: the ARSP of a write made for a command. The command completes when its last write is
answered; a network error fails it with DESCRIPTOR (R43). -/
def writeResponseEffect (s : State) (tag stat : Nat) : State :=
  match s.host.writes.find? fun w => w.issued && w.tag == tag && w.queue != 16 with
  | none => s
  | some w =>
    let s := setHost s { s.host with writes := s.host.writes.filter fun y => !(y.issued && y.tag == tag) }
    if stat ≠ 0 then finish s w.queue w.idx ecDescriptor 0 0
    else if writesBack s w.queue w.idx then finish s w.queue w.idx 0 0 0
    else s

/-! ## DRAW (R139) -/

/-- The COUNT words of a DRAW, in order: raw, or uniform S32 (R90). -/
def drawWords (key : Bytes) (raw : Nat) (uni : Bool) : List Nat :=
  (List.range (opd raw 97 82)).map fun j =>
    let w := genWord key (opd raw 191 144) 4 (opd raw 45 38) (opd raw 37 19) (opd raw 81 46 + j)
    if uni then uniform w else w

/-- The 64-byte writes of a DRAW's result, the last padded with zero (R44, R139). -/
def drawWrites (s : State) (q i raw : Nat) (ws : List Nat) : State :=
  let b := ws.flatMap (leBytes 4)
  (List.range (ceilDiv b.length 64)).foldl
    (fun s k => hostStore s q i (opd raw 143 98 * 64 + 64 * k) (slice b (64 * k) 64) (2 ^ 64 - 1)) s

/-- DRAW: COUNT 0 and a SEED_OBJ that is no seed object fail with DESCRIPTOR; otherwise the words are written, and
the command completes with their ARSPs. -/
def drawEffect (s : State) (q : Nat) (uni : Bool) : State :=
  match activeRun s q 0x10 (b2n uni) with
  | none => s
  | some r =>
    if r.phase = .running then s
    else if opd r.raw 97 82 = 0 ∨ !(seedObjs s).contains (opd r.raw 18 0) then finish s q r.idx ecDescriptor 0 0
    else drawWrites (keepRunning s q r.idx [1]) q r.idx r.raw (drawWords (leBytes 32 (r.aux.getD 1 0)) r.raw uni)

/-! ## NOP and TALLY (R138, R144) -/

/-- NOP completes with no effect. -/
def nopEffect (s : State) (q : Nat) : State :=
  match activeRun s q 0 0 with
  | none => s
  | some r => finish s q r.idx 0 0 0

/-- TALLY ADD. -/
def tallyAddEffect (s : State) (q : Nat) : State :=
  match activeRun s q 0x11 0 with
  | none => s
  | some r => finish (tallyAdd s (opd r.raw 7 0) (opd r.raw 127 64)) q r.idx 0 0 0

/-- TALLY SET. -/
def tallySetEffect (s : State) (q : Nat) : State :=
  match activeRun s q 0x11 1 with
  | none => s
  | some r => finish { s with tallyVal := put s.tallyVal (opd r.raw 7 0) (opd r.raw 127 64) } q r.idx 0 0 0

/-- TALLY CLEAR_ERR. -/
def tallyClearEffect (s : State) (q : Nat) : State :=
  match activeRun s q 0x11 2 with
  | none => s
  | some r => finish { s with tallyCode := put s.tallyCode (opd r.raw 7 0) 0 } q r.idx 0 0 0

/-! ## The rows' meanings -/

/-- The outcome every meaning of these rows gives. -/
abbrev Ans := Host.Outcome State Fault Refusal

/-- NOP (R138). -/
def execNop (q : Fin 16) (s : State) : Ans := .next (nopEffect (begin s) q)

/-- TALLY_ADD (R144). -/
def execTallyAdd (q : Fin 16) (s : State) : Ans := .next (tallyAddEffect (begin s) q)

/-- TALLY_SET (R144). -/
def execTallySet (q : Fin 16) (s : State) : Ans := .next (tallySetEffect (begin s) q)

/-- TALLY_CLEAR_ERR (R144). -/
def execTallyClearErr (q : Fin 16) (s : State) : Ans := .next (tallyClearEffect (begin s) q)

/-- DRAW_RAW (R139). -/
def execDrawRaw (q : Fin 16) (s : State) : Ans := .next (drawEffect (begin s) q false)

/-- DRAW_UNIFORM (R139, R90). -/
def execDrawUniform (q : Fin 16) (s : State) : Ans := .next (drawEffect (begin s) q true)

/-- QUEUE_FETCH (R132). -/
def execQueueFetch (s : State) : Ans := .next (queueFetchEffect (begin s))

/-- COMMAND_RETIRE (R143). -/
def execCommandRetire (q : Fin 16) (s : State) : Ans := .next (commandRetireEffect (begin s) q)

/-- EVENT_POST (R149, R151). -/
def execEventPost (s : State) : Ans := .next (eventPostEffect (begin s))

/-- EVENT_RECORD_ACK (R149). -/
def execEventRecordAck (stat : BitVec 2) (s : State) : Ans := .next (eventAckEffect (begin s) stat.toNat)

/-- IRQ_HOLDOFF_EXPIRY (R152). -/
def execIrqHoldoffExpiry (s : State) : Ans :=
  let s := begin s
  .next (updateIrq { s with ev := { s.ev with holdoff := false } })

/-- INITIATOR_WRITE_RESPONSE (R43). -/
def execInitiatorWriteResponse (tag : BitVec 12) (stat : BitVec 2) (s : State) : Ans :=
  .next (writeResponseEffect (begin s) tag.toNat stat.toNat)

end Sys2Proof.Machine
end

