-- ==== Sys2Proof/Machine/Remote.lean ====
section
/-! DEFINITION. Requests to other devices: the remote access engine's contexts, hive records, decode coefficients and
degraded reads (R328, R334, R367, R377). -/

namespace Sys2Proof.Machine

/-- The state with the hive unit changed. -/
def setHive (s : State) (h : Hive) : State := { s with hive := h }

/-! ## Records (R328) -/

/-- Bytes of an access by its SIZE code. -/
def sizeBytes (code : Nat) : Nat := 2 ^ code

/-- Zero padding to a multiple of 8 bytes. -/
def padEight (b : Bytes) : Bytes := b ++ List.replicate ((8 - b.length % 8) % 8) 0

/-- A request record's bytes. -/
def recBytesOf (r : HiveRec) : Bytes :=
  let h := leBytes 16 (r.off + at' r.size 104 + at' (b2n r.part) 107 + at' r.op 108 + at' r.gen 112 + at' r.ctx 116)
  let m := if r.op = 1 ∧ r.part then leBytes 8 r.mask else []
  h ++ m ++ (if r.op = 1 then padEight r.data else if 2 ≤ r.op ∧ r.op ≤ 5 then slice r.data 0 8 else [])

/-- A response record's bytes. -/
def respBytes (ctx gen stat : Nat) (data : Bytes) : Bytes :=
  leBytes 8 (at' stat 40 + at' gen 48 + at' ctx 52) ++ padEight data

/-- The data of an answer to a request record, by its status: a write has none, every other answer as many bytes as its access,
zero unless the status is OK (R328, R335). -/
def respData (r : HiveRec) (stat : Nat) (data : Bytes) : Bytes :=
  let n := if 2 ≤ r.op ∧ r.op ≤ 5 then 8 else sizeBytes r.size
  if r.op = 1 then [] else if stat = 0 then data else List.replicate n 0

/-- Bytes of the response record that answers a request record (R328). -/
def respLen (r : HiveRec) : Nat :=
  if r.op = 1 then 8 else if 2 ≤ r.op ∧ r.op ≤ 5 then 16 else 8 + ceilDiv (sizeBytes r.size) 8 * 8

/-- The record that starts a run of bytes, and the rest. -/
def takeRec (b : Bytes) : HiveRec × Bytes :=
  let h := leAt b 0 16
  let op := bits h 111 108
  let part := bit h 107
  let n := sizeBytes (bits h 106 104)
  let b := b.drop 16
  let m := op == 1 && part
  let mask := if m then leAt b 0 8 else 2 ^ 64 - 1
  let b := if m then b.drop 8 else b
  let len := if op = 1 then ceilDiv n 8 * 8 else if 2 ≤ op ∧ op ≤ 5 then 8 else 0
  ({ ctx := bits h 127 116, gen := bits h 115 112, op := op, part := part, size := bits h 106 104, off := bits h 40 0,
     mask := mask, data := slice b 0 (if op = 1 then n else len) }, b.drop len)

/-- The records of a flit's payload; fuel bounds them. -/
def takeRecs : Nat → Bytes → List HiveRec
  | 0, _ => []
  | f + 1, b => if b.length < 16 then [] else (takeRec b).1 :: takeRecs f (takeRec b).2

/-- FLOW of a hive request or response: the fold of hive address bits [40:12] (R303). -/
def hiveFlow (off : Nat) : Nat := fold 16 2 (bits off 40 12)

/-! ## Packing (R328) -/

/-- Requests that a flit has just taken to a version-3 peer are from now on covered through their stream's ESEQ (R321, R338). -/
def fenceFlit (s : State) (peer : Nat) (body : Bytes) : State :=
  let ks := (takeRecs 30 body).map fun r => (r.ctx, r.gen)
  let e := ((txOf s peer 5).next + 2 ^ 32 - 1) % 2 ^ 32
  if peerProto (peerEntry s peer) = 2 then s
  else { s with fences := s.fences.map fun f =>
    if f.ctxs.any ks.contains then
      { f with ctxs := f.ctxs.filter fun k => !ks.contains k, watch := f.watch ++ f.ctxs.filter ks.contains,
               streams := f.streams ++ [(peer, 5, e)] }
    else f }

/-- The flit being packed for a peer is sent. -/
def sendPack (s : State) (peer : Nat) (resp : Bool) : State :=
  match s.hive.packs.find? fun p => p.peer == peer && p.resp == resp with
  | none => s
  | some p =>
    let s := setHive s { s.hive with packs := s.hive.packs.filter fun x => !(x.peer == peer && x.resp == resp) }
    let s := sendMsg s peer (if resp then 0x0D else 0x0C) p.flow p.body
    if resp then s else fenceFlit s peer p.body

/-- A record packed for a peer: into the flit being filled while it fits; at once with HIVE_PACK 0. -/
def packRec (s : State) (peer : Nat) (resp : Bool) (flow : Nat) (b : Bytes) : State :=
  let full := s.hive.packs.any fun p => p.peer == peer && p.resp == resp && decide (232 < p.body.length + b.length)
  let s := if full then sendPack s peer resp else s
  let s := match s.hive.packs.find? fun p => p.peer == peer && p.resp == resp with
    | some p => setHive s { s.hive with packs := s.hive.packs.map fun x =>
        if x.peer = peer ∧ x.resp = resp then { p with body := p.body ++ b } else x }
    | none => setHive s { s.hive with packs := s.hive.packs ++ [{ peer := peer, resp := resp, flow := flow, body := b }] }
  if rd s R.HIVE_PACK = 0 then sendPack s peer resp else s

/-! ## Contexts (R334) -/

/-- GEN of a context. -/
def genOf (s : State) (c : Nat) : Nat := get s.hive.gens c

/-- The busy contexts as a mask. -/
def busyCtxs (s : State) : Nat := s.hive.ctxs.foldl (fun m x => m ||| 2 ^ x.req.ctx) 0

/-- The lowest free context: the lowest clear bit of the mask of the busy ones. -/
def freeCtx (s : State) : Option Nat :=
  let m := busyCtxs s
  let k := Nat.log2 (m ^^^ (m + 1))
  if k < 4096 then some k else none

/-- A request takes a context. -/
def takeCtx (s : State) (r : HiveCtx) (c : Nat) : State :=
  setHive s { s.hive with ctxs := s.hive.ctxs ++ [{ r with req := { r.req with ctx := c, gen := genOf s c } }] }

/-- A request of the admission queue takes a context, and the fences that cover it follow it there (R338). -/
def takeQueued (s : State) (r : HiveCtx) (c : Nat) : State :=
  let s := takeCtx s r c
  match r.asker with
  | .host src tag =>
    { s with fences := s.fences.map fun f =>
      if f.queued.contains (src, tag) then
        { f with queued := f.queued.filter (· != (src, tag)), ctxs := f.ctxs ++ [(c, genOf s c)] }
      else f }
  | _ => s

/-- The CELL_READ a degraded read asks for next. -/
def degNext (d : DegRead) : Option (HiveCtx × DegRead) :=
  match d.todo with
  | [] => none
  | (peer, off, coeff, gran) :: t =>
    some ({ req := { ctx := 0, gen := 0, op := 6, part := false, size := 6, off := off, mask := 0, data := [] },
            peer := peer, own := false, asker := .deg d.id gran coeff, issued := false, time := 0 },
          { d with todo := t, out := d.out + 1 })

/-- The state with a degraded read replaced. -/
def setDeg (s : State) (d : DegRead) : State :=
  setHive s { s.hive with degs := s.hive.degs.map fun x => if x.id = d.id then d else x }

/-- Beats of HFP_TWD that a request of the host port brought (R37, R39). -/
def twdBeats (s : State) (c : HiveCtx) : Nat :=
  if c.req.op = 0 then 0 else ceilDiv c.req.data.length (if rdb s R.GEN_STRAP_HFP_W128 then 16 else 32)

/-- A request of the host port waits beyond the 256 places of the admission queue: its buffer space, and so its credits, are kept
(R37, R334). -/
def holdHost (s : State) (c : HiveCtx) : State :=
  count (setHost s { s.host with treq := s.host.treq - 1, twd := s.host.twd - twdBeats s c }) C.RAE_HFP_HOLD

/-- A held request's buffer space is free: its credits go back to the network (R37). -/
def creditBack (s : State) (c : HiveCtx) : State :=
  emit (setHost s { s.host with treq := s.host.treq + 1, twd := s.host.twd + twdBeats s c }) (.hostCredit 1 (twdBeats s c))

/-- A place of the admission queue has come free: the request that now takes the last one gives its credits back. -/
def freeHeld (s : State) : State :=
  match s.hive.admq[255]? with
  | some c => creditBack s c
  | none => s

/-- Requests leave the admission queue unserved: those of them that were held, and those that now come within its 256 places, give their
credits back (R37, R334). -/
def dropQueued (s : State) (p : HiveCtx → Bool) : State :=
  let left := s.hive.admq.filter fun c => !p c
  let freed := (s.hive.admq.drop 256).filter fun c => !(left.drop 256).contains c
  freed.foldl creditBack (setHive s { s.hive with admq := left })

/-- Waiting requests take free contexts: the admission queue first, then degraded reads in order. fuel bounds them. -/
def admitCtxs : Nat → State → State
  | 0, s => s
  | f + 1, s =>
    match freeCtx s with
    | none => s
    | some c =>
      match s.hive.admq with
      | r :: t => admitCtxs f (takeQueued (freeHeld (setHive s { s.hive with admq := t })) r c)
      | [] =>
        match (s.hive.degs.filterMap degNext).head? with
        | some (r, d) => admitCtxs f (takeCtx (setDeg s d) r c)
        | none => s

/-! ## Missing cells of the own rank (R367, R371) -/

/-- The device is being rebuilt, or is a shadow being filled. -/
def refilling (s : State) : Bool := memberState s == 6 || (s.rbd.cmd.isSome && s.rbd.shadow)

/-- A parity cell of the own rank that a rebuild has not written yet. -/
def parMissing (s : State) (p : Nat) : Bool :=
  refilling s && !s.rbd.written.contains (parStripe (cmbN s) (cmbM s) (cmbFixed s) (cmbRank s) p)

/-- A data cell of the own rank that a rebuild has not written yet. -/
def dataMissing (s : State) (d : Nat) : Bool :=
  refilling s && !isKept d && decide (d < rd s R.CMB_DATA_CELLS) &&
    !s.rbd.written.contains (dataStripe (cmbN s) (cmbM s) (cmbFixed s) (cmbRank s) d)

/-! ## The checks of a stored cell, with its SUSPECT mark (R175, R389) -/

/-- The CRC of a data cell's contents: its ledger's, and while rows write the cell the CRC of their deltas on top, which the ledger takes
over when it is rewritten (R20, R182). -/
def cellCrc (s : State) (d : Nat) : Nat :=
  (s.cod.open_.filter fun o => o.d == d && o.recs != []).foldl (fun c o => c ^^^ crc64 (deltaCell o.recs)) (lCrc (ledger s d))

/-- A data cell's stored bytes agree with their CRC (R175); a kept rank's cell has neither. -/
def dataCellOk (s : State) (d : Nat) : Bool := isKept d || crc64 (dataCell s d) == cellCrc s d

/-- Some row has written a granule of a cell and not yet rewritten its ledger entry (R28). -/
def cellBusy (s : State) (d : Nat) : Bool := s.cod.open_.any fun o => o.d == d && o.recs != []

/-- A parity cell's stored bytes agree with its ledger CRC. -/
def parCellOk (s : State) (p : Nat) : Bool := crc64 (parCell s p) == lCrc (ledgerP s p)

/-- A parity cell's view may be handed on: the cell is not SUSPECT and passes its check, and so does the B slot where that is the
view (R329, R389, R393). -/
def parViewOk (s : State) (live : Bool) (p : Nat) : Bool :=
  !lSuspect (ledgerP s p) && parCellOk s p && (live || xUndoB (ledgerX s p) == 0 || crc64 (bSlot s p) == bSlotCrc s p)

/-- A data cell may be handed on: it is not SUSPECT and passes its check; a cell beyond CMB_DATA_CELLS is virtual (R252, R389, R393). -/
def dataViewOk (s : State) (d : Nat) : Bool :=
  decide (rd s R.CMB_DATA_CELLS ≤ d) || (!lSuspect (ledger s d) && dataCellOk s d)

/-- A data cell fails its check: SUSPECT is set and counted once (R389). -/
def suspectData (s : State) (d : Nat) : State :=
  let e := ledger s d
  if lSuspect e then s else count (setLedger s d (setBits e 67 67 1)) (C.SLC_CELL_FAIL (dataSlice s d))

/-- A parity cell fails its check (R389, R392). -/
def suspectPar (s : State) (p : Nat) : State :=
  let e := ledgerP s p
  if lSuspect e then s
  else count (setLedgerPX s p (setBits e 67 67 1) (ledgerX s p)) (C.SLC_CELL_FAIL (parSlice s p))

/-- Every contributor set of an own cell's repair is exhausted (R391). -/
def repairGone (s : State) (d : Nat) : Bool :=
  s.hl.repairs.any fun r => !r.par && r.cell == d && decide (cmbM s < r.tries)

/-- An own data cell stands SUSPECT. -/
def cellSuspect (s : State) (d : Nat) : Bool := !isKept d && lSuspect (ledger s d)

/-! ## Decode coefficients (R253, R254, R319, R367) -/

/-- What rank r's cell of stripe t is, as coefficients of the stripe's data cells. -/
def codeRow (n m : Nat) (fixed : Bool) (r t : Nat) : List Nat :=
  match parIndex n m fixed r t with
  | some j => (List.range (n - m)).map fun i => coef m j i
  | none => (List.range (n - m)).map fun i => if i = dataPos n m fixed r t then 1 else 0

/-- A row with a multiple of another subtracted. -/
def rowSub (a b : List Nat) (c : Nat) : List Nat := (List.range a.length).map fun i => a.getD i 0 ^^^ gfMul c (b.getD i 0)

/-- One column of Gaussian elimination over GF(2⁸): the pivot row moves up, is scaled, and clears the column. -/
def elimCol (rows : List (List Nat)) (c : Nat) : List (List Nat) :=
  match (List.range rows.length).find? fun i => decide (c ≤ i) && (rows.getD i []).getD c 0 != 0 with
  | none => rows
  | some p =>
    let piv := rows.getD p []
    let piv := piv.map fun x => gfMul (gfInv (piv.getD c 0)) x
    let rows := rows.set p (rows.getD c [])
    (List.range rows.length).map fun i =>
      if i = c then piv else rowSub (rows.getD i []) piv ((rows.getD i []).getD c 0)

/-- The bytes d_r with which the target row is the sum of the contributors' rows. -/
def decodeCoefs (rows : List (List Nat)) (target : List Nat) : List Nat :=
  let k := rows.length
  let m := (List.range k).map fun i => (rows.map fun r => r.getD i 0) ++ [target.getD i 0]
  ((List.range k).foldl elimCol m).map fun r => r.getD k 0

/-- Whether rank r's cell of stripe t is parity, and its index. -/
def cellOfRank (s : State) (r t : Nat) : Bool × Nat :=
  match parIndex (cmbN s) (cmbM s) (cmbFixed s) r t with
  | some _ => (true, parCellOf (cmbN s) (cmbM s) (cmbFixed s) r t)
  | none => (false, (dataCellOf (cmbN s) (cmbM s) (cmbFixed s) r t).getD 0)

/-- The own cell of a stripe is missing: not rebuilt yet, or a SUSPECT parity cell (R367, R392). -/
def ownMissing (s : State) (t : Nat) : Bool :=
  let c := cellOfRank s (cmbRank s) t
  if c.1 then parMissing s c.2 || lSuspect (ledgerP s c.2) else dataMissing s c.2

/-- Ranks whose cell of stripe t a reader may use: neither LOST nor DEGRADED, not excepted, and with the own cell not missing. Which cells
another rank still misses, only it can tell: its CELL_CHECK excepts it (R367, R391, R392; notes/assumptions/19). -/
def goodRanks (s : State) (t : Nat) (except : List Nat) : List Nat :=
  (List.range (cmbN s)).filter fun r => !except.contains r && (rankIdx s r).isSome && !([5, 7].contains (rankState s r)) &&
    !(r == cmbRank s && ownMissing s t)

/-- The ranks that are being rebuilt. -/
def rebuildingRanks (s : State) : List Nat := (List.range (cmbN s)).filter fun r => rankState s r == 6

/-- The first n − m of some ranks as contributors of a stripe for a rank, with their coefficients; none with fewer. -/
def decodeFrom (s : State) (rank t : Nat) (ranks : List Nat) : Option (List (Nat × Nat)) :=
  let n := cmbN s
  let m := cmbM s
  let rs := ranks.take (n - m)
  if rs.length < n - m then none
  else
    let ds := decodeCoefs (rs.map fun r => codeRow n m (cmbFixed s) r t) (codeRow n m (cmbFixed s) rank t)
    some ((List.range rs.length).map fun i => (rs.getD i 0, ds.getD i 0))

/-- The contributors of a stripe for a rank, with their coefficients; none with fewer than n − m. -/
def contributors (s : State) (rank t : Nat) (except : List Nat) : Option (List (Nat × Nat)) :=
  decodeFrom s rank t (goodRanks s t (rank :: except))

/-- The contributors of a rebuild chain for a rank: every member takes the same ones, so that a rank which is being rebuilt itself is none
(R319, R371; DEDUCED, notes/assumptions/19). -/
def chainGivers (s : State) (rank t : Nat) : Option (List (Nat × Nat)) :=
  decodeFrom s rank t ((List.range (cmbN s)).filter fun r => r != rank && (rankIdx s r).isSome && !([5, 6, 7].contains (rankState s r)))

/-- OFFSET of a CELL_READ (R329). -/
def cellOff (par live : Bool) (cell gran : Nat) : Nat := at' (b2n par) 40 + at' (b2n live) 39 + at' cell 10 + gran

/-- A cell of the own rank in a view. -/
def ownCell (s : State) (live par : Bool) (cell : Nat) : Bytes := if par then parView s live cell else dataView s live cell

/-- Bytes laid over a run at an offset. -/
def overlay (b : Bytes) (o : Nat) (x : Bytes) : Bytes := b.take o ++ x ++ b.drop (o + x.length)

/-- An old value in the TRD lanes of its address, address[4:0] onward, the other lanes zero (R330). The bytes of a plain read are
answered first byte first (DESIGN CHOICE, notes/assumptions/66). -/
def inLanes (off : Nat) (b : Bytes) : Bytes :=
  if 32 ≤ b.length then b
  else List.replicate (off % 32) 0 ++ b ++ List.replicate (32 - off % 32 - b.length) 0

/-- Unit number of a window read's port requests. -/
def winOwner (id : Nat) : Nat := 2 ^ 40 + id

/-- No read of a unit is waiting or outstanding on any port. -/
def readsAnswered (s : State) (owner : Nat) : Bool :=
  s.mrp.all (fun x => x.reqs.all fun r => r.write || r.owner != owner) &&
  s.tier.all (fun x => x.reqs.all fun r => r.write || r.owner != owner)

/-- The state with a window read replaced. -/
def setWin (s : State) (w : WinRead) : State :=
  setHive s { s.hive with wins := s.hive.wins.map fun x => if x.id = w.id then w else x }

/-- A coded-window read whose pieces are all in is answered: its bytes, or CELL_CHECK with zero data (R367). Until its port reads
are answered it waits (R47), and one that lost a granule is served again after the repair. -/
def winAnswer (s : State) (w : WinRead) : State :=
  if w.left ≠ 0 ∨ !readsAnswered s (winOwner w.id) then setWin s w
  else if w.lost && !w.bad then setWin s { w with wait := true }
  else
  let n := sizeBytes w.size
  let s := setHive s { s.hive with wins := s.hive.wins.filter fun x => x.id != w.id }
  if w.bad then emit s (.trd w.tag 0x0D (List.replicate n 0))
  else emit s (.trd w.tag 0 w.bytes)

/-- A degraded read of a coded-window read is in: its pieces are placed, and the last one answers. -/
def winPiece (s : State) (d : DegRead) (id : Nat) (ps : List (Nat × Nat × Nat)) : State :=
  match s.hive.wins.find? fun w => w.id == id with
  | none => s
  | some w =>
    let b := ps.foldl (fun b p => overlay b p.1 (slice d.bytes p.2.1 p.2.2)) w.bytes
    winAnswer s { w with bytes := b, left := w.left - 1, bad := w.bad || d.bad }

/-- The own contribution to a stripe is sound: its cell passes its check (R389). -/
def ownTermOk (s : State) (live : Bool) (t : Nat) : Bool :=
  let c := cellOfRank s (cmbRank s) t
  if c.1 then parViewOk s live c.2 else dataViewOk s c.2

/-- A degraded read as it begins: CELL_READs for each granule to every contributor; an own contribution is read here. none
when the stripe cannot be read (R367). -/
def degPlan (s : State) (use : DegUse) (rank t : Nat) (live : Bool) (grans except : List Nat) : Option DegRead :=
  (contributors s rank t except).map fun cs =>
    let own := cs.any fun c => c.1 == cmbRank s
    let start := cs.foldl (fun b c =>
      if c.1 = cmbRank s then
        let x := cellOfRank s c.1 t
        xorBytes b (gfScale c.2 (ownCell s live x.1 x.2))
      else b) (List.replicate cellSize 0)
    let todo := cs.flatMap fun c =>
      if c.1 = cmbRank s then []
      else
        let x := cellOfRank s c.1 t
        match rankPeer s c.1 with
        | some p => grans.map fun g => (p, cellOff x.1 live x.2 g, c.2, g)
        | none => []
    { id := s.hive.nextDeg, use := use, bytes := start, todo := todo, out := 0, bad := own && !ownTermOk s live t, badPeers := [],
      rank := rank, stripe := t, live := live, grans := grans, except := except }

/-- A degraded read enters. -/
def degBegin (s : State) (d : DegRead) : State :=
  admitCtxs 1 (setHive s { s.hive with nextDeg := s.hive.nextDeg + 1, degs := s.hive.degs ++ [d] })

/-- The rank of the own comb whose position a peer holds. -/
def rankOfPeer (s : State) (p : Nat) : Option Nat := (List.range (cmbN s)).find? fun r => rankPeer s r == some p

/-- The ranks a bad answer shows to miss their cell of the stripe: those being rebuilt, and those whose parity cell is SUSPECT
(R367, R392); none when some other rank failed, or no peer told. -/
def missingRanks (s : State) (d : DegRead) : Option (List Nat) :=
  let rs := (d.badPeers.eraseDups).filterMap (rankOfPeer s)
  if rs ≠ [] ∧ rs.length = d.badPeers.eraseDups.length ∧ rs.all fun r => rankState s r == 6 || (cellOfRank s r d.stripe).1 then some rs
  else none

/-- A degraded read whose answers are all in: a kept cell is decoded, a window read gets its pieces, and a repair's
cell stays for the repair. Ranks that turn out to miss their cell are left out, and the read begins again; a kept cell that could not be
read is asked for again (R367, R377). fuel bounds the ranks left out. -/
def degFinishN : Nat → State → DegRead → State
  | 0, s, _ => s
  | f + 1, s, d =>
    let drop (s : State) : State := setHive s { s.hive with degs := s.hive.degs.filter fun x => x.id != d.id }
    let give (s : State) : State :=
      match d.use with
      | .kept i => if d.bad then drop s else setCod (drop s) { s.cod with kept := s.cod.kept ++ [(i, d.bytes)] }
      | .window id ps => winPiece (drop s) d id ps
      | .repair _ _ => s
    let again (s : State) (rs : List Nat) : State :=
      match degPlan (drop s) d.use d.rank d.stripe d.live d.grans (d.except ++ rs) with
      | some e => degFinishN f (degBegin (drop s) e) e
      | none => give s
    if d.todo ≠ [] ∨ d.out ≠ 0 then s
    else
      match d.use, (if d.bad then missingRanks s d else none) with
      | .repair _ _, _ => s
      | _, some rs => again s rs
      | _, none => give s

def degFinish (s : State) (d : DegRead) : State := degFinishN 17 s d

/-- A degraded read starts; none when the stripe cannot be read (R367). -/
def degStart (s : State) (use : DegUse) (rank t : Nat) (live : Bool) (grans except : List Nat) : Option State :=
  (degPlan s use rank t live grans except).map fun d => degFinish (degBegin s d) d

/-! ## Kept cells (R368, R377) -/

/-- A cell of a rank that the keeper has written in an uncapped epoch has a segment some holder has not acknowledged (R368). -/
def cellUnacked (s : State) (rank cell : Nat) : Bool :=
  (s.cod.segs.filter fun g => g.own && g.rank == rank && g.kind != 3 && g.cell == cell && decide (capped s < g.epoch)).any fun g =>
    (parHolders (cmbN s) (cmbM s) (cmbFixed s) (dataStripe (cmbN s) (cmbM s) (cmbFixed s) rank cell)).any fun r =>
      rankState s r != 5 && decide (get (outOf s rank g.slice g.epoch).acked r ≤ holderSeq s g r)

/-- A kept rank's cell lies in a stripe with too few contributors: its reader fails with CELL_CHECK (R367). -/
def keptGone (s : State) (d : Nat) : Bool :=
  isKept d && !s.cod.kept.any (fun c => c.1 == d) &&
    (contributors s (srcRank s d) (dataStripe (cmbN s) (cmbM s) (cmbFixed s) (srcRank s d) (d % 2 ^ 25)) []).isNone

/-- A kept rank's cell is decoded, or its degraded read is started; while a segment of the cell is unacknowledged the
read waits. The second part says whether it is ready. -/
def wantKept (s : State) (d : Nat) : State × Bool :=
  if s.cod.kept.any fun c => c.1 == d then (s, true)
  else
    let rank := srcRank s d
    let cell := d % 2 ^ 25
    let t := dataStripe (cmbN s) (cmbM s) (cmbFixed s) rank cell
    if cellUnacked s rank cell || s.hive.degs.any fun x => x.use == .kept d then (s, false)
    else
      match degStart s (.kept d) rank t true (List.range 1024) [] with
      | some s => (s, false)
      | none => (s, false)

/-- Every kept cell of a list is wanted; ready when each is decoded. -/
def wantAll (s : State) (ds : List Nat) : State × Bool :=
  ds.foldl (fun r d => let x := wantKept r.1 d; (x.1, r.2 && x.2)) (s, true)

/-! ## Stripes wanted first (R371, R372) -/

/-- A stripe that a reader waits for is asked for ahead of the others; CMB_RB_PULL counts each wait, once while it lasts (R371, R372). who
tells the readers apart: a unit's owner number, or a drain stream's. -/
def pullStripe (s : State) (who t : Nat) : State :=
  if s.rbd.waited.contains (who, t) then s
  else count { s with rbd := { s.rbd with pull := (s.rbd.pull.filter (· != t)) ++ [t], waited := s.rbd.waited ++ [(who, t)] } } C.CMB_RB_PULL

/-- The wait of a reader for the missing ones among data cells. -/
def pullData (s : State) (who : Nat) (ds : List Nat) : State :=
  (ds.filter (dataMissing s)).foldl (fun s d => pullStripe s who (dataStripe (cmbN s) (cmbM s) (cmbFixed s) (cmbRank s) d)) s

end Sys2Proof.Machine
end

