-- ==== Sys2Proof/Machine/Directory.lean ====
section
/-! DEFINITION. The placement directory's checks (R101 to R105), cells of objects as units see them, images and
caches in the pool, and home writes (chapter 4). -/

namespace Sys2Proof.Machine

/-! ## Valid objects and their homes -/

/-- Ids of the valid objects, ascending. -/
def objIds (s : State) : List Nat :=
  ((s.tab.filter fun x => x.1 / 2 ^ 28 == 0xA * 16).map fun x => x.1 % 2 ^ 28).filter fun o => objValid s o

/-- A board-tier slot beyond the tier (R111). -/
def boardOk (s : State) (home n : Nat) : Bool :=
  n == 0 || ((tierPorts s).length != 0 && (List.range (min n (tierPorts s).length)).all fun i =>
    (boardPlace s (home + n - 1 - i)).isSome)

/-- A home as class, tier, HOME, STKMASK and cells. -/
structure Home where
  cls : Nat
  tier : Nat
  home : Nat
  mask : Nat
  n : Nat
  deriving DecidableEq, Repr

/-- The home of an entry. -/
def homeOfEntry (e : Nat) : Home :=
  { cls := oClass e, tier := oTier e, home := oHome e, mask := oStk e, n := objCells e }

/-- The homes of move entries still in use on both sides (R114, R118). -/
def moveHomes (s : State) (skip : Nat) : List Home :=
  (moveIdxs s).flatMap fun i =>
    let m := tget s 0xA 1 i
    let o := bits m 18 0
    let e := dir s o
    if o = skip then []
    else [{ cls := oClass e, tier := bits m 167 166, home := bits m 207 180, mask := bits m 179 168, n := objCells e },
          { cls := oClass e, tier := bits m 125 124, home := bits m 165 138, mask := bits m 137 126, n := objCells e }]

/-- Every home in force but that of object o. -/
def otherHomes (s : State) (o : Nat) : List Home :=
  ((objIds s).filter (· != o)).map (fun p => homeOfEntry (dir s p)) ++ moveHomes s o

/-- Two homes share a cell slot. -/
def homesOverlap (a b : Home) : Bool :=
  if a.cls = clsUnique ∨ b.cls = clsUnique then
    a.cls == b.cls && overlap (a.home, a.n) (b.home, b.n)
  else if a.tier ≠ b.tier then false
  else if a.tier = 1 then overlap (a.home, a.n) (b.home, b.n)
  else (List.range 12).any fun st =>
    overlap (homeOnN a.mask a.home a.n st) (homeOnN b.mask b.home b.n st)
where
  /-- the slots of a plain HBM home on stack st -/
  homeOnN (mask home n st : Nat) : Region :=
    if bit mask st then homeSlots home n (maskK mask) (popc st mask) else (0, 0)

/-- Cells of the member's own data region, or of a kept rank's (R112, R376). -/
def uniqueLimit (s : State) (home : Nat) : Nat :=
  let k := home / 2 ^ 25
  if k = 0 then rd s R.CMB_DATA_CELLS
  else if k ≤ 3 ∧ rdb s (R.CMB_KEEP_VALID (k - 1)) then dMax s else 0

/-- A home lies wholly in the region of its class and tier (R109 to R112). -/
def homeInRegion (s : State) (h : Home) : Bool :=
  if h.cls = clsUnique then h.tier == 0 && h.mask == 0 && decide (h.home % 2 ^ 25 + h.n ≤ uniqueLimit s h.home)
  else if h.tier = 1 then h.mask == 0 && h.home < 2 ^ 27 && boardOk s h.home h.n
  else
    h.mask != 0 && decide (h.home < 2 ^ 21) &&
    (setBitsOf 12 h.mask).all fun st =>
      let r := homeSlots h.home h.n (maskK h.mask) (popc st h.mask)
      stackOn s st && decide (r.1 + r.2 ≤ stackSlots s st) && (regions s st).all fun g => !overlap r g

/-- The home of an object may be h: inside its region and clear of every other home (R103). -/
def homeOk (s : State) (o : Nat) (h : Home) : Bool :=
  homeInRegion s h && (otherHomes s o).all fun x => !homesOverlap h x

/-! ## Class rows (R102) -/

/-- The formats a class admits. -/
def fmtAdmitted (cls fmt : Nat) : Bool :=
  if cls = clsReplica then fmt ≤ 8
  else if cls = clsScale then fmt == 0 || fmt == 1 || fmt == 8
  else fmt ≤ 2 || fmt == 8

/-- The tiers a class admits. -/
def tierAdmitted (cls tier : Nat) : Bool :=
  if cls = clsUnique ∨ cls = clsScale then tier == 0
  else if cls = clsCompat then tier == 1
  else tier ≤ 1

/-- The row of R102 for an entry, no reserved encoding, and no rule that refuses row tracking (R236; notes/assumptions/90). -/
def rowAdmits (e : Nat) : Bool :=
  let c := oClass e
  c ≤ 4 && fmtAdmitted c (oFmt e) && tierAdmitted c (oTier e) && oNm e ≤ 3 && oCmp e ≤ 1 && oRule e ≤ 4 &&
    (c == clsUnique || c == clsCompat || (oRule e == 0 && oSched e == 0)) &&
    (oNm e == 0 || c == clsReplica) && (oCmp e == 0 || c == clsScratch) &&
    (!oImg e || c == clsReplica || c == clsScratch) && (!oRowTrk e || (c == clsUnique && decide (oRule e ≤ 2))) &&
    (oMap e == 0 || c == clsReplica) &&
    (let mx := decide (3 ≤ oFmt e) && decide (oFmt e ≤ 7)
     let need := (c == clsUnique && oRowTrk e) || (c == clsReplica && mx) || (c == clsScratch && oCmp e == 1)
     if need then oComp e != 0 else oComp e == 0)

/-- Reserved bits of an entry are zero (R101). -/
def entryReserved (e : Nat) : Bool :=
  bits e 239 236 == 0 && bits e 223 211 == 0 && bits e 183 179 == 0 && bits e 151 147 == 0 &&
    bits e 127 124 == 0 && !bit e 88 && !bit e 56 && bits e 20 19 == 0

/-- Bytes the companion of an entry must hold (R103, R107, R128, R214). -/
def compNeeds (e : Nat) : Nat :=
  if oClass e = clsReplica then objCells e * (if oFmt e = 7 then 4096 else 2048)
  else if oClass e = clsScratch then objCells e * 4
  else (ceilDiv (oRows e) 3 + 1) * 64

/-- A row index map has 2^MB buckets of 64 bytes (R214; notes/assumptions/90). -/
def mapShape (c : Nat) : Bool := oRows c * oCols c == 64 * 2 ^ (oRows c * oCols c / 64).log2

/-- A companion of the right class, format and size (R103). A cell length table is a BYTE object (DESIGN CHOICE,
notes/assumptions/89). -/
def compOk (s : State) (e : Nat) : Bool :=
  let c := dir s (oComp e)
  oComp e == 0 || (objValid s (oComp e) && oFmt c == fmtByte && decide (compNeeds e ≤ oRows c * oCols c) &&
    (if oClass e = clsReplica then oClass c == clsReplica
     else if oClass e = clsUnique then oClass c == clsUnique && mapShape c else true))

/-- A seed object: SCALE BYTE of exactly 32 bytes (R103). -/
def seedOk (s : State) (o : Nat) : Bool :=
  o == 0 || (objValid s o && oClass (dir s o) == clsScale && oFmt (dir s o) == fmtByte &&
    oRows (dir s o) * oCols (dir s o) == 32)

/-- Logical bytes of a SCALE object. -/
def scaleBytes (e : Nat) : Nat := oRows e * oCols e * (if oFmt e = fmtByte then 1 else elemBytes (oFmt e))

/-- SCALE objects of the member stay within 1 MiB each and 4 MiB in all (R103). -/
def scaleLimit (s : State) (o e : Nat) : Bool :=
  if oClass e ≠ clsScale then true
  else
    let others := (((objIds s).filter (· != o)).filter fun p => oClass (dir s p) == clsScale).map fun p => scaleBytes (dir s p)
    decide (scaleBytes e ≤ 2 ^ 20) && decide (scaleBytes e + others.sum ≤ 2 ^ 22)

/-- ROWS and COLS within R103. -/
def shapeOk (e : Nat) : Bool :=
  oRows e != 0 && oCols e != 0 &&
    (if oFmt e = fmtByte then decide (oRows e * oCols e ≤ 2 ^ 41) else decide (oRows e * oCols e ≤ 2 ^ 36))

/-- The checks of R103 on a creation: 0 passes, else OBJ_STAT.WHY (R532). A LINK_ID that names a valid object passes
in every class (DESIGN CHOICE, notes/assumptions/89). -/
def createWhy (s : State) (o e : Nat) : Nat :=
  if !(o != 0 && oId e == o && entryReserved e && rowAdmits e) then 1
  else if !shapeOk e then 2
  else if !homeOk s o (homeOfEntry e) then 3
  else if !(compOk s e && seedOk s (oSeed e) && (oLink e == 0 || objValid s (oLink e))) then 4
  else if !scaleLimit s o e then 5
  else 0

/-- The fields R104 lets a submission change, cleared; HOME_EPOCH is the block's own. -/
def fixedPart (e : Nat) : Nat :=
  setBits (setBits (setBits (setBits (setBits (setBits (setBits (setBits (setBits e 255 240 0) 191 184 0) 159 152 0)
    146 128 0) 95 92 0) 91 89 0) 63 61 0) 60 59 0) 21 21 0

/-- The checks of R104 on a change. The fields that may change still fit the class's row; a new SEED_ID is checked as at a creation
(DESIGN CHOICE, notes/assumptions/89). -/
def changeWhy (s : State) (e new : Nat) : Nat :=
  if !entryReserved new then 1
  else if fixedPart e ≠ fixedPart new then 6
  else if !rowAdmits new then 1
  else if !seedOk s (oSeed new) then 4
  else 0

/-! ## Images (R119 to R123) -/

/-- Image table entry i. -/
def image (s : State) (i : Nat) : Nat := tget s 0xA 2 i

def imFillTime (m : Nat) : Nat := bits m 255 192
def imTag (m : Nat) : Nat := bits m 191 176
def imStk (m : Nat) : Nat := bits m 175 172
def imSlot (m : Nat) : Nat := bits m 171 151
def imFirst (m : Nat) : Nat := bits m 150 129
def imCount (m : Nat) : Nat := bits m 128 110
def imTenant (m : Nat) : Nat := bits m 109 108
def imHeld (m : Nat) : Bool := bit m 107
def imStream (m : Nat) : Bool := bit m 106
def imCompat (m : Nat) : Bool := bit m 105
def imFilling (m : Nat) : Bool := bit m 104
def imDirty (m : Nat) : Bool := bit m 103
def imValid (m : Nat) : Bool := bit m 19
def imObj (m : Nat) : Nat := bits m 18 0

/-- Image table indices in use, ascending. -/
def imageIdxs (s : State) : List Nat :=
  (s.tab.filter fun x => x.1 / 2 ^ 28 == 0xA * 16 + 2).map fun x => x.1 % 2 ^ 28

/-- The lowest free image table index. -/
def freeImage (s : State) : Option Nat := firstBelow 16384 fun i => image s i == 0

/-- The pool region of one stack holds an image in these slots. -/
def imRegion (m : Nat) : Region := (imSlot m, imCount m)

/-- Pool cells in all. -/
def poolCells (s : State) : Nat := ((List.range 12).filter (stackOn s)).length * rd s R.TIER_POOL_SLOTS

/-- Pool cells a tenant holds. -/
def tenantCells (s : State) (t : Nat) : Nat :=
  (((imageIdxs s).filter fun i => imTenant (image s i) == t && !imStream (image s i)).map fun i => imCount (image s i)).sum

/-- A run of n free slots in the pool: the lowest, on the lowest enabled stack that has one. A slot that a read already accepted still
covers is not free (R130). -/
def poolRoom (s : State) (n : Nat) : Option (Nat × Nat) :=
  let ims := ((imageIdxs s).map (image s)).filter fun m => !imStream m
  ((List.range 12).filter (stackOn s)).findSome? fun st =>
    let base := rd s R.TIER_POOL_BASE
    let used := (ims.filter fun m => imStk m == st).map imRegion ++ (slotsRead s st).map fun a => (a, 1)
    let starts := base :: used.map fun r => r.1 + r.2
    let ok := starts.filter fun a => decide (base ≤ a) && decide (a + n ≤ base + rd s R.TIER_POOL_SLOTS) &&
      used.all fun r => !overlap (a, n) r
    match ok with
    | [] => none
    | a :: t => some (st, t.foldl min a)

/-- The floor of a tenant (R122). -/
def floorOf (s : State) (t : Nat) : Nat := rd s (R.TIER_POOL_FLOOR t)

/-- Objects of the commands now running, which hold their COMPAT caches open: the streams of threads and the sources of collectives. -/
def openObjs (s : State) : List Nat :=
  (s.seq.threads.flatMap fun t => if t.busy then t.binds.map (·.obj) else []) ++
  s.col.run.map fun c => opd ((findRun s c.queue c.idx).getD Run.none).raw 82 64

/-- Images that may be evicted: unheld, not of a stream, not being filled, no open COMPAT cache (R122). -/
def evictable (s : State) : List Nat :=
  (imageIdxs s).filter fun i =>
    let m := image s i
    !imHeld m && !imStream m && !imFilling m && !(imCompat m && (openObjs s).contains (imObj m))

/-- The older fill first, the lower index at equal times. -/
def oldest (s : State) : List Nat → Option Nat
  | [] => none
  | i :: t =>
    match oldest s t with
    | none => some i
    | some j => if imFillTime (image s j) < imFillTime (image s i) then some j else some i

/-- The image the block evicts next for a tenant: first of tenants above their floor, then of the tenant itself. -/
def victim (s : State) (t : Nat) : Option Nat :=
  let es := evictable s
  match oldest s (es.filter fun i => decide (floorOf s (imTenant (image s i)) < tenantCells s (imTenant (image s i)))) with
  | some i => some i
  | none => oldest s (es.filter fun i => imTenant (image s i) == t)

/-- The state with the image pool replaced. -/
def setPool (s : State) (p : Pool) : State := { s with pool := p }

/-- The owner number of an image's port requests. -/
def imageOwner (i : Nat) : Nat := 128 + i

/-- An image entry is removed. -/
def dropImage (s : State) (i : Nat) : State :=
  let s := tput s 0xA 2 i 0
  let p := s.pool
  setPool s { p with dirty := put p.dirty i 0, bad := put p.bad i 0, fails := put p.fails i 0, put := put p.put i 0,
                     flaw := put p.flaw i 0, wb := put p.wb i 0, user := put p.user i 0, slotAt := put p.slotAt i 0,
                     zeros := p.zeros.filter fun z => z.1 != imageOwner i, held := p.held.filter (· != i) }

/-- The place of cell c of image i: consecutive slots of one stack, or for a stream image the cells of its slot in SLOT_OBJ (R110,
R125). -/
def imPlace (s : State) (i c : Nat) : Place :=
  let m := image s i
  match get s.pool.slotAt i with
  | 0 => .hbm (imStk m) (imSlot m + (c - imFirst m))
  | v + 1 => cellPlace s (dir s (v / 2 ^ 22)) (v % 2 ^ 22 + (c - imFirst m))

/-- An object that a MOVE copies now (R114). -/
def moving (s : State) (o : Nat) : Bool :=
  (moveIdxs s).any fun i => bits (tget s 0xA 1 i) 18 0 == o && bits (tget s 0xA 1 i) 101 100 == 0

/-- The dirty pages of a COMPAT cache are written to the home and their bits cleared (R127); while a MOVE copies the object the write-back
is held (R114). kind: what follows the write-back. -/
def writeBack (s : State) (i kind : Nat) : State :=
  let m := image s i
  if moving s (imObj m) then setPool s { s.pool with wb := put s.pool.wb i kind, held := i :: s.pool.held.filter (· != i) }
  else
  let d := get s.pool.dirty i
  let e := dir s (imObj m)
  let s := (setBitsOf 16 d).foldl (fun s p =>
    let b := placeBytes s (imPlace s i (imFirst m)) (4096 * p) 4096
    count (placeWrite s (imageOwner i) (cellPlace s e (imFirst m)) (4096 * p) b) C.TIER_WB) s
  tput (setPool s { s.pool with dirty := put s.pool.dirty i 0, wb := put s.pool.wb i kind }) 0xA 2 i (setBits m 103 103 0)

/-- The write-back of a cache has been answered: a failed one has kept its dirty bits and counts, and the third failure in a row posts
CELL_CHECK for the cell; a clean one lets the eviction it was for go on (R122, R130). -/
def settleBack (s : State) (i : Nat) : State :=
  let kind := get s.pool.wb i
  if kind = 0 ∨ s.pool.held.contains i ∨ !writesAcked s (imageOwner i) then s
  else
    let p := s.pool
    let m := image s i
    let bad := get p.flaw i != 0
    let s := setPool s { p with wb := put p.wb i 0, flaw := put p.flaw i 0, fails := put p.fails i (if bad then get p.fails i + 1 else 0) }
    if bad then (if get p.fails i = 2 then unitError s 0x0D 0x0B (imObj m + at' (imFirst m) 19) 0 else s)
    else if kind = 2 ∧ !imDirty m then count (dropImage s i) C.TIER_EVICT
    else s

/-- Room for n cells is made: images are evicted, a dirty cache once its pages are written back (R122). The fuel bounds the evictions;
none: the fill waits. -/
def makeRoom (t n : Nat) : Nat → State → State × Option (Nat × Nat)
  | 0, s => (s, none)
  | f + 1, s =>
    match poolRoom s n with
    | some p => (s, some p)
    | none =>
      match victim s t with
      | some i =>
        if get s.pool.wb i ≠ 0 then (s, none)
        else if imCompat (image s i) && imDirty (image s i) then makeRoom t n f (settleBack (writeBack s i 2) i)
        else makeRoom t n f (count (dropImage s i) C.TIER_EVICT)
      | none => (s, none)

/-- A fill of n cells can never be met: more than the pool holds beyond the other tenants' floors (R123), or more
than one stack's pool region, in which an image lies. -/
def fillTooBig (s : State) (t n : Nat) : Bool :=
  let others := ((List.range 4).filter (· != t)).map (floorOf s)
  decide (poolCells s < n + others.sum) || decide (rd s R.TIER_POOL_SLOTS < n)

/-- An image table entry (R532). -/
def imageEntry (s : State) (st slot first n tenant o : Nat) (held stream compat filling : Bool) : Nat :=
  at' (rd s R.TIME_TOD) 192 + at' (oHomeEpoch (dir s o)) 176 + at' st 172 + at' slot 151 + at' first 129 + at' n 110 +
    at' tenant 108 + at' (b2n held) 107 + at' (b2n stream) 106 + at' (b2n compat) 105 + at' (b2n filling) 104 +
    at' 1 19 + o

/-! ## The output compressor (R128) -/

/-- The packed records of a cell. -/
def packCell (b : Bytes) : Bytes :=
  let p := (List.range 1024).flatMap fun g => recordOf (slice b (64 * g) 64)
  p ++ List.replicate ((64 - p.length % 64) % 64) 0

/-- Exact length of a cell's records. -/
def packLen (b : Bytes) : Nat := ((List.range 1024).map fun g => (recordOf (slice b (64 * g) 64)).length).sum

/-- A cell restored from its packed records. -/
def unpackCell (b : Bytes) : Bytes := (parseRecs (List.range 1024) b).flatMap (·.2)

/-- The cell length table entry of cell c. -/
def lenEntry (s : State) (e c : Nat) : Nat := leVal (objBytesAt s (oComp e) (4 * c) 4)

/-- The board-tier cells of an object are packed by the output compressor. -/
def zipped (e : Nat) : Bool := oClass e == clsScratch && oCmp e == 1 && oTier e == 1

/-- A cell length entry of a packed cell: neither RAW nor of length 0, which the table holds before the cell is first packed
(DESIGN CHOICE, notes/assumptions/81). -/
def lenPacked (l : Nat) : Bool := !bit l 31 && bits l 16 0 != 0

/-- The cache of a COMPAT cell. -/
def cacheOf (s : State) (o c : Nat) : Option Nat :=
  (imageIdxs s).find? fun i => imObj (image s i) == o && imCompat (image s i) && imFirst (image s i) == c

/-- The bytes of cell c of an object as units see them: a compressed board-tier cell is expanded, a cached COMPAT cell
is its cache. -/
def cellBytes (s : State) (o c : Nat) : Bytes :=
  let e := dir s o
  let raw := objCell s o c
  if zipped e then (if lenPacked (lenEntry s e c) then unpackCell raw else raw)
  else if oClass e = clsCompat then
    match cacheOf s o c with
    | some i => if imFilling (image s i) then raw else placeBytes s (imPlace s i c) 0 cellSize
    | none => raw
  else raw

/-- The cell of an object's home is read on its port: of a packed cell, the granules its records take (R128). -/
def homeFetch (s : State) (owner o c : Nat) : State :=
  let e := dir s o
  let l := lenEntry s e c
  let n := if zipped e && lenPacked l then 64 * ceilDiv (bits l 16 0) 64 else cellSize
  (placeRead s owner (cellPlace s e c) 0 n).2

/-- n bytes of cell c of an object from offset off, as units see them. -/
def cellSlice (s : State) (o c off n : Nat) : Bytes :=
  let e := dir s o
  if zipped e ∨ oClass e = clsCompat then slice (cellBytes s o c) off n
  else placeBytes s (cellPlace s e c) off n

/-- n bytes of an object's linear array, as units see them. -/
def objRange (s : State) (o off n : Nat) : Bytes :=
  let c0 := off / cellSize
  slice ((List.range ((off + n) / cellSize + 1 - c0)).flatMap fun i => cellBytes s o (c0 + i)) (off % cellSize) n

/-! ## The COMPAT cache (R127) -/

/-- The cells of a filling image are written once they have been read; a cell found lost is written with zero (R130). -/
def fillPut (s : State) (i : Nat) : State :=
  let m := image s i
  if !imFilling m || get s.pool.put i != 0 || !readsIn s (imageOwner i) then s
  else
    let s := setPool s { s.pool with put := put s.pool.put i 1 }
    (List.range (imCount m)).foldl (fun s k =>
      let c := imFirst m + k
      let b := if s.pool.zeros.contains (imageOwner i, c) then List.replicate cellSize 0 else cellBytes s (imObj m) c
      placeWrite s (imageOwner i) (imPlace s i c) 0 b) s

/-- Every cell of an image stands in its slots. -/
def fillDone (s : State) (i : Nat) : Bool := get s.pool.put i != 0 && writesAcked s (imageOwner i)

/-- A COMPAT fill whose cell has arrived opens the cache. -/
def settleCache (s : State) (i : Nat) : State :=
  let s := fillPut s i
  if imFilling (image s i) && imCompat (image s i) && fillDone s i then
    tput (setPool s { s.pool with put := put s.pool.put i 0, user := put s.pool.user i 0 }) 0xA 2 i (setBits (image s i) 104 104 0)
  else s

/-- An uncached cell of a COMPAT object is filled into the cache for a unit (its owner number): whether the cache is open. A cache
whose eviction awaits its write-back stays (R122, R127). -/
def cacheFill (s : State) (user tenant o c : Nat) : State × Bool :=
  match cacheOf s o c with
  | some i =>
    let s := if get s.pool.wb i = 2 then setPool s { s.pool with wb := put s.pool.wb i 1 } else s
    (s, !imFilling (image s i))
  | none =>
    match makeRoom tenant 1 16385 s with
    | (s, none) => (count s C.TIER_POOL_WAIT, false)
    | (s, some (st, slot)) =>
      match freeImage s with
      | none => (count s C.TIER_POOL_WAIT, false)
      | some i =>
        let s := tput s 0xA 2 i (imageEntry s st slot c 1 tenant o false false true true)
        let s := setPool s { s.pool with user := put s.pool.user i (user + 1) }
        let s := settleCache (homeFetch s (imageOwner i) o c) i
        (s, !imFilling (image s i))

/-- COMPAT cells brought into the cache for a unit: whether every one is open. -/
def cacheAll (user tenant : Nat) (l : List (Nat × Nat)) (s : State) : State × Bool :=
  l.foldl (fun r x =>
    let y := cacheFill r.1 user tenant x.1 x.2
    (y.1, r.2 && y.2)) (s, true)

/-! ## Writes of homes (R20 aside) and what they do to images (R23, R120, R126) -/

/-- The stream program slot and visit whose slot holds an image, with whether its ready count has been signalled. -/
def streamOf (s : State) (o : Nat) : List (Nat × Nat × Bool) :=
  (List.range 4).flatMap fun k =>
    match (s.streams.getD k none) with
    | none => []
    | some p =>
      ((List.range p.started).filter fun v =>
        decide (p.started ≤ v + p.depth) && (p.descs.getD (if p.rev then p.layers - 1 - v else v) []).any (·.obj == o)).map
          fun v => (k, v, decide (v < p.signalled))

/-- A write of epoch e changed the home of a non-coded object: HOME_EPOCH moves on, every image of it is invalid from
here on, and a signalled stream visit that holds it is stale (R23, R120, R126). -/
def homeWritten (s : State) (o e : Nat) : State :=
  let d := dir s o
  let s := tput s 0xA 0 o (setBits d 255 240 (e % 2 ^ 16))
  let ims := (imageIdxs s).filter fun i => imObj (image s i) == o && !imCompat (image s i)
  let s := { s with pool := { s.pool with bad := ims.foldl (fun b i => put b i 1) s.pool.bad } }
  (streamOf s o).foldl (fun s v =>
    if v.2.2 then event (count s C.TIER_STREAM_STALE) 7 0 0x0B 0 o v.2.1
    else
      match s.streams.getD v.1 none with
      | none => s
      | some p => { s with streams := s.streams.set v.1 (some { p with refill := p.refill ++ [v.2.1] }) }) s

/-- An image is valid: filled, its tag the object's HOME_EPOCH and no write since (R120). -/
def imageValid (s : State) (i : Nat) : Bool :=
  let m := image s i
  imValid m && !imFilling m && get s.pool.bad i == 0 && imTag m == oHomeEpoch (dir s (imObj m))

/-- The image a reader of cell c of an object uses: the valid one of lowest index (R120, R130). -/
def imageFor (s : State) (o c : Nat) : Option Nat :=
  (imageIdxs s).find? fun i =>
    let m := image s i
    imObj m == o && !imCompat m && imageValid s i && decide (imFirst m ≤ c) && decide (c < imFirst m + imCount m)

/-- A cell length table entry is written, a write of the table's home. -/
def setLenEntry (s : State) (owner ep e c v : Nat) : State :=
  homeWritten (placeWrite s owner (cellPlace s (dir s (oComp e)) (4 * c / cellSize)) (4 * c % cellSize) (leBytes 4 v)) (oComp e) ep

/-- A whole cell stored through the output compressor at a board-tier place: packed, or raw where its records take more than the cell
(R128). -/
def zipCell (s : State) (owner ep e c : Nat) (p : Place) (b : Bytes) : State :=
  if packLen b ≤ cellSize then setLenEntry (placeWrite s owner p 0 (packCell b)) owner ep e c (packLen b)
  else setLenEntry (placeWrite s owner p 0 b) owner ep e c 0x80010000

/-- A cell of a COMPAT object or another non-coded object is written from offset off by a unit, for epoch ep. -/
def cellWrite (s : State) (owner ep o c off : Nat) (b : Bytes) : State :=
  let e := dir s o
  if oClass e = clsCompat then
    match cacheOf s o c with
    | none => s
    | some i =>
      let pages := ((List.range 16).filter fun p => overlap (4096 * p, 4096) (off, b.length)).foldl (fun a p => a + 2 ^ p) 0
      let s := setPool s { s.pool with dirty := put s.pool.dirty i (get s.pool.dirty i ||| pages) }
      let s := tput s 0xA 2 i (setBits (image s i) 103 103 1)
      placeWrite s owner (imPlace s i c) off b
  else if zipped e then zipCell s owner ep e c (cellPlace s e c) (overlay (cellBytes s o c) off b)
  else placeWrite s owner (cellPlace s e c) off b

/-- Write-backs that a MOVE held and holds no longer go out (R114). -/
def resumeBacks (s : State) : State :=
  (s.pool.held.filter fun i => !moving s (imObj (image s i))).foldl (fun s i =>
    writeBack (setPool s { s.pool with held := s.pool.held.filter (· != i) }) i (get s.pool.wb i)) s

/-- A MOVE copies an object that a write of o also writes: o, its scale plane, or its cell length table (R114). -/
def movingFor (s : State) (o : Nat) : Bool :=
  let e := dir s o
  moving s o || (((decide (3 ≤ oFmt e) && decide (oFmt e ≤ 7)) || zipped e) && moving s (oComp e))

/-- Where a reader of cell c of an object finds it: a valid image, the open cache of a COMPAT cell, or the home (R120, R127). -/
def readPlace (s : State) (o c : Nat) : Place :=
  match imageFor s o c with
  | some i => imPlace s i c
  | none =>
    match cacheOf s o c with
    | some i => if imFilling (image s i) then cellPlace s (dir s o) c else imPlace s i c
    | none => cellPlace s (dir s o) c

/-- Cell c of an object is read on the port that holds it for a unit. -/
def cellFetch (s : State) (owner o c : Nat) : State :=
  if readPlace s o c = cellPlace s (dir s o) c then homeFetch s owner o c else (placeRead s owner (readPlace s o c) 0 cellSize).2

end Sys2Proof.Machine
end

