-- ==== Sys2Proof/Machine/Tiers.lean ====
section
/-! DEFINITION. MOVE, images, stream programs and the tier ports (chapter 4, R56). -/

namespace Sys2Proof.Machine

/-! ## MOVE (R114 to R118) -/

/-- The owner number of a move entry's port requests, and its thread number in the coding unit. -/
def moveOwner (i : Nat) : Nat := 32 + i

/-- A move table entry (R532). -/
def moveEntry (epoch oldHome oldMask oldTier home mask tier next phase o : Nat) : Nat :=
  at' epoch 208 + at' oldHome 180 + at' oldMask 168 + at' oldTier 166 + at' home 138 + at' mask 126 + at' tier 124 +
    at' next 102 + at' phase 100 + at' 1 19 + o

def moveAt (s : State) (i : Nat) : Nat := tget s 0xA 1 i
def mvObj (m : Nat) : Nat := bits m 18 0
def mvPhase (m : Nat) : Nat := bits m 101 100
def mvNext (m : Nat) : Nat := bits m 123 102
def mvEpoch (m : Nat) : Nat := bits m 255 208
def mvNewHome (m : Nat) : Nat := bits m 165 138
def mvNewMask (m : Nat) : Nat := bits m 137 126
def mvNewTier (m : Nat) : Nat := bits m 125 124
def mvOldHome (m : Nat) : Nat := bits m 207 180
def mvOldMask (m : Nat) : Nat := bits m 179 168
def mvOldTier (m : Nat) : Nat := bits m 167 166

/-- The state with a move entry set. -/
def setMove (s : State) (i v : Nat) : State := tput s 0xA 1 i v

/-- The destination a MOVE names (R138). -/
def moveDest (s : State) (raw : Nat) : Home :=
  let e := dir s (opd raw 18 0)
  { cls := oClass e, tier := opd raw 20 19, home := opd raw 60 33, mask := opd raw 32 21, n := objCells e }

/-- A MOVE that may begin: a valid object without a move entry, a tier its class admits, an epoch only for a UNIQUE
object, and a destination that is free and in its region (R102, R114, R117). A destination in the cells of a kept rank is
admitted as R112 admits an entry's home (DEDUCED, notes/assumptions/82). -/
def moveOk (s : State) (raw : Nat) : Bool :=
  let o := opd raw 18 0
  let h := moveDest s raw
  objValid s o && !hiveTaken s o && (moveIdxs s).all (fun i => mvObj (moveAt s i) != o) && tierAdmitted h.cls h.tier &&
    (h.cls == clsUnique || opd raw 111 64 == 0) && homeInRegion s h &&
    (otherHomes s 0).all fun x => !homesOverlap h x

/-- The command whose aux begins with a tag and names a number. -/
def runWith (s : State) (opc sub tag n : Nat) : Option (Nat × Run) :=
  (List.range 16).findSome? fun q =>
    ((qOf s q).cmds.find? fun r => r.phase == .running && opcodeOf r.raw == opc && subopOf r.raw == sub &&
      r.aux.getD 0 0 == tag && r.aux.getD 1 0 == n).map fun r => (q, r)

/-- What a MOVE's command keeps: the code it will complete with, and the reads it has issued: 1 for the cells of a move of another class,
k + 1 for cell k of a UNIQUE move. -/
def moveErr (r : Run) : Nat := r.aux.getD 2 0
def moveRead (r : Run) : Nat := r.aux.getD 3 0

/-- The command of move entry i notes a code and its reads. -/
def setMoveAux (s : State) (i err k : Nat) : State :=
  match runWith s 3 0 1 i with
  | some (q, r) => modRun s q r.idx fun x => { x with aux := [1, i, err, k] }
  | none => s

/-- One cell of a UNIQUE move written as a cell of the epoch with full contents b; none while the log has no room. -/
def moveCellU (s : State) (i e d : Nat) (b : Bytes) : Option State :=
  match openCell s (moveOwner i) 0 d e 2 1024 with
  | none => none
  | some s =>
    let s := (List.range 1024).foldl (fun s g => writeGran s (moveOwner i) d g (slice b (64 * g) 64)) s
    some (closeThread s (moveOwner i))

/-- A MOVE ends with a code. -/
def failMove (s : State) (i code : Nat) : State :=
  let s := setPool s { s.pool with zeros := s.pool.zeros.filter fun z => z.1 != moveOwner i }
  match runWith s 3 0 1 i with
  | some (q, r) => finish s q r.idx code 0 0
  | none => s

/-- Source cell k of a UNIQUE move stands in the buffers, read whole and checked; if not, what it waits for is under way (R175, R367,
R377). -/
def sourceIn (s : State) (i k src : Nat) : State × Bool :=
  if isKept src then (if keptGone s src then (failMove s i 0x0D, false) else wantAll s [src])
  else if dataMissing s src then (pullData s (moveOwner i) [src], false)
  else if cellSuspect s src then (if repairGone s src then failMove s i 0x0D else s, false)
  else
    let issued := match runWith s 3 0 1 i with
      | some (_, r) => moveRead r == k + 1
      | none => false
    let s := if issued then s else
      let p := dataPlace s src
      setMoveAux (memRequest s (moveOwner i) false false p.1 (p.2 * cellSize) cellSize) i 0 (k + 1)
    if !readsIn s (moveOwner i) then (s, false)
    else if dataCellOk s src then (s, true)
    else (setMoveAux (suspectData s src) i 0 0, false)

/-- The remaining cells of a UNIQUE move's present phase, ascending: the destination written with the source's contents
(phase 0) or the source zeroed (phase 1). A failed reservation stops at that cell (R21), as does a cell that another row writes (R197). -/
def moveCellsU (i : Nat) : Nat → State → State
  | 0, s => s
  | f + 1, s =>
    let m := moveAt s i
    let k := mvNext m
    if objCells (dir s (mvObj m)) ≤ k then s
    else
      let src := mvOldHome m + k
      let d := if mvPhase m = 0 then mvNewHome m + k else src
      if openElsewhere s (moveOwner i) src || openElsewhere s (moveOwner i) d then s
      else
        match (if mvPhase m = 0 then sourceIn s i k src else (s, true)) with
        | (s, false) => s
        | (s, true) =>
          let b := if mvPhase m = 0 then homeCell s src else List.replicate cellSize 0
          match moveCellU s i (mvEpoch m) d b with
          | none => logStall s (moveOwner i) d (mvEpoch m)
          | some s => moveCellsU i f (setMove s i (setBits m 123 102 (k + 1)))

/-- One cell of a move of another class written at the new home, through the output compressor when it leaves HBM for the board tier;
between two board-tier homes its stored bytes are kept. A lost cell is written with zero (R115, R128, R130). -/
def moveCell (s : State) (i k : Nat) : State :=
  let m := moveAt s i
  let o := mvObj m
  let e := dir s o
  let w := moveOwner i
  let dst := homePlace s (oClass e) (mvNewTier m) (mvNewHome m) (mvNewMask m) k
  let zip := oClass e == clsScratch && oCmp e == 1
  let keep := zip && mvOldTier m == 1 && mvNewTier m == 1
  let b := if s.pool.zeros.contains (w, k) then List.replicate cellSize 0
    else if keep || oClass e == clsCompat then objCell s o k else cellBytes s o k
  if zip ∧ mvNewTier m = 1 ∧ !keep then zipCell s w (capped s + 1) e k dst b else placeWrite s w dst 0 b

/-- Every cell of a move of another class is requested from the old home. -/
def moveFetch (s : State) (i : Nat) : State :=
  let o := mvObj (moveAt s i)
  (List.range (objCells (dir s o))).foldl (fun s k => homeFetch s (moveOwner i) o k) (setMoveAux s i 0 1)

/-- Every cell left to copy, once the reads are in. -/
def moveCells (s : State) (i : Nat) : State :=
  let m := moveAt s i
  let n := objCells (dir s (mvObj m))
  let s := (List.range (n - mvNext m)).foldl (fun s j => moveCell s i (mvNext m + j)) s
  setMove s i (setBits (moveAt s i) 123 102 n)

/-- The board-tier slot behind a 64-byte address of port p. -/
def boardSlotOf (s : State) (p addr : Nat) : Nat :=
  let ps := tierPorts s
  (addr * 64 - rd s (R.TIER_BASE p) * 65536) / cellSize * ps.length + ps.idxOf p

/-- A read accepted from a home that is not UNIQUE has not completed (R115). -/
def homeRead (s : State) (h : Home) : Bool :=
  if h.tier = 1 then
    (List.range 4).any fun p => (tierOf s p).reqs.any fun r => !r.write &&
      (let a := boardSlotOf s p r.addr
       decide (h.home ≤ a) && decide (a < h.home + h.n))
  else (setBitsOf 12 h.mask).any fun st =>
    let r := homeOn h.mask h.home h.n st
    (slotsRead s st).any fun a => decide (r.1 ≤ a) && decide (a < r.1 + r.2)

/-- The home before a move. -/
def oldHome (s : State) (m : Nat) : Home :=
  let e := dir s (mvObj m)
  { cls := oClass e, tier := mvOldTier m, home := mvOldHome m, mask := mvOldMask m, n := objCells e }

/-- The MOVE of an entry completes, with the code its aux carries (0, or a lost cell's CELL_CHECK). -/
def finishMove (s : State) (i : Nat) : State :=
  match runWith s 3 0 1 i with
  | some (q, r) => finish (count s C.OBJ_MOVE_DONE) q r.idx (moveErr r) 0 0
  | none => s

/-- The copy is whole and acknowledged: the entry switches over; a UNIQUE object's old cells are then zeroed, another's
old home is released (R115, R117). -/
def switchOver (s : State) (i : Nat) : State :=
  let m := moveAt s i
  let o := mvObj m
  let e := setBits (setBits (setBits (dir s o) 58 57 (mvNewTier m)) 123 96 (mvNewHome m)) 235 224 (mvNewMask m)
  let s := tput s 0xA 0 o e
  if oClass e = clsUnique then moveCellsU i (objCells e + 1) (setMove s i (setBits (setBits m 101 100 1) 123 102 0))
  else setMove (setPool s { s.pool with zeros := s.pool.zeros.filter fun z => z.1 != moveOwner i }) i (setBits m 101 100 1)

/-- The release phase: once no read accepted before the switch-over is left, the old home's slots are free and the MOVE completes
(R115). -/
def releaseMove (s : State) (i : Nat) : State :=
  if homeRead s (oldHome s (moveAt s i)) then s else finishMove (setMove s i 0) i

/-- A move goes on as far as its reads, its writes and the log let it (R115, R117). -/
def settleMove (s : State) (i : Nat) : State :=
  let m := moveAt s i
  let n := objCells (dir s (mvObj m))
  match (if bit m 19 then runWith s 3 0 1 i else none) with
  | none => s
  | some (_, r) =>
    if oClass (dir s (mvObj m)) = clsUnique then
      let s := moveCellsU i (n + 1) s
      let m := moveAt s i
      if !writesAcked s (moveOwner i) || decide (mvNext m < n) then s
      else if mvPhase m = 0 then
        let s := switchOver s i
        if mvNext (moveAt s i) = n ∧ writesAcked s (moveOwner i) then finishMove (setMove s i (setBits (moveAt s i) 101 100 2)) i else s
      else if mvPhase m = 1 then finishMove (setMove s i (setBits m 101 100 2)) i
      else s
    else if mvPhase m ≠ 0 then releaseMove s i
    else if moveRead r = 0 ∨ !readsIn s (moveOwner i) then s
    else
      let s := if mvNext m < n then moveCells s i else s
      if writesAcked s (moveOwner i) then releaseMove (switchOver s i) i else s

/-- Every move under way goes on. -/
def resumeMoves (s : State) : State := (moveIdxs s).foldl settleMove s

/-- A MOVE takes the lowest free move table entry as it starts, or completes with DESCRIPTOR (R114, R141). -/
def takeMove (s : State) (q : Nat) (r : Run) : State :=
  match (if moveOk s r.raw then firstBelow 64 fun i => !bit (moveAt s i) 19 else none) with
  | none => finish s q r.idx ecDescriptor 0 0
  | some i =>
    let o := opd r.raw 18 0
    let e := dir s o
    let h := moveDest s r.raw
    modRun (setMove s i (moveEntry (opd r.raw 111 64) (oHome e) (oStk e) (oTier e) h.home h.mask h.tier 0 0 o)) q r.idx
      fun x => { x with aux := [1, i, 0, 0] }

/-- MOVE: it copies, switches over and releases; executed again, it goes on where it waited (R115 to R117). -/
def moveEffect (s : State) (q : Nat) : State :=
  match activeRun s q 3 0 with
  | none => s
  | some r =>
    let i := r.aux.getD 1 0
    if r.phase = .running then settleMove s i
    else
      let s := keepRunning s q r.idx r.aux
      settleMove (if oClass (dir s (mvObj (moveAt s i))) = clsUnique then s else moveFetch s i) i

/-- MOVE entries of an epoch retire at its cap (R118). -/
def retireMoves (s : State) (e : Nat) : State :=
  (List.range 64).foldl (fun s i =>
    let m := moveAt s i
    if bit m 19 && mvPhase m == 2 && mvEpoch m == e then setMove s i 0 else s) s

/-- UNIQUE moves of rolled-back epochs leave no trace: the entry's HOME returns and the move entry retires (R118). -/
def undoMoves (s : State) (target : Nat) : State :=
  (List.range 64).foldl (fun s i =>
    let m := moveAt s i
    if bit m 19 && oClass (dir s (mvObj m)) == clsUnique && decide (target < mvEpoch m) then
      setMove (tput s 0xA 0 (mvObj m) (setBits (dir s (mvObj m)) 123 96 (mvOldHome m))) i 0
    else s) s

/-! ## IMAGE FILL, DROP and FLUSH (R119 to R123, R127) -/

/-- The copy of a fill: the cells of a range are read for the image's slots. -/
def fillCells (s : State) (i : Nat) : State :=
  let m := image s i
  (List.range (imCount m)).foldl (fun s k => homeFetch s (imageOwner i) (imObj m) (imFirst m + k)) s

/-- The fill command of an image completes. -/
def finishFill (s : State) (i err info0 info1 : Nat) : State :=
  match runWith s 4 0 2 i with
  | some (q, r) => finish s q r.idx err info0 info1
  | none => s

/-- The command that waits for a lost cell of a fill fails with CELL_CHECK (R130). -/
def ecCellCheck : Nat := 0x0D

/-- A window image whose last cell has arrived: valid, or discarded when a write has changed its home (R120). The FILL of a discarded
image completes with OK and no address (DESIGN CHOICE, notes/assumptions/83); one that met a lost SCRATCH cell ends with CELL_CHECK
(R130). -/
def settleFill (s : State) (i : Nat) : State :=
  let s := fillPut s i
  let m := image s i
  if !imFilling m || imStream m || imCompat m || !fillDone s i then s
  else if s.pool.zeros.any fun z => z.1 == imageOwner i then finishFill (dropImage s i) i ecCellCheck 0 0
  else if imTag m == oHomeEpoch (dir s (imObj m)) && get s.pool.bad i == 0 then
    finishFill (tput (setPool s { s.pool with put := put s.pool.put i 0 }) 0xA 2 i (setBits m 104 104 0)) i 0
      (imStk m + at' (imSlot m) 4) i
  else finishFill (dropImage (count s C.TIER_IMG_STALE) i) i 0 0 0

/-- An object whose cells first to first + n − 1 exist and may be imaged. -/
def imageableRange (s : State) (o first n : Nat) : Bool :=
  let e := dir s o
  objValid s o && !hiveTaken s o && (oClass e == clsReplica || oClass e == clsScratch) && oImg e && n != 0 && decide (first + n ≤ objCells e)

/-- IMAGE FILL. While the pool has no room it waits and TIER_POOL_WAIT counts (R121 to R123), as it does while all 16,384 table entries
are in use: no image is evicted for its entry alone (DESIGN CHOICE, notes/assumptions/83). -/
def imageFillEffect (s : State) (q : Nat) : State :=
  match activeRun s q 4 0 with
  | none => s
  | some r =>
    if r.phase = .running then settleFill s (r.aux.getD 1 0)
    else
      let o := opd r.raw 18 0
      let n := opd r.raw 60 42
      let t := (qOf s q).tenant
      if !imageableRange s o (opd r.raw 41 20) n || fillTooBig s t n then finish s q r.idx ecDescriptor 0 0
      else
        match makeRoom t n 16385 s with
        | (s, none) => count s C.TIER_POOL_WAIT
        | (s, some (st, slot)) =>
          match freeImage s with
          | none => count s C.TIER_POOL_WAIT
          | some i =>
            let s := tput s 0xA 2 i (imageEntry s st slot (opd r.raw 41 20) n t o (bit (opd r.raw 191 0) 19) false false true)
            settleFill (fillCells (keepRunning s q r.idx [2, i]) i) i

/-- The IMAGE DROP of a dirty cache completes once its pages are in the home. -/
def settleDrop (s : State) (i : Nat) : State :=
  match runWith s 4 1 3 i with
  | none => s
  | some (q, r) => if get s.pool.wb i == 0 && !imDirty (image s i) then finish (dropImage s i) q r.idx 0 0 0 else s

/-- IMAGE DROP. A stream image, an image being filled and an index without an image are refused (R130). A dirty cache is written back
first, and the drop waits for it; after a failed write-back the command, executed again, writes back anew (DESIGN CHOICE,
notes/assumptions/83). -/
def imageDropEffect (s : State) (q : Nat) : State :=
  match activeRun s q 4 1 with
  | none => s
  | some r =>
    let i := opd r.raw 13 0
    let m := image s i
    let back (s : State) : State := settleDrop (settleBack (writeBack s i 3) i) i
    if r.phase = .running then (if get s.pool.wb i == 0 && imDirty m then back s else settleDrop s i)
    else if !imValid m || imStream m || imFilling m then finish s q r.idx ecDescriptor 0 0
    else if imCompat m && imDirty m then back (keepRunning s q r.idx [3, i])
    else finish (dropImage s i) q r.idx 0 0 0

/-- Dirty caches of an object, or of every COMPAT object (o = 0). -/
def dirtyCaches (s : State) (o : Nat) : List Nat :=
  (imageIdxs s).filter fun i => imCompat (image s i) && imDirty (image s i) && (o == 0 || imObj (image s i) == o)

/-- A flush whose write-backs are all acknowledged completes; one with a failed write-back waits to be run again. -/
def settleFlush (s : State) (q : Nat) (r : Run) : State :=
  if (r.aux.drop 1).all fun i => get s.pool.wb i == 0 && get s.pool.fails i == 0 then finish s q r.idx 0 0 0 else s

/-- Dirty caches written back. -/
def flushAll (s : State) (is : List Nat) : State := is.foldl (fun s i => settleBack (writeBack s i 1) i) s

/-- IMAGE FLUSH of a COMPAT object: every dirty page is written back (R127). -/
def imageFlushEffect (s : State) (q : Nat) : State :=
  match activeRun s q 4 2 with
  | none => s
  | some r =>
    let o := opd r.raw 18 0
    if !objValid s o || oClass (dir s o) != clsCompat then finish s q r.idx ecDescriptor 0 0
    else if r.phase = .running then
      let again := (r.aux.drop 1).filter fun i => get s.pool.wb i == 0 && get s.pool.fails i != 0
      settleFlush (flushAll s again) q r
    else
      let is := dirtyCaches s o
      let s := flushAll (keepRunning s q r.idx (4 :: is)) is
      settleFlush s q { r with aux := 4 :: is }

/-- A later flush of these caches: the IMAGE FLUSH commands that run complete with it (R541). -/
def joinFlushes (s : State) (is : List Nat) : State :=
  (List.range 16).foldl (fun s q =>
    match activeRun s q 4 2 with
    | some r => if r.phase = .running then keepRunning s q r.idx (r.aux ++ is) else s
    | none => s) s

/-! ## Stream programs (R124 to R126) -/

/-- Descriptors from the bytes after the header, cut into layers at LAST; the fuel bounds the descriptors. none where a
reserved bit is set, a count is 0 or the bytes run out. -/
def readDescs : Nat → Nat → List Binding → Bytes → Option (List (List Binding))
  | 0, _, _, _ => none
  | f + 1, layers, cur, b =>
    if layers = 0 then some []
    else if b.length < 8 then none
    else
      let v := leAt b 0 8
      let d : Binding := { obj := bits v 59 41, first := bits v 40 19, count := bits v 18 0 }
      if bits v 62 60 ≠ 0 ∨ d.count = 0 then none
      else if bit v 63 then (readDescs f (layers - 1) [] (b.drop 8)).map fun l => (cur ++ [d]) :: l
      else readDescs f layers (cur ++ [d]) (b.drop 8)

/-- The program of an object, checked as R124 says. DEDUCED (notes/assumptions/110): a reserved bit that is set is refused, and what follows
the last layer's last descriptor is not looked at. -/
def readProgram (s : State) (o tenant : Nat) : Option Stream :=
  let e := dir s o
  if !objValid s o || hiveTaken s o || oClass e != clsScratch || oFmt e != fmtByte then none
  else
    let n := oRows e * oCols e
    let b := objRange s o 0 n
    let w0 := leAt b 0 4
    let w1 := leAt b 4 4
    let w2 := leAt b 8 4
    let cells := leAt b 12 4
    let layers := bits w0 31 16
    let depth := bits w0 3 0
    let slotObj := bits w2 18 0
    let se := dir s slotObj
    if n < 16 ∨ layers = 0 ∨ depth < 2 ∨ 8 < depth ∨ bits w0 15 4 ≠ 0 ∨ bits w1 31 18 ≠ 0 ∨ bit w1 16 ∨ bits w2 31 19 ≠ 0 then none
    else if !objValid s slotObj || hiveTaken s slotObj || oClass se != clsScratch || oTier se != 0 || decide (objCells se < depth * cells) then none
    else
      match readDescs (n / 8 + 1) layers [] (b.drop 16) with
      | none => none
      | some ls =>
        if ls.all fun l => decide ((l.map (·.count)).sum ≤ cells) && l.all fun d => imageableRange s d.obj d.first d.count then
          some { obj := o, layers := layers, depth := depth, rev := bit w1 17, relTally := bits w1 15 8,
                 rdyTally := bits w1 7 0, slotObj := slotObj, slotCells := cells, rel0 := tally s (bits w1 15 8),
                 rdy0 := tally s (bits w1 7 0), started := 0, signalled := 0, tenant := tenant, descs := ls, refill := [] }
        else none

/-- The state with stream program slot k set. -/
def setStream (s : State) (k : Nat) (p : Option Stream) : State := { s with streams := s.streams.set k p }

/-- The layer a visit shows. -/
def visitLayer (p : Stream) (v : Nat) : List Binding := p.descs.getD (if p.rev then p.layers - 1 - v else v) []

/-- The offsets in its slot of a layer's ranges, packed in order. -/
def packOffsets (n : Nat) : List Binding → List (Nat × Binding)
  | [] => []
  | d :: t => (n, d) :: packOffsets (n + d.count) t

/-- Images of a stream slot: those whose first cell lies in slot v mod D of SLOT_OBJ. -/
def slotImages (s : State) (p : Stream) (v : Nat) : List Nat :=
  let a := p.slotObj * 2 ^ 22 + v % p.depth * p.slotCells + 1
  (imageIdxs s).filter fun i => imStream (image s i) && decide (a ≤ get s.pool.slotAt i) && decide (get s.pool.slotAt i < a + p.slotCells)

/-- One range of a visit filled into its slot: its image entry names the slot's first cell, and its cells lie as SLOT_OBJ's do (R110). -/
def fillRange (s : State) (p : Stream) (v off : Nat) (d : Binding) : State :=
  let se := dir s p.slotObj
  let base := v % p.depth * p.slotCells + off
  match freeImage s, cellPlace s se base with
  | some i, .hbm st slot =>
    let s := tput s 0xA 2 i (imageEntry s st slot d.first d.count p.tenant d.obj false true false true)
    fillPut (fillCells (setPool s { s.pool with slotAt := put s.pool.slotAt i (p.slotObj * 2 ^ 22 + base + 1) }) i) i
  | _, _ => s

/-- Image table entries not in use. -/
def freeImages (s : State) : Nat := 16384 - (imageIdxs s).length

/-- The fill of a visit: the images the slot held are dropped, its ranges are filled in order. It waits while the image table has no entry
for each of them. -/
def fillVisit (s : State) (k : Nat) (p : Stream) (v : Nat) : State :=
  let old := slotImages s p v
  if freeImages s + old.length < (visitLayer p v).length then s
  else
    let s := old.foldl dropImage s
    let s := (packOffsets 0 (visitLayer p v)).foldl (fun s d => fillRange s p v d.1 d.2) s
    setStream s k (some { p with started := max p.started (v + 1), refill := p.refill.filter (· != v) })

/-- A stream visit whose fills are acknowledged is signalled, in visit order; one whose range was written since is
filled again first (R125, R126). fuel bounds the visits. -/
def settleStream (k : Nat) : Nat → State → State
  | 0, s => s
  | f + 1, s =>
    match s.streams.getD k none with
    | none => s
    | some p =>
      let v := p.signalled
      if p.started ≤ v then s
      else
        let is := slotImages s p v
        let s := is.foldl fillPut s
        if !(is.all (fillDone s)) then s
        else if p.refill.contains v then fillVisit s k p v
        else
          let s := is.foldl (fun s i => tput s 0xA 2 i (setBits (image s i) 104 104 0)) s
          settleStream k f (tallyAdd (setStream s k (some { p with signalled := v + 1 })) p.rdyTally 1)

/-- An IMAGE STREAM takes the lowest free program slot as it starts (R138, R141). Its program is read by the row. -/
def takeSlot (s : State) (q : Nat) (r : Run) : State :=
  match s.streams.findIdx? (·.isNone) with
  | none => s
  | some k =>
    modRun (setStream s k (some { obj := opd r.raw 18 0, layers := 0, depth := 1, rev := false, relTally := 0, rdyTally := 0, slotObj := 0,
                                  slotCells := 0, rel0 := 0, rdy0 := 0, started := 0, signalled := 0, tenant := (qOf s q).tenant,
                                  descs := [], refill := [] })) q r.idx fun x => { x with aux := [5, k] }

/-- IMAGE STREAM: the program is accepted and the fill of visit 0 issued, or its slot is free again (R125). -/
def imageStreamEffect (s : State) (q : Nat) : State :=
  match activeRun s q 4 3 with
  | none => s
  | some r =>
    let k := r.aux.getD 1 0
    match readProgram s (opd r.raw 18 0) (qOf s q).tenant with
    | some p => settleStream k 8 (finish (fillVisit (setStream s k (some p)) k p 0) q r.idx 0 k 0)
    | none => finish (setStream s k none) q r.idx ecDescriptor 0 0

/-- IMAGE STOP: the program ends and its images are dropped. -/
def imageStopEffect (s : State) (q : Nat) : State :=
  match activeRun s q 4 4 with
  | none => s
  | some r =>
    let k := opd r.raw 1 0
    match s.streams.getD k none with
    | none => finish s q r.idx ecDescriptor 0 0
    | some p =>
      let is := (List.range (min p.depth p.started)).flatMap fun v => slotImages s p v
      finish (setStream (is.foldl dropImage s) k none) q r.idx 0 0 0

/-- STREAM_VISIT_FILL: the next visit's fill starts once the release tally allows (R125). -/
def streamVisitEffect (s : State) (k : Nat) : State :=
  match s.streams.getD k none with
  | none => s
  | some p =>
    let v := p.started
    if p.layers ≤ v ∨ (p.depth ≤ v ∧ tally s p.relTally < p.rel0 + (v + 1 - p.depth)) then s
    else settleStream k 8 (fillVisit s k p v)

/-! ## Tier ports (R56, R130) -/

/-- The object and cell whose board-tier home holds a slot. -/
def objAtBoard (s : State) (slot : Nat) : Option (Nat × Nat) :=
  ((objIds s).find? fun o =>
    let e := dir s o
    oTier e == 1 && decide (oHome e ≤ slot) && decide (slot < oHome e + objCells e)).map fun o => (o, slot - oHome (dir s o))

/-- The load indication of a response (R56, R533): moderate overload halves the rate, severe overload quarters it. DESIGN CHOICE
(notes/assumptions/111): moderate overload after severe leaves the rate at a quarter until the recovery R56 describes. -/
def noteLoad (s : State) (p load : Nat) : State :=
  let s := wr s R.TIER_LOAD (setBits (rd s R.TIER_LOAD) (2 * p + 1) (2 * p) load)
  let x := tierOf s p
  if load = 2 then setTier s p { x with slow := max x.slow 2 } else if load = 3 then setTier s p { x with slow := 4 } else s

/-- A STEP's thread fails with a code; the rest is left to its completion (R155). -/
def failThread (s : State) (t code : Nat) : State :=
  let x := thread s t
  if x.busy && !x.ended then setThread (closeThread s t) t { x with ended := true, failed := code } else s

/-- The state with the collective unit replaced. -/
def setCol (s : State) (x : Colls) : State := { s with col := x }

/-- A copying unit notes a cell it found lost, which it will write with zero. -/
def noteZero (s : State) (owner c : Nat) : State := setPool s { s.pool with zeros := s.pool.zeros ++ [(owner, c)] }

/-- A unit other than a MOVE or a fill fails with CELL_CHECK: a thread's STEP here, a collective at its next move. -/
def failUnit (s : State) (u : Nat) : State :=
  if u < 8 then failThread s u ecCellCheck
  else setCol s { s.col with run := s.col.run.map fun c => if c.owner = u then { c with lost := true } else c }

/-- A cell of an object that a unit reads is lost: recovered by the object's class (R56, R130, R395). A REPLICA cell is stored again with
what the first live replica holds, which is the same contents (DEDUCED, notes/assumptions/84). -/
def lostCell (s : State) (owner o c : Nat) : State :=
  let e := dir s o
  let i := owner - 128
  if oClass e = clsReplica then placeWrite s 25 (cellPlace s e c) 0 (objCell s o c)
  else
    let s := if oClass e = clsScratch then unitError s ecCellCheck 0x0B (o + at' c 19) 0 else s
    if 128 ≤ owner ∧ owner < 2 ^ 19 then
      if oClass e = clsScratch then noteZero s owner c
      else
        let u := get s.pool.user i
        let s := dropImage s i
        if u = 0 then s else failUnit s (u - 1)
    else if 32 ≤ owner ∧ owner < 96 then
      let s := if oClass e = clsScratch then s else unitError s ecCellCheck 0x0B (o + at' c 19) 0
      noteZero (setMoveAux s (owner - 32) ecCellCheck 1) owner c
    else failUnit s owner

/-- A cell read from the board tier is lost. -/
def tierLost (s : State) (p : Nat) (r : TierReq) : State :=
  match objAtBoard s (boardSlotOf s p r.addr) with
  | none => s
  | some (o, c) => lostCell s r.owner o c

/-- The request a tier answer names. -/
def tierAnswered (s : State) (p tag : Nat) (write : Bool) : Option (TierReq × State) :=
  let x := tierOf s p
  match x.reqs.find? fun r => r.issued && r.write == write && r.tag == tag with
  | none => none
  | some r =>
    let x := { x with reqs := x.reqs.filter fun y => !(y.issued && y.write == write && y.tag == tag) }
    some (r, pumpTier (setTier s p x) p)

/-- A write to the board tier failed: a move abandons before switch-over, a write-back keeps its dirty bits (R130). -/
def tierWriteFailed (s : State) (p : Nat) (r : TierReq) : State :=
  if 128 ≤ r.owner ∧ r.owner < 2 ^ 19 then
    let i := r.owner - 128
    let page := r.addr * 64 % cellSize / 4096
    tput (setPool s { s.pool with dirty := put s.pool.dirty i (get s.pool.dirty i ||| 2 ^ page), flaw := put s.pool.flaw i 1 }) 0xA 2 i
      (setBits (image s i) 103 103 1)
  else if 32 ≤ r.owner ∧ r.owner < 96 then
    let i := r.owner - 32
    if mvPhase (moveAt s i) = 0 then failMove (setMove s i 0) i ecCellCheck else s
  else if r.owner < 8 ∨ 2 ^ 19 ≤ r.owner then failUnit s r.owner
  else unitError s ecCellCheck 0x0B p 0

/-! ## The rows' meanings -/

/-- MOVE (R115). -/
def execMove (q : Fin 16) (s : State) : Ans := .next (moveEffect (begin s) q)

/-- IMAGE_FILL (R121). -/
def execImageFill (q : Fin 16) (s : State) : Ans := .next (imageFillEffect (begin s) q)

/-- IMAGE_DROP (R119, R130). -/
def execImageDrop (q : Fin 16) (s : State) : Ans := .next (imageDropEffect (begin s) q)

/-- IMAGE_FLUSH (R127). -/
def execImageFlush (q : Fin 16) (s : State) : Ans := .next (imageFlushEffect (begin s) q)

/-- IMAGE_STREAM (R125). -/
def execImageStream (q : Fin 16) (s : State) : Ans := .next (imageStreamEffect (begin s) q)

/-- IMAGE_STOP (R138). -/
def execImageStop (q : Fin 16) (s : State) : Ans := .next (imageStopEffect (begin s) q)

/-- STREAM_VISIT_FILL (R125). -/
def execStreamVisitFill (k : Fin 4) (s : State) : Ans := .next (streamVisitEffect (begin s) k)

/-- TIER_LOAD_RECOVERY (R56). -/
def execTierLoadRecovery (p : Fin 4) (s : State) : Ans :=
  let s := begin s
  .next (if bits (rd s R.TIER_LOAD) (2 * p + 1) (2 * p) ≤ 1 then setTier s p { tierOf s p with slow := 1 } else s)

end Sys2Proof.Machine
end

