-- ==== Sys2Proof/Machine/Schedule.lean ====
section
/-! DEFINITION. The schedule engine (chapter 8, R225 to R233): the held sets and the scalars P0 to P7. -/

namespace Sys2Proof.Machine

/-! ## Program records and parameter sets (R225, R227, R228) -/

/-- Program s of a set's bytes. -/
def progOf (m : Mem) (i : Nat) : Nat := leVal (mread m (64 * i) 64)

/-- Parameter set k of a set's bytes. -/
def psetOf (m : Mem) (k : Nat) : Nat := leVal (mread m (1024 + 64 * k) 64)

/-- A program that may be used (R227). -/
def progValid (p : Nat) : Bool :=
  bit p 31 && bits p 511 304 == 0 && bits p 127 120 == 0 && bits p 95 88 == 0 && bits p 25 24 == 0 &&
    decide (bits p 30 29 < 3) && decide (bits p 28 26 < 4) && !(bits p 28 26 == 1 && bits p 87 64 == 0) &&
    !(bits p 119 96 != 0 && bits p 63 56 == 0)

/-- A parameter set no reserved bit of which is set (R228, R229). -/
def psetPlain (k : Nat) : Bool :=
  bits k 511 320 == 0 && bits k 31 29 == 0 && bits k 23 21 == 0 && bits k 15 2 == 0

/-- A parameter set valid for a rule: rule 4 needs both block sides within 1 to 32 (R228). -/
def psetValid (rule k : Nat) : Bool :=
  psetPlain k && (rule != 4 || (bits k 20 16 != 0 && bits k 28 24 != 0))

/-! ## The latch (R226, R229) -/

/-- The schedule object's bytes as they stand in a copy, when SCH_OBJ names a valid one (R225). live: the live copy. -/
def schedBytes (s : State) (live : Bool) : Option Bytes :=
  let o := rd s R.SCH_OBJ
  let e := dir s o
  if objValid s o && oClass e == clsScale && oFmt e == fmtByte && oRows e * oCols e == 17408 then
    some (if live then objBytesAt s o 0 17408 else scaleCopy s o 17408)
  else none

/-- A latched set for an epoch. -/
def schedSet (s : State) (e : Nat) (live : Bool) : SchSet :=
  match schedBytes s live with
  | some b => { epoch := e, ok := true, data := mwrite [] 0 b }
  | none => { epoch := e, ok := false, data := [] }

/-- The set of an epoch is latched into the held place of its parity, and SCH_BAD_PROG and SCH_BAD_PSET report it
(R226, R229). -/
def schedLatch (s : State) (e : Nat) : State :=
  let x := schedSet s e false
  let s := { s with sch := { s.sch with sets := (s.sch.sets.filter fun y => y.epoch % 2 != e % 2) ++ [x],
                                        formed := s.sch.formed.filter fun y => y.1 != e } }
  let s := if e % 2 = 0 then wr s R.SCH_SET_EPOCH0 e else wr s R.SCH_SET_EPOCH1 e
  if x.ok then
    let bad := (List.range 16).filter fun i => !progValid (progOf x.data i)
    let badk := (List.range 256).filter fun k => !psetPlain (psetOf x.data k)
    let s := wr (wr s R.SCH_STAT_OBJ_BAD 0) R.SCH_BAD_PROG (bad.foldl (fun a i => a + 2 ^ i) 0)
    wr (wr s R.SCH_BAD_PSET_COUNT (min 255 badk.length)) R.SCH_BAD_PSET_FIRST (badk.headD 0)
  else
    let s := wr (wr s R.SCH_STAT_OBJ_BAD 1) R.SCH_BAD_PROG 0xFFFF
    wr (wr s R.SCH_BAD_PSET_COUNT 255) R.SCH_BAD_PSET_FIRST 0

/-- The sets of the two epochs above a capped epoch, loaded after JOIN or RESTORE (R226). -/
def schedStart (s : State) (c : Nat) : State := schedLatch (schedLatch s (c + 1)) (c + 2)

/-! ## Forming (R230 to R233) -/

/-- An operation's value, and the special cases counted so far with its own (R230). -/
def opN (r : Res) (n : Nat) : Nat × Nat := (r.v, n + b2n r.cnt)

/-- +1.0, 0.5 and −0.5. -/
def one32 : Nat := 0x3F800000
def half32 : Nat := 0x3F000000

/-- The correctly rounded quotient of two integers, b nonzero (R230). -/
def divInt (a b : Nat) : Nat :=
  (pack32 false (roundCode 23 (-126) (a * 2 ^ 96 / b) (-96) (a * 2 ^ 96 % b != 0))).v

/-- An integer as binary32 (R230). -/
def floatInt (n : Nat) : Nat := (round32 { neg := false, m := n, e := 0 }).v

/-- 1 − x. -/
def oneMinus (x : Nat) : Res := fAdd one32 (fNeg x)

/-- R232's polynomial. -/
def halfcos (f : Nat) : Nat :=
  let low := !fLt half32 f
  let x := if low then f else (oneMinus f).v
  let sg := if low then half32 else fNeg half32
  let z := (fMul x x).v
  let p := [0x3E70FA83, 0xBFAAE9E4, 0x4081E0F8, 0xC09DE9E6, 0x3F800000].foldl (fun p c => (fFma p z c).v) 0xBCD368F9
  (fFma sg p half32).v

/-- The restart cycles passed: τ within the cycle, cycles passed, the cycle's length. Once the length has reached its
ceiling the rest is one division; fuel bounds the growing cycles (R231). -/
def restarts (mult : Nat) : Nat → Nat → Nat → Nat → Nat × Nat × Nat
  | 0, tau, len, c => (tau % len, c + tau / len, len)
  | f + 1, tau, len, c =>
    if tau < len then (tau, c, len)
    else if mult = 1 ∨ len = 16777215 then (tau % len, c + tau / len, len)
    else restarts mult f (tau - len) (min (len * mult) 16777215) (c + 1)

/-- A field of a record conditioned as it is read (R75, R230). -/
def cond32 (v hi lo n : Nat) : Nat × Nat := opN (condition (bits v hi lo)) n

/-- The schedule factor μ (R231) with the count of special cases. -/
def factor (p e n : Nat) : Nat × Nat :=
  let origin := bits p 303 256
  let t := if origin ≤ e then e - origin else 0
  let wk := bits p 30 29
  let w := if wk = 0 then 0 else bits p 23 0
  if t < w then
    let f := divInt t w
    let (ws, n) := cond32 p 159 128 n
    if wk = 1 then
      let (a, n) := opN (oneMinus ws) n
      opN (fFma a f ws) n
    else
      let (a, n) := opN (oneMinus f) n
      let (l, n) := opN (fLog2 ws) n
      let (x, n) := opN (fMul a l) n
      opN (fExp2 x) n
  else
    let tau := t - w
    let period := bits p 119 96
    let (tau, d, peak, n) :=
      if 0 < period then
        let r := restarts (bits p 63 56) 64 tau period 0
        if 0 < r.2.1 then
          let (rp, n) := cond32 p 255 224 n
          let (l, n) := opN (fLog2 rp) n
          let (x, n) := opN (fMul (floatInt r.2.1) l) n
          let (pk, n) := opN (fExp2 x) n
          (r.1, r.2.2, pk, n)
        else (r.1, r.2.2, one32, n)
      else (min tau (bits p 55 32), bits p 55 32, one32, n)
    let f := if 0 < d then divInt tau d else one32
    let kind := bits p 28 26
    let (fl, n) := if kind = 0 then (0, n) else cond32 p 191 160 n
    let (sh, n) := if kind = 1 ∨ kind = 2 then cond32 p 223 192 n else (0, n)
    let (dv, n) :=
      match kind with
      | 0 => (one32, n)
      | 1 =>
        let (l, n) := opN (fLog2 sh) n
        let (x, n) := opN (fMul (floatInt (tau / bits p 87 64)) l) n
        let (y, n) := opN (fExp2 x) n
        (fMax fl y, n)
      | 2 =>
        let (a, n) := opN (oneMinus f) n
        let (l, n) := opN (fLog2 a) n
        let (x, n) := opN (fMul sh l) n
        let (y, n) := opN (fExp2 x) n
        let (b, n) := opN (oneMinus fl) n
        opN (fFma b y fl) n
      | _ =>
        let (b, n) := opN (oneMinus fl) n
        opN (fFma b (halfcos f) fl) n
    opN (fMul peak dv) n

/-- c₁ or c₂ of R233. -/
def biasOf (t beta n : Nat) : Nat × Nat :=
  let (l, n) := opN (fLog2 beta) n
  let (x, n) := opN (fMul (floatInt (t + 1)) l) n
  let (y, n) := opN (fExp2 x) n
  let (z, n) := opN (oneMinus y) n
  opN (fRecip z) n

/-- P0 to P7 for a program, a parameter set, a rule and an epoch (R233), and the special cases counted. -/
def formScalars (p k rule e : Nat) : List Nat × Nat :=
  let (mu, n) := factor p e 0
  let (eta0, n) := cond32 k 63 32 n
  let (eta, n) := opN (fMul mu eta0) n
  let (b1, n) := if rule = 3 then (0, n) else cond32 k 95 64 n
  let (b2, n) := if rule = 1 then (0, n) else cond32 k 127 96 n
  let (eps, n) := if rule = 1 then (0, n) else cond32 k 159 128 n
  let (lam, n) := cond32 k 191 160 n
  let (k2, n) := opN (fFma (fNeg eta) lam one32) n
  let t := if bits p 303 256 ≤ e then e - bits p 303 256 else 0
  let bias := bit k 0
  match rule with
  | 1 =>
    let (l, n) := opN (fLog2 k2) n
    ([b1, eta, k2, 0, 0, l, 0, 0], n)
  | 2 =>
    let (c1, n) := if bias then biasOf t b1 n else (one32, n)
    let (c2, n) := if bias then biasOf t b2 n else (one32, n)
    let (a1, n) := opN (oneMinus b1) n
    let (a2, n) := opN (oneMinus b2) n
    let (q, n) := opN (fMul eta c1) n
    let (d, n) := opN (fMul q q) n
    let (r, n) := opN (fRecip d) n
    let (pa, n) := opN (fMul c2 r) n
    let (ee, n) := opN (fMul eps eps) n
    let (pb, n) := opN (fMul ee r) n
    let (l, n) := opN (fLog2 k2) n
    ([a1, a2, pa, pb, k2, l, 0, 0], n)
  | 3 =>
    let (e1, n) := cond32 k 223 192 n
    let (cl, n) := cond32 k 255 224 n
    let (a2, n) := opN (oneMinus b2) n
    let (q, n) := opN (fMul eta eta) n
    let (pa, n) := opN (fRecip q) n
    let (ee, n) := opN (fMul eps eps) n
    let (pb, n) := opN (fMul ee pa) n
    ([e1, a2, pa, pb, k2, cl, fNeg cl, 0], n)
  | 4 =>
    let (c1, n) := if bias then biasOf t b1 n else (one32, n)
    let (c2, n) := if bias then biasOf t b2 n else (one32, n)
    let (a1, n) := opN (oneMinus b1) n
    let (a2, n) := opN (oneMinus b2) n
    let (d, n) := opN (fMul c1 c1) n
    let (r, n) := opN (fRecip d) n
    let (pa, n) := opN (fMul c2 r) n
    let (ee, n) := opN (fMul eps eps) n
    let (pb, n) := opN (fMul ee r) n
    let (bs, n) := cond32 k 287 256 n
    let (er, n) := cond32 k 319 288 n
    ([a1, a2, pa, pb, k2, eta, bs, er], n)
  | _ => ([0, 0, 0, 0, 0, 0, 0, 0], n)

/-- The set that serves a command: the REPLAY's, or the held set of the epoch (R226, R439). -/
def setFor (s : State) (e : Nat) (replay : Bool) : Option SchSet :=
  if replay then s.sch.replay else s.sch.sets.find? fun x => x.epoch == e

/-- The binding of an entry is usable with the set that serves the epoch (R229). -/
def bindingOk (s : State) (d e : Nat) (replay : Bool) : Bool :=
  if oRule d = 0 then true
  else
    match setFor s e replay with
    | none => false
    | some x => x.ok && progValid (progOf x.data (oSched d)) && psetValid (oRule d) (psetOf x.data (oParam d))

/-- P0 to P7 of an entry's binding for an epoch: all +0 with RULE 0 (R224, R230). -/
def scalarsOf (s : State) (d e : Nat) (replay : Bool) : List Nat × Nat :=
  if oRule d = 0 then ([0, 0, 0, 0, 0, 0, 0, 0], 0)
  else
    match setFor s e replay with
    | none => ([0, 0, 0, 0, 0, 0, 0, 0], 0)
    | some x => formScalars (progOf x.data (oSched d)) (psetOf x.data (oParam d)) (oRule d) e

/-- The triple of a binding as one number. -/
def tripleOf (d : Nat) : Nat := at' (oSched d) 11 + at' (oRule d) 8 + oParam d

/-- A triple needed by an epoch is formed unless it is among the 64 the engine keeps: SCH_FORM and SCH_CLAMP count the
formation (R230). DESIGN CHOICE (notes/assumptions/109): for a 65th the triple formed first is dropped. -/
def noteFormed (s : State) (d e : Nat) (replay : Bool) : State :=
  if oRule d = 0 ∨ s.sch.formed.contains (e, tripleOf d) then s
  else
    let mine := s.sch.formed.filter fun y => y.1 == e
    let rest := s.sch.formed.filter fun y => y.1 != e
    let mine := if 64 ≤ mine.length then mine.drop 1 else mine
    let s := { s with sch := { s.sch with formed := rest ++ mine ++ [(e, tripleOf d)] } }
    countN (count s C.SCH_FORM) C.SCH_CLAMP (scalarsOf s d e replay).2

end Sys2Proof.Machine
end

