-- ==== Sys2Proof/Machine/Operands.lean ====
section
/-! DEFINITION. Operand forms of a step-table row: row fields, bindings, footprints, stream elements, operand codes,
vectors and masks (chapters 5, 6 and 7). -/

namespace Sys2Proof.Machine

/-! ## Row fields (R158) -/

def rwImm (r : Nat) : Nat := bits r 228 197
def rwSigTally (r : Nat) : Nat := bits r 194 187
def rwSigEn (r : Nat) : Bool := bit r 186
def rwWaitDelta (r : Nat) : Nat := bits r 185 170
def rwWaitTally (r : Nat) : Nat := bits r 169 162
def rwWaitUnit (r : Nat) : Nat := bits r 161 158
def rwWaitKind (r : Nat) : Nat := bits r 157 156
def rwStride (r : Nat) : Nat := bits r 155 148
def rwCellOff (r : Nat) : Nat := bits r 147 128
def rwLoop (r : Nat) : Nat := bits r 127 104
def rwMask (r : Nat) : Nat := bits r 103 100
def rwChain (r : Nat) : Nat := bits r 39 28
def rwUnit (r : Nat) : Nat := bits r 27 24
def rwUop (r : Nat) : Nat := bits r 23 16
def rwRep (r : Nat) : Bool := bit r 15
def rwEnd (r : Nat) : Bool := bit r 14
def rwNext (r : Nat) : Nat := bits r 13 0

/-- Field of read stream k: slot [3:0], mode [5:4]. -/
def rwRs (r k : Nat) : Nat := bits r (45 + 6 * k) (40 + 6 * k)

/-- Field of write stream k. -/
def rwWs (r k : Nat) : Nat := bits r (81 + 6 * k) (76 + 6 * k)

def stSlot (f : Nat) : Nat := bits f 3 0
def stMode (f : Nat) : Nat := bits f 5 4

/-- Enabled read streams of a row. -/
def rsOn (r : Nat) : List Nat := (List.range 6).filter fun k => stMode (rwRs r k) != 0

/-- Enabled write streams of a row. -/
def wsOn (r : Nat) : List Nat := (List.range 4).filter fun k => stMode (rwWs r k) != 0

/-! ## Chain words (R186) -/

/-- Stage slot s of a chain word. -/
def chSlot (c i : Nat) : Nat := bits c (28 * i + 27) (28 * i)
def slKind (x : Nat) : Nat := bits x 4 0
def slA (x : Nat) : Nat := bits x 9 5
def slB (x : Nat) : Nat := bits x 14 10
def slC (x : Nat) : Nat := bits x 19 15
def slMode (x : Nat) : Nat := bits x 27 20
def chValid (c : Nat) : Bool := bit c 255
def chDrawRaw (c : Nat) : Bool := bit c 254
def chRedMax (c : Nat) : Bool := bit c 251
def chRedSrc (c : Nat) : Nat := bits c 250 248
def chWold (c k : Nat) : Nat := bits c (238 + 3 * k) (236 + 3 * k)
def chWsrc (c k : Nat) : Nat := bits c (226 + 3 * k) (224 + 3 * k)

/-- Used stage slots. -/
def chUsed (c : Nat) : List Nat := (List.range 8).filter fun i => slKind (chSlot c i) != 0

/-- Operands each kind uses (R183). -/
def kindArity (k : Nat) : Nat :=
  match k with
  | 0x01 | 0x0E => 3
  | 0x02 | 0x03 | 0x04 | 0x05 | 0x0C | 0x0D => 2
  | 0x10 | 0x00 => 0
  | _ => 1

/-- Operand codes a slot uses. -/
def slotCodes (x : Nat) : List Nat := [slA x, slB x, slC x].take (kindArity (slKind x))

/-- Operand codes a chain uses. -/
def chCodes (c : Nat) : List Nat := (chUsed c).flatMap fun i => slotCodes (chSlot c i)

/-! ## A row at work -/

/-- A bound stream: read or write stream number, mode, binding and directory entry. -/
structure Bound where
  mode : Nat
  obj : Nat
  first : Nat
  count : Nat
  e : Nat
  deriving DecidableEq, Repr

/-- An element of a footprint: its row and column in the pacing object, and for a gathered row its slot and gap. -/
structure Elem where
  r : Nat
  c : Nat
  slot : Nat
  gap : Nat
  deriving DecidableEq, Repr

/-- What a row's iterations work with: thread, epoch, row word, chain word, bindings, pacing stream, scalars, the slice
that computes, whether rows are gathered (with the row index map that lists them), and whether it is a REPLAY's. -/
structure RowCtx where
  th : Nat
  visit : Nat
  epoch : Nat
  row : Nat
  chain : Nat
  binds : List Binding
  pace : Bound
  scal : List Nat
  slice : Nat
  gather : Bool
  map : Nat
  replay : Bool
  deriving DecidableEq, Repr

/-- The bound stream of a stream field. -/
def boundOf (s : State) (binds : List Binding) (f : Nat) : Bound :=
  let b := binds.getD (stSlot f) { obj := 0, first := 0, count := 0 }
  { mode := stMode f, obj := b.obj, first := b.first, count := b.count, e := dir s b.obj }

def rsBound (s : State) (x : RowCtx) (k : Nat) : Bound := boundOf s x.binds (rwRs x.row k)
def wsBound (s : State) (x : RowCtx) (k : Nat) : Bound := boundOf s x.binds (rwWs x.row k)

/-- The stream field that paces a row (R171). -/
def paceField (r : Nat) : Nat :=
  match (rsOn r).filter fun k => !(rwMask r == 4 && k == 5) with
  | k :: _ => rwRs r k
  | [] => rwWs r ((wsOn r).headD 0)

/-- A row with a read stream in row-index gather mode (R176). -/
def gatherRow (r : Nat) : Bool := (rsOn r).any fun k => stMode (rwRs r k) == 3

/-- The row index map of a gathered row: that of its UNIQUE row-tracked object, or a bound map itself. -/
def gatherMap (s : State) (binds : List Binding) (r : Nat) : Nat :=
  let bs := ((rsOn r).filter fun k => stMode (rwRs r k) == 3).map fun k => boundOf s binds (rwRs r k)
  match bs.find? fun b => oRowTrk b.e with
  | some b => oComp b.e
  | none => ((bs.find? fun b => s.intk.lists.any fun l => l.map == b.obj).map (·.obj)).getD 0

/-- The touched-row list of an epoch and map (R215). -/
def touchedRows (s : State) (e m : Nat) : List (Nat × Nat × Nat) :=
  ((s.intk.lists.find? fun l => l.epoch == e && l.map == m).map (·.rows)).getD []

/-- Cell offset of iteration i of the thread's row within each binding (R156). -/
def iterCell (s : State) (t : Thread) (row i : Nat) : Nat :=
  rwCellOff row + rwStride row * i +
    (t.passes.map fun p => p.2 * rwStride ((bank s t.bank).rows.getD p.1 0)).sum

/-- First row and column of cell k of an object: of its tile, or of its first byte in a BYTE object. -/
def cellOrigin (e k : Nat) : Nat × Nat :=
  if oFmt e = fmtByte then (k * cellSize / oCols e, k * cellSize % oCols e) else (k / gridCols e * 128, k % gridCols e * tileCols (oFmt e))

/-- The element groups in which a footprint, listed line by line, is issued: 32 positions of a line at a time (R173, R429). -/
def lineGroups (byCol : Bool) (ps : List Elem) : Nat :=
  let grp (p : Elem) : Nat × Nat := if byCol then (p.c, p.r / 32) else (p.r, p.c / 32)
  (ps.foldl (fun (a : Nat × Option (Nat × Nat)) p => if a.2 = some (grp p) then a else (a.1 + 1, some (grp p))) (0, none)).1

/-- The elements of a pacing cell that lie in its object, line by line (R173); a gathered footprint holds 128 listed
rows (R176). DEDUCED (notes/assumptions/107): the row number of a gathered line is the listed row, not its slot. -/
def footprint (s : State) (x : RowCtx) (k : Nat) : List Elem :=
  let e := x.pace.e
  let tc := tileCols (oFmt e)
  if x.gather then
    let grid := gridCols e
    let rows := ((touchedRows s x.epoch x.map).drop (k / grid * 128)).take 128
    let c0 := k % grid * tc
    rows.flatMap fun r => (List.range (min tc (oCols e - c0))).map fun j =>
      { r := r.1, c := c0 + j, slot := r.2.1, gap := r.2.2 }
  else
    let o := cellOrigin e k
    let nr := min 128 (oRows e - o.1)
    let nc := min tc (oCols e - o.2)
    if x.pace.mode = 2 then
      (List.range nc).flatMap fun j => (List.range nr).map fun i => { r := o.1 + i, c := o.2 + j, slot := 0, gap := 0 }
    else
      (List.range nr).flatMap fun i => (List.range nc).map fun j => { r := o.1 + i, c := o.2 + j, slot := 0, gap := 0 }

/-- Line index and position of an element (R173). -/
def lineOf (x : RowCtx) (p : Elem) : Nat := if x.pace.mode = 2 then p.c else p.r
def posOf (x : RowCtx) (p : Elem) : Nat := if x.pace.mode = 2 then p.r else p.c

/-- The row and column, in a stream's object, that correspond to row r and column c of the pacing object (R172). -/
def mapPos (x : RowCtx) (b : Bound) (r c : Nat) : Int × Int :=
  let o := cellOrigin x.pace.e x.pace.first
  let q := cellOrigin b.e b.first
  let dr : Int := r - o.1
  let dc : Int := c - o.2
  if b.mode = x.pace.mode ∨ x.gather then ((q.1 : Int) + dr, (q.2 : Int) + dc) else ((q.1 : Int) + dc, (q.2 : Int) + dr)

/-- The element of a stream's object that corresponds to a footprint element. In a gathered row it is the element's slot
row, or its listed row for a reduced list. -/
def streamPos (s : State) (x : RowCtx) (b : Bound) (p : Elem) : Nat × Nat :=
  if x.gather then
    if oFmt b.e = fmtByte ∧ b.obj ≠ x.map then (p.r, p.c) else (p.slot, p.c)
  else
    let q := mapPos x b p.r p.c
    let _ := s
    (q.1.toNat, q.2.toNat)

/-! ## Element values (R177) -/

/-- The stored bits of element (r, c) of an object in a state format. -/
def elemRaw (s : State) (o e r c : Nat) : Nat :=
  let p := elemPlace e r c
  leVal (cellSlice s o p.1 p.2 (elemBytes (oFmt e)))

/-- Stored bits widened or decoded to binary32, before conditioning (R80). -/
def widen (fmt v : Nat) : Nat :=
  if fmt = fmtS32 then v else if fmt = fmtW16 then ofW16 v else ofL16 v

/-- Bytes of a coordinate list's record (R200). -/
def recSize (fmt cols : Nat) : Nat := 8 + ceilDiv (cols * (if fmt = 0 then 4 else 2)) 8 * 8

/-- A coordinate list's header (R200). -/
structure ListHdr where
  magic : Nat
  count : Nat
  nm : Nat
  fmt : Nat
  lrows : Nat
  cols : Nat
  idObj : Nat
  rest : Bool
  deriving DecidableEq, Repr

/-- The header bytes of a list. -/
def listHdr (b : Bytes) : ListHdr :=
  let w := leAt b 8 4
  { magic := leAt b 0 4, count := leAt b 4 4, nm := bits w 30 28, fmt := bits w 27 24, lrows := bits w 23 0,
    cols := leAt b 12 3, idObj := bits (leAt b 16 4) 18 0,
    rest := bit w 31 || leAt b 15 1 != 0 || bits (leAt b 16 4) 31 19 != 0 || leAt b 20 44 != 0 }

/-- Value c of a list's record for a row, or +0 when the list has none. -/
def listValue (s : State) (o r c : Nat) : Nat :=
  let h := listHdr (objRange s o 0 64)
  let sz := recSize h.fmt h.cols
  match (List.range h.count).find? fun i => leVal (objRange s o (64 + i * sz) 4) == r with
  | none => 0
  | some i =>
    let w := if h.fmt = 0 then 4 else 2
    widen h.fmt (leVal (objRange s o (64 + i * sz + 8 + c * w) w))

/-- The value a read stream delivers for an element, before conditioning. A gathered map delivers the row's gap. -/
def streamValue (s : State) (x : RowCtx) (b : Bound) (p : Elem) : Nat :=
  if x.gather && b.obj == x.map then floatInt p.gap
  else
    let q := streamPos s x b p
    if oFmt b.e = fmtByte then listValue s b.obj q.1 q.2 else widen (oFmt b.e) (elemRaw s b.obj b.e q.1 q.2)

/-! ## Scratch vectors (R174, R185, R192) -/

/-- Word i of the scratch of a slice, from an offset in units of 128 bytes. -/
def scratchWord (s : State) (sl off i : Nat) : Nat := get s.seq.scratch (sl * 2 ^ 21 + off * 32 + i)

/-- A word of the scratch of every enabled slice is written. -/
def setScratch (s : State) (off i v : Nat) : State :=
  let m := ((List.range 12).filter (stackOn s)).foldl (fun m sl => put m (sl * 2 ^ 21 + off * 32 + i) v) s.seq.scratch
  { s with seq := { s.seq with scratch := m } }

def v0Off (row : Nat) : Nat := bits (rwImm row) 15 0
def v1Off (row : Nat) : Nat := bits (rwImm row) 31 16

/-! ## Masks (R188, R218) -/

/-- The marks of the epoch on an object. -/
def marksOf (s : State) (e o : Nat) : List Mark := s.intk.marks.filter fun m => m.epoch == e && m.obj == o

/-- The bound stream whose object carries the marks a row consults: its lowest read stream that binds a marked object. -/
def markStream (s : State) (x : RowCtx) : Option (Bound × List Mark) :=
  ((rsOn x.row).map (rsBound s x)).findSome? fun b => let l := marksOf s x.epoch b.obj; if l = [] then none else some (b, l)

/-- Row r of a marked object is touched. -/
def rowTouched (e : Nat) (m : Mark) (r : Nat) : Bool :=
  if m.dense then
    let t := gridCols e
    decide (m.first < (r / 128 + 1) * t) && decide (r / 128 * t < m.first + m.count)
  else m.rows.contains r

/-- The 128 × 128 block of element (r, c) is touched. -/
def blockTouched (e : Nat) (m : Mark) (r c : Nat) : Bool :=
  if m.dense then
    let k := (elemPlace e r c).1
    decide (m.first ≤ k) && decide (k < m.first + m.count)
  else m.rows.any fun t => t / 128 == r / 128

/-- The touched-cell test of MASK 1 for a footprint (R218). -/
def cellTouched (s : State) (x : RowCtx) (ps : List Elem) : Bool :=
  x.gather || (match markStream s x with
    | none => false
    | some (b, l) => ps.any fun p => let q := streamPos s x b p; l.any fun m => blockTouched b.e m q.1 q.2)

/-- A footprint that issues nothing: MASK 1, 2 or 5 with no marked object bound, or an untouched cell under MASK 1
(R218). -/
def cellSilent (s : State) (x : RowCtx) (ps : List Elem) : Bool :=
  let m := rwMask x.row
  (m == 1 && !cellTouched s x ps) || ((m == 2 || m == 5) && !x.gather && (markStream s x).isNone)

/-- The initial mask bit of an element (R188). -/
def initMask (s : State) (x : RowCtx) (p : Elem) : Bool :=
  match rwMask x.row with
  | 2 =>
    x.gather || (match markStream s x with
     | none => false
     | some (b, l) => let q := streamPos s x b p; l.any fun m => rowTouched b.e m q.1)
  | 4 =>
    let b := rsBound s x 5
    let i := p.r * oCols x.pace.e + p.c
    bit (leVal (objRange s b.obj (i / 8) 1)) (i % 8)
  | 5 =>
    x.gather || (match markStream s x with
      | none => false
      | some (b, l) =>
        let q := streamPos s x b p
        l.any fun m => if m.dense then blockTouched b.e m q.1 q.2 else rowTouched b.e m q.1)
  | _ => true

/-! ## Stages (R183 to R185, R189) -/

/-- An element in its lane: mask bit, flag, outputs of the slots so far, the last exact result, the kinds it has been
counted under (0 for entry). -/
structure Lane where
  m : Bool
  f : Bool
  outs : List Nat
  exact : Dy
  counted : List Nat
  deriving DecidableEq, Repr

/-- The operands of an element that do not come from slots: conditioned stream values, the scalars, the vectors, the
generator word. -/
structure LaneIn where
  rs : List Nat
  scal : List Nat
  v0l : Nat
  v1p : Nat
  v00 : Nat
  v10 : Nat
  word : Nat
  raw : Bool
  word2 : Nat
  deriving DecidableEq, Repr

/-- An operand code's value before conditioning of vectors (R185). -/
def operand (i : LaneIn) (l : Lane) (code : Nat) : Nat :=
  if code < 6 then i.rs.getD code 0
  else if code < 14 then l.outs.getD (code - 6) 0
  else if code = 14 then 0
  else if code = 15 then one32
  else if 17 ≤ code ∧ code < 25 then i.scal.getD (code - 17) 0
  else if code = 25 then (condition i.v0l).v
  else if code = 26 then (condition i.v1p).v
  else if code = 27 then (condition i.v00).v
  else if code = 28 then (condition i.v10).v
  else 0

/-- A vector operand's raw value; none for other codes. -/
def vectorRaw (i : LaneIn) (code : Nat) : Option Nat :=
  match code with
  | 25 => some i.v0l
  | 26 => some i.v1p
  | 27 => some i.v00
  | 28 => some i.v10
  | _ => none

/-- Each vector operand that conditioning changes is counted once for an element that enters with M set, and a NaN clears the mask
(R185). -/
def enterVectors (m0 : Bool) (i : LaneIn) (codes : List Nat) (l : Lane) : Lane :=
  codes.eraseDups.foldl (fun l c =>
    match vectorRaw i c with
    | none => l
    | some v =>
      let r := condition v
      { l with m := l.m && !r.clr, counted := if r.cnt && m0 then l.counted ++ [0] else l.counted }) l

/-- The result of a stage before masks: value, exact value, F, whether it clears M, whether it counts. -/
structure StageOut where
  v : Nat
  exact : Dy
  f : Bool
  clr : Bool
  cnt : Bool
  deriving DecidableEq, Repr

/-- Zero as an exact value. -/
def Dy.zero : Dy := { neg := false, m := 0, e := 0 }

/-- A stage that only gives a result. -/
def StageOut.plain (r : Res) (f : Bool) : StageOut := { v := r.v, exact := Dy.zero, f := f, clr := r.clr, cnt := r.cnt }

/-- The sign of an exact value flipped where asked. -/
def negIf (b : Bool) (d : Dy) : Dy := { d with neg := d.neg != b }

/-- CMP: its relation. -/
def cmpHolds (m a b : Nat) : Bool :=
  match bits m 2 0 with
  | 0 => fEq a b
  | 1 => !fEq a b
  | 2 => fLt a b
  | 3 => fLt a b || fEq a b
  | 4 => fLt b a
  | _ => fLt b a || fEq a b

/-- CMP: 1 or 0, the flag, and with MODE[3] the mask cleared where the relation fails. -/
def cmpStage (m a b : Nat) : StageOut :=
  let t := cmpHolds m a b
  { v := if t then one32 else 0, exact := Dy.zero, f := t, clr := bit m 3 && !t, cnt := false }

/-- CVT: stochastic rounding or a copy, or a trip through W16 or L16. -/
def cvtStage (m a : Nat) (i : LaneIn) (l : Lane) : StageOut :=
  match bits m 1 0 with
  | 0 => StageOut.plain (if bit m 2 then stochRound l.exact (if bit m 3 then i.word2 else i.word) else Res.plain a) l.f
  | 1 => StageOut.plain { toW16 a with v := ofW16 (toW16 a).v } l.f
  | _ => StageOut.plain { toL16 a with v := ofL16 (toL16 a).v } l.f

/-- A sum or product-sum: exact, or rounded. -/
def sumStage (m : Nat) (d : Dy) (l : Lane) : StageOut :=
  if bit m 2 then { v := 0, exact := d, f := l.f, clr := false, cnt := false } else StageOut.plain (round32 d) l.f

/-- A stage slot on its operands (R183, R184). -/
def stage (x : Nat) (i : LaneIn) (l : Lane) : StageOut :=
  let a := operand i l (slA x)
  let b := operand i l (slB x)
  let c := operand i l (slC x)
  let m := slMode x
  match slKind x with
  | 0x01 => sumStage m (dyAdd (negIf (bit m 0) (dyMul (dyOf a) (dyOf b))) (negIf (bit m 1) (dyOf c))) l
  | 0x02 => StageOut.plain (round32 (negIf (bit m 0) (dyMul (dyOf a) (dyOf b)))) l.f
  | 0x03 => sumStage m (dyAdd (negIf (bit m 0) (dyOf a)) (negIf (bit m 1) (dyOf b))) l
  | 0x04 => StageOut.plain (Res.plain (fMax a b)) l.f
  | 0x05 => StageOut.plain (Res.plain (fMin a b)) l.f
  | 0x06 => StageOut.plain (Res.plain (fAbs a)) l.f
  | 0x07 => StageOut.plain (fRecip a) l.f
  | 0x08 => StageOut.plain (fRsqrt a) l.f
  | 0x09 => StageOut.plain (fSqrt a) l.f
  | 0x0A => StageOut.plain (fExp2 a) l.f
  | 0x0B => StageOut.plain (fLog2 a) l.f
  | 0x0C => cmpStage m a b
  | 0x0D => StageOut.plain (Res.plain (if (if bit m 0 then l.m else l.f) then a else b)) l.f
  | 0x0E => StageOut.plain (Res.plain (fClamp a b c)) l.f
  | 0x0F => cvtStage m a i l
  | 0x10 => StageOut.plain (Res.plain (if i.raw then i.word else uniform i.word)) l.f
  | 0x11 => StageOut.plain (Res.plain a) l.f
  | _ => StageOut.plain (Res.plain 0) l.f

/-- One stage slot in the lane: an event counts only for an element whose M was 1 on entry (R189). -/
def runSlot (i : LaneIn) (l : Lane) (x : Nat) : Lane :=
  let o := stage x i l
  { m := l.m && !o.clr, f := o.f, outs := l.outs ++ [o.v], exact := o.exact,
    counted := if o.cnt && l.m then l.counted ++ [slKind x] else l.counted }

/-- The whole chain on one element: entry conditioning, vectors, then the used slots. rsRaw are the stream values before
conditioning; an element any of whose stream operands is conditioned counts once (R75; DEDUCED, notes/assumptions/80). DRAW slots take their word by round index, so words are given per slot. -/
def runChain (c : Nat) (m0 : Bool) (rsRaw : List Nat) (inp : LaneIn) (wordOf : Nat → Nat × Nat) : Lane :=
  let cond := rsRaw.map condition
  let hit := m0 && cond.any (·.cnt)
  let l : Lane := { m := m0 && !(cond.any (·.clr)), f := false, outs := [], exact := Dy.zero,
                    counted := if hit then [0] else [] }
  let inp := { inp with rs := cond.map (·.v), raw := chDrawRaw c }
  let l := enterVectors m0 inp (chCodes c) l
  (chUsed c).foldl (fun l k =>
    let w := wordOf (chSlot c k)
    runSlot { inp with word := w.1, word2 := w.2 } l (chSlot c k)) l

end Sys2Proof.Machine
end

