-- ==== Sys2Proof/Machine/Flags.lean ====
section
/-! DEFINITION. What the engine raises beside results: clamp counters (R79) and masks at the write point (R188 to R190). -/

namespace Sys2Proof.Machine

/-- Each kind of a list counted once in the clamp counters of a slice; kind 0 is stream entry (R79). -/
def countKinds (s : State) (sl : Nat) (ks : List Nat) : State :=
  ks.foldl (fun s k => count s (if k = 0 then C.SLC_CLAMP_ENTRY sl else C.SLC_CLAMP sl k)) s

/-- The lowest enabled slice, where results of no slice count (R79). -/
def lowSlice (s : State) : Nat := ((List.range 12).find? (stackOn s)).getD 0

/-- The slice beside the stack that holds a cell; the lowest enabled one for a cell on no stack. -/
def placeSlice (s : State) (p : Place) : Nat :=
  match p with
  | .hbm st slot => (relocate s st slot).1
  | _ => lowSlice s

/-- M at the write point: MASK 3 ANDs the flag of the highest CMP (R188). -/
def writeMask (row : Nat) (l : Lane) : Bool := if rwMask row = 3 then l.m && l.f else l.m

/-- The node of a reduction: ADD through the reference tree, or MAX (R191). -/
def redNode (mx : Bool) : Option Nat → Option Nat → Option Nat
  | none, b => b
  | a, none => a
  | some a, some b => some (if mx then fMax a b else (fAdd a b).v)

/-- One level of a reduction tree. -/
def redLevel (mx : Bool) : List (Option Nat) → List (Option Nat)
  | a :: b :: t => redNode mx a b :: redLevel mx t
  | l => l

/-- Levels of a reduction tree; fuel bounds them. -/
def redLevels (mx : Bool) : Nat → List (Option Nat) → List (Option Nat)
  | 0, l => l
  | f + 1, l => if l.length ≤ 1 then l else redLevels mx f (redLevel mx l)

/-- The canonical tree with the node RED_OP selects (R92, R191). -/
def redTree (mx : Bool) (l : List (Option Nat)) : Option Nat := ((redLevels mx 40 l).head?).join

/-- Overflows the tree's nodes meet; MAX meets none. -/
def redCount (mx : Bool) (l : List (Option Nat)) : Nat := if mx then 0 else treeCnt 40 l

end Sys2Proof.Machine
end

