-- ==== Sys2Proof/Machine/Update.lean ====
section
/-! DEFINITION. The update engine (chapter 6): the checks of a row at its entry, and its iterations. -/

namespace Sys2Proof.Machine

/-! ## The row a thread stands at -/

/-- Row n of a thread's bank. -/
def rowAt (s : State) (t : Thread) (n : Nat) : Nat := (bank s t.bank).rows.getD n 0

/-- The row the thread stands at. -/
def curRow (s : State) (t : Thread) : Nat := rowAt s t t.row

/-- The chain word a row names. -/
def chainOf (s : State) (t : Thread) (row : Nat) : Nat := (bank s t.bank).chains.getD (rwChain row) 0

/-- What the iterations of thread t's row work with. -/
def rowCtx (s : State) (th : Nat) : RowCtx :=
  let t := thread s th
  let row := curRow s t
  let pace := boundOf s t.binds (paceField row)
  { th := th, visit := t.visits, epoch := t.epoch, row := row, chain := chainOf s t row, binds := t.binds, pace := pace,
    scal := (scalarsOf s pace.e t.epoch t.replay).1, slice := 0, gather := gatherRow row,
    map := gatherMap s t.binds row, replay := t.replay }

/-! ## Checks at a row's entry (R153, R172, R187, R229) -/

/-- Every enabled stream names a bound slot (R153). -/
def slotsBound (row n : Nat) : Bool :=
  (rsOn row).all (fun k => decide (stSlot (rwRs row k) < n)) && (wsOn row).all fun k => decide (stSlot (rwWs row k) < n)

/-- The corners of a footprint map inside a stream's object and its bound cells (R172). -/
def cornersOk (x : RowCtx) (b : Bound) (k : Nat) : Bool :=
  let o := cellOrigin x.pace.e k
  let r1 := min (o.1 + 128) (oRows x.pace.e) - 1
  let c1 := min (o.2 + tileCols (oFmt x.pace.e)) (oCols x.pace.e) - 1
  let p := mapPos x b o.1 o.2
  let q := mapPos x b r1 c1
  let inside := decide (0 ≤ p.1) && decide (0 ≤ p.2) && decide (q.1 < oRows b.e) && decide (q.2 < oCols b.e)
  if oFmt b.e = fmtByte then
    inside && decide (b.first ≤ (elemPlace b.e p.1.toNat p.2.toNat).1) &&
      decide ((elemPlace b.e q.1.toNat q.2.toNat).1 < b.first + b.count)
  else
  let tr0 := p.1.toNat / 128
  let tr1 := q.1.toNat / 128
  let tc0 := p.2.toNat / tileCols (oFmt b.e)
  let tc1 := q.2.toNat / tileCols (oFmt b.e)
  inside && (List.range (tr1 + 1 - tr0)).all fun i => (List.range (tc1 + 1 - tc0)).all fun j =>
    let c := (tr0 + i) * gridCols b.e + tc0 + j
    decide (b.first ≤ c) && decide (c < b.first + b.count)

/-- Pacing cells the row's iterations address in this visit, in order; those beyond COUNT left out. -/
def rowCells (s : State) (t : Thread) (x : RowCtx) : List Nat :=
  ((List.range (rwLoop x.row)).map fun i => iterCell s t x.row i).filter fun k => decide (k < x.pace.count)

/-- A stream's shape agrees with the pacing object, and every footprint's elements fall in its object and its bound cells (R172). -/
def shapeAgrees (s : State) (t : Thread) (x : RowCtx) (b : Bound) : Bool :=
  let same := b.mode == x.pace.mode
  let dims := if same then oRows b.e == oRows x.pace.e && oCols b.e == oCols x.pace.e
    else oRows b.e == oCols x.pace.e && oCols b.e == oRows x.pace.e
  if x.gather then true
  else dims && (rowCells s t x).all fun k => cornersOk x b (x.pace.first + k)

/-- A write stream is paired with a read stream of the same binding and order. -/
def pairedWell (s : State) (x : RowCtx) (k : Nat) : Bool :=
  let w := wsBound s x k
  let o := chWold x.chain k
  let r := rsBound s x o
  o != 7 && r.obj == w.obj && r.first == w.first && r.count == w.count && (r.mode == w.mode || x.gather)

/-- Whether a write stream takes the output of a raw DRAW. -/
def rawSource (c k : Nat) : Bool := chDrawRaw c && slKind (chSlot c (chWsrc c k)) == 0x10

/-- The class and format a write stream may bind (R102, R179, R187). -/
def writeAdmitted (x : RowCtx) (b : Bound) (k : Nat) : Bool :=
  let c := oClass b.e
  (c == clsReplica || c == clsScratch || c == clsUnique || c == clsCompat) &&
    (if rawSource x.chain k then oFmt b.e == fmtByte else oFmt b.e != fmtByte)

/-- A read stream's object: a state format, or what a gathered row may read; RS5 of MASK 4 is the mask plane. -/
def readAdmitted (x : RowCtx) (b : Bound) (k : Nat) : Bool :=
  if rwMask x.row = 4 ∧ k = 5 then
    (!x.gather || b.mode == 3) && oFmt b.e == fmtByte && decide (oRows x.pace.e * oCols x.pace.e ≤ 8 * (oRows b.e * oCols b.e))
  else if x.gather then b.mode == 3 && (decide (oFmt b.e ≤ 2) || oFmt b.e == fmtByte)
  else decide (oFmt b.e ≤ 2)

/-- Rows and columns of the pacing object that the row's footprints reach, plus one. -/
def rowReach (s : State) (t : Thread) (x : RowCtx) : Nat × Nat :=
  let e := x.pace.e
  (rowCells s t x).foldl (fun a k =>
    let o := cellOrigin e (x.pace.first + k)
    let c := min (o.2 + tileCols (oFmt e)) (oCols e)
    let r := if x.gather then
        (((touchedRows s x.epoch x.map).drop ((x.pace.first + k) / gridCols e * 128)).take 128).foldl (fun a y => max a (y.1 + 1)) 0
      else min (o.1 + 128) (oRows e)
    (max a.1 r, max a.2 c)) (0, 0)

/-- Highest line index and position index of the row's footprints, plus one. -/
def lineLimit (s : State) (t : Thread) (x : RowCtx) : Nat := if x.pace.mode = 2 then (rowReach s t x).2 else (rowReach s t x).1
def posLimit (s : State) (t : Thread) (x : RowCtx) : Nat := if x.pace.mode = 2 then (rowReach s t x).1 else (rowReach s t x).2

/-- Scratch ranges a row's vectors read, in bytes. -/
def vecRanges (s : State) (t : Thread) (x : RowCtx) : List Region :=
  let cs := chCodes x.chain
  let v0 := 128 * v0Off x.row
  let v1 := 128 * v1Off x.row
  (if cs.contains 25 then [(v0, 4 * lineLimit s t x)] else if cs.contains 27 then [(v0, 4)] else []) ++
  (if cs.contains 26 then [(v1, 4 * posLimit s t x)] else if cs.contains 28 then [(v1, 4)] else [])

/-- The scratch range a REDUCE row writes, in bytes. -/
def dstRange (s : State) (t : Thread) (x : RowCtx) : Region :=
  if rwUop x.row = 2 then (128 * v1Off x.row, 4 * lineLimit s t x)
  else if rwUop x.row = 3 then (128 * v1Off x.row, 4) else (0, 0)

/-- Software's scratch: 7 MiB (R193). -/
def scratchTop : Nat := 7 * 2 ^ 20

/-- A chain with a DRAW slot or a CVT with SR. -/
def chainDraws (c : Nat) : Bool :=
  (chUsed c).any fun i =>
    let x := chSlot c i
    slKind x == 0x10 || (slKind x == 0x0F && bit (slMode x) 2)

/-! ## Cells and granules of a row's footprints -/

/-- The cells and granules of a stream that a footprint covers: keys cell × 1024 + granule. -/
def footGrans (s : State) (x : RowCtx) (b : Bound) (ps : List Elem) : NMap :=
  ps.foldl (fun m p =>
    let q := streamPos s x b p
    let a := elemPlace b.e q.1 q.2
    put m (a.1 * 1024 + a.2 / 64) 1) []

/-- The cells a key set names. -/
def gransCells (m : NMap) : List Nat := ((m.map fun e => e.1 / 1024)).eraseDups

/-- The bytes of the mask plane that hold a footprint's bits, as cell × 1024 + granule (R177). -/
def maskGrans (x : RowCtx) (ps : List Elem) : NMap :=
  ps.foldl (fun m p => put m ((p.r * oCols x.pace.e + p.c) / 8 / 64) 1) []

/-- The granules a read stream's footprint takes: of the mask plane, or of the elements. -/
def readGrans (s : State) (x : RowCtx) (k : Nat) (ps : List Elem) : NMap :=
  if rwMask x.row = 4 ∧ k = 5 then maskGrans x ps else footGrans s x (rsBound s x k) ps

/-- A stream read at one footprint of the row holds a granule that another stream writes at a different footprint (R187). -/
def crossOverlap (s : State) (t : Thread) (x : RowCtx) (k : Nat) (w : Bound) : Bool :=
  let ks := (((List.range (rwLoop x.row)).map (iterCell s t x.row)).filter (decide <| · < x.pace.count)).eraseDups
  let fs := ks.map fun c =>
    let ps := footprint s x (x.pace.first + c)
    (c, readGrans s x k ps, footGrans s x w ps)
  fs.any fun a => fs.any fun b => a.1 != b.1 && a.2.1.any fun g => get b.2.2 g.1 != 0

/-- The checks of R187 before the first iteration of an update-engine row. -/
def rowOk (s : State) (th : Nat) : Bool :=
  let t := thread s th
  let x := rowCtx s th
  let rs := rsOn x.row
  let ws := wsOn x.row
  slotsBound x.row t.binds.length && (rs != [] || ws != []) && decide (oFmt x.pace.e ≤ 2) &&
  rs.all (fun k => readAdmitted x (rsBound s x k) k &&
    ((rwMask x.row == 4 && k == 5) || shapeAgrees s t x (rsBound s x k))) &&
  ws.all (fun k =>
    let b := wsBound s x k
    writeAdmitted x b k && shapeAgrees s t x b && (oClass b.e != clsUnique || pairedWell s x k)) &&
  ws.all (fun j => ws.all fun k => decide (k ≤ j) ||
    !((wsBound s x j).obj == (wsBound s x k).obj &&
      overlap ((wsBound s x j).first, (wsBound s x j).count) ((wsBound s x k).first, (wsBound s x k).count))) &&
  ws.all (fun j => rs.all fun k =>
    let w := wsBound s x j
    let r := rsBound s x k
    let mask := rwMask x.row == 4 && k == 5
    !(w.obj == r.obj && (mask || overlap (w.first, w.count) (r.first, r.count))) ||
      (!mask && w.first == r.first && (w.mode == r.mode || x.gather)) || !crossOverlap s t x k w) &&
  (!chainDraws x.chain || (match ws with
    | [] => false
    | k :: _ => oSeed (wsBound s x k).e != 0)) &&
  (dstRange s t x :: vecRanges s t x).all (fun r => decide (r.1 + r.2 ≤ scratchTop)) && bindingOk s x.pace.e t.epoch t.replay

/-- Another thread's entered row keeps this row waiting on a scratch range (R194). -/
def scratchBusy (s : State) (th : Nat) : Bool :=
  let x := rowCtx s th
  let t := thread s th
  (List.range 8).any fun u =>
    let v := thread s u
    u != th && v.busy && v.entered && rwUnit (curRow s v) == 1 && (
      let y := rowCtx s u
      (vecRanges s t x).any (fun r => overlap r (dstRange s v y)) || (vecRanges s v y).any fun r => overlap r (dstRange s t x))

/-- Whether an iteration issues no work (R156, R218). -/
def iterSilent (s : State) (t : Thread) (x : RowCtx) (i : Nat) : Bool :=
  let k := iterCell s t x.row i
  decide (x.pace.count ≤ k) || (
    let ps := footprint s x (x.pace.first + k)
    ps.isEmpty || cellSilent s x ps)

/-- The granules of every footprint of the row from iteration i on. -/
def rowGrans (s : State) (t : Thread) (x : RowCtx) (b : Bound) (i : Nat) : NMap :=
  (List.range (rwLoop x.row - i)).foldl (fun m j =>
    let k := iterCell s t x.row (i + j)
    if k < x.pace.count then (footGrans s x b (footprint s x (x.pace.first + k))).foldl (fun m e => put m e.1 1) m else m) []

/-- The write streams of a row that go through the coding unit: UNIQUE objects, but not in a REPLAY. -/
def codedWs (s : State) (x : RowCtx) : List Nat :=
  if x.replay then [] else (wsOn x.row).filter fun k => oClass (wsBound s x k).e == clsUnique

/-- The data cell index of cell c of a UNIQUE object. -/
def dataIdx (e c : Nat) : Nat := oHome e + c

/-- The cells of an object a read stream's footprint takes. A gathered list or map is not among them. -/
def streamCells (s : State) (x : RowCtx) (k : Nat) (ps : List Elem) : List Nat :=
  if oFmt (rsBound s x k).e = fmtByte ∧ !(rwMask x.row == 4 && k == 5) then [] else gransCells (readGrans s x k ps)

/-- The cells of UNIQUE objects an iteration reads, as data cell indices. -/
def readCells (s : State) (x : RowCtx) (ps : List Elem) : List Nat :=
  if x.replay then []
  else
    ((rsOn x.row).filter fun k => oClass (rsBound s x k).e == clsUnique).flatMap fun k =>
      (streamCells s x k ps).map (dataIdx (rsBound s x k).e)

/-- The cells of an object that is not UNIQUE, with those of its scale plane, that a write stream reaches in its cells cs (R107, R197). -/
def plainWrites (s : State) (b : Bound) (cs : List Nat) : List (Nat × Nat) :=
  let mx := decide (3 ≤ oFmt b.e) && decide (oFmt b.e ≤ 7)
  let per := if oFmt b.e = 7 then 4096 else 2048
  (if oClass b.e = clsUnique then [] else cs.map fun c => (b.obj, c)) ++
  (if mx && oClass (dir s (oComp b.e)) != clsUnique then (cs.map fun c => (oComp b.e, c * per / cellSize)).eraseDups else [])

/-- Cells of objects that are not UNIQUE which thread u's row has written and will write again, as object and cell (R197). -/
def rowWrites (s : State) (u : Nat) : List (Nat × Nat) :=
  let t := thread s u
  if !t.busy || !t.entered || rwUnit (curRow s t) != 1 then []
  else
    let x := rowCtx s u
    let cells (b : Bound) (is : List Nat) : List (Nat × Nat) := (is.filter fun i => !iterSilent s t x i).flatMap fun i =>
      plainWrites s b (gransCells (footGrans s x b (footprint s x (x.pace.first + iterCell s t x.row i))))
    ((wsOn x.row).map (wsBound s x)).flatMap fun b =>
      let later := cells b ((List.range (rwLoop x.row)).drop t.iter)
      (cells b (List.range t.iter)).eraseDups.filter later.contains

/-- The cells of objects that are not UNIQUE which other threads' rows are still writing. -/
def othersWrite (s : State) (th : Nat) : List (Nat × Nat) :=
  ((List.range 8).filter (· != th)).flatMap (rowWrites s)

/-- Reservations for every cell the iteration writes (R21, R268): none when one fails, with the cell that failed. -/
def reserveAll (th visit e : Nat) : List (Nat × Nat) → State → Option State ⊕ (State × Nat)
  | [], s => .inl (some s)
  | (d, g) :: t, s =>
    match openCell s th visit d e 1 g with
    | some s => reserveAll th visit e t s
    | none => .inr (s, d)

/-! ## One footprint -/

/-- The generator key of an object for the row's epoch: the latched seed, or the REPLAY's (R91, R439). -/
def rowKey (s : State) (x : RowCtx) (o : Nat) : Bytes :=
  if x.replay then
    match s.rp.bind fun r => r.seeds.find? fun p => p.1 == o with
    | some p => p.2
    | none => objBytesAt s o 0 32
  else seedKey s x.epoch o

/-- The lane of one element (R177 to R190). -/
def elemLane (s : State) (x : RowCtx) (p : Elem) : Lane :=
  let rsRaw := (List.range 6).map fun k =>
    if stMode (rwRs x.row k) = 0 ∨ (rwMask x.row = 4 ∧ k = 5) then 0 else streamValue s x (rsBound s x k) p
  let ws := wsOn x.row
  let w := wsBound s x (ws.headD 0)
  let q := streamPos s x w p
  let idx := q.1 * oCols w.e + q.2
  let key := if chainDraws x.chain then rowKey s x (oSeed w.e) else []
  let wordOf (sl : Nat) : Nat × Nat :=
    if slKind sl = 0x10 then (genWord key x.epoch 3 (slMode sl) w.obj idx, 0)
    else if slKind sl = 0x0F ∧ bit (slMode sl) 2 then (0, genWord key x.epoch 2 0 w.obj idx)
    else (0, 0)
  let inp : LaneIn :=
    { rs := [], scal := x.scal, v0l := scratchWord s x.slice (v0Off x.row) (lineOf x p),
      v1p := scratchWord s x.slice (v1Off x.row) (posOf x p), v00 := scratchWord s x.slice (v0Off x.row) 0,
      v10 := scratchWord s x.slice (v1Off x.row) 0, word := 0, raw := false, word2 := 0 }
  runChain x.chain (initMask s x p) rsRaw inp wordOf

/-- A result converted to a state format: bits, whether it counts, whether it clears the mask (R179). -/
def convert (fmt v : Nat) : Res :=
  if fmt = fmtS32 then Res.plain v else if fmt = fmtW16 then toW16 v else toL16 v

/-- A stored element conditioned and converted once to another format or kept in its own: the bits, and the kinds it counts under (R70,
R75, R80). -/
def reformat (type fmt v : Nat) : Nat × List Nat :=
  let c := condition (widen fmt v)
  let e := if c.cnt then [0] else []
  if type = fmt then (if type = fmtS32 then c.v else if type = fmtW16 then c.v / 2 ^ 16 else v, e)
  else
    let r := convert type c.v
    (r.v, if r.cnt then e ++ [0x0F] else e)

/-- A stored element as a sender carries it: unchanged in its own format, else converted as it is read (R313). DEDUCED
(notes/assumptions/108): a NaN that is converted is conditioned there and travels as +0, a leaf of that value; one that is not converted
becomes an empty leaf at its owner. -/
def carried (type fmt v : Nat) : Nat × List Nat := if type = fmt then (v, []) else reformat type fmt v

/-- A written element: its place in the stream's object, the value about to be written in binary32, the stored bits
for a state format, and whether its mask bit is set for this stream. -/
structure Put where
  r : Nat
  c : Nat
  v : Nat
  code : Nat
  m : Bool
  cnt : Bool
  deriving DecidableEq, Repr

/-- The old bits a paired write stream keeps: the same element's, or the paired stream's value converted. -/
def oldBits (s : State) (x : RowCtx) (w : Bound) (k : Nat) (p : Elem) : Option (Nat × Nat) :=
  let o := chWold x.chain k
  if o = 7 then none
  else
    let r := rsBound s x o
    let v := streamValue s x r p
    let q := streamPos s x w p
    some (if r.obj = w.obj then (elemRaw s w.obj w.e q.1 q.2, v) else ((convert (oFmt w.e) (condition v).v).v, v))

/-- What write stream k writes for an element (R179, R180). -/
def elemPut (s : State) (x : RowCtx) (k : Nat) (p : Elem) (l : Lane) : Put :=
  let w := wsBound s x k
  let q := streamPos s x w p
  let v := l.outs.getD (chWsrc x.chain k) 0
  let m := writeMask x.row l
  let fmt := oFmt w.e
  let r := if fmt < 3 then convert fmt v
    else if fmt = fmtByte then Res.plain (Config.rawDrawByte v).toNat else Res.plain 0
  let keep := m && !r.clr
  if keep then { r := q.1, c := q.2, v := v, code := r.v, m := true, cnt := r.cnt }
  else
    match oldBits s x w k p with
    | some o => { r := q.1, c := q.2, v := o.2, code := o.1, m := false, cnt := r.cnt && m }
    | none => { r := q.1, c := q.2, v := 0, code := 0, m := false, cnt := r.cnt && m }

/-- N and M of an NM policy (R101). -/
def nmOf (nm : Nat) : Nat × Nat := if nm = 1 then (2, 4) else if nm = 2 then (1, 4) else (2, 8)

/-- Whether an element's group keeps it (R129): groups of M along MXAXIS from index 0. -/
def nmKeeps (e : Nat) (ps : List Put) (p : Put) : Bool :=
  if oNm e = 0 then true
  else
    let nm := nmOf (oNm e)
    let g := ps.filter fun y => if oAxis e then y.c == p.c && y.r / nm.2 == p.r / nm.2 else y.r == p.r && y.c / nm.2 == p.c / nm.2
    let i := if oAxis e then p.r % nm.2 else p.c % nm.2
    let byIdx := (List.range nm.2).filterMap fun j =>
      g.find? fun y => (if oAxis e then y.r % nm.2 else y.c % nm.2) == j
    let at0 := (List.range i).filter fun j => byIdx.any fun y => (if oAxis e then y.r % nm.2 else y.c % nm.2) == j
    (keepNM nm.1 (byIdx.map (·.v))).getD at0.length true

/-- The pruned puts of a stream (R129). -/
def prune (e : Nat) (ps : List Put) : List Put :=
  if oNm e = 0 then ps
  else ps.map fun p => if nmKeeps e ps p then p else { p with v := 0, code := 0, m := true, cnt := false }

/-- A piece of a cell to write: cell, offset, bytes. -/
abbrev Piece := Nat × Nat × Bytes

/-- Pieces of a state format or of a BYTE object (R106). -/
def statePieces (e : Nat) (ps : List Put) : List Piece :=
  ps.map fun p =>
    if oFmt e = fmtByte then
      let i := p.r * oCols e + p.c
      (i / cellSize, i % cellSize, leBytes 1 p.code)
    else
      let a := elemPlace e p.r p.c
      (a.1, a.2, leBytes (elemBytes (oFmt e)) p.code)

/-- The MX element format of an FMT (R71, R101). -/
def mxOf (fmt : Nat) : MxFmt :=
  match fmt with
  | 3 => mxE4M3
  | 4 => mxE5M2
  | 5 => mxE3M2
  | 6 => mxE2M3
  | _ => mxE2M1

/-- Cell and block of an element of an MX object (R107). -/
def mxBlock (e r c : Nat) : Nat × Nat :=
  let tc := tileCols (oFmt e)
  let k := r / 128 * gridCols e + c / tc
  let lr := r % 128
  let lc := c % tc
  (k, if oAxis e then lr / 32 * tc + lc else lr * (tc / 32) + lc / 32)

/-- The packed elements, the scale byte and the elements counted for one block (R82, R107). Elements the footprint does
not hold are padding. -/
def mxPack (e : Nat) (ps : List Put) (b : Nat × Nat) : Piece × Piece × Nat :=
  let f := mxOf (oFmt e)
  let mine := ps.filter fun p => mxBlock e p.r p.c == b
  let val (i : Nat) : Nat :=
    ((mine.find? fun p => (if oAxis e then p.r % 32 else p.c % 32) == i).map (·.v)).getD 0
  let q := toMx f [] ((List.range 32).map val)
  let n := 4 * f.width
  ((b.1, b.2 * n, leBytes n (packBits f.width q.1)),
   (b.1, b.2, [BitVec.ofNat 8 q.2.1]), q.2.2)

/-- The blocks a stream's puts fall in. -/
def mxBlocks (e : Nat) (ps : List Put) : List (Nat × Nat) := (ps.map fun p => mxBlock e p.r p.c).eraseDups

/-- Pieces cut at granule boundaries and gathered by cell and granule, ascending. -/
def addPiece (m : List (Nat × List (Nat × Bytes))) (k off : Nat) (b : Bytes) : List (Nat × List (Nat × Bytes)) :=
  match m with
  | [] => [(k, [(off, b)])]
  | (j, l) :: t =>
    if k < j then (k, [(off, b)]) :: (j, l) :: t
    else if k = j then (j, l ++ [(off, b)]) :: t
    else (j, l) :: addPiece t k off b

/-- The granules of a list of pieces: cell × 1024 + granule, with offset and bytes within it. -/
def granules (ps : List Piece) : List (Nat × List (Nat × Bytes)) :=
  ps.foldl (fun m p =>
    let off := p.2.1
    let n := 64 - off % 64
    let m := addPiece m (p.1 * 1024 + off / 64) (off % 64) (p.2.2.take n)
    if p.2.2.length ≤ n then m else addPiece m (p.1 * 1024 + off / 64 + 1) 0 (p.2.2.drop n)) []

/-- A cell of the REPLAY's written objects, noted once when a granule of it changes (R440). -/
def noteReplay (s : State) (o c : Nat) : State :=
  match s.rp with
  | none => s
  | some r => if r.changed.contains (o, c) then s else { s with rp := some { r with changed := r.changed ++ [(o, c)] } }

/-- A granule the row produced only in part is completed from a 64-byte merge read of its present contents (R181). -/
def mergeRead (s : State) (x : RowCtx) (w : Bound) (g : Nat × List (Nat × Bytes)) : State :=
  let c := g.1 / 1024
  if (g.2.map fun p => p.2.length).sum < 64 then
    (placeRead (count s (C.SLC_MERGE_RD (placeSlice s (cellPlace s w.e c)))) x.th (readPlace s w.obj c) (64 * (g.1 % 1024)) 64).2
  else s

/-- One granule of a write stream's object is written: through the coding unit for coded state, in place otherwise (R181). -/
def writeGranule (s : State) (x : RowCtx) (w : Bound) (g : Nat × List (Nat × Bytes)) : State :=
  let c := g.1 / 1024
  let gr := g.1 % 1024
  let old := cellSlice s w.obj c (64 * gr) 64
  let new := g.2.foldl (fun b p => overlay b p.1 p.2) old
  let s := mergeRead s x w g
  if oClass w.e = clsUnique then
    if x.replay then
      if old = new then s
      else placeWrite (noteReplay s w.obj c) x.th (cellPlace s w.e c) (64 * gr) new
    else writeGran s x.th (dataIdx w.e c) gr new
  else cellWrite s x.th x.epoch w.obj c (64 * gr) new

/-- The granules of a write stream written; the cells of an object behind the output compressor are packed once each (R128). -/
def writeGrans (s : State) (x : RowCtx) (w : Bound) (gs : List (Nat × List (Nat × Bytes))) : State :=
  if zipped w.e then
    let s := gs.foldl (fun s g => mergeRead s x w g) s
    ((gs.map fun g => g.1 / 1024).eraseDups).foldl (fun s c =>
      let b := (gs.filter fun g => g.1 / 1024 == c).foldl (fun b g =>
        g.2.foldl (fun b p => overlay b (64 * (g.1 % 1024) + p.1) p.2) b) (cellBytes s w.obj c)
      cellWrite s x.th x.epoch w.obj c 0 b) s
  else gs.foldl (fun s g => writeGranule s x w g) s

/-- The cells of a written object whose last element is among the puts: their padding is due (R106). -/
def padCells (e : Nat) (ps : List Put) : List Nat :=
  let tc := tileCols (oFmt e)
  (ps.filter fun p => (p.r % 128 == 127 || p.r + 1 == oRows e) && (p.c % tc == tc - 1 || p.c + 1 == oCols e)).map fun p =>
    p.r / 128 * gridCols e + p.c / tc

/-- The padding of a cell of a state format: +0 beyond the object's edges (R106). -/
def padPieces (e k : Nat) : List Piece :=
  let tc := tileCols (oFmt e)
  let w := elemBytes (oFmt e)
  let o := cellOrigin e k
  let nr := min 128 (oRows e - o.1)
  let nc := min tc (oCols e - o.2)
  (if nc < tc then (List.range nr).map fun i => (k, (i * tc + nc) * w, List.replicate ((tc - nc) * w) 0) else []) ++
  (if nr < 128 then [(k, nr * tc * w, List.replicate ((128 - nr) * tc * w) 0)] else [])

/-- Elements of an object in a state format, or raw bytes, written; a cell gets its padding with its last element (R106). -/
def writePuts (s : State) (x : RowCtx) (w : Bound) (ps : List Put) : State :=
  let pads := if oFmt w.e = fmtByte then [] else (padCells w.e ps).flatMap (padPieces w.e)
  writeGrans s x w (granules (statePieces w.e ps ++ pads))

/-- The blocks of an MX cell made only of padding, in order (R107). -/
def mxPadBlocks (e k : Nat) : List Nat :=
  let tc := tileCols (oFmt e)
  let o := cellOrigin e k
  let nr := min 128 (oRows e - o.1)
  let nc := min tc (oCols e - o.2)
  (List.range (128 * tc / 32)).filter fun b =>
    if oAxis e then decide (nr ≤ b / tc * 32) || decide (nc ≤ b % tc)
    else decide (nr ≤ b / (tc / 32)) || decide (nc ≤ b % (tc / 32) * 32)

/-- The zero bytes of an MX cell beyond its elements: padding blocks, and the end of an MXFP6 cell (R106). -/
def mxPadPieces (e k : Nat) : List Piece :=
  let n := 4 * (mxOf (oFmt e)).width
  (mxPadBlocks e k).map (fun b => (k, b * n, List.replicate n 0)) ++
  (if oFmt e = 5 ∨ oFmt e = 6 then [(k, 49152, List.replicate 16384 0)] else [])

/-- Write stream k takes the footprint's lanes (R179 to R181). A cell gets its padding with its last element (R106). -/
def writeStream (s : State) (x : RowCtx) (k : Nat) (ls : List (Elem × Lane)) : State :=
  let w := wsBound s x k
  let ps := prune w.e (ls.map fun l => elemPut s x k l.1 l.2)
  let n := (ps.filter (·.cnt)).length
  let mx := decide (3 ≤ oFmt w.e) && decide (oFmt w.e ≤ 7)
  let s := countN s (C.SLC_CLAMP x.slice 0x0F) n
  let s :=
    if mx then
      let bs := (mxBlocks w.e ps).map (mxPack w.e ps)
      let s := countN s (C.SLC_CLAMP x.slice 0x0F) (bs.map (·.2.2)).sum
      let per := if oFmt w.e = 7 then 4096 else 2048
      let pl : Bound := { mode := 1, obj := oComp w.e, first := 0, count := 0, e := dir s (oComp w.e) }
      let pads := padCells w.e ps
      let at0 (k b : Nat) (v : Bytes) : Piece := ((k * per + b) / cellSize, (k * per + b) % cellSize, v)
      let sc := (bs.map fun b => at0 b.2.1.1 b.2.1.2.1 b.2.1.2.2) ++
        pads.flatMap fun k => (mxPadBlocks w.e k).map fun b => at0 k b [0]
      let s := writeGrans s x w (granules (bs.map (·.1) ++ pads.flatMap (mxPadPieces w.e)))
      let s := writeGrans s x pl (granules sc)
      if x.replay || ps = [] then s else homeWritten s pl.obj x.epoch
    else
      writePuts s x w ps
  if x.replay || ps = [] then s else homeWritten s w.obj x.epoch

/-! ## Reductions (R191, R192) -/

/-- The values of a footprint in line order, each line made up to its full length with the empty leaves of padding (R190, R191). -/
def padLines (x : RowCtx) (vs : List (Nat × Option Nat)) : List (Option Nat) :=
  let w := if x.pace.mode = 2 then 128 else tileCols (oFmt x.pace.e)
  ((vs.map (·.1)).eraseDups).flatMap fun n =>
    let l := (vs.filter fun v => v.1 == n).map (·.2)
    l ++ List.replicate (w - l.length) none

/-- The leaves a footprint adds: per line for REDUCE_LINE, one for REDUCE_ALL; the value plus one, 0 for empty. -/
def footLeaves (x : RowCtx) (k : Nat) (ls : List (Elem × Lane)) : List (Nat × Nat × Nat) × Nat :=
  let val (l : Elem × Lane) : Option Nat := if writeMask x.row l.2 then some (l.2.outs.getD (chRedSrc x.chain) 0) else none
  let mx := chRedMax x.chain
  let enc (v : Option Nat) : Nat := match v with | some v => v + 1 | none => 0
  if rwUop x.row = 2 then
    let lines := (ls.map fun l => lineOf x l.1).eraseDups
    let rs := lines.map fun n =>
      let vs := (ls.filter fun l => lineOf x l.1 == n).map val
      ((n, k, enc (redTree mx vs)), redCount mx vs)
    (rs.map (·.1), (rs.map (·.2)).sum)
  else
    let vs := padLines x (ls.map fun l => (lineOf x l.1, val l))
    ([(0, k, enc (redTree mx vs))], redCount mx vs)

/-- The position tree and the slice tree over footprint results in ascending j (R94, R191): value and overflows. -/
def tierTree (mx : Bool) (vs : List (Nat × Option Nat)) : Option Nat × Nat :=
  let pos := (List.range 12).map fun p => (vs.filter fun v => v.1 % 12 == p).map (·.2)
  let tops := pos.map (redTree mx)
  (redTree mx tops, (pos.map (redCount mx)).sum + redCount mx tops)

/-- Leaves in ascending tile position. -/
def insLeaf (a : Nat × Nat) : List (Nat × Nat) → List (Nat × Nat)
  | [] => [a]
  | b :: t => if a.1 < b.1 then a :: b :: t else b :: insLeaf a t

/-- The result of a REDUCE row, in the scratch of every enabled slice; entry 0 of REDUCE_ALL is written without a leaf too, as +0 (R191,
R192). -/
def finishReduce (s : State) (x : RowCtx) (leaves : List (Nat × Nat × Nat)) : State :=
  let mx := chRedMax x.chain
  let dec (v : Nat) : Option Nat := if v = 0 then none else some (v - 1)
  let off := v1Off x.row
  let all := rwUop x.row == 3
  let lines := if all then [0] else (leaves.map (·.1)).eraseDups
  lines.foldl (fun s n =>
    let mine := (leaves.filter fun l => l.1 == n).foldl (fun a l => insLeaf (l.2.1, l.2.2) a) []
    let vs := (List.range mine.length).map fun j =>
      let m := mine.getD j (0, 0)
      (if all then m.1 else j, dec m.2)
    let r := tierTree mx vs
    setScratch (countN s (C.SLC_CLAMP (lowSlice s) 0x03) r.2) off (if all then 0 else n) (r.1.getD 0)) s

/-! ## Iterations -/

/-- How an iteration ended: it is done, it must be tried again, or its STEP fails. -/
inductive IterEnd where
  | done
  | wait
  | fail (code : Nat)
  deriving DecidableEq, Repr

/-- Cells of a thread's row that no later iteration of the visit writes are closed (R182). -/
def closeDone (s : State) (t : Thread) (x : RowCtx) (i : Nat) : State :=
  let rest := ((List.range (rwLoop x.row)).drop (i + 1)).filter fun j => !iterSilent s t x j
  let later := (codedWs s x).flatMap fun k =>
    let b := wsBound s x k
    rest.flatMap fun j =>
      (gransCells (footGrans s x b (footprint s x (x.pace.first + iterCell s t x.row j)))).map (dataIdx b.e)
  (s.cod.open_.filter fun o => o.thread == x.th && !later.contains o.d).foldl closeCell s

/-- The record of a list for a row (R200). -/
def listFetch (s : State) (owner o r : Nat) : State :=
  let h := listHdr (objRange s o 0 64)
  let sz := recSize h.fmt h.cols
  match (List.range h.count).find? fun i => leVal (objRange s o (64 + i * sz) 4) == r with
  | none => s
  | some i =>
    let a := 64 + i * sz
    ((List.range ((a % cellSize + sz + cellSize - 1) / cellSize)).foldl (fun s j =>
      let c := a / cellSize + j
      let lo := max a (c * cellSize)
      let hi := min (a + sz) ((c + 1) * cellSize)
      (placeRead s owner (cellPlace s (dir s o) c) (lo % cellSize) (hi - lo)).2) s)

/-- The listed rows of a gathered stream are read, each where it lies, tile by tile of the stream's object (R176). -/
def gatherFetch (s : State) (x : RowCtx) (b : Bound) (ps : List Elem) : State :=
  let rows := (ps.map fun p => streamPos s x b { p with c := 0 }).eraseDups
  let c0 := (ps.map (·.c)).foldl min ((ps.map (·.c)).headD 0)
  let n := (ps.map (·.c)).eraseDups.length
  rows.foldl (fun s q =>
    if b.obj = x.map then s
    else if oFmt b.e = fmtByte then listFetch s x.th b.obj q.1
    else
      let tc := tileCols (oFmt b.e)
      (List.range ((c0 + n + tc - 1) / tc - c0 / tc)).foldl (fun s j =>
        let lo := max c0 ((c0 / tc + j) * tc)
        let hi := min (c0 + n) ((c0 / tc + j + 1) * tc)
        let a := elemPlace b.e q.1 lo
        (placeRead s x.th (cellPlace s b.e a.1) a.2 ((hi - lo) * elemBytes (oFmt b.e))).2) s) s

/-- The two cells that the row's earlier footprints have left in the buffer of read stream k, the latest first (R175, R178). -/
def buffered (s : State) (t : Thread) (x : RowCtx) (i k : Nat) : List Nat :=
  ((List.range i).reverse.foldl (fun buf j =>
    if 2 ≤ buf.length ∨ iterSilent s t x j then buf
    else
      let cs := streamCells s x k (footprint s x (x.pace.first + iterCell s t x.row j))
      buf ++ cs.reverse.filter fun c => !buf.contains c) []).take 2

/-- The read requests of an iteration: every cell of its read streams that does not stand in their buffers (R175); of a gathered stream the
listed rows (R176). -/
def fetchCells (s : State) (t : Thread) (x : RowCtx) (i : Nat) (ps : List Elem) : State :=
  (rsOn x.row).foldl (fun s k =>
    let b := rsBound s x k
    if x.gather && !(rwMask x.row == 4 && k == 5) then gatherFetch s x b ps
    else
      let had := buffered s t x i k
      ((streamCells s x k ps).filter fun c => !had.contains c).foldl (fun s c => cellFetch s x.th b.obj c) s) s

/-- Cells that a thread reads and that fail become SUSPECT; the thread holds its footprint, or its STEP fails when no
source can repair one (R175). -/
def holdBad (s : State) (th : Nat) (bad : List Nat) : State × IterEnd :=
  let s := bad.foldl suspectData s
  let s := setThread s th { thread s th with got := false }
  if rd s R.CMB_COMB_STATE = 3 ∨ bad.any (repairGone s) then (s, .fail 0x0D) else (s, .wait)

/-- The cells of an iteration requested once, awaited whole, and then checked (R175, R389): done when all stand in the
buffers. ds are the data cells to check. -/
def fetchWhole (s : State) (th : Nat) (ds : List Nat) (fetch : State → State) : State × IterEnd :=
  let mine := ds.filter fun d => (openOf s th d).isNone
  let check (s : State) : State × IterEnd :=
    let bad := mine.filter fun d => !dataCellOk s d
    if bad = [] then (s, .done) else holdBad s th bad
  let known := mine.filter (cellSuspect s)
  if known ≠ [] then holdBad s th known
  else if (thread s th).got then (if readsIn s th then check s else (s, .wait))
  else
    let s := fetch (setThread s th { thread s th with got := true })
    if readsIn s th then check s else (s, .wait)

/-- A slice with fewer than 16 working lanes takes no iteration (R170). -/
def sliceStopped (s : State) (n : Nat) : Bool := bit (rd s R.GEN_DISABLED) n

/-- Iteration i of the row thread th stands at, for UNIT 1. It waits while a MOVE copies an object it writes, another
row writes a cell it touches, a cell of its own awaits repair, the log has no room or the pool has none (R21, R114,
R175, R197). -/
def iterate (s : State) (th i : Nat) : State × IterEnd :=
  let t := thread s th
  let x := rowCtx s th
  let rel := iterCell s t x.row i
  if x.pace.count ≤ rel then (count s C.SEQ_RANGE, .done)
  else
    let k := x.pace.first + rel
    let x := { x with slice := placeSlice s (cellPlace s x.pace.e k) }
    let ps := footprint s x k
    let cover (s : State) : State :=
      if rwUop x.row = 1 then s
      else
        let ls := if rwUop x.row = 2 then ((ps.map (lineOf x)).eraseDups.map fun n => (n, rel, 0)) else [(0, rel, 0)]
        setThread s th { thread s th with leaves := (thread s th).leaves ++ ls }
    if ps = [] ∨ cellSilent s x ps then (cover s, .done)
    else if sliceStopped s x.slice then (s, .wait)
    else if (wsOn x.row).any fun j => movingFor s (wsBound s x j).obj then (s, .wait)
    else
      let wr := (codedWs s x).flatMap fun j =>
        let b := wsBound s x j
        let g := rowGrans s t x b 0
        (gransCells (footGrans s x b ps)).map fun c => (dataIdx b.e c, (g.filter fun e => e.1 / 1024 == c).length)
      let rdc := readCells s x ps
      let coded := (wr.map (·.1) ++ rdc).eraseDups
      let kept := wantAll s (coded.filter isKept)
      let busy := othersWrite s th
      let plain (b : Bound) (cs : List Nat) : List (Nat × Nat) := if oClass b.e = clsUnique then [] else cs.map fun c => (b.obj, c)
      let wrp := (wsOn x.row).flatMap fun j => plainWrites s (wsBound s x j) (gransCells (footGrans s x (wsBound s x j) ps))
      let rdp := (rsOn x.row).flatMap fun k => plain (rsBound s x k) (streamCells s x k ps)
      if (wr.any fun d => openElsewhere s th d.1) || wrp.any busy.contains then (count s (C.SLC_CELL_WAIT x.slice), .wait)
      else if rdc.any (openElsewhere s th) || rdp.any busy.contains then (s, .wait)
      else if coded.any (dataMissing s) then (pullData s th coded, .wait)
      else if coded.any (keptGone s) then (s, .fail 0x0D)
      else if !kept.2 then (kept.1, .wait)
      else
        let s := wakeSlice s x.slice
        let compat := (wrp ++ rdp).filter fun y => oClass (dir s y.1) == clsCompat
        let open_ := cacheAll th (qOf s t.queue).tenant compat.eraseDups s
        let s := open_.1
        if !open_.2 then (s, .wait)
        else
          let f := fetchWhole s th (if x.gather then [] else rdc) fun s => fetchCells s t x i ps
          let s := f.1
          if f.2 ≠ .done then f
          else
            match reserveAll th t.visits t.epoch wr s with
            | .inr (s, d) => (logStall s x.th d t.epoch, .wait)
            | .inl none => (s, .wait)
            | .inl (some s) =>
              let ls := ps.map fun p => (p, elemLane s x p)
              let s := countKinds s x.slice (ls.flatMap fun l => l.2.counted)
              let s := countN s (C.SLC_GRP x.slice) (lineGroups (x.pace.mode = 2) ps)
              let lv := if rwUop x.row = 1 then ([], 0) else footLeaves x rel ls
              let s := countN s (C.SLC_CLAMP x.slice 0x03) lv.2
              let s := (wsOn x.row).foldl (fun s j => writeStream s x j ls) s
              let u := thread s th
              let s := setThread s th { u with leaves := u.leaves ++ lv.1 }
              (closeDone s t x i, .done)

end Sys2Proof.Machine
end

