-- ==== Sys2Proof/Machine/Digest.lean ====
section
/-! DEFINITION. Fault reports (R357 to R359) and step digests: forming, the history, comparing (R431 to R437). -/

namespace Sys2Proof.Machine

/-! ## Fault reports -/

/-- CMB_REPORT_WIN in ns (R534). -/
def reportWin (s : State) : Nat := rd s R.CMB_REPORT_WIN * 100000

/-- Suspect table entry i (R534). -/
def suspect (s : State) (i : Nat) : Nat := tget s 0x0E 1 i

def suIdx (e : Nat) : Nat := bits e 127 114
def suClass (e : Nat) : Nat := bits e 113 110
def suOcc (e : Nat) : Nat := bits e 109 78
def suTime (e : Nat) : Nat := bits e 63 0

/-- The state with the comb unit replaced. -/
def setComb (s : State) (x : Comb) : State := { s with comb := x }

/-- A suspect table entry. -/
def suspectEntry (x cls occ time : Nat) : Nat := at' x 114 + at' cls 110 + at' (min occ (2 ^ 32 - 1)) 78 + time

/-- The place of a key: its own entry, an empty one, or the oldest (R358). -/
def suspectSlot (s : State) (x cls : Nat) : Nat :=
  match firstBelow 64 fun i => suspect s i != 0 && suIdx (suspect s i) == x && suClass (suspect s i) == cls with
  | some i => i
  | none =>
    match firstBelow 64 fun i => suspect s i == 0 with
    | some i => i
    | none => (List.range 64).foldl (fun b i => if suTime (suspect s i) < suTime (suspect s b) then i else b) 0

/-- Whether the place holds an entry of the key younger than the window. -/
def suspectYoung (s : State) (i x cls : Nat) : Bool :=
  let e := suspect s i
  e != 0 && suIdx e == x && suClass e == cls && decide (rd s R.TIME_TOD < suTime e + reportWin s)

/-- STATUS of a fault record by CLASS (R570). -/
def classStatus (cls : Nat) : Nat := if cls = 5 then 0x0E else if cls = 6 then 0x0D else ecRemoteDead

/-- The waiting record of a guard for a key, with n more folded in (R359). -/
def foldGuard (info0 n : Nat) : List EvRec → List EvRec
  | [] => []
  | r :: t =>
    if r.compl.isNone && r.kind == 4 && r.source == 0x0E && r.info0 == info0 then
      { r with merged := min 0xFFFF (r.merged + n) } :: t
    else r :: foldGuard info0 n t

/-- A report reaches the guard: one record per suspect, class and window, later ones folded (R359). -/
def guardReport (s : State) (x cls occ reporter : Nat) : State :=
  let s := setComb s { s.comb with told := put s.comb.told x (rd s R.TIME_TOD + 1) }
  let i := suspectSlot s x cls
  let e := suspect s i
  let info0 := x + at' cls 16 + at' 1 20
  if suspectYoung s i x cls then
    let s := tput s 0x0E 1 i (suspectEntry x cls (suOcc e + occ) (suTime e))
    count { s with ev := { s.ev with buf := foldGuard info0 1 s.ev.buf } } C.CMB_REPORT_DUP
  else
    let s := tput s 0x0E 1 i (suspectEntry x cls occ (rd s R.TIME_TOD))
    unitError s (classStatus cls) 0x0E info0 (occ % 2 ^ 32 + at' reporter 32)

/-- A peer that no up link reaches. -/
def peerUp (s : State) (p : Nat) : Bool := peerValid (peerEntry s p) && (chooseLink s p 0 0).isSome

/-- List index of rank r of the comb of list position x. -/
def rankIdxIn (s : State) (comb r : Nat) : Option Nat :=
  (List.range s.comb.listN).find? fun x =>
    memRole (member s x) == 0 && memComb (member s x) == comb && memRank (member s x) == r

/-- The guard of a suspect at a capped epoch, or the alternate (R358). -/
def guardOf (s : State) (x : Nat) : Option Nat :=
  let n := if cmbFixed s then cmbN s - cmbM s else cmbN s
  if n = 0 then none
  else
    let g := rankIdxIn s (memComb (member s x)) (capped s % n)
    let ok := match g with
      | some y => y != x && memState (member s y) != 7 && (y == ownIdx s || peerUp s (memPeer (member s y)))
      | none => false
    if ok then g else rankIdxIn s (memComb (member s x)) ((capped s + 1) % n)

/-- The 32 bytes of a fault report (R357). -/
def faultMsg (s : State) (x cls occ : Nat) : Bytes :=
  leBytes 32 (x + at' cls 16 + at' (occ % 2 ^ 32) 32 + at' (capped s) 64)

/-- A fault of list position x is observed: reported to its guard, or to the own driver outside its comb, at most once
per window (R358). -/
def faultReport (s : State) (x cls : Nat) : State :=
  let i := suspectSlot s x cls
  let e := suspect s i
  let same := suIdx e == x && suClass e == cls && e != 0
  let mine := memRole (member s x) != 2 && memRole (member s (ownIdx s)) != 2 && memComb (member s x) == ownComb s
  if mine ∧ guardOf s x = some (ownIdx s) then guardReport s x cls 1 (ownIdx s)
  else if suspectYoung s i x cls then tput s 0x0E 1 i (suspectEntry x cls (suOcc e + 1) (suTime e))
  else
    let occ := if same then suOcc e else 1
    let s := tput s 0x0E 1 i (suspectEntry x cls 1 (rd s R.TIME_TOD))
    if mine then
      match guardOf s x with
      | some g => sendMsg s (memPeer (member s g)) 7 0 (faultMsg s x cls occ)
      | none => s
    else unitError s (classStatus cls) 0x0E (x + at' cls 16) (occ % 2 ^ 32 + at' (ownIdx s) 32)

/-! ## The sensor summary (R411) -/

/-- TEMP of thermal point p as a signed number of quarter degrees. -/
def tempOf (s : State) (p : Nat) : Int := signed 16 (bits (tget s 0x18 0 p) 63 48)

/-- The hottest point that is not open, the lowest number on a tie. -/
def hottest (s : State) : Nat :=
  let ps := (List.range 48).filter fun p => !bit (rd s R.SNS_POD_OPEN) p
  ps.foldl (fun b p => if tempOf s b < tempOf s p then p else b) (ps.headD 0)

/-- Droop trips of comparator c since an epoch opened, or since the REPLAY that runs began (R411, R440). -/
def droopSince (s : State) (e c : Nat) : Nat :=
  let start := match s.rp with
    | some r => r.droop0
    | none => (epochOf s e).droop0
  get s.cnt (C.SNS_DROOP_CNT c) - start.getD c 0

/-- HLT_SUMMARY for an epoch. -/
def summaryOf (s : State) (e : Nat) : Nat :=
  let h := hottest s
  let ds := (List.range 16).map (droopSince s e)
  let worst := (List.range 16).foldl (fun b c => if ds.getD b 0 < ds.getD c 0 then c else b) 0
  bits (tget s 0x18 0 h) 63 48 + at' h 16 + at' (rd s R.HLT_STAT_LEVEL) 22 + at' (rd s R.HLT_SCORE_SCORE) 24 +
    at' (min ds.sum 0xFFFF) 32 + at' worst 48

/-! ## Digests (R431) -/

/-- A covered cell put among others in ascending (object, cell). -/
def insCell (a : DigCell) : List DigCell → List DigCell
  | [] => [a]
  | b :: t => if a.obj < b.obj ∨ (a.obj = b.obj ∧ a.cell < b.cell) then a :: b :: t else b :: insCell a t

/-- The 16-byte tuple of a covered cell. -/
def digTuple (x : DigCell) : Bytes := leBytes 4 x.obj ++ leBytes 4 x.cell ++ leBytes 8 x.crc

/-- The step digest over covered cells; 0 when there is none. -/
def digestOf (l : List DigCell) : Nat :=
  if l = [] then 0
  else
    let sorted := l.foldl (fun a x => insCell x a) []
    let d (p : Nat) : Nat := crc64 ((sorted.filter fun x => x.cell % 12 == p).flatMap digTuple)
    crc64 ((List.range 12).flatMap fun p => leBytes 8 (d p))

/-! ## The history (R432 to R434) -/

/-- History entry of epoch e's place. -/
def hist (s : State) (e : Nat) : Nat := tget s 0x1B 0 (e % 64)

/-- The state with the history entry of e's place set. -/
def setHist (s : State) (e v : Nat) : State := tput s 0x1B 0 (e % 64) v

def hiDigest (h : Nat) : Nat := bits h 383 320
def hiValid (h : Nat) : Bool := bit h 55
def hiFast (h : Nat) : Bool := bit h 54
def hiTaint (h : Nat) : Bool := bit h 53
def hiPeerSeen (h : Nat) : Bool := bit h 52
def hiEpoch (h : Nat) : Nat := bits h 47 0
def hiAttempt (h : Nat) : Nat := bits h 263 256

/-- DIG_NEWEST: the newest valid entry's epoch. -/
def noteNewest (s : State) : State :=
  let es := ((List.range 64).map fun i => tget s 0x1B 0 i).filter hiValid
  wr s R.DIG_NEWEST ((es.map hiEpoch).foldl max 0)

/-- The record of a failed comparison (R437); x is the peer's list index, or 0x3FFF. -/
def digMismatch (s : State) (e x : Nat) : State :=
  let h := hist s e
  let s := count (setHist s e (setBits h 51 51 1)) C.DIG_MISMATCH
  event s 9 0x0E 0x1B 0 e (x + at' (b2n (hiAttempt h != 0)) 14)

/-- The comparison with an expected digest (R436); entries flagged FAST or TAINT are never compared (R427). -/
def digExpect (s : State) : State :=
  let e := rd s R.DIG_EXP_EPOCH
  let h := hist s e
  if e = 0 ∨ !hiValid h ∨ hiEpoch h ≠ e then s
  else
    let s := wr s R.DIG_EXP_EPOCH 0
    if hiFast h || hiTaint h || hiDigest h == s.cod.expect then s else digMismatch s e 0x3FFF

/-- A complete digest enters the history (R432, R433, R440). -/
def writeHist (s : State) (e : Nat) (cells : List DigCell) (replay : Bool) : State :=
  let old := hist s e
  let s := if hiValid old && !hiPeerSeen old then count s C.DIG_UNCOMPARED else s
  let sum := summaryOf s e
  let fast := !replay && fastMode s e
  let taint := !replay && rd s R.DIG_TAINT_EPOCH != 0 && decide (rd s R.DIG_TAINT_EPOCH ≤ e)
  let h := at' sum 448 + at' (digestOf cells) 320 + at' (min cells.length (2 ^ 32 - 1)) 288 + at' (attemptOf s e) 256 +
    at' (rd s R.TIME_TOD) 192 + at' 1 55 + at' (b2n fast) 54 + at' (b2n taint) 53 + at' (b2n replay) 50 + e
  digExpect (noteNewest (setHist (wr s R.HLT_SUMMARY sum) e h))

/-- Entries of undone epochs become invalid (R434). -/
def invalidateHist (s : State) (target newest : Nat) : State :=
  let s := (List.range 64).foldl (fun s i =>
    let h := tget s 0x1B 0 i
    if decide (target < hiEpoch h) && decide (hiEpoch h ≤ newest) then
      tput s 0x1B 0 i (setBits (setBits (setBits h 55 55 0) 52 52 0) 51 51 0)
    else s) s
  noteNewest s

/-- Whether list position x is the principal or the shadow of this member (R385, R435). -/
def isTwin (s : State) (x : Nat) : Bool :=
  let a := member s (ownIdx s)
  let b := member s x
  memComb a == memComb b && memRank a == memRank b &&
    ((memRole a == 3 && memRole b == 0) || (memRole a == 0 && memRole b == 3))

/-- A digest that a waggle carries is compared with the own entry (R435, R437). -/
def peerDigest (s : State) (x e d : Nat) : State :=
  let h := hist s e
  let c := s.comb
  let rolled := decide (rd s R.TIME_TOD < c.rbUntil) && decide (c.rbLow < e) && decide (e ≤ c.rbHigh)
  if !isTwin s x || !hiValid h || hiEpoch h ≠ e || rolled || hiPeerSeen h then s
  else
    let s := setHist s e (setBits (setBits h 447 384 d) 52 52 1)
    if hiFast h || hiTaint h || hiDigest h == d then s else faultReport (digMismatch s e x) x 5

/-! ## The end of an epoch's updates (R27, R432) -/

/-- A command that updates coded state of epoch e. -/
def updates (s : State) (e raw : Nat) : Bool :=
  match opcodeOf raw, subopOf raw with
  | 0x01, 0 => opd raw 47 0 == e
  | 0x0F, _ => opd raw 47 0 == e
  | 0x03, _ => oClass (dir s (opd raw 18 0)) == clsUnique && opd raw 111 64 == e
  | _, _ => false

/-- The CAP command of an epoch has been fetched on this member (R26). -/
def capFetched (s : State) (x : Epoch) : Bool :=
  x.capIdx != 0 &&
    match findRun s x.capQ (x.capIdx - 1) with
    | some r => opcodeOf r.raw == 5 && r.phase != .done
    | none => false

/-- Every update of an open epoch has finished: its CAP is fetched, no update of it stands fetched and incomplete, and
no cell of it is open (DEDUCED, notes/assumptions/40). -/
def updatesDone (s : State) (e : Nat) : Bool :=
  capFetched s (epochOf s e) &&
    s.queues.all (fun q => q.cmds.all fun r => r.phase == .done || !(wellFormedCmd r.raw && updates s e r.raw)) &&
    s.cod.open_.all fun o => o.epoch != e

/-- The epoch becomes DRAINING and its digest completes, once its updates have finished. -/
def drainCheck (s : State) (e : Nat) : State :=
  match epochRec s e with
  | some x =>
    if x.phase = 0 && updatesDone s e then
      writeHist (setEpoch s { x with phase := 1 }) e (s.cod.digs.filter fun d => d.epoch == e) false
    else s
  | none => s

/-- Both uncapped epochs looked at. -/
def drainChecks (s : State) : State := (uncapped s).foldl drainCheck s

end Sys2Proof.Machine
end

