-- ==== Sys2Proof/Machine/Intake.lean ====
section
/-! DEFINITION. The gradient intake unit (chapter 7): tracking, dense folds, the hash accumulator, DRAIN and COMMIT.
Partial sums, marks and lists are kept in State.intk, not in the workspace's bytes (notes/assumptions/41). -/

namespace Sys2Proof.Machine

/-- The state with the intake unit changed. -/
def setIntk (s : State) (x : Intake) : State := { s with intk := x }

/-- Enabled slices in service: what R206's P counts. -/
def intakeSlices (s : State) : List Nat := (List.range 12).filter fun n => stackOn s n && !rdb s (R.SLC_STAT_OUT n)

/-! ## Tracking (R202) -/

/-- Entries of the tracking table: streams not drained. -/
def tracksOpen (s : State) : List Track := s.intk.track.filter fun t => !t.drained

/-- The entry of a stream in an epoch, drained or not. -/
def trackOf (s : State) (st e : Nat) : Option Track := s.intk.track.find? fun t => t.stream == st && t.epoch == e

/-- The state with an entry stored. -/
def setTrack (s : State) (t : Track) : State :=
  let l := if s.intk.track.any fun u => u.stream == t.stream && u.epoch == t.epoch then
      s.intk.track.map fun u => if u.stream = t.stream ∧ u.epoch = t.epoch then t else u
    else s.intk.track ++ [t]
  let s := setIntk s { s.intk with track := l }
  wr s R.INTK_TRACK_USED (tracksOpen s).length

/-- A new entry. -/
def Track.new (st e : Nat) (sparse : Bool) (lrows cols : Nat) : Track :=
  { stream := st, epoch := e, sparse := sparse, next := 0, drained := false, claimed := [], lrows := lrows, cols := cols,
    folds := [] }

/-- An ACC of the stream runs. -/
def Track.running (t : Track) : Bool := decide (t.next < t.claimed.length)

/-- FAST folds for a row: never in a REPLAY (R439). -/
def fastRow (s : State) (x : RowCtx) : Bool := !x.replay && fastMode s x.epoch

/-- The start of an ACC of micro-batch b: claimed, or it waits or fails. -/
def accClaim (s : State) (x : RowCtx) (st b : Nat) (sparse : Bool) (lrows cols : Nat) : State × IterEnd :=
  let e := x.epoch
  if (tracksOpen s).any fun t => decide (t.epoch < e) then (s, .wait)
  else
    match trackOf s st e with
    | none =>
      if 512 ≤ (tracksOpen s).length then (count s C.INTK_TRACK_WAIT, .wait)
      else
        let t := Track.new st e sparse lrows cols
        if b = 0 ∨ fastRow s x then (setTrack s { t with claimed := [b] }, .done)
        else (count (setTrack s t) C.INTK_ORDER_WAIT, .wait)
    | some t =>
      if t.drained ∨ t.sparse ≠ sparse ∨ t.lrows ≠ lrows ∨ t.cols ≠ cols ∨ t.claimed.contains b then (s, .fail ecDescriptor)
      else if fastRow s x ∨ b = t.next then (setTrack s { t with claimed := t.claimed ++ [b] }, .done)
      else if b < t.next then (s, .fail ecDescriptor)
      else (count s C.INTK_ORDER_WAIT, .wait)

/-- An ACC of a stream completes: the expected index advances. -/
def accDone (s : State) (st e : Nat) : State :=
  match trackOf s st e with
  | some t => setTrack s { t with next := t.next + 1 }
  | none => s

/-- The 128 × 128 block of an intake sum's element. -/
def sumBlock (r c : Nat) : Nat := r / 128 * 2 ^ 20 + c / 128

/-- The place in the fold of micro-batch b at a block of the sum: b itself, or in FAST mode how many have folded there (R97, R203, R220). -/
def accOrdinal (s : State) (x : RowCtx) (st b blk : Nat) : Nat :=
  if fastRow s x then
    match trackOf s st x.epoch with
    | some t => get t.folds blk
    | none => b
  else b

/-- Blocks of the sum have taken one more micro-batch. -/
def noteFolds (s : State) (st e : Nat) (blks : List Nat) : State :=
  match trackOf s st e with
  | some t => setTrack s { t with folds := blks.foldl (fun m b => put m b (get m b + 1)) t.folds }
  | none => s

/-! ## The workspace (R219) -/

/-- Bytes of the division that the registers in force make of each workspace. -/
def wsNeed (s : State) : Nat :=
  4096 * rd s R.INTK_WS_BUNDLES + 4160 * 2 ^ rd s R.INTK_WS_SPILL_LOG2 + 525312 * rd s R.INTK_WS_PROMO

/-- Every slice's workspace is named, of the right kind and as large as its division (R198, R219). -/
def wsOk (s : State) : Bool :=
  (intakeSlices s).all fun n =>
    let o := rd s (R.INTK_WS_OBJ n)
    let e := dir s o
    objValid s o && oClass e == clsScratch && oFmt e == fmtByte && oTier e == 0 && oStk e == 2 ^ n &&
      decide (wsNeed s ≤ oRows e * oCols e)

/-! ## N:M structure of contributions (R204) -/

/-- N and M of a declared structure. -/
def nmNM (nm : Nat) : Nat × Nat := nmOf nm

/-- A group with its overfull contributions made +0, and whether it was overfull. -/
def nmGroup (n : Nat) (g : List Nat) : List Nat × Bool :=
  if n < (g.filter fun v => !isZero v).length then
    ((g.zip (keepNM n g)).map fun p => if p.2 then p.1 else 0, true)
  else (g, false)

/-- A list cut in pieces of m; fuel bounds them. -/
def chunks (m : Nat) : Nat → List Nat → List (List Nat)
  | 0, _ => []
  | f + 1, l => if l = [] then [] else l.take m :: chunks m f (l.drop m)

/-- A row's contributions under a declared structure, and its overfull groups. -/
def nmRow (nm : Nat) (l : List Nat) : List Nat × Nat :=
  if nm = 0 then (l, 0)
  else
    let gs := (chunks (nmNM nm).2 (l.length + 1) l).map (nmGroup (nmNM nm).1)
    (gs.flatMap (·.1), (gs.filter (·.2)).length)

/-! ## ACC_DENSE (R201, R203) -/

/-- The objects ACC_DENSE names are what R198 and R201 ask. -/
def accDenseOk (s : State) (x : RowCtx) : Bool :=
  let a := rsBound s x 0
  let m := rsBound s x 1
  let w := wsBound s x 0
  rsOn x.row == (if rwMask x.row = 4 then [0, 1, 5] else [0, 1]) && wsOn x.row == [0] && rwChain x.row == 0 && wsOk s &&
    slotsBound x.row x.binds.length && (rwMask x.row != 4 || readAdmitted x (rsBound s x 5) 5) &&
    objValid s a.obj && oClass a.e == clsScratch && (oFmt a.e == fmtW16 || oFmt a.e == fmtS32) &&
    objValid s m.obj && oClass m.e == clsScratch && oFmt m.e == fmtS32 && oRows m.e == oRows a.e && oCols m.e == oCols a.e &&
    oSeed m.e != 0 && w.obj == m.obj && w.first == m.first && w.count == m.count && w.mode == m.mode &&
    bits (rwImm x.row) 31 19 == 0 && decide (bits (rwImm x.row) 18 16 ≤ 3)

/-- A contribution of a footprint: element, conditioned value, mask bit. -/
structure Contrib where
  p : Elem
  v : Nat
  m : Bool
  cnt : Bool
  deriving DecidableEq, Repr

/-- The key of an element's N:M group in an area. -/
def areaGroup (e nm : Nat) (p : Elem) : Nat × Nat :=
  if oAxis e then (p.c, p.r / (nmNM nm).2) else (p.r, p.c / (nmNM nm).2)

/-- A footprint's contributions under the declared structure, and its overfull groups (R204). -/
def areaPrune (e nm : Nat) (cs : List Contrib) : List Contrib × Nat :=
  if nm = 0 then (cs, 0)
  else
    let gs := (cs.map fun c => areaGroup e nm c.p).eraseDups
    gs.foldl (fun a g =>
      let mine := a.1.filter fun c => areaGroup e nm c.p == g
      let r := nmGroup (nmNM nm).1 (mine.map (·.v))
      let l := a.1.map fun c =>
        if areaGroup e nm c.p == g then
          { c with v := r.1.getD (mine.findIdx fun d => d.p == c.p) 0 } else c
      (l, a.2 + b2n r.2)) (cs, 0)

/-- ACC_DENSE starts: it claims its micro-batch, after any MOVE of the sum or the area (R202, R222). -/
def accDenseStart (s : State) (th : Nat) : State × IterEnd :=
  let t := thread s th
  let x := rowCtx s th
  let m := rsBound s x 1
  if !accDenseOk s x || !shapeAgrees s t x m then (s, .fail ecDescriptor)
  else if moving s m.obj || moving s (rsBound s x 0).obj then (s, .wait)
  else accClaim s x m.obj (bits (rwImm x.row) 15 0) false 0 0

/-- A fold of the intake sum (R203): the element's put, and its counts: entry, fold. -/
structure Fold where
  put : Put
  entry : Bool
  cvt : Bool
  deriving DecidableEq, Repr

/-- One contribution folded into the sum: the first is written exactly, a later one added and rounded stochastically; a cleared mask bit
leaves the sum, or gives +0 (R203). An old sum that is not finite is a conditioned element too (R75). key: the generator's, when the block
has folded before. DESIGN CHOICE (notes/assumptions/103): the +0 of b = 0 is also that of a bit the row's own MASK clears. -/
def foldDense (s : State) (x : RowCtx) (m : Bound) (key : Bytes) (b : Nat) (c : Contrib) : Fold :=
  let q := streamPos s x m c.p
  let n := accOrdinal s x m.obj b (sumBlock q.1 q.2)
  let at0 (v : Nat) (on : Bool) : Put := { r := q.1, c := q.2, v := 0, code := v, m := on, cnt := false }
  if n = 0 then { put := at0 (if c.m then c.v else 0) true, entry := c.cnt, cvt := false }
  else
    let old := elemRaw s m.obj m.e q.1 q.2
    let co := condition old
    if c.m && !co.clr then
      let o := stochRound (dyAdd (dyOf c.v) (dyOf co.v)) (genWord key x.epoch 1 ((n - 1) % 256) m.obj (q.1 * oCols m.e + q.2))
      { put := at0 o.v true, entry := c.cnt || co.cnt, cvt := o.cnt }
    else { put := at0 old false, entry := c.cnt || (c.m && co.cnt), cvt := false }

/-- One iteration of ACC_DENSE; the last completes the micro-batch. It waits as an update row's iteration does (R114, R170, R197). -/
def accDense (s : State) (th i : Nat) : State × IterEnd :=
  let t := thread s th
  let x := rowCtx s th
  let b := bits (rwImm x.row) 15 0
  let m := rsBound s x 1
  let a := rsBound s x 0
  let fin (s : State) : State := if i + 1 = rwLoop x.row then accDone s m.obj x.epoch else s
  let rel := iterCell s t x.row i
  if x.pace.count ≤ rel then (fin (count s C.SEQ_RANGE), .done)
  else
    let k := x.pace.first + rel
    let x := { x with slice := placeSlice s (cellPlace s x.pace.e k) }
    let ps := footprint s x k
    let busy := othersWrite s th
    let wrp := (gransCells (footGrans s x m ps)).map fun c => (m.obj, c)
    let rdp := (streamCells s x 0 ps).map fun c => (a.obj, c)
    if ps = [] ∨ cellSilent s x ps then (fin s, .done)
    else if sliceStopped s x.slice || movingFor s m.obj then (s, .wait)
    else if wrp.any busy.contains then (count s (C.SLC_CELL_WAIT x.slice), .wait)
    else if rdp.any busy.contains then (s, .wait)
    else
      let f := fetchWhole (wakeSlice s x.slice) th [] fun s => fetchCells s t x i ps
      let s := f.1
      if f.2 ≠ .done then f
      else
        let cs : List Contrib := ps.map fun p =>
          let c := condition (streamValue s x a p)
          let m0 := initMask s x p
          { p := p, v := c.v, m := m0 && !c.clr, cnt := m0 && c.cnt }
        let pr := areaPrune a.e (bits (rwImm x.row) 18 16) cs
        let s := countN s C.INTK_OVERFULL pr.2
        let s := countN s (C.SLC_GRP x.slice) (lineGroups (x.pace.mode = 2) ps)
        let key := rowKey s x (oSeed m.e)
        let fs := pr.1.map (foldDense s x m key b)
        -- the counts go to the slice that receives the result (R79)
        let sl (f : Fold) : Nat := placeSlice s (cellPlace s m.e (elemPlace m.e f.put.r f.put.c).1)
        let s := (fs.filter (·.entry)).foldl (fun s f => count s (C.SLC_CLAMP_ENTRY (sl f))) s
        let s := (fs.filter (·.cvt)).foldl (fun s f => count s (C.SLC_CLAMP (sl f) 0x0F)) s
        let s := noteFolds (writePuts s x m (fs.map (·.put))) m.obj x.epoch ((fs.map fun f => sumBlock f.put.r f.put.c).eraseDups)
        (fin (homeWritten s m.obj x.epoch), .done)

/-! ## Lists (R200, R205) -/

/-- A list whose header passes R200 and whose records fit its object. -/
def listOk (s : State) (o : Nat) : Bool :=
  let e := dir s o
  let h := listHdr (objRange s o 0 64)
  objValid s o && oClass e == clsScratch && oFmt e == fmtByte && decide (64 ≤ oRows e * oCols e) &&
    h.magic == 0x4B33494C && !h.rest && decide (h.nm ≤ 3) && decide (h.fmt ≤ 1) && h.lrows != 0 && h.cols != 0 &&
    decide (h.lrows * h.cols ≤ 2 ^ 36) && objValid s h.idObj && oSeed (dir s h.idObj) != 0 &&
    decide (64 + h.count * recSize h.fmt h.cols ≤ oRows e * oCols e)

/-- Record i of a list: row and values widened, before conditioning. -/
def listRec (s : State) (o : Nat) (h : ListHdr) (i : Nat) : Nat × List Nat :=
  let sz := recSize h.fmt h.cols
  let b := objRange s o (64 + i * sz) sz
  let w := if h.fmt = 0 then 4 else 2
  (leAt b 0 4, (List.range h.cols).map fun c => widen h.fmt (leAt b (8 + c * w) w))

/-! ## The hash accumulator (R206 to R211) -/

/-- A key (R206). -/
def accKey (st row seg : Nat) : Nat := at' st 41 + at' row 17 + seg

def keyStream (k : Nat) : Nat := bits k 59 41
def keyRow (k : Nat) : Nat := bits k 40 17
def keySeg (k : Nat) : Nat := bits k 16 0

/-- The slice that accumulates a key (R206). -/
def keySlice (s : State) (st row seg : Nat) : Nat :=
  let sl := intakeSlices s
  sl.getD (fold 16 4 (at' st 34 + at' (row / 128) 17 + seg) % max 1 sl.length) 0

/-- The slices that accumulate the keys of a stream's rows of cols columns (R206). -/
def keySlices (s : State) (st cols : Nat) (rows : List Nat) : List Nat :=
  (rows.flatMap fun r => (List.range (ceilDiv cols 128)).map fun g => keySlice s st r g).eraseDups

/-- The element groups of a row's segments, each counted in the slice that works on it (R173, R429). -/
def countSegs (s : State) (st row cols : Nat) : State :=
  (List.range (ceilDiv cols 128)).foldl (fun s g =>
    countN s (C.SLC_GRP (keySlice s st row g)) (ceilDiv (min 128 (cols - 128 * g)) 32)) s

/-- The set of a key. -/
def keySet (k : Nat) : Nat := fold 12 5 k

/-- The key as it stands in its slice. -/
def findKey (s : State) (k : Nat) : Option AccKey := s.intk.keys.find? fun a => a.key == k

/-- The state with a key stored. -/
def setKey (s : State) (a : AccKey) : State :=
  let l := if s.intk.keys.any fun b => b.key == a.key then s.intk.keys.map fun b => if b.key = a.key then a else b
    else s.intk.keys ++ [a]
  setIntk s { s.intk with keys := l }

/-- Entries of a slice's accumulator. -/
def entriesOf (s : State) (sl : Nat) : List AccKey := s.intk.keys.filter fun a => a.slice == sl && a.place == 0

/-- The entry a set gives up: smallest OCC, lowest way at equal OCC. -/
def leastOcc : List AccKey → Option AccKey
  | [] => none
  | a :: t =>
    match leastOcc t with
    | none => some a
    | some b => if a.occ < b.occ ∨ (a.occ = b.occ ∧ a.way < b.way) then some a else some b

/-- A free slot of the slice's spill table on a key's probe path. DESIGN CHOICE (notes/assumptions/104): past the table's last slot the
path goes on at slot 0. -/
def spillSlot (s : State) (sl k : Nat) : Option Nat :=
  let lg := rd s R.INTK_WS_SPILL_LOG2
  let used := (s.intk.keys.filter fun a => a.slice == sl && a.place == 1).map (·.bundle)
  let home := fold lg (60 / max 1 lg + 1) k
  ((List.range (used.length + 1)).map fun i => (home + i) % 2 ^ lg).find? fun i => !used.contains i

/-- An entry is spilled; none when the probe path has no free slot (R209, R210). -/
def spillKey (s : State) (a : AccKey) : Option State :=
  (spillSlot s a.slice a.key).map fun i =>
    let s := setKey s { a with place := 1, bundle := i }
    count (setIntk s { s.intk with filter := put s.intk.filter (a.slice * 65536 + fold 16 4 a.key) 1 }) C.INTK_SPILL

/-- The set from which an entry goes when the pool is empty: the key's own, or the next upward that holds one. -/
def spillFrom (s : State) (sl set : Nat) : Option AccKey :=
  (List.range 4096).findSome? fun i =>
    leastOcc ((entriesOf s sl).filter fun a => keySet a.key == (set + i) % 4096)

/-- A way and a bundle for a key, spilling as R209 says; none when a spill finds no slot. -/
def roomFor (s : State) (sl k : Nat) : Option (State × Nat × Nat) :=
  let set := keySet k
  let ways (s : State) := ((entriesOf s sl).filter fun a => keySet a.key == set).map (·.way)
  let freeWay (s : State) := firstBelow 8 fun w => !(ways s).contains w
  let s1 := match freeWay s with
    | some _ => some s
    | none => (leastOcc ((entriesOf s sl).filter fun a => keySet a.key == set)).bind (spillKey s)
  s1.bind fun s =>
    let pool (s : State) := decide ((entriesOf s sl).length < rd s R.INTK_WS_BUNDLES)
    let s2 := if pool s then some s else (spillFrom s sl set).bind (spillKey s)
    s2.map fun s =>
      let bs := (entriesOf s sl).map (·.bundle)
      (s, (freeWay s).getD 0, (firstBelow (bs.length + 1) fun b => !bs.contains b).getD 0)

/-- The promotion of a cell of a stream, if it has one. -/
def promoOf (s : State) (st tile seg : Nat) : Option Promo :=
  s.intk.promos.find? fun p => p.stream == st && p.tile == tile && p.seg == seg

/-- A key made ready to fold: found in place, reloaded from the spill table, or opened. -/
def readyKey (s : State) (st row seg : Nat) : Option (State × AccKey) :=
  let k := accKey st row seg
  let sl := keySlice s st row seg
  match promoOf s st (row / 128) seg with
  | some p =>
    some (s, (findKey s k).getD { key := k, slice := p.slice, place := 2, way := 0, bundle := p.slot, occ := 0, parts := [] })
  | none =>
    match findKey s k with
    | some a =>
      if a.place = 1 then
        (roomFor s a.slice k).map fun r =>
          let a := { a with place := 0, way := r.2.1, bundle := r.2.2 }
          (count (setKey r.1 a) C.INTK_RELOAD, a)
      else some (s, a)
    | none =>
      (roomFor s sl k).map fun r =>
        (r.1, { key := k, slice := sl, place := 0, way := r.2.1, bundle := r.2.2, occ := 0, parts := [] })

/-- Partial p of a key. -/
def partOf (a : AccKey) (p : Nat) : Option (List Nat) := (a.parts.find? fun q => q.1 == p).map (·.2)

/-- A segment of a record folded into its key (R208): values with mask bits, from element index base. -/
def foldSeg (s : State) (x : RowCtx) (st row seg : Nat) (seedB : Bytes) (base : Nat) (vs : List (Nat × Bool)) : Option State :=
  (readyKey s st row seg).map fun r =>
    let s := r.1
    let a := r.2
    let k := a.occ
    let p := k % 8
    match (if k < 8 then none else partOf a p) with
    | none =>
      let l := vs.map fun v => if v.2 then v.1 else 0
      setKey s { a with occ := k + 1, parts := (a.parts.filter fun q => q.1 != p) ++ [(p, l)] }
    | some old =>
      let rs := (List.range vs.length).map fun j =>
        let v := vs.getD j (0, false)
        if v.2 then
          let o := stochRound (dyAdd (dyOf v.1) (dyOf (old.getD j 0))) (genWord seedB x.epoch 1 ((k - 8) % 256) st (base + j))
          (o.v, o.cnt)
        else (old.getD j 0, false)
      let s := countN s (C.SLC_CLAMP a.slice 0x0F) (rs.filter (·.2)).length
      setKey s { a with occ := k + 1, parts := (a.parts.filter fun q => q.1 != p) ++ [(p, rs.map (·.1))] }

/-- Rows of a stream marked touched. -/
def touchedOf (s : State) (st : Nat) : List Nat :=
  ((s.intk.touched.find? fun t => t.1 == st).map (·.2)).getD []

/-- The state with a stream's touched rows stored. -/
def setTouched (s : State) (st : Nat) (l : List Nat) : State :=
  setIntk s { s.intk with touched := (s.intk.touched.filter fun t => t.1 != st) ++ (if l = [] then [] else [(st, l)]) }

/-- A cell is promoted: its keys move to a promotion slot, or INTK_PROMO_FULL counts (R211). -/
def promote (s : State) (st tile seg : Nat) : State :=
  let sl := keySlice s st (tile * 128) seg
  let used := (s.intk.promos.filter fun p => p.slice == sl).map (·.slot)
  match firstBelow (rd s R.INTK_WS_PROMO) fun i => !used.contains i with
  | none => count s C.INTK_PROMO_FULL
  | some i =>
    let mine (a : AccKey) : Bool := keyStream a.key == st && keyRow a.key / 128 == tile && keySeg a.key == seg
    let s := countN s C.INTK_RELOAD (s.intk.keys.filter fun a => mine a && a.place == 1).length
    count (setIntk s { s.intk with
      promos := s.intk.promos ++ [{ stream := st, tile := tile, seg := seg, slot := i, slice := sl }],
      keys := s.intk.keys.map fun a => if mine a then { a with place := 2, way := 0, bundle := i } else a }) C.INTK_PROMOTE

/-- The row of a record is marked; its cells are promoted when it takes their distinct-row count above the
threshold. -/
def markRow (s : State) (st row cols : Nat) : State :=
  let l := touchedOf s st
  if l.contains row then s
  else
    let s := setTouched s st (l ++ [row])
    if (l.filter fun r => r / 128 == row / 128).length = rd s R.INTK_DENSE_THR then
      (List.range (ceilDiv cols 128)).foldl (fun s g => promote s st (row / 128) g) s
    else s

/-- The segments of a record, in order; none when a spill finds no slot. -/
def foldSegs (x : RowCtx) (st row cols : Nat) (seedB : Bytes) (vs : List (Nat × Bool)) : List Nat → State → Option State
  | [], s => some s
  | g :: t, s =>
    match foldSeg s x st row g seedB (row * cols + 128 * g) ((vs.drop (128 * g)).take 128) with
    | some s => foldSegs x st row cols seedB vs t s
    | none => none

/-- The records of a list in order; where one finds no room the state so far. -/
def foldRecs (x : RowCtx) (o : Nat) (h : ListHdr) (seedB : Bytes) : List Nat → State → State × Bool
  | [], s => (s, true)
  | i :: t, s =>
    let r := listRec s o h i
    if h.lrows ≤ r.1 then foldRecs x o h seedB t (count s C.INTK_OOB)
    else
      let cs := r.2.map condition
      let pr := nmRow h.nm (cs.map (·.v))
      let s := countN s C.INTK_OVERFULL pr.2
      let s := (List.range cs.length).foldl (fun s c =>
        if (cs.getD c (Res.plain 0)).cnt then count s (C.SLC_CLAMP_ENTRY (keySlice s h.idObj r.1 (c / 128))) else s) s
      let vs := (pr.1.zip cs).map fun p => (p.1, !p.2.clr)
      let s := markRow (countSegs s h.idObj r.1 h.cols) h.idObj r.1 h.cols
      match foldSegs x h.idObj r.1 h.cols seedB vs (List.range (ceilDiv h.cols 128)) s with
      | some s => foldRecs x o h seedB t s
      | none => (s, false)

/-- LOOP 1, MASK 0 and no chain, as R201 asks of the single-iteration micro-operations. -/
def singleRow (x : RowCtx) : Bool := rwLoop x.row == 1 && rwMask x.row == 0 && rwChain x.row == 0

/-- The stream slots of a row are bound. -/
def boundRow (x : RowCtx) : Bool := slotsBound x.row x.binds.length

/-- The cells a list's header and records lie in. -/
def listCells (h : ListHdr) : List Nat := List.range ((63 + h.count * recSize h.fmt h.cols) / cellSize + 1)

/-- A list's cells read into the buffers; whether they all stand there. -/
def fetchList (s : State) (th o : Nat) (h : ListHdr) : State × IterEnd :=
  fetchWhole s th [] fun s => (listCells h).foldl (fun s c => cellFetch s th o c) s

/-- ACC_LIST starts: it claims its micro-batch, after any MOVE of the list (R202, R222). -/
def accListStart (s : State) (th : Nat) : State × IterEnd :=
  let x := rowCtx s th
  let o := (rsBound s x 0).obj
  let h := listHdr (objRange s o 0 64)
  if !singleRow x || !boundRow x || rsOn x.row != [0] || wsOn x.row != [] || bits (rwImm x.row) 31 16 != 0 || !listOk s o ||
      !wsOk s then (s, .fail ecDescriptor)
  else if moving s o then (s, .wait)
  else accClaim s x h.idObj (bits (rwImm x.row) 15 0) true h.lrows h.cols

/-- The rows a list's records name. -/
def recRows (s : State) (o : Nat) (h : ListHdr) : List Nat :=
  (List.range h.count).map fun i => leVal (objRange s o (64 + i * recSize h.fmt h.cols) 4)

/-- The slices on whose lanes the records of a list are accumulated (R206). -/
def listSlices (s : State) (o : Nat) (h : ListHdr) : List Nat :=
  keySlices s h.idObj h.cols ((recRows s o h).filter fun r => decide (r < h.lrows))

/-- ACC_LIST: the list is read, and its records fold in order, on the lanes of the slices of their keys, which wake for it (R30, R170). -/
def accList (s : State) (th : Nat) : State × IterEnd :=
  let x := rowCtx s th
  let o := (rsBound s x 0).obj
  let h := listHdr (objRange s o 0 64)
  let g := fetchList s th o h
  let sls := listSlices s o h
  if g.2 ≠ .done then g
  else if sls.any (sliceStopped g.1) then (g.1, .wait)
  else
    let s := g.1
    let f := foldRecs x o h (rowKey s x (oSeed (dir s h.idObj))) (List.range h.count) (sls.foldl wakeSlice s)
    let s := f.1
    if f.2 then (accDone s h.idObj x.epoch, .done)
    else (markUnclean (wr s R.INTK_STAT_WS_FULL 1) x.epoch, .fail ecDescriptor)

/-- The start of an intake row: an ACC claims its micro-batch, the others start at once. -/
def intakeStart (s : State) (th : Nat) : State × IterEnd :=
  match rwUop (rowCtx s th).row with
  | 1 => accDenseStart s th
  | 2 => accListStart s th
  | _ => (s, .done)

/-! ## DRAIN (R202, R212) -/

/-- Numbers in ascending order. -/
def insNat (a : Nat) : List Nat → List Nat
  | [] => [a]
  | b :: t => if a < b then a :: b :: t else b :: insNat a t

/-- Bytes written into a BYTE object from an offset for an epoch, cell by cell. -/
def writeBytes (s : State) (owner ep o off : Nat) (b : Bytes) : State :=
  let c0 := off / cellSize
  (List.range ((off + b.length) / cellSize + 1 - c0)).foldl (fun s i =>
    let lo := max off ((c0 + i) * cellSize)
    let hi := min (off + b.length) ((c0 + i + 1) * cellSize)
    if hi ≤ lo then s else cellWrite s owner ep o (c0 + i) (lo % cellSize) (slice b (lo - off) (hi - lo))) s

/-- A list's header (R200). -/
def hdrBytes (n fmt lrows cols idObj : Nat) : Bytes :=
  leBytes 4 0x4B33494C ++ leBytes 4 n ++ leBytes 4 (at' fmt 24 + lrows) ++ leBytes 4 cols ++ leBytes 4 idObj ++
    List.replicate 44 0

/-- The drained values of one row, with the overflows of the trees by slice (R212). -/
def drainRow (s : State) (st row cols : Nat) : List Nat × List (Nat × Nat) :=
  let segs := (List.range (ceilDiv cols 128)).map fun g =>
    let a := (findKey s (accKey st row g)).getD
      { key := 0, slice := 0, place := 0, way := 0, bundle := 0, occ := 0, parts := [] }
    let n := min 128 (cols - 128 * g)
    let leaves (c : Nat) := (List.range 8).map fun p => (partOf a p).map fun l => l.getD c 0
    ((List.range n).map fun c => (treeSum (leaves c)).getD 0,
     (a.slice, ((List.range n).map fun c => treeCnt 40 (leaves c)).sum))
  (segs.flatMap (·.1), segs.map (·.2))

/-- Everything the accumulator holds of a stream is released (R209, R212). -/
def releaseStream (s : State) (st : Nat) : State :=
  let ks := s.intk.keys.filter fun a => keyStream a.key != st
  let f := (ks.filter fun a => a.place == 1).foldl (fun m a => put m (a.slice * 65536 + fold 16 4 a.key) 1) []
  setTouched (setIntk s { s.intk with keys := ks, filter := f, promos := s.intk.promos.filter fun p => p.stream != st }) st []

/-- DRAIN of a sparse stream writes the drained list, on the lanes of the slices that hold its keys (R30, R170). -/
def drainSparse (s : State) (th : Nat) (x : RowCtx) (h : ListHdr) : State × IterEnd :=
  let st := h.idObj
  let w := wsBound s x 0
  let rows := (touchedOf s st).foldl (fun l r => insNat r l) []
  let sz := recSize 0 h.cols
  let sls := keySlices s st h.cols rows
  if decide (oRows w.e * oCols w.e < 64 + rows.length * sz) then (s, .fail ecDescriptor)
  else if sls.any (sliceStopped s) then (s, .wait)
  else
    let s := writeBytes (sls.foldl wakeSlice s) th x.epoch w.obj 0 (hdrBytes rows.length 0 h.lrows h.cols st)
    let s := (List.range rows.length).foldl (fun s i =>
      let d := drainRow s st (rows.getD i 0) h.cols
      let s := countSegs (d.2.foldl (fun s c => countN s (C.SLC_CLAMP c.1 0x03) c.2) s) st (rows.getD i 0) h.cols
      let b := leBytes 4 (rows.getD i 0) ++ leBytes 4 0 ++ d.1.flatMap (leBytes 4)
      writeBytes s th x.epoch w.obj (64 + i * sz) (slice b 0 sz)) s
    let s := homeWritten (releaseStream s st) w.obj x.epoch
    let t := (trackOf s st x.epoch).getD (Track.new st x.epoch true h.lrows h.cols)
    (setTrack s { t with drained := true }, .done)

/-- DRAIN. DEDUCED (notes/assumptions/105): a stream whose only ACC still waits at its start has an entry, so a dense DRAIN of it succeeds. -/
def drainRowOp (s : State) (th : Nat) : State × IterEnd :=
  let x := rowCtx s th
  let sparse := bit (rwImm x.row) 0
  let a := rsBound s x 0
  let w := wsBound s x 0
  let h := listHdr (objRange s a.obj 0 64)
  let st := if sparse then h.idObj else a.obj
  let shape := singleRow x && boundRow x && rsOn x.row == [0] && bits (rwImm x.row) 31 1 == 0 && wsOk s &&
    (if sparse then wsOn x.row == [0] && listOk s a.obj && objValid s w.obj && oClass w.e == clsScratch && oFmt w.e == fmtByte
     else wsOn x.row == [] && objValid s a.obj && oClass a.e == clsScratch && oFmt a.e == fmtS32 && oSeed a.e != 0)
  if !shape then (s, .fail ecDescriptor)
  else if moving s a.obj || (sparse && moving s w.obj) then (s, .wait)
  else if (tracksOpen s).any fun t => t.stream == st && t.epoch != x.epoch then (s, .fail ecDescriptor)
  else
    match trackOf s st x.epoch with
    | none => if sparse then drainSparse s th x h else (s, .fail ecDescriptor)
    | some t =>
      if t.drained ∨ t.sparse ≠ sparse ∨ (sparse ∧ (t.lrows ≠ h.lrows ∨ t.cols ≠ h.cols)) then (s, .fail ecDescriptor)
      else if t.running then (count s C.INTK_ORDER_WAIT, .wait)
      else if sparse then drainSparse s th x h
      else (setTrack s { t with drained := true }, .done)

/-! ## COMMIT (R214 to R218) -/

/-- Buckets of a map being changed, over the stored ones. -/
abbrev Buckets := List (Nat × Bytes)

/-- Bucket b of map m. -/
def bucket (s : State) (m : Nat) (ov : Buckets) (b : Nat) : Bytes :=
  match ov.find? fun p => p.1 == b with
  | some p => p.2
  | none => cellSlice s m (64 * b / cellSize) (64 * b % cellSize) 64

/-- Entry j of bucket b. -/
def mapEntry (s : State) (m : Nat) (ov : Buckets) (b j : Nat) : Nat := leAt (bucket s m ov b) (16 * j) 16

/-- Entry j of bucket b written. -/
def setEntry (s : State) (m : Nat) (ov : Buckets) (b j v : Nat) : Buckets :=
  (ov.filter fun p => p.1 != b) ++ [(b, overlay (bucket s m ov b) (16 * j) (leBytes 16 v))]

/-- log₂ of a map's buckets. -/
def mapLog (e : Nat) : Nat := (oRows e * oCols e / 64).log2

/-- The scan of R214 from the home bucket: the entry that holds the row, or the first invalid one. fuel bounds it. -/
def mapScan (s : State) (m mb row : Nat) (ov : Buckets) : Nat → Nat → Option (Nat × Nat × Bool)
  | 0, _ => none
  | f + 1, i =>
    let b := (i / 4) % 2 ^ mb
    let j := i % 4
    if b = 0 ∧ j = 0 then mapScan s m mb row ov f (i + 1)
    else
      let v := mapEntry s m ov b j
      if !bit v 127 then some (b, j, false)
      else if bits v 23 0 = row then some (b, j, true)
      else mapScan s m mb row ov f (i + 1)

/-- Buckets that the scan of R214 reads, from the home bucket to the one it ends in. -/
def scanned (mb home : Nat) (hit : Option (Nat × Nat × Bool)) : List Nat :=
  match hit with
  | some (b, _, _) => (List.range ((b + 2 ^ mb - home) % 2 ^ mb + 1)).map fun i => (home + i) % 2 ^ mb
  | none => List.range (2 ^ mb)

/-- What COMMIT has gathered: changed buckets, admitted rows, the first row refused, refusals, rows out of range, and the cells of the map
it has read. -/
structure Walk where
  ov : Buckets
  rows : List (Nat × Nat × Nat)
  first : Option Nat
  refused : Nat
  oob : Nat
  seen : List Nat
  deriving DecidableEq, Repr

/-- One row of the reduced list matched against the map (R215, R216). -/
def walkRow (s : State) (m limit e : Nat) (w : Walk) (row : Nat) : Walk :=
  let mb := mapLog (dir s m)
  let next := bits (mapEntry s m w.ov 0 0) 23 0
  let home := fold mb (24 / max 1 mb + 1) row
  let hit := mapScan s m mb row w.ov (4 * 2 ^ mb) (4 * home)
  let w := { w with seen := w.seen ++ (((scanned mb home hit).map fun b => 64 * b / cellSize).eraseDups.filter fun c => !w.seen.contains c) }
  let refuse : Walk := { w with first := some (w.first.getD row), refused := w.refused + 1 }
  match hit with
  | none => refuse
  | some (b, j, true) =>
    let v := mapEntry s m w.ov b j
    let gap := min 16777216 (e - bits v 119 72)
    { w with ov := setEntry s m w.ov b j (setBits v 119 72 e), rows := w.rows ++ [(row, bits v 47 24, gap)] }
  | some (b, j, false) =>
    if limit ≤ next then refuse
    else
      let ov := setEntry s m w.ov b j (at' 1 127 + at' e 72 + at' next 24 + row)
      { w with ov := setEntry s m ov 0 0 (next + 1), rows := w.rows ++ [(row, next, 0)] }

/-- The associative memory of the slice of a row's home bucket: a hit is counted, the tuple becomes the most recent
(R214). -/
def assocTouch (s : State) (m row : Nat) : State :=
  let e := dir s m
  let b := fold (mapLog e) (24 / max 1 (mapLog e) + 1) row
  let sl := dataSlice s (dataIdx e (64 * b / cellSize))
  let l := s.intk.assoc
  let s := if l.contains (m, row, sl) then count s C.INTK_ASSOC_HIT else s
  let l := (m, row, sl) :: l.filter (· != (m, row, sl))
  let mine := (l.filter fun t => t.2.2 == sl).take 4096
  setIntk s { s.intk with assoc := l.filter fun t => t.2.2 != sl || mine.contains t }

/-- An admitted row put in its place among the others: a touched-row list stands in ascending row (R215). -/
def insTouched (a : Nat × Nat × Nat) : List (Nat × Nat × Nat) → List (Nat × Nat × Nat)
  | [] => [a]
  | b :: t => if a.1 < b.1 then a :: b :: t else b :: insTouched a t

/-- A touched-row list stored in the bank of its epoch's parity. -/
def setList (s : State) (t : TouchList) : State :=
  setIntk s { s.intk with lists := (s.intk.lists.filter fun l => l.epoch % 2 != t.epoch % 2 ||
    (l.epoch == t.epoch && l.map != t.map)) ++ [t] }

/-- A mark stored in the bank of its epoch's parity, joined with the object's mark of the same kind. -/
def setMark (s : State) (m : Mark) : State :=
  let keep := s.intk.marks.filter fun l => l.epoch % 2 != m.epoch % 2 || l.epoch == m.epoch
  match keep.find? fun l => l.epoch == m.epoch && l.obj == m.obj && !l.dense && !m.dense with
  | some l =>
    let rows := l.rows ++ m.rows.filter fun r => !l.rows.contains r
    setIntk s { s.intk with marks := (keep.filter (· != l)) ++ [{ m with rows := rows }] }
  | none => setIntk s { s.intk with marks := keep ++ [m] }

/-- The map's changed buckets written through the coding unit, or in place in a REPLAY. -/
def writeBuckets (s : State) (th : Nat) (x : RowCtx) (m : Nat) (ov : Buckets) : State :=
  let e := dir s m
  let s := ov.foldl (fun s p =>
    let c := 64 * p.1 / cellSize
    let g := p.1 % 1024
    if x.replay then
      if cellSlice s m c (64 * g) 64 = p.2 then s
      else placeWrite (noteReplay s m c) th (cellPlace s e c) (64 * g) p.2
    else writeGran s th (dataIdx e c) g p.2) s
  if x.replay then s else homeWritten (closeThread s th) m x.epoch

/-- What COMMIT on a ROWTRK target finds, given the map's present contents. -/
def commitWalk (s : State) (x : RowCtx) (h : ListHdr) : Walk :=
  let list := (rsBound s x 0).obj
  let rows := recRows s list h
  let ok := rows.filter fun r => decide (r < h.lrows)
  ok.foldl (walkRow s (wsBound s x 0).obj (oRows (rsBound s x 1).e) x.epoch)
    { ov := [], rows := [], first := none, refused := 0, oob := rows.length - ok.length, seen := [0] }

/-- COMMIT on a ROWTRK target: the list and the map cells its scans read are fetched, decoded for a kept rank and checked, then the
changed buckets are written (R12, R175, R215, R377). -/
def commitMap (s : State) (th : Nat) (x : RowCtx) (h : ListHdr) : State × IterEnd :=
  let list := (rsBound s x 0).obj
  let tgt := rsBound s x 1
  let m := (wsBound s x 0).obj
  let me := dir s m
  let w := commitWalk s x h
  let ds := ((w.ov.map fun p => 64 * p.1 / cellSize).eraseDups).map fun c =>
    (dataIdx me c, (w.ov.filter fun p => 64 * p.1 / cellSize == c).length)
  let rdc := if x.replay then [] else w.seen.map (dataIdx me)
  let kept := wantAll s (rdc.filter isKept)
  let sls := (ds.map fun d => dataSlice s d.1).eraseDups
  if moving s list || movingFor s m || sls.any (sliceStopped s) then (s, .wait)
  else if !x.replay && ds.any fun d => openElsewhere s th d.1 then (count s (C.SLC_CELL_WAIT (dataSlice s (dataIdx me 0))), .wait)
  else if rdc.any (openElsewhere s th) then (s, .wait)
  else if rdc.any (dataMissing s) then (pullData s th rdc, .wait)
  else if rdc.any (keptGone s) then (s, .fail 0x0D)
  else if !kept.2 then (kept.1, .wait)
  else
    let f := fetchWhole s th rdc fun s =>
      w.seen.foldl (fun s c => cellFetch s th m c) ((listCells h).foldl (fun s c => cellFetch s th list c) s)
    let s := f.1
    if f.2 ≠ .done then f
    else
      match (if x.replay then .inl (some s) else reserveAll th (thread s th).visits x.epoch ds s) with
      | .inr (s, d) => (logStall s th d x.epoch, .wait)
      | .inl none => (s, .wait)
      | .inl (some s) =>
        let s := (w.rows.map (·.1)).foldl (fun s r => assocTouch s m r) (sls.foldl wakeSlice s)
        let s := writeBuckets s th x m w.ov
        let s := setList (countN (countN s C.INTK_OOB w.oob) C.INTK_MAP_FULL w.refused)
          { epoch := x.epoch, map := m, rows := w.rows.foldl (fun l r => insTouched r l) [] }
        match w.first with
        | some r =>
          if s.intk.refused.contains (tgt.obj, x.epoch) then (s, .done)
          else
            let s := setIntk s { s.intk with refused := s.intk.refused ++ [(tgt.obj, x.epoch)] }
            (unitError s ecDescriptor 0x0C tgt.obj r, .done)
        | none => (s, .done)

/-- COMMIT on a target without ROWTRK scatters the list into the reduced gradient (R217), on the lanes of the slices it writes to (R30,
R170). DESIGN CHOICE (notes/assumptions/106): of a record wider than the target, or of a target wider than the records, the columns both
have are written. -/
def commitScatter (s : State) (th : Nat) (x : RowCtx) (h : ListHdr) : State × IterEnd :=
  let list := (rsBound s x 0).obj
  let tgt := rsBound s x 1
  let w := wsBound s x 0
  let width := min h.cols (oCols tgt.e)
  let sliceAt (r c : Nat) : Nat := placeSlice s (cellPlace s w.e (elemPlace w.e r c).1)
  let sls := (((recRows s list h).filter fun r => decide (r < oRows tgt.e) && decide (r < h.lrows)).flatMap fun r =>
    (List.range (ceilDiv width 128)).map fun g => sliceAt r (128 * g)).eraseDups
  if moving s list || movingFor s w.obj then (s, .wait)
  else
    let f := fetchList s th list h
    if f.2 ≠ .done then f
    else if sls.any (sliceStopped f.1) then (f.1, .wait)
    else
      let s := sls.foldl wakeSlice f.1
      let recs := (List.range h.count).map fun i => listRec s list h i
      let ok := recs.filter fun r => decide (r.1 < oRows tgt.e) && decide (r.1 < h.lrows)
      let s := countN s C.INTK_OOB (recs.length - ok.length)
      let s := ok.foldl (fun s r =>
        let cols := List.range width
        let val (c : Nat) : Res := condition (r.2.getD c 0)
        let puts : List Put := cols.map fun c => { r := r.1, c := c, v := 0, code := (toW16 (val c).v).v, m := true, cnt := (toW16 (val c).v).cnt }
        -- the counts go to the slice that receives the result (R79)
        let s := cols.foldl (fun s c =>
          countKinds s (sliceAt r.1 c) ((if (val c).cnt then [0] else []) ++ (if (toW16 (val c).v).cnt then [0x0F] else []))) s
        let s := (List.range (ceilDiv width 128)).foldl (fun s g =>
          countN s (C.SLC_GRP (sliceAt r.1 (128 * g))) (ceilDiv (min 128 (width - 128 * g)) 32)) s
        writePuts s x w puts) s
      let s := if ok = [] then s else noteWrote (homeWritten s w.obj x.epoch) x.epoch w.obj
      (setMark s { epoch := x.epoch, obj := w.obj, dense := false, first := 0, count := 0, rows := (ok.map (·.1)).eraseDups }, .done)

/-- COMMIT. -/
def commitOp (s : State) (th : Nat) : State × IterEnd :=
  let x := rowCtx s th
  let a := rsBound s x 0
  let tgt := rsBound s x 1
  let w := wsBound s x 0
  let h := listHdr (objRange s a.obj 0 64)
  let trk := oRowTrk tgt.e
  let shape := singleRow x && boundRow x && rwImm x.row == 0 && wsOn x.row == [0] && listOk s a.obj && h.fmt == 1 &&
    objValid s tgt.obj && oClass tgt.e == clsUnique && wsOk s &&
    (if trk then
       let r := rsBound s x 2
       rsOn x.row == [0, 1, 2] && w.obj == oComp tgt.e && mapShape w.e && r.obj == w.obj && r.first == w.first && r.count == w.count &&
         r.mode == w.mode
     else
       rsOn x.row == [0, 1] && objValid s w.obj && oClass w.e == clsScratch && oFmt w.e == fmtW16 &&
         oRows w.e == oRows tgt.e && oCols w.e == oCols tgt.e)
  if !shape then (s, .fail ecDescriptor)
  else if trk then commitMap s th x h
  else commitScatter s th x h

/-! ## Discarding an epoch's intake (R221) -/

/-- What the intake unit holds of epochs above a target is discarded. -/
def intakeDiscard (s : State) (target : Nat) : State :=
  let gone := (s.intk.track.filter fun t => decide (target < t.epoch) && t.sparse).map (·.stream)
  let s := gone.foldl releaseStream s
  let s := setIntk s { s.intk with
    track := s.intk.track.filter fun t => decide (t.epoch ≤ target),
    lists := s.intk.lists.filter fun t => decide (t.epoch ≤ target),
    marks := s.intk.marks.filter fun t => decide (t.epoch ≤ target),
    refused := s.intk.refused.filter fun t => decide (t.2 ≤ target) }
  wr s R.INTK_TRACK_USED (tracksOpen s).length

end Sys2Proof.Machine
end

