-- ==== Sys2Proof/Machine/Relocate.lean ====
section
/-! DEFINITION. Relocation off a stack: what starts it, and the slots it moves in order (R398, R401, R402). -/

namespace Sys2Proof.Machine

/-- The state with the health unit changed. -/
def setHl (s : State) (x : Health) : State := { s with hl := x }

/-- Slots of a region of stack st, ascending. -/
def regionSlots (r : Region) : List Nat := (List.range r.2).map (r.1 + ·)

/-- The block-private slots of stack st in the order they are relocated: ledger, parity, data, SCALE mirror, hive object
(R401). -/
def migSlots (s : State) (st : Nat) : List Nat :=
  let k := max 1 (codK s)
  let hive := dir s (rd s R.HIVE_OBJ)
  (if bit (rd s R.CMB_STKMASK) st then
    regionSlots (rd s R.CMB_LEDGER_BASE, ceilDiv (ledgerBytes s) cellSize) ++
    regionSlots (rd s R.CMB_PAR_BASE, ceilDiv (parCells s) k) ++
    regionSlots (rd s R.CMB_DATA_BASE, ceilDiv (rd s R.CMB_DATA_CELLS) k) ++
    regionSlots (rd s R.CMB_SCALE_BASE, 1 + ceilDiv (64 * cmbN s) k)
  else []) ++
  (if rdb s R.HIVE_CFG_EN then regionSlots (homeOn (oStk hive) (oHome hive) (objCells hive) st) else [])

/-- Valid relocation entries: index and entry. -/
def relocs (s : State) : List (Nat × Nat) :=
  (s.tab.filter fun e => e.1 / 2 ^ 28 == 0x16 * 16 + 1 && bit e.2 63).map fun e => (e.1 % 2 ^ 28, e.2)

/-- A slot of a stack has been relocated. -/
def relocated (s : State) (st slot : Nat) : Bool := (relocs s).any fun e => bits e.2 57 54 == st && bits e.2 41 21 == slot

/-- Stack st's migration begins: nothing done yet. -/
def beginMigrate (s : State) (st : Nat) : State :=
  let n := ((migSlots s st).filter fun x => !relocated s st x).length
  if n = 0 then s
  else
    let s := wr (wr s R.RMAP_MIG_STAT_ACTIVE 1) R.RMAP_MIG_STAT_STK st
    wr (wr (wr s R.RMAP_MIG_STAT_DONE 0) R.RMAP_MIG_STAT_REMAIN n) R.RMAP_STAT_MIG 1

/-- A stack qualifies for migration: it starts, or waits for the one that migrates (R401, R423). -/
def startMigrate (s : State) (st : Nat) : State :=
  if migrating s st || s.hl.migDue.contains st then s
  else if rdb s R.RMAP_MIG_STAT_ACTIVE then setHl s { s.hl with migDue := s.hl.migDue ++ [st] }
  else beginMigrate s st

/-- The migration ends; the next stack that waits begins. -/
def endMigrate (s : State) : State :=
  let s := wr (wr s R.RMAP_MIG_STAT_ACTIVE 0) R.RMAP_STAT_MIG 0
  match s.hl.migDue with
  | [] => s
  | st :: t => beginMigrate (setHl s { s.hl with migDue := t }) st

/-- The tables as mirrored: remap entries, relocation entries, zero fill, CRC-64 (DESIGN CHOICE of the layout,
notes/assumptions/56). -/
def mirrorBytes (s : State) : Bytes :=
  let b := (List.range 96).flatMap (fun i => leBytes 8 (tget s 0x16 0 i)) ++
    (List.range 262144).flatMap fun i => leBytes 8 (tget s 0x16 1 i)
  b ++ leBytes 8 (crc64 b)

/-- Owner of the integrity unit's memory requests. -/
def hlOwner : Nat := 25

/-- Every enabled stack's mirror takes the tables as they stand (R402). -/
def writeMirrors (s : State) : State :=
  let b := mirrorBytes s
  ((List.range 12).filter (stackOn s)).foldl (fun s n =>
    count (memWrite s hlOwner false n (broodBase s n * cellSize) b) C.RMAP_MIRROR_WR) s

/-- A table entry changes: mirrored first, then in force. -/
def setMapEntry (s : State) (table i v : Nat) : State := writeMirrors (tput s 0x16 table i v)

end Sys2Proof.Machine
end

