-- ==== Sys2Proof/Machine/Spares.lean ====
section
/-! DEFINITION. Spare lanes and columns, and the disabled-unit map (R170, R239, R471 to R477). -/

namespace Sys2Proof.Machine

/-- The state with the spares changed. -/
def setSpr (s : State) (x : Spares) : State := { s with spr := x }

/-- The record of a replacement or of a unit disabled for lack of a spare (R475); GEN_SPARE counts the replacements that have
taken effect (DEDUCED, notes/assumptions/57). -/
def spareRec (s : State) (kind idx spare : Nat) (none waits : Bool) : State :=
  let s := if none || waits then s else count s C.GEN_SPARE
  event s 8 0 0x00 0 (kind + at' idx 4) (spare + at' (b2n none) 16 + at' (b2n waits) 17)

/-- GEN_DISABLED with bit i set to b. -/
def setDisabled (s : State) (i : Nat) (b : Bool) : State := wr s R.GEN_DISABLED (setBits (rd s R.GEN_DISABLED) i i (b2n b))

/-- The member has an uncapped epoch open. -/
def anyUncapped (s : State) : Bool := s.cod.epochs.any fun x => x.opened && decide (x.phase < 2) && decide (capped s < x.num)

/-! ## Lanes -/

/-- Failed physical lanes of a slice, as a mask. -/
def badLanes (s : State) (n : Nat) : Nat := get s.spr.laneBad n

/-- Working physical lanes, ascending. -/
def goodLanes (s : State) (n : Nat) : List Nat := (List.range 34).filter fun p => !bit (badLanes s n) p

/-- The physical lane behind logical lane i (R542). -/
def laneOf (s : State) (n i : Nat) : Nat := bits (tget s (0x20 + n) 0 0) (8 * i + 7) (8 * i)

/-- The physical lanes behind the 32 logical ones given by a list. -/
def packLanes (l : List Nat) : Nat := ((List.range 32).map fun i => at' (l.getD i 0) (8 * i)).sum

/-- Logical lanes keep their working lanes, a lane that two shared staying with the first; the others take working lanes that no
logical lane uses, ascending. -/
def fillLanes (good : List Nat) : List Nat → List Nat → List Nat
  | [], _ => []
  | p :: t, free =>
    if good.contains p then p :: fillLanes (good.filter (· != p)) t free
    else free.headD 0 :: fillLanes good t (free.drop 1)

/-- The map of a slice made anew from its working lanes: one lane each with 32 or more; at half rate logical lanes i and
i + 16 share one (DESIGN CHOICE: the manual gives no map for half rate, notes/assumptions/42); below 16 the slice is out
of service, as one disabled before stays (R170). -/
def remapLanes (s : State) (n : Nat) : State :=
  let good := goodLanes s n
  let old := (List.range 32).map (laneOf s n)
  let s := setDisabled (setDisabled (setDisabled s n (bit (rd s R.GEN_DISABLED) n || decide (good.length < 16))) (12 + n) (decide (16 ≤ good.length) && decide (good.length < 32)))
    (24 + n) (good.length ≤ 32)
  if 32 ≤ good.length then
    tput s (0x20 + n) 0 0 (packLanes (fillLanes good old (good.filter fun p => !old.contains p)))
  else if 16 ≤ good.length then tput s (0x20 + n) 0 0 (packLanes ((List.range 32).map fun i => good.getD (i % 16) 0))
  else startMigrate s n

/-- The record of a lane: the spare that replaces it as fillLanes takes them, or that none remained. -/
def laneRec (s : State) (n p : Nat) (waits : Bool) : State :=
  let good := goodLanes s n
  let old := (List.range 32).map (laneOf s n)
  let spare := (good.filter fun q => !old.contains q).getD ((old.filter fun q => !good.contains q).idxOf p) 0
  spareRec s 1 (34 * n + p) (34 * n + spare) (decide (good.length < 32)) waits

/-- Physical lane p of slice n fails or is marked failed: replaced at once with no epoch uncapped, else at the next cap
(R170, R471). -/
def laneFail (s : State) (n p : Nat) : State :=
  if bit (badLanes s n) p then s
  else
    let s := setSpr s { s.spr with laneBad := put s.spr.laneBad n (badLanes s n + 2 ^ p) }
    let used := ((List.range 32).map (laneOf s n)).contains p
    if !used then setDisabled s (24 + n) ((goodLanes s n).length ≤ 32)
    else if anyUncapped s then
      setSpr (laneRec s n p true) { s.spr with laneDue := s.spr.laneDue.filter (· != n) ++ [n] }
    else remapLanes (laneRec s n p false) n

/-! ## Columns -/

/-- Nothing is due any more for array a. -/
def dropColumns (s : State) (a : Nat) : State :=
  setSpr s { s.spr with colDue := s.spr.colDue.filter fun x => x.1 != a, colWake := s.spr.colWake.filter fun x => x.1 != a }

/-- Column c of array a fails: the array is disabled at once, and its spare comes in at the next cap (R239). -/
def columnFail (s : State) (a c : Nat) : State :=
  let off := bit (rd s R.ROOT_STAT_ARR_OFF) a
  let s := setSpr s { s.spr with colBad := put s.spr.colBad a (get s.spr.colBad a ||| 2 ^ c) }
  let s := count s C.ROOT_ARR_FAULT
  let s := wr s R.ROOT_STAT_ARR_OFF (rd s R.ROOT_STAT_ARR_OFF ||| 2 ^ a)
  let s := unitError s 0x0D 0x0D a c
  if !off && rd s (R.ROOT_COLMAP a) == 128 && !bit (get s.spr.colBad a) 128 then
    setSpr (spareRec s 2 (129 * a + c) (129 * a + 128) false true) { s.spr with colDue := s.spr.colDue ++ [(a, c)] }
  else
    let s := dropColumns s a
    setDisabled (spareRec s 2 (129 * a + c) 0 true false) (37 + a) true

/-- The lane replacements due in slice n take effect (R170). -/
def swapLanes (s : State) (n : Nat) : State :=
  let bad := (List.range 32).filter fun i => bit (badLanes s n) (laneOf s n i)
  remapLanes (bad.foldl (fun s i => laneRec s n (laneOf s n i) false) s) n

/-- The spare column of an array comes in for a failed one (R239). -/
def swapColumn (s : State) (x : Nat × Nat) : State :=
  let s := wr s (R.ROOT_COLMAP x.1) x.2
  let s := wr s R.ROOT_STAT_ARR_OFF (setBits (rd s R.ROOT_STAT_ARR_OFF) x.1 x.1 0)
  setDisabled (spareRec s 2 (129 * x.1 + x.2) (129 * x.1 + 128) false false) (41 + x.1) true

/-- Every replacement that waits for a cap or a wake takes effect. -/
def allSpares (s : State) : State :=
  let s := (s.spr.laneWake ++ s.spr.laneDue.filter fun n => !s.spr.laneWake.contains n).foldl swapLanes s
  let s := (s.spr.colWake ++ s.spr.colDue).foldl swapColumn s
  let s := s.spr.rowDue.foldl (fun s p => spareRec s 0 p 0 false false) s
  setSpr s { s.spr with laneDue := [], colDue := [], laneWake := [], colWake := [], rowDue := [] }

/-- The replacements that wait for a cap take effect; those of a gated domain wait for its wake (R170, R239, R471, R474, R478). An SRAM
row has no KIND in GEN_DIS_REQ and is recorded as kind 0 with its page (DESIGN CHOICE, notes/assumptions/58). -/
def capSpares (s : State) : State :=
  let asleep (d : Nat) : Bool := (domain s d).phase == 0
  let lanes := s.spr.laneWake ++ s.spr.laneDue.filter fun n => asleep (n + 1) && !s.spr.laneWake.contains n
  let cols := s.spr.colWake ++ if asleep 13 then s.spr.colDue else []
  let s := allSpares (setSpr s { s.spr with laneDue := s.spr.laneDue.filter (!lanes.contains ·), laneWake := [],
                                            colDue := if asleep 13 then [] else s.spr.colDue, colWake := [] })
  setSpr s { s.spr with laneWake := lanes, colWake := cols }

/-- What waited for domain d to wake takes effect before its first issue (R478). -/
def wakeSpares (s : State) (d : Nat) : State :=
  let ns := s.spr.laneWake.filter fun n => n + 1 == d
  let s := ns.foldl swapLanes (setSpr s { s.spr with laneWake := s.spr.laneWake.filter fun n => n + 1 != d })
  if d ≠ 13 then s else s.spr.colWake.foldl swapColumn (setSpr s { s.spr with colWake := [] })

end Sys2Proof.Machine
end

