-- ==== Sys2Proof/Machine/Root.lean ====
section
/-! DEFINITION. The root unit (chapter 8, R238 to R246): matrix products, STAT, APPLY and ROOT. -/

namespace Sys2Proof.Machine

/-! ## Matrix products (R240) -/

/-- A matrix as rows of binary32 values, with the clamp events met in forming it. -/
abbrev Mat := List (List Nat)

/-- One chunk: acc := FMA(a, b, acc) over its pairs, with the overflows. -/
def chunkDot : List (Nat × Nat) → Nat × Nat → Nat × Nat
  | [], acc => acc
  | (a, b) :: t, acc =>
    let r := fFma a b acc.1
    chunkDot t (r.v, acc.2 + b2n r.cnt)

/-- Chunks of 128 pairs; fuel bounds them. -/
def dotChunks : Nat → List (Nat × Nat) → List (Nat × Nat)
  | 0, _ => []
  | f + 1, l => if l = [] then [] else chunkDot (l.take 128) (0, 0) :: dotChunks f (l.drop 128)

/-- One element of a product: the canonical tree over the chunk results. -/
def dot (a b : List Nat) : Nat × Nat :=
  let cs := dotChunks (a.length / 128 + 1) (a.zip b)
  let l := cs.map fun c => some c.1
  ((treeSum l).getD 0, (cs.map (·.2)).sum + treeCnt 40 l)

/-- Column j of a matrix. -/
def column (m : Mat) (j : Nat) : List Nat := m.map fun r => r.getD j 0

/-- The transpose of a matrix with n columns. -/
def transp (m : Mat) (n : Nat) : Mat := (List.range n).map (column m)

/-- Clamp events of a matrix, one number an element in row-major order. -/
abbrev Events := List Nat

/-- The events of two operations whose results go to the same places. -/
def addEvents (a b : Events) : Events := List.zipWith (· + ·) a b

/-- A · B for B with n columns, and each element's clamp events. -/
def matMul (a b : Mat) (n : Nat) : Mat × Events :=
  let cols := transp b n
  let r := a.map fun row => cols.map fun c => dot row c
  (r.map fun row => row.map (·.1), r.flatMap fun row => row.map (·.2))

/-- A matrix changed element by element with each element's events. -/
def mapMat (f : Nat → Nat → Nat → Res) (m : Mat) : Mat × Events :=
  let r := (List.range m.length).map fun i => (List.range (m.getD i []).length).map fun j => f i j ((m.getD i []).getD j 0)
  (r.map fun row => row.map (·.v), r.flatMap fun row => row.map fun x => b2n x.cnt)

/-- Rounded to W16 and widened again (R81). -/
def toW (m : Mat) : Mat × Events := mapMat (fun _ _ v => let r := toW16 v; { r with v := ofW16 r.v }) m

/-- Conditioned on entry (R75). -/
def condMat (m : Mat) : Mat × Events := mapMat (fun _ _ v => condition v) m

/-! ## The inverse root (R244) -/

/-- The scalars −1/p and (p+1)/p as exact binary32. -/
def negInvP (p : Nat) : Nat := if p = 2 then 0xBF000000 else if p = 4 then 0xBE800000 else 0xBE000000
def succOverP (p : Nat) : Nat := if p = 2 then 0x3FC00000 else if p = 4 then 0x3FA00000 else 0x3F900000

/-- The diagonal as leaves of a tree. -/
def diag (m : Mat) : List (Option Nat) := (List.range m.length).map fun i => some ((m.getD i []).getD i 0)

/-- The powers of T that an iteration multiplies M by, and the events of forming them. -/
def rootPower (p n : Nat) (t : Mat) : Mat × Events :=
  if p = 2 then (t, List.replicate (n * n) 0)
  else
    let t2 := matMul t t n
    if p = 4 then t2
    else
      let t4 := matMul t2.1 t2.1 n
      (t4.1, addEvents t2.2 t4.2)

/-- One iteration on X and M. -/
def rootStep (p n : Nat) (x m : Mat) : Mat × Mat × Events :=
  let t := mapMat (fun i j v => fFma (negInvP p) v (if i = j then succOverP p else 0)) m
  let x := matMul x t.1 n
  let w := rootPower p n t.1
  let a := matMul w.1 m n
  let b := matMul w.1 a.1 n
  (x.1, b.1, [x.2, w.2, a.2, b.2].foldl addEvents t.2)

/-- k iterations. -/
def rootIter (p n : Nat) : Nat → Mat × Mat × Events → Mat × Mat × Events
  | 0, r => r
  | k + 1, r =>
    let q := rootStep p n r.1 r.2.1
    rootIter p n k (q.1, q.2.1, addEvents r.2.2 q.2.2)

/-- An inverse root: X, its residual, the events by stage kind whose results stand at the places of X, and those of the scalars, which
no slice receives (R79). -/
structure InvRoot where
  x : Mat
  resid : Nat
  events : List (Nat × Events)
  scalars : List (Nat × Nat)
  deriving DecidableEq, Repr

/-- The inverse p-th root of a statistic with its residual and clamp events (R244). -/
def invRoot (p iter er : Nat) (a : Mat) : InvRoot :=
  let n := a.length
  let tau0 := (treeSum (diag a)).getD 0
  let rho := fMul er tau0
  let b := mapMat (fun i j v => if i = j then fAdd v rho.v else Res.plain v) a
  let tau := (treeSum (diag b.1)).getD 0
  let rc := fRecip tau
  let m := mapMat (fun _ _ v => fMul v rc.v) b.1
  let lg := fLog2 tau
  let ex := fMul lg.v (negInvP p)
  let x0 := fExp2 ex.v
  let x : Mat := (List.range n).map fun i => (List.range n).map fun j => if i = j then x0.v else 0
  let r := rootIter p n iter (x, m.1, List.replicate (n * n) 0)
  let dev := mapMat (fun i j v => fAdd v (if i = j then 0xBF800000 else 0)) r.2.1
  { x := r.1,
    resid := (redTree true (dev.1.flatMap fun row => row.map fun v => some (fAbs v))).getD 0,
    events := [(0x01, r.2.2), (0x02, m.2), (0x03, addEvents b.2 dev.2)],
    scalars := [(0x02, b2n rho.cnt + b2n ex.cnt), (0x03, treeCnt 40 (diag a) + treeCnt 40 (diag b.1)),
                (0x07, b2n rc.cnt), (0x0B, b2n lg.cnt), (0x0A, b2n x0.cnt)] }

/-! ## Blocks (R238) -/

/-- A preconditioner block: first row and column in the preconditioned object, its sides, and the first row of its left
statistic. -/
structure PBlock where
  r : Nat
  c : Nat
  nl : Nat
  nq : Nat
  row : Nat
  deriving DecidableEq, Repr

/-- Blocks of a grid with the rows of their statistics, from statistic row t on. -/
def placeBlocks : Nat → List (Nat × Nat × Nat × Nat) → List PBlock
  | _, [] => []
  | t, (r, c, nl, nq) :: l => { r := r, c := c, nl := nl, nq := nq, row := t } :: placeBlocks (t + nl + nq) l

/-- The block grid of an object of so many rows and columns, row-major (R238). -/
def blocksOf (rows cols lblk qblk : Nat) : List PBlock :=
  let hl := 128 * lblk
  let hq := 128 * qblk
  placeBlocks 0 ((List.range (ceilDiv rows hl)).flatMap fun i => (List.range (ceilDiv cols hq)).map fun j =>
    (i * hl, j * hq, min hl (rows - i * hl), min hq (cols - j * hq)))

/-- Rows that a grid's statistics take. -/
def statRows (l : List PBlock) : Nat := (l.map fun b => b.nl + b.nq).sum

/-- LBLK and QBLK of a binding (R228). -/
def lqOf (s : State) (d e : Nat) (replay : Bool) : Nat × Nat :=
  match setFor s e replay with
  | some x => let k := psetOf x.data (oParam d); (bits k 20 16, bits k 28 24)
  | none => (0, 0)

/-- The n × n values of an object from row r0 and column c0. -/
def readMat (s : State) (o r0 c0 n k : Nat) : Mat :=
  let e := dir s o
  (List.range n).map fun i => (List.range k).map fun j => widen (oFmt e) (elemRaw s o e (r0 + i) (c0 + j))

/-- The element places of a matrix stored from row r0 and column c0. -/
def matElems (r0 c0 n k : Nat) : List Elem :=
  (List.range n).flatMap fun i => (List.range k).map fun j => { r := r0 + i, c := c0 + j, slot := 0, gap := 0 }

/-- Cells and granules of an object that elements cover. -/
def elemGrans (e : Nat) (ps : List Elem) : NMap :=
  ps.foldl (fun m p => let a := elemPlace e p.r p.c; put m (a.1 * 1024 + a.2 / 64) 1) []

/-! ## Checks before coded cells are touched (R21, R175, R197) -/

/-- The old contents of the cells an operation of a unit touches can be had: no other row writes one, a lost or kept cell is decoded, a
COMPAT cell stands in its cache. ws and rs are data cells written and read, pl cells of other objects read. -/
def touchCells (s : State) (th sl tenant : Nat) (ws rs : List Nat) (pl : List (Nat × Nat)) : State × IterEnd :=
  let coded := (ws ++ rs).eraseDups
  let kept := wantAll s (coded.filter isKept)
  if ws.any (openElsewhere s th) then (count s (C.SLC_CELL_WAIT sl), .wait)
  else if rs.any (openElsewhere s th) || pl.any (othersWrite s th).contains then (s, .wait)
  else if coded.any (dataMissing s) then (pullData s th coded, .wait)
  else if coded.any (keptGone s) then (s, .fail 0x0D)
  else if !kept.2 then (kept.1, .wait)
  else
    let c := cacheAll th tenant ((pl.filter fun y => oClass (dir s y.1) == clsCompat).eraseDups) s
    (c.1, if c.2 then .done else .wait)

/-- What an operation of a unit writes is reserved, cells given with their granules (R21, R268). -/
def claimCells (s : State) (th visit e : Nat) (ws : List (Nat × Nat)) : State × IterEnd :=
  match reserveAll th visit e ws s with
  | .inr (s, d) => (logStall s th d e, .wait)
  | .inl none => (s, .wait)
  | .inl (some s) => (s, .done)

/-- Events counted in the counters of a stage kind, each in the slice whose stack holds the element's cell (R79, R240). -/
def countAt (kind : Nat) (e : Nat) (s : State) : List (Elem × Nat) → State
  | [] => s
  | (p, n) :: t =>
    let sl := placeSlice s (cellPlace s e (elemPlace e p.r p.c).1)
    let s := if n = 0 then s else countN s (if kind = 0 then C.SLC_CLAMP_ENTRY sl else C.SLC_CLAMP sl kind) n
    countAt kind e s t

/-! ## STAT and APPLY rows (R241 to R243) -/

/-- What R241 asks of a UNIT 2 row. -/
def rootRowOk (s : State) (th : Nat) : Bool :=
  let t := thread s th
  let x := rowCtx s th
  let a := rsBound s x 0
  let g := rsBound s x 1
  let w := wsBound s x 0
  let lq := lqOf s a.e t.epoch t.replay
  let bs := blocksOf (oRows g.e) (oCols g.e) lq.1 lq.2
  slotsBound x.row t.binds.length && rsOn x.row == [0, 1, 5] && wsOn x.row == [0] && rwChain x.row == 0 &&
    stMode (rwRs x.row 5) == 1 && stSlot (rwRs x.row 5) == stSlot (rwWs x.row 0) &&
    objValid s a.obj && objValid s g.obj && objValid s w.obj && oRule a.e == 4 && bindingOk s a.e t.epoch t.replay &&
    oFmt a.e == fmtS32 && oClass a.e == clsUnique && oCols a.e == 128 * max lq.1 lq.2 && oFmt g.e == fmtW16 &&
    oRows g.e % 128 == 0 && oCols g.e % 128 == 0 && decide (statRows bs ≤ oRows a.e) && oFmt w.e == fmtS32 &&
    (if rwUop x.row = 1 then
       w.obj == a.obj && w.first == a.first && w.count == a.count && w.mode == a.mode && oSeed a.e != 0
     else rwUop x.row == 2 && oClass w.e == clsScratch && oRows w.e == oRows g.e && oCols w.e == oCols g.e)

/-- The block that iteration i addresses, if the grid has it. -/
def rowBlock (s : State) (th i : Nat) : Option PBlock :=
  let t := thread s th
  let x := rowCtx s th
  let lq := lqOf s x.pace.e t.epoch t.replay
  let g := rsBound s x 1
  (blocksOf (oRows g.e) (oCols g.e) lq.1 lq.2)[iterCell s t x.row i]?

/-- The places of a block's two statistics. -/
def blockElems (b : PBlock) : List Elem := matElems b.row 0 b.nl b.nl ++ matElems (b.row + b.nl) 0 b.nq b.nq

/-- MASK 1 on a block: some 128 × 128 block of the marked gradient that it covers is touched (R218, R241). -/
def blockHasTouch (s : State) (x : RowCtx) (b : PBlock) : Bool :=
  match markStream s x with
  | none => false
  | some (y, l) => l.any fun m =>
    (List.range (ceilDiv b.nl 128)).any fun i => (List.range (ceilDiv b.nq 128)).any fun j =>
      blockTouched y.e m (b.r + 128 * i) (b.c + 128 * j)

/-- Values written to elements of an S32 object, with no chain left to run. -/
def putElems (s : State) (x : RowCtx) (w : Bound) (l : List (Elem × Nat)) : State :=
  let puts : List Put := l.map fun p => { r := p.1.r, c := p.1.c, v := 0, code := p.2, m := true, cnt := false }
  let s := (granules (statePieces w.e puts)).foldl (fun s g => writeGranule s x w g) s
  if x.replay || l = [] then s else homeWritten s w.obj x.epoch

/-- Read requests of the cells that elements of an object cover. -/
def readElems (s : State) (owner : Nat) (b : Bound) (ps : List Elem) : State :=
  (gransCells (elemGrans b.e ps)).foldl (fun s c => cellFetch s owner b.obj c) s

/-- The cells of a stream that elements cover: data cells of a UNIQUE object, else cells of the object by name. -/
def elemCells (b : Bound) (ps : List Elem) : List Nat × List (Nat × Nat) :=
  let cs := gransCells (elemGrans b.e ps)
  if oClass b.e = clsUnique then (cs.map (dataIdx b.e), []) else ([], cs.map fun c => (b.obj, c))

/-- Valid vectors of a product of n × k by k × m (R248): one moving vector a row and stationary tile. -/
def vectors (n k m : Nat) : Nat := n * (ceilDiv k 128) * (ceilDiv m 128)

/-- The cells of a row's blocks that no later iteration writes are closed. -/
def closeBlocks (s : State) (th i : Nat) : State :=
  let x := rowCtx s th
  let w := wsBound s x 0
  let later := (List.range (rwLoop x.row - (i + 1))).flatMap fun j =>
    match rowBlock s th (i + 1 + j) with
    | some b => (gransCells (elemGrans w.e (blockElems b))).map (dataIdx w.e)
    | none => []
  (s.cod.open_.filter fun o => o.thread == th && !later.contains o.d).foldl closeCell s

/-- Granules that the row's iterations from i on write in cell c of the statistics object. -/
def rowBlockGrans (s : State) (th c : Nat) : Nat :=
  let x := rowCtx s th
  let w := wsBound s x 0
  let m := (List.range (rwLoop x.row)).foldl (fun m j =>
    match rowBlock s th j with
    | some b => (elemGrans w.e (blockElems b)).foldl (fun m e => put m e.1 1) m
    | none => m) []
  (m.filter fun e => e.1 / 1024 == c).length

/-- One STAT iteration: the Gram products of the block join the statistics, each element rounded once by SR (R242). -/
def statIter (s : State) (th i : Nat) (b : PBlock) : State × IterEnd :=
  let t := thread s th
  let x := rowCtx s th
  let a := rsBound s x 0
  let g := rsBound s x 1
  let w := wsBound s x 0
  let ps := blockElems b
  let cells := gransCells (elemGrans w.e ps)
  let sl := placeSlice s (cellPlace s w.e (cells.headD 0))
  let x := { x with slice := sl }
  if cells.any fun c => decide (c < w.first) || decide (w.first + w.count ≤ c) then (s, .fail ecDescriptor)
  else if sliceStopped s sl then (s, .wait)
  else if movingFor s w.obj then (s, .wait)
  else
    let gs := matElems b.r b.c b.nl b.nq
    let ds := cells.map (dataIdx w.e)
    let gc := elemCells g gs
    let rds := if x.replay then [] else ds ++ gc.1
    let h := touchCells (wakeSlice s sl) th sl (qOf s t.queue).tenant (if x.replay then [] else ds) rds gc.2
    let f := if h.2 ≠ .done then h else
      fetchWhole h.1 th rds fun s => readElems (readElems s th a ps) th g gs
    let c := if f.2 ≠ .done ∨ x.replay then f else
      claimCells f.1 th t.visits t.epoch (cells.map fun c => (dataIdx w.e c, rowBlockGrans s th c))
    let s := c.1
    if c.2 ≠ .done then c
    else
      let gm := condMat (readMat s g.obj b.r b.c b.nl b.nq)
      let gt := transp gm.1 b.nq
      let l := matMul gm.1 gt b.nl
      let q := matMul gt gm.1 b.nq
      let s := countAt 0 g.e s (gs.zip gm.2)
      let s := countAt 0x01 w.e s (ps.zip (l.2 ++ q.2))
      let s := countN s C.ROOT_VEC (vectors b.nl b.nq b.nl + vectors b.nq b.nl b.nq)
      let key := rowKey s x (oSeed w.e)
      let vals := (l.1.flatMap id) ++ (q.1.flatMap id)
      let rs := (ps.zip vals).map fun p =>
        let old := condition (elemRaw s w.obj w.e p.1.r p.1.c)
        let m := initMask s x p.1 && !old.clr
        let o := stochRound (dyAdd (dyMul (dyOf (x.scal.getD 6 0)) (dyOf old.v)) (dyOf p.2))
          (genWord key x.epoch 2 0 w.obj (p.1.r * oCols w.e + p.1.c))
        (p.1, if m then o.v else elemRaw s w.obj w.e p.1.r p.1.c, b2n (old.cnt && initMask s x p.1), b2n (o.cnt && m))
      let s := countAt 0 w.e s (rs.map fun r => (r.1, r.2.2.1))
      let s := countAt 0x0F w.e s (rs.map fun r => (r.1, r.2.2.2))
      let s := countN s (C.SLC_GRP sl) (lineGroups false ps)
      let s := putElems s x w (rs.map fun r => (r.1, r.2.1))
      (if x.replay then s else closeBlocks s th i, .done)

/-- One APPLY iteration: P = (L^(−1/p) · m′) · Q^(−1/p) (R243). -/
def applyIter (s : State) (th : Nat) (b : PBlock) : State × IterEnd :=
  let t := thread s th
  let x := rowCtx s th
  let a := rsBound s x 0
  let g := rsBound s x 1
  let w := wsBound s x 0
  let ps := blockElems b
  let dst := matElems b.r b.c b.nl b.nq
  let sl := placeSlice s (cellPlace s w.e ((gransCells (elemGrans w.e dst)).headD 0))
  let x := { x with slice := sl }
  if (gransCells (elemGrans w.e dst)).any fun c => decide (c < w.first) || decide (w.first + w.count ≤ c) then
    (s, .fail ecDescriptor)
  else if sliceStopped s sl then (s, .wait)
  else if movingFor s w.obj then (s, .wait)
  else
    let ac := elemCells a ps
    let gc := elemCells g dst
    let rds := if x.replay then [] else ac.1 ++ gc.1
    let h := touchCells (wakeSlice s sl) th sl (qOf s t.queue).tenant [] rds (ac.2 ++ gc.2)
    let f := if h.2 ≠ .done then h else fetchWhole h.1 th rds fun s => readElems (readElems s th a ps) th g dst
    let s := f.1
    if f.2 ≠ .done then f
    else
      let lm := condMat (readMat s a.obj b.row 0 b.nl b.nl)
      let qm := condMat (readMat s a.obj (b.row + b.nl) 0 b.nq b.nq)
      let mm := condMat (readMat s g.obj b.r b.c b.nl b.nq)
      let lw := toW lm.1
      let qw := toW qm.1
      let y := matMul lw.1 mm.1 b.nq
      let yw := toW y.1
      let p := matMul yw.1 qw.1 b.nq
      let s := countAt 0 g.e (countAt 0 a.e s (ps.zip (lm.2 ++ qm.2))) (dst.zip mm.2)
      let s := countAt 0x0F w.e (countAt 0x0F a.e s (ps.zip (lw.2 ++ qw.2))) (dst.zip yw.2)
      let s := countAt 0x01 w.e s (dst.zip (addEvents y.2 p.2))
      let s := countN s C.ROOT_VEC (vectors b.nl b.nl b.nq + vectors b.nl b.nq b.nq)
      let s := countN s (C.SLC_GRP sl) (lineGroups false dst)
      let vals := (dst.zip (p.1.flatMap id)).map fun v => (v.1, if initMask s x v.1 then v.2 else 0)
      (putElems s x w vals, .done)

/-- Iteration i of a UNIT 2 row. A block beyond the grid is passed over and counted, as a cell beyond its range is; with
MASK 1 a block without a touched cell issues nothing; nor does any block under MASK 2 or 5 with no marked object bound
(R218). -/
def rootRow (s : State) (th i : Nat) : State × IterEnd :=
  let x := rowCtx s th
  match rowBlock s th i with
  | none => (count s C.SEQ_RANGE, .done)
  | some b =>
    if (rwMask x.row = 1 ∧ !blockHasTouch s x b) ∨ ((rwMask x.row = 2 ∨ rwMask x.row = 5) ∧ (markStream s x).isNone) then
      (s, .done)
    else if rwUop x.row = 1 then statIter (wakeDomain s 13) th i b
    else applyIter (wakeDomain s 13) th b

/-! ## The ROOT command (R244 to R246) -/

/-- A ROOT's statistics in order: index of the block, Q or L, first row and side. Block sides all whole where LBLK and
QBLK are 1; otherwise the grid is Config.rootGrid's (the manual names no source for it, notes/assumptions/43). -/
def rootStats (s : State) (raw : Nat) (replay : Bool) : List (Nat × Bool × Nat × Nat) :=
  let d := dir s (opd raw 66 48)
  let lq := lqOf s d (opd raw 47 0) replay
  let rows := oRows d
  let bs :=
    if lq.1 = 1 ∧ lq.2 = 1 then blocksOf (128 * (rows / 256)) 128 1 1
    else
      let g := Config.rootGrid rows lq.1 lq.2
      blocksOf (128 * g.1) (128 * g.2) lq.1 lq.2
  ((List.range bs.length).flatMap fun k =>
    let b := bs.getD k { r := 0, c := 0, nl := 0, nq := 0, row := 0 }
    [(k, false, b.row, b.nl), (k, true, b.row + b.nl, b.nq)]).filter fun x => decide (x.2.2.1 + x.2.2.2 ≤ rows)

/-- p of a ROOT's P field. -/
def rootP (f : Nat) : Nat := if f = 0 then 2 else if f = 1 then 4 else 8

/-- The checks of a ROOT (R229, R244, R246). -/
def rootOk (s : State) (raw : Nat) (replay : Bool) : Bool :=
  let a := opd raw 66 48
  let d := opd raw 85 67
  let ea := dir s a
  let ed := dir s d
  let big : Nat := ((rootStats s raw replay).map fun x => x.2.2.2).foldl max 0
  let ws := dir s (rd s R.ROOT_WS_OBJ)
  opd raw 95 88 != 0 && opd raw 87 86 != 3 && objValid s a && objValid s d && oClass ea == clsUnique &&
    oClass ed == clsUnique && oFmt ea == fmtS32 && oFmt ed == fmtS32 && oRows ea == oRows ed && oCols ea == oCols ed &&
    oRule ea == 4 && bindingOk s ea (opd raw 47 0) replay &&
    (let lq := lqOf s ea (opd raw 47 0) replay; oCols ea == 128 * max lq.1 lq.2) &&
    (decide (big ≤ 1024) || (objValid s (rd s R.ROOT_WS_OBJ) && oClass ws == clsScratch && oFmt ws == fmtS32 &&
      oTier ws == 0 && decide (6 * big * big ≤ oRows ws * oCols ws)))

/-- The owner and coding thread of the iteration engine. -/
def rootOwner : Nat := 20

/-- How far a ROOT is: the next statistic, whether its reads are out, the largest residual, the statistic that gave it, and how many
exceed ROOT_RESID_WARN as it stood at the start, which stands last. -/
structure RootPos where
  k : Nat
  got : Bool
  worst : Nat
  place : Nat
  above : Nat
  warn : Nat
  deriving DecidableEq, Repr

/-- The residual of one more statistic is taken (R245). -/
def RootPos.take (p : RootPos) (blk : Nat) (isQ : Bool) (resid : Nat) : RootPos :=
  let top := p.k == 0 || fLt p.worst resid
  { p with k := p.k + 1, got := false, worst := if top then resid else p.worst, place := if top then blk + at' (b2n isQ) 31 else p.place,
           above := p.above + b2n (fLt p.warn resid) }

/-- Failing cells of a ROOT become SUSPECT and it waits for their repair, or fails when nothing can repair one (R175). -/
def rootHold (s : State) (p : RootPos) (bad : List Nat) : State × RootPos × IterEnd :=
  let s := bad.foldl suspectData s
  (s, { p with got := false }, if rd s R.CMB_COMB_STATE = 3 ∨ bad.any (repairGone s) then .fail 0x0D else .wait)

/-- The cells of a statistic requested, awaited and checked, and the room for its root reserved (R21, R47, R175, R197). -/
def rootReady (s : State) (e sl : Nat) (p : RootPos) (a d : Bound) (ps : List Elem) : State × RootPos × IterEnd :=
  let gd := elemGrans d.e ps
  let ws := (gransCells gd).map fun c => (dataIdx d.e c, (gd.filter fun g => g.1 / 1024 == c).length)
  let rs := (elemCells a ps).1
  let h := touchCells s rootOwner sl 0 (ws.map (·.1)) rs []
  let s := h.1
  if movingFor s d.obj then (s, p, .wait)
  else if h.2 ≠ .done then (s, p, h.2)
  else
    let known := rs.filter (cellSuspect s)
    if known ≠ [] then rootHold s p known
    else
      let s := if p.got then s else readElems s rootOwner a ps
      let p := { p with got := true }
      if !readsIn s rootOwner then (s, p, .wait)
      else
        let bad := rs.filter fun c => !dataCellOk s c
        if bad ≠ [] then rootHold s p bad
        else
          let c := claimCells s rootOwner p.k e ws
          (c.1, p, c.2)

/-- The statistics left, in order: read, iterated and written to the same place of DST_OBJ, on the lanes of the slice that receives them
(R30, R170). It stops at a statistic whose cells cannot be had yet. -/
def rootGo (raw : Nat) (replay : Bool) : List (Nat × Bool × Nat × Nat) → RootPos → State → State × RootPos × IterEnd
  | [], p, s => (s, p, .done)
  | (blk, isQ, row, n) :: t, p, s =>
    let e := opd raw 47 0
    let ea := dir s (opd raw 66 48)
    let ed := dir s (opd raw 85 67)
    let a : Bound := { mode := 1, obj := opd raw 66 48, first := 0, count := objCells ea, e := ea }
    let d : Bound := { mode := 1, obj := opd raw 85 67, first := 0, count := objCells ed, e := ed }
    let ps := matElems row 0 n n
    let sl := placeSlice s (cellPlace s ed (elemPlace ed row 0).1)
    let c : State × RootPos × IterEnd :=
      if sliceStopped s sl then (s, p, .wait)
      else if replay then
        let s := if p.got then s else readElems (wakeSlice s sl) rootOwner a ps
        (s, { p with got := true }, if readsIn s rootOwner then .done else .wait)
      else rootReady (wakeSlice s sl) e sl p a d ps
    let s := c.1
    if c.2.2 ≠ .done then c
    else
      let m := condMat (readMat s a.obj row 0 n n)
      let sc := (scalarsOf s ea e replay).1
      let q := rootP (opd raw 87 86)
      let r := invRoot q (opd raw 95 88) (sc.getD 7 0) m.1
      let s := countAt 0 ea s (ps.zip m.2)
      let s := r.events.foldl (fun s k => countAt k.1 ed s (ps.zip k.2)) s
      let s := r.scalars.foldl (fun s k => countN s (C.SLC_CLAMP (lowSlice s) k.1) k.2) s
      let s := countN s C.ROOT_VEC ((opd raw 95 88) * (if q = 2 then 3 else if q = 4 then 4 else 5) * vectors n n n)
      let x : RowCtx :=
        { th := rootOwner, visit := p.k, epoch := e, row := 0, chain := 0, binds := [], pace := d, scal := [], slice := sl,
          gather := false, map := 0, replay := replay }
      let s := putElems s x d (ps.zip (r.x.flatMap id))
      let s := if replay then s else closeThread s rootOwner
      rootGo raw replay t (c.2.1.take blk isQ r.resid) s

/-- A ROOT that has treated no statistic. -/
def RootPos.fresh (s : State) : RootPos :=
  { k := 0, got := false, worst := 0, place := 0, above := 0, warn := rd s R.ROOT_RESID_WARN }

/-- A ROOT's place as its command keeps it, and back. aux: 6, then the six numbers. -/
def RootPos.aux (p : RootPos) : List Nat := [6, p.k, b2n p.got, p.worst, p.place, p.above, p.warn]
def RootPos.ofAux (l : List Nat) : RootPos :=
  { k := l.getD 1 0, got := l.getD 2 0 == 1, worst := l.getD 3 0, place := l.getD 4 0, above := l.getD 5 0,
    warn := l.getD 6 0 }

/-- The formation of a ROOT's scalars is counted once (R230). -/
def rootForm (s : State) (raw : Nat) (replay : Bool) : State := noteFormed s (dir s (opd raw 66 48)) (opd raw 47 0) replay

/-- The end of a ROOT (R245). -/
def rootReport (s : State) (p : RootPos) : State :=
  count (wr (wr s R.ROOT_RESID_LAST p.worst) R.ROOT_STAT_ITER_BUSY 0) C.ROOT_CMDS

/-- A failed ROOT frees the iteration engine. -/
def rootFree (s : State) : State := wr (closeThread s rootOwner) R.ROOT_STAT_ITER_BUSY 0

/-- A ROOT has a request at a port that has gone out of service (R50, R197). -/
def rootOut (s : State) : Bool :=
  (List.range 12).any fun n => rdb s (R.SLC_STAT_OUT n) && (mrpOf s n).reqs.any fun r => r.owner == rootOwner

/-- The ROOT's requests at ports out of service go. -/
def rootOffOut (s : State) : State :=
  (List.range 12).foldl (fun s n =>
    if rdb s (R.SLC_STAT_OUT n) then setMrp s n { mrpOf s n with reqs := (mrpOf s n).reqs.filter fun r => r.owner != rootOwner }
    else s) s

/-- The refusal of a ROOT at its start; SET_BAD tells a bad binding (R229). -/
def rootRefuse (s : State) (raw : Nat) (replay : Bool) : State :=
  if bindingOk s (dir s (opd raw 66 48)) (opd raw 47 0) replay then s else wr s R.SCH_STAT_SET_BAD 1

/-- ROOT runs, or goes on where it had to wait. -/
def rootEffect (s : State) (q : Nat) : State :=
  match activeRun s q 0x0F 0 with
  | none => s
  | some r =>
    let fresh := r.phase == .started
    if fresh && !rootOk s r.raw false then finish (rootFree (rootRefuse s r.raw false)) q r.idx ecDescriptor 0 0
    else if rootOut s then finish (rootFree (rootOffOut s)) q r.idx 0x0D 0 0
    else
      let s := if fresh then rootForm (wakeDomain s 13) r.raw false else s
      let p := if fresh then RootPos.fresh s else RootPos.ofAux r.aux
      let g := rootGo r.raw false ((rootStats s r.raw false).drop p.k) p s
      let p := g.2.1
      match g.2.2 with
      | .done =>
        if writesAcked g.1 rootOwner then finish (rootReport g.1 p) q r.idx 0 (p.worst + at' p.place 32) p.above
        else keepRunning g.1 q r.idx p.aux
      | .wait => keepRunning g.1 q r.idx p.aux
      | .fail c => finish (rootFree g.1) q r.idx c 0 0

end Sys2Proof.Machine
end

