-- ==== Sys2Proof/Machine/Tables.lean ====
section
/-! DEFINITION. Step-table and microcode images: the checks at load (R160 to R163, R186, R187). -/

namespace Sys2Proof.Machine

/-! ## Chain words (R186, R187) -/

/-- MODE bits a kind may set (R184). -/
def modeMask (k : Nat) : Nat :=
  match k with
  | 0x01 => 7
  | 0x02 => 1
  | 0x03 => 7
  | 0x0C => 15
  | 0x0D => 1
  | 0x0F => 15
  | 0x10 => 255
  | _ => 0

/-- A CVT with SR. -/
def isSr (x : Nat) : Bool := slKind x == 0x0F && bit (slMode x) 2

/-- A stage slot with EXACT set. -/
def isExact (x : Nat) : Bool := (slKind x == 0x01 || slKind x == 0x03) && bit (slMode x) 2

/-- Operand fields a kind leaves unused hold zero, and used ones name no reserved code nor a slot not below (R185). -/
def slotOperandsOk (c i : Nat) : Bool :=
  let x := chSlot c i
  let n := kindArity (slKind x)
  ([slA x, slB x, slC x].drop n).all (· == 0) && (slotCodes x).all fun o =>
    o != 16 && decide (o ≤ 28) && !(decide (6 ≤ o) && decide (o ≤ 13) && decide (i ≤ o - 6))

/-- MODE of a slot uses no reserved encoding, and an SR conversion is of purpose 0x02 and target S32. -/
def slotModeOk (x : Nat) : Bool :=
  let m := slMode x
  (m &&& modeMask (slKind x)) == m && !(slKind x == 0x0C && decide (6 ≤ bits m 2 0)) &&
    !(slKind x == 0x0F && bits m 1 0 == 3) && !(isSr x && (bits m 1 0 != 0 || !bit m 3))

/-- How often the chain's operands use the output of slot i. -/
def slotUses (c i : Nat) : Nat := ((chCodes c).filter (· == 6 + i)).length

/-- EXACT and SR come in pairs, and nothing else uses the exact output (R85, R187). -/
def pairsOk (c : Nat) : Bool :=
  (List.range 8).all fun i =>
    let x := chSlot c i
    let y := if i = 7 then 0 else chSlot c (i + 1)
    (!isExact x || (isSr y && slA y == 6 + i && slotUses c i == 1)) &&
      (!isSr x || (i != 0 && isExact (chSlot c (i - 1)) && slA x == 5 + i))

/-- A chain word by itself. -/
def chainOk (c : Nat) : Bool :=
  let used := chUsed c
  chValid c && bits c 253 252 == 0 && used == List.range used.length && decide (used.length ≤ 8) &&
    (List.range 8).all (fun i => used.contains i || chSlot c i == 0) &&
    used.all (fun i => decide (slKind (chSlot c i) ≤ 0x11) && slotModeOk (chSlot c i) && slotOperandsOk c i) &&
    pairsOk c && (List.range 4).all (fun k => chWold c k != 6) &&
    (!chDrawRaw c || used.all fun i => slKind (chSlot c i) != 0x10 || slotUses c i == 0)

/-- A chain word against the row that names it. -/
def rowChainOk (r c : Nat) : Bool :=
  let rs := rsOn r
  let used := chUsed c
  let exactOut (i : Nat) : Bool := isExact (chSlot c i)
  let raw (i : Nat) : Bool := chDrawRaw c && slKind (chSlot c i) == 0x10
  (chCodes c).all (fun o => decide (6 ≤ o) || (rs.contains o && !(o == 5 && rwMask r == 4))) &&
    (wsOn r).all (fun k => (chWold c k == 7 || rs.contains (chWold c k)) && used.contains (chWsrc c k) && !exactOut (chWsrc c k)) &&
    (rwMask r != 3 || used.any fun i => slKind (chSlot c i) == 0x0C) &&
    (rwUop r == 1 || (used.contains (chRedSrc c) && !exactOut (chRedSrc c) && !raw (chRedSrc c) &&
      !(chCodes c).contains 26 && !(chCodes c).contains 28))

/-! ## Rows (R158 to R160) -/

/-- Whether UNIT and UOP name a micro-operation. -/
def uopOk (r : Nat) : Bool :=
  match rwUnit r with
  | 0 => true
  | 1 => rwUop r != 0 && decide (rwUop r ≤ 3)
  | 2 => rwUop r != 0 && decide (rwUop r ≤ 2)
  | 3 => rwUop r != 0 && decide (rwUop r ≤ 4)
  | _ => false

/-- One row by itself and with its chain word. -/
def rowLoadOk (rows chains : List Nat) (i : Nat) : Bool :=
  let r := rows.getD i 0
  bits r 255 229 == 0 && bits r 196 195 == 0 && rwLoop r != 0 && decide (rwMask r ≤ 5) && decide (rwWaitKind r ≤ 2) &&
    (rwWaitKind r != 2 || decide (rwWaitUnit r < 8)) && (List.range 4).all (fun k => stMode (rwWs r k) != 3) && uopOk r &&
    (rwEnd r || decide ((if rwRep r then i + 1 else rwNext r) < rows.length)) &&
    (if rwUnit r = 1 then
       decide (rwChain r < chains.length) && chainOk (chains.getD (rwChain r) 0) &&
         rowChainOk r (chains.getD (rwChain r) 0) && (rwMask r != 4 || (rsOn r).contains 5)
     else rwChain r == 0)

/-- A repeat row's body (R159): rows name their own successor, inner repeat rows lie wholly within. -/
def repeatOk (rows : List Nat) (i : Nat) : Bool :=
  let r := rows.getD i 0
  !rwRep r || (rwUnit r == 0 && decide (rwNext r < i) && (List.range (i - rwNext r)).all fun d =>
    let j := rwNext r + d
    let y := rows.getD j 0
    if rwRep y then decide (rwNext r ≤ rwNext y) else rwNext y == j + 1)

/-- Bodies that hold row i: their number bounds the nesting, four at most. -/
def nestDepth (rows : List Nat) (i : Nat) : Nat :=
  ((List.range rows.length).filter fun k =>
    let r := rows.getD k 0
    rwRep r && decide (rwNext r ≤ i) && decide (i < k)).length

/-- The successor walk from row i ends within the fuel. -/
def walkEnds (rows : List Nat) : Nat → Nat → Bool
  | 0, _ => false
  | f + 1, i =>
    let r := rows.getD i 0
    rwEnd r || walkEnds rows f (if rwRep r then i + 1 else rwNext r)

/-- The checks of R160. -/
def tableOk (rows chains : List Nat) : Bool :=
  (List.range rows.length).all fun i =>
    rowLoadOk rows chains i && repeatOk rows i && decide (nestDepth rows i + b2n (rwRep (rows.getD i 0)) ≤ 4) &&
      walkEnds rows (rows.length + 1) i

/-! ## Images (R161, R162) -/

/-- Bytes of an image's body; header fields as they stand. -/
def imgBody (h : Bytes) : Nat := if leAt h 6 2 = 0 then 32 * (leAt h 8 4 + leAt h 12 4) else leAt h 8 4

/-- Step 1 of R162. -/
def imgHdrOk (h : Bytes) (ucode : Bool) : Bool :=
  leAt h 0 4 == 0x4B335442 && leAt h 6 2 == b2n ucode && leAt h 32 32 == 0 &&
    (if ucode then
       leAt h 4 2 == 1 && decide (4096 ≤ leAt h 8 4) && decide (leAt h 8 4 ≤ 262144) && leAt h 8 4 % 64 == 0 &&
         leAt h 12 4 == 0 && leAt h 20 4 == 0
     else
       leAt h 4 2 == 4 && leAt h 8 4 != 0 && decide (leAt h 8 4 ≤ 16384) && decide (leAt h 12 4 ≤ 4096) &&
         decide (leAt h 20 4 ≤ 3))

/-- 256-bit words of a run of bytes. -/
def words32 (n : Nat) (b : Bytes) : List Nat := (List.range n).map fun i => leAt b (32 * i) 32

/-- Steps 2 to 5 of R162 on a header, its body and signature: the error code, or 0. -/
def imgCheck (s : State) (h rest : Bytes) (ucode : Bool) : Nat :=
  let n := imgBody h
  let body := slice rest 0 n
  let sig := slice rest n 64
  let slot := leAt h 20 4
  let key := if ucode then Config.makerKey.toNat else rd s (R.TBL_IKEY slot)
  if crc64 body ≠ leAt h 24 8 then ecDescriptor
  else if !ucode && key == 0 then 0x0A
  else if !edVerify (leBytes 32 key) sig (h ++ body) then 0x0A
  else if ucode && decide (leAt h 16 4 < rd s R.SEQ_UCODE_MIN) then 0x0A
  else if !ucode && !tableOk (words32 (leAt h 8 4) body) (words32 (leAt h 12 4) (body.drop (32 * leAt h 8 4))) then ecDescriptor
  else 0

/-- The store a load fills: the idle table bank, or the idle microcode store. -/
def idleStore (s : State) (ucode : Bool) : Store := if ucode then s.seq.ucIdle else bank s (1 - activeBank s)

/-- The state with the idle store replaced. -/
def setIdle (s : State) (ucode : Bool) (x : Store) : State :=
  if ucode then { s with seq := { s.seq with ucIdle := x } } else setBank s (1 - activeBank s) x

/-- The audit entry of a load's outcome: store, KEY_SLOT, VERSION and BODY_CRC of the header, zero while none has been read
(R492, R493). -/
def loadAudit (s : State) (ucode : Bool) (h : Bytes) (code : Nat) : State :=
  audit s 6 0 0xFFFF 0 code (b2n ucode + at' (leAt h 20 4 % 4) 8 + at' (leAt h 16 4) 32) (leAt h 24 8)

/-- The header a running load has read. -/
def loadHdr (r : Run) : Bytes := leBytes 64 (r.aux.getD 1 0)

/-- A load ends in a failure: the idle store reads EMPTY (R162). -/
def loadFail (s : State) (q i code : Nat) (ucode : Bool) (h : Bytes) : State :=
  let s := loadAudit (count (setIdle (dropGot s q i) ucode Store.empty) C.TBL_LOAD_FAIL) ucode h code
  finish s q i code 0 0

/-- The idle store is LOADING from a load's start on (R163). -/
def takeIdle (s : State) (ucode : Bool) : State := setIdle s ucode { Store.empty with state := 1, keySlot := 15 }

/-- STEP LOAD and STEP UCODE fetch the image's header; aux 10 marks it out, 11 the body and signature, with the header
kept. -/
def loadEffect (s : State) (q : Nat) (ucode : Bool) : State :=
  match activeRun s q 1 (if ucode then 2 else 1) with
  | none => s
  | some r =>
    if r.phase = .running then s
    else
      hostFetch (keepRunning s q r.idx [10]) q r.idx (opd r.raw 45 0 * 64) 64

/-- A load's read data is all back (R162). -/
def loadData (s : State) (q : Nat) (r : Run) (ucode : Bool) : State :=
  let b := gotBytes s q r.idx
  if r.aux.headD 0 = 10 then
    let h := slice b 0 64
    if !imgHdrOk h ucode then loadFail s q r.idx ecDescriptor ucode h
    else
      let s := setIdle (dropGot s q r.idx) ucode { Store.empty with state := 1, keySlot := leAt h 20 4 }
      hostFetch (keepRunning s q r.idx [11, leVal h]) q r.idx (opd r.raw 45 0 * 64 + 64) (imgBody h + 64)
  else
    let h := loadHdr r
    let code := imgCheck s h b ucode
    if code ≠ 0 then loadFail s q r.idx code ucode h
    else
      let slot := leAt h 20 4
      let n := if ucode then leAt h 8 4 / 32 else leAt h 8 4
      let x : Store :=
        { state := 2, version := leAt h 16 4, rows := words32 n b, chains := words32 (leAt h 12 4) (b.drop (32 * n)),
          keySlot := slot, keyAt := if ucode then 0 else rd s (R.TBL_IKEY slot), first := 0, last := 0 }
      finish (loadAudit (count (setIdle (dropGot s q r.idx) ucode x) C.TBL_LOAD_OK) ucode h 0) q r.idx 0 0 0

end Sys2Proof.Machine
end

