-- ==== Sys2Proof/Machine/Member.lean ====
section
/-! DEFINITION. Members of the job: their states, the comb's state, the tree, membership messages, the comb record
(R342 to R355, R380). -/

namespace Sys2Proof.Machine

/-! ## The tree (R279, R352) -/

/-- A position the tree bypasses: excluded, declared lost, or in TEARDOWN. -/
def bypassed (s : State) (x : Nat) : Bool :=
  let e := member s x
  memExcl e || memState e == 5 || memState e == 7 || memState e == 8

/-- The root: the lowest position that is not bypassed. -/
def treeRoot (s : State) : Nat := (firstBelow s.comb.listN fun x => !bypassed s x).getD 0

/-- The nearest ancestor of x that is not bypassed, or the root; fuel bounds the levels. -/
def climb (s : State) : Nat → Nat → Nat
  | 0, _ => treeRoot s
  | f + 1, x =>
    if x = 0 then treeRoot s
    else
      let p := (x - 1) / 8
      if bypassed s p then climb s f p else p

/-- The parent of position x; none for the root. -/
def parentOf (s : State) (x : Nat) : Option Nat :=
  if x = treeRoot s then none else some (climb s 32 x)

/-- The children of position x. -/
def childrenOf (s : State) (x : Nat) : List Nat :=
  (List.range s.comb.listN).filter fun y => !bypassed s y && parentOf s y == some x

/-- The positions of x's subtree, x first; fuel bounds the levels. -/
def subtree (s : State) : Nat → Nat → List Nat
  | 0, x => [x]
  | f + 1, x => x :: (childrenOf s x).flatMap (subtree s f)

/-- Whether this member is the root. -/
def amRoot (s : State) : Bool := treeRoot s == ownIdx s

/-- A message to a position, when a peer entry for it is held (R352). -/
def sendTo (s : State) (x type : Nat) (body : Bytes) : State :=
  let p := memPeer (member s x)
  if p = 0xFFF ∨ !peerValid (peerEntry s p) then s else sendMsg s p type 0 body

/-- A message to every child. -/
def toChildren (s : State) (type : Nat) (body : Bytes) : State :=
  (childrenOf s (ownIdx s)).foldl (fun s y => sendTo s y type body) s

/-- A message to the parent. -/
def toParent (s : State) (type : Nat) (body : Bytes) : State :=
  match parentOf s (ownIdx s) with
  | some p => sendTo s p type body
  | none => s

/-! ## Membership messages (R355) -/

/-- The 16-byte header of a TYPE 0x03 message, and its body. -/
def membMsg (kind idx status arg0 arg1 : Nat) (body : Bytes) : Bytes :=
  leBytes 16 (kind + at' status 16 + at' idx 34 + at' (arg0 % 2 ^ 32) 48 + at' (arg1 % 2 ^ 48) 80) ++ body

/-! ## States of positions and of the comb (R342 to R344) -/

/-- The comb's state (R343). -/
def combStateOf (s : State) : Nat :=
  let st (r : Nat) : Nat := match rankIdx s r with
    | some x => memState (member s x)
    | none => 7
  let rs := List.range (cmbN s)
  let u := (rs.filter fun r => st r == 7 || st r == 5).length
  let b := (rs.filter fun r => st r == 6).length
  if rd s R.CMB_COMB_STATE = 3 then 3
  else if u + b = 0 then 0
  else if cmbM s < u + b then 3
  else if u = 0 then 2
  else 1

/-- Bits [75:72] of a member entry set. -/
def withState (e st : Nat) : Nat := setBits e 75 72 st

/-- The block's own state everywhere it is kept. -/
def setOwnState (s : State) (st : Nat) : State := wr s R.CMB_RANK_STATE st

/-- Position x takes a state: the member table, the block's own state, the comb's state, and the kind 0x05 record when the
position is in the block's comb or is the block (R344). When the comb becomes LOST, the record's STATUS is COMB_LOST
(R374). -/
def memberTo (s : State) (x st : Nat) : State :=
  let old := memState (member s x)
  if old = st then s
  else
    let c0 := rd s R.CMB_COMB_STATE
    let s := tput s 0x0E 0 x (withState (member s x) st)
    let s := if x = ownIdx s then setOwnState s st else s
    let inComb := memRole (member s (ownIdx s)) != 2 && memRole (member s x) != 2 &&
      memComb (member s x) == ownComb s
    let c1 := if inComb && !isAbsent s then combStateOf s else c0
    let s := wr s R.CMB_COMB_STATE c1
    if inComb || x == ownIdx s then
      event s 5 (if c1 = 3 ∧ c0 ≠ 3 then 0x05 else 0) 0x0E 0
        (x + at' old 16 + at' st 20 + at' c0 24 + at' c1 28) (capped s)
    else s

/-! ## The comb record (R380) -/

/-- The record's 64 bytes for a CAPPED and a CAPPING. -/
def combRecord (s : State) (cap capping : Nat) : Bytes :=
  let v := at' (attemptOf s (cap + 2)) 408 + at' (attemptOf s (cap + 1)) 400 + at' capping 352 + at' cap 304 +
    at' (cmbS s) 272 + at' (cmbN s) 264 + at' (cmbM s) 256 + at' (b2n (cmbFixed s)) 248 + at' (cmbRank s) 240 +
    at' (rd s R.CMB_JOB_JOB_TAG) 216 + at' (rd s R.CMB_JOB_MEMB_EPOCH) 200 + 0x4B334352
  let b := leBytes 56 v
  b ++ leBytes 8 (crc64 b)

/-- The named stacks, ascending. -/
def codStacks (s : State) : List Nat := setBitsOf 12 (rd s R.CMB_STKMASK)

/-- The comb record written on every named stack. -/
def writeRecord (s : State) (cap capping : Nat) : State :=
  let b := combRecord s cap capping
  (codStacks s).foldl (fun s st => memWrite s s.cod.owner true st (rd s R.CMB_SCALE_BASE * cellSize) b) s

/-- The comb record as it stands with nothing capping. -/
def refreshRecord (s : State) : State := writeRecord s (capped s) (capped s)

/-- A stored comb record, when its CRC and MAGIC pass. -/
def readRecord (s : State) (st : Nat) : Option Nat :=
  let b := hbRead s st (rd s R.CMB_SCALE_BASE * cellSize) 64
  if leAt b 56 8 = crc64 (b.take 56) ∧ leAt b 0 4 = 0x4B334352 then some (leVal b) else none

def recCapped (r : Nat) : Nat := bits r 351 304
def recCapping (r : Nat) : Nat := bits r 399 352

/-- The valid record with the greatest CAPPING. -/
def bestRecord (s : State) : Option Nat :=
  ((codStacks s).filterMap (readRecord s)).foldl (fun b r =>
    match b with
    | some x => if recCapping x < recCapping r then some r else b
    | none => some r) none

end Sys2Proof.Machine
end

