-- ==== Sys2Proof/Machine/Spine.lean ====
section
/-! DEFINITION. Spine records: forming, staging and writing them (R418 to R421). -/

namespace Sys2Proof.Machine

/-- Bytes padded with zero to a multiple of 8. -/
def pad8 (b : Bytes) : Bytes := b ++ List.replicate ((8 - b.length % 8) % 8) 0

/-- VERSION of the active table, 0 while no bank is active. -/
def tableVer (s : State) : Nat := let x := bank s (activeBank s); if x.state = 4 then x.version else 0

/-- Valid directory entries' ids, ascending. -/
def validObjs (s : State) : List Nat :=
  ((s.tab.filter fun e => e.1 / 2 ^ 28 == 0xA * 16).map fun e => e.1 % 2 ^ 28).filter (objValid s)

/-- DIR_DIGEST (R419). -/
def dirDigest (s : State) : Nat := crc64 ((validObjs s).flatMap fun o => leBytes 32 (dir s o))

/-- Bytes 64 to 127: versions, switch epochs and the disabled-unit map, packed without gaps (DESIGN CHOICE,
notes/assumptions/45). -/
def spineVersions (s : State) : Bytes :=
  slice (leBytes 4 (rd s R.GEN_VER_MINOR + at' (rd s R.GEN_VER_MAJOR) 16) ++ leBytes 2 4 ++ leBytes 4 (tableVer s) ++
    leBytes 4 (rd s R.SEQ_UCODE_VER) ++ leBytes 6 (rd s R.TBL_SW_EPOCH) ++ leBytes 6 (rd s R.SEQ_UCODE_SW_EPOCH) ++
    leBytes 8 (rd s R.GEN_DISABLED)) 0 64

/-- The capped copies of the member's SCALE objects, each with its 8-byte head. -/
def spineScales (s : State) : Bytes :=
  ((validObjs s).filter fun o => oClass (dir s o) == clsScale).flatMap fun o =>
    let n := objBytes (dir s o)
    leBytes 8 (o + at' n 32) ++ pad8 (scaleCopy s o n)

/-- The five sections in order (R419). -/
def spineSections (s : State) : List Bytes :=
  [combRecord s (capped s) (capped s), s.comb.list, spineScales s,
   (List.range 1024).flatMap fun i => leBytes 32 (tget s 2 0 i),
   (List.range 96).flatMap fun i => leBytes 8 (tget s 0x16 0 i)]

/-- Offsets of sections placed one after the other, each on 8 bytes. -/
def spineOffsets : Nat → List Bytes → List Nat
  | _, [] => []
  | o, b :: t => o :: spineOffsets (o + ceilDiv b.length 8 * 8) t

/-- A record's bytes: KIND, SEQ, the capped epoch and the seal image it names. -/
def spineRecord (s : State) (kind seq : Nat) (img : Option SealImg) : Bytes :=
  let ss := spineSections s
  let offs := spineOffsets 256 ss
  let body := slice ((List.range 5).flatMap fun i => leBytes 4 (offs.getD i 0) ++ leBytes 4 (ss.getD i []).length) 0 128 ++
    ss.flatMap pad8
  let len := 128 + body.length
  let named := match img with
    | some i => at' i.half 375 + at' 1 374 + at' i.peer 356 + at' i.epoch 304 + at' i.tcrc 192 + at' i.cells 103
    | none => 0
  let v := at' len 416 + at' seq 384 + at' kind 376 + named + at' (capped s) 256 + at' (dirDigest s) 128 +
    at' (rd s R.CMB_JOB_JOB_TAG) 72 + at' (rd s R.CMB_JOB_MEMB_EPOCH) 56 + at' (cmbRank s) 52 + 0x4B335350
  let rest := spineVersions s ++ body
  let crc := crc64 (leBytes 64 v ++ rest)
  leBytes 64 (v + at' crc 448) ++ rest

/-- Bytes of an NVM slot. -/
def nvmSlot : Nat := 5 * 2 ^ 20

/-- SPN_STAGE_OBJ names a SCRATCH BYTE object of at least 5 MiB on plain HBM (R420). -/
def stageOk (s : State) : Bool :=
  let o := rd s R.SPN_STAGE_OBJ
  let e := dir s o
  objValid s o && oClass e == clsScratch && oFmt e == fmtByte && oTier e == 0 && decide (nvmSlot ≤ oRows e * oCols e)

/-- Bytes written over an object's linear array, cell by cell; fuel bounds the cells. -/
def objStore (s : State) (owner o : Nat) : Nat → Nat → Bytes → State
  | 0, _, _ => s
  | f + 1, off, b =>
    if b = [] then s
    else
      let n := cellSize - off % cellSize
      let s := placeWrite s owner (cellPlace s (dir s o) (off / cellSize)) (off % cellSize) (b.take n)
      objStore s owner o f (off + n) (b.drop n)

/-- A record is staged: its bytes go to the staging object, and its write is due. Nothing is staged with the NVM bad,
without a staging object, or for a record longer than a slot (R420, R423, notes/assumptions/45). -/
def stageRecord (s : State) (kind : Nat) (img : Option SealImg) : State × Bool :=
  let seq := (rd s R.SPN_SEQ + 1) % 2 ^ 32
  let b := spineRecord s kind seq img
  if rdb s R.SPN_STAT_NVM_BAD || !stageOk s || decide (nvmSlot < b.length) || rd s R.SPN_SLOTS == 0 then
    (count s C.SPN_SKIP, false)
  else
    let s := objStore s spineOwner (rd s R.SPN_STAGE_OBJ) 82 0 b
    let s := wr (wr s R.AUD_MIRRORED (rd s R.AUD_SEQ)) R.AUD_STAT_NEAR 0
    (setSpine (wr s R.SPN_STAT_WRITING 1) { s.spine with staged := some (kind, b.length, seq) }, true)

/-- A seal's record that is staged is given up with the seal: no record names its half (R417). -/
def dropSealRecord (s : State) : State :=
  match s.spine.staged with
  | some (1, _, _) => setSpine (wr s R.SPN_STAT_WRITING 0) { s.spine with staged := none }
  | _ => s

/-- The interval record of a cap (R421). -/
def stageInterval (s : State) (e : Nat) : State :=
  let n := rd s R.SPN_INTERVAL
  if n = 0 ∨ e % n ≠ 0 then s
  else if s.spine.staged.isSome then count s C.SPN_SKIP
  else (stageRecord s 0 s.spine.image).1

/-- Slot i's record, when its MAGIC and RCRC pass: the header. -/
def slotRecord (s : State) (i : Nat) : Option Nat :=
  let h := leVal (mread s.nvm (i * nvmSlot) 64)
  let len := bits h 447 416
  if bits h 31 0 ≠ 0x4B335350 ∨ len < 256 ∨ nvmSlot < len then none
  else
    let b := mread s.nvm (i * nvmSlot) len
    if bits h 511 448 = crc64 (leBytes 64 (h % 2 ^ 448) ++ b.drop 64) then some h else none

/-- The slot a record goes to: the lowest without a valid record, else the one with the lowest SEQ (R420). -/
def spineSlot (s : State) : Nat :=
  let n := rd s R.SPN_SLOTS
  match firstBelow n fun i => (slotRecord s i).isNone with
  | some i => i
  | none =>
    let sq (i : Nat) : Nat := bits ((slotRecord s i).getD 0) 415 384
    (List.range n).foldl (fun b i => if sq i < sq b then i else b) 0

/-- NVM bytes written. -/
def nvmWrite (s : State) (a : Nat) (b : Bytes) : State := { s with nvm := mwrite s.nvm a b }

/-- The staged record written to its slot: sectors erased, pages programmed from byte 4,096 on, header sector last
(R420). -/
def writeSpine (s : State) (len seq : Nat) : State :=
  let a := spineSlot s * nvmSlot
  let b := objBytesAt s (rd s R.SPN_STAGE_OBJ) 0 len
  let s := nvmWrite s a (List.replicate (ceilDiv len 4096 * 4096) 0xFF)
  let s := nvmWrite s (a + 4096) (b.drop 4096)
  let s := nvmWrite s a (b.take 4096)
  let f := fresh s
  let s := wr (wr (wr f.2 R.SPN_SEQ seq) R.SPN_LAST_US (Config.spineUs f.1).toNat) R.SPN_STAT_WRITING 0
  count (setSpine s { s.spine with staged := none }) C.SPN_WRITES

end Sys2Proof.Machine
end

