-- ==== Sys2Proof/Machine/Cap.lean ====
section
/-! DEFINITION. Capping an epoch on a member, store switches, and the cap tree (R27, R164, R279 to R282). -/

namespace Sys2Proof.Machine

/-! ## Store switches at a cap (R164) -/

/-- Stores that served up to a capped epoch become EMPTY (R164). -/
def retireStores (s : State) (e : Nat) : State :=
  let out (x : Store) : Store := if x.state = 5 ∧ x.last ≤ e then Store.empty else x
  { s with seq := { s.seq with bankA := out s.seq.bankA, bankB := out s.seq.bankB, ucIdle := out s.seq.ucIdle } }

/-- The armed stores of an epoch switch at its cap: the switch results (R164). -/
def switchArmed (s : State) (e : Nat) : State × Nat :=
  let x := epochOf s e
  let t := x.armTbl && (bank s (1 - activeBank s)).state == 3
  let u := x.armUcode && s.seq.ucIdle.state == 3
  let s := if t then switchTable s (e + 2) true else s
  let s := if u then switchUcode s (e + 2) true else s
  (s, b2n t + 2 * b2n u)

/-! ## What waits for a cap (R104, R425, R508) -/

/-- A held register value takes effect; the requested mode becomes the mode of the epochs from first on. -/
def applyField (s : State) (k v first : Nat) : State :=
  let s := wr s k v
  if k = R.SEQ_MODE_FAST_REQ ∧ v ≠ rd s R.SEQ_MODE_FAST then wr (wr s R.SEQ_MODE_FAST v) R.SEQ_MODE_EPOCH first else s

/-- Every held register value takes effect (R508). -/
def applyHeld (s : State) (first : Nat) : State :=
  let s := s.acc.held.foldl (fun s h => applyField s h.1 (h.2 - 1) first) s
  { s with acc := { s.acc with held := [] } }

/-- The fields of an entry that change only at a cap: SCHED, RULE, PARAM, SEED_ID, NM, CMP, IMG_OK, MAP (R104). -/
def dirAtCap (e new : Nat) : Nat :=
  [(95, 92), (91, 89), (159, 152), (146, 128), (63, 61), (60, 59), (21, 21), (191, 184)].foldl
    (fun e f => setBits e f.1 f.2 (bits new f.1 f.2)) e

/-- Held directory changes take effect (R104). -/
def applyDir (s : State) : State :=
  let s := s.dirHeld.foldl (fun s h => if objValid s h.1 then tput s 0xA 0 h.1 (dirAtCap (dir s h.1) (h.2 - 1)) else s) s
  { s with dirHeld := [] }

/-! ## The U reserve (R273) -/

/-- The reserve is tried; a changed grant is told to every rank (R275). -/
def tryReserve (s : State) (old : Nat) : State :=
  let s := match takeReserve s with
    | some s => s
    | none => s
  if grantOf s = old then wr s R.COD_GRANT old else sendGrants s

/-! ## Leaving after the last cap (R354) -/

/-- Messages toward the tree neighbours but one. -/
def toTree (s : State) (except : Option Nat) (l : List Nat) (b : Bytes) : State :=
  (l.eraseDups.filter fun y => some y != except && y != ownIdx s).foldl (fun s y => sendTo s y 3 b) s

/-- The tree neighbours: parent and children. -/
def treeNear (s : State) : List Nat := (parentOf s (ownIdx s)).toList ++ childrenOf s (ownIdx s)

/-- The other positions of the block's comb that take part. -/
def combOthers (s : State) : List Nat :=
  (List.range s.comb.listN).filter fun x =>
    let e := member s x
    x != ownIdx s && memRole e != 2 && memComb e == ownComb s && !bypassed s x

/-- LEAVE's step 3: LEFT to the comb and the tree neighbours, and TEARDOWN. -/
def teardown (s : State) (q i : Nat) : State :=
  let s := toTree s none (combOthers s ++ treeNear s) (membMsg 5 (ownIdx s) 0 0 (capped s) [])
  let s := setComb s { s.comb with leave := some (q, i, true) }
  memberTo s (ownIdx s) 8

/-- A LEAVE that drains goes on once no epoch is open. -/
def leaveSettle (s : State) : State :=
  match s.comb.leave with
  | some (q, i, false) => if (uncapped s).any (isOpen s) then s else teardown s q i
  | _ => s

/-! ## The cap of one epoch (R27) -/

/-- The CAP command that the member has fetched for an epoch completes (R27). -/
def finishCap (s : State) (x : Epoch) (sw : Nat) : State :=
  match findRun s x.capQ (x.capIdx - 1) with
  | some r => if x.capIdx ≠ 0 ∧ opcodeOf r.raw = 5 then finish s x.capQ r.idx 0 x.num sw else s
  | none => s

/-- The member is in a state in which epochs cap on it. -/
def canCap (s : State) : Bool := [2, 3, 4, 6].contains (memberState s)

/-- A capped-view window read whose degraded reads are out when an epoch caps begins again as a whole, and latches that epoch: what the
other members answer from the cap on is of it (R29; DEDUCED, notes/assumptions/77). -/
def restartDegraded (s : State) (e : Nat) : State :=
  let waits (w : WinRead) : Bool := !bit w.addr 57 && s.hive.degs.any fun d => match d.use with
    | .window id _ => id == w.id
    | _ => false
  let ids := (s.hive.wins.filter waits).map (·.id)
  { s with hive := { s.hive with
      wins := s.hive.wins.map fun w => if waits w then { w with cap := e, old := [], left := 0, bad := false, wait := true } else w,
      degs := s.hive.degs.filter fun d => match d.use with
        | .window id _ => !ids.contains id
        | _ => true } }

/-- What capped-view reads accepted before the cap of an epoch need of it is kept (R27): the granules of queued CELL_READs whose
cells pass their checks, and the records that window reads XOR out. -/
def latchReads (s : State) (e : Nat) : State :=
  let f (h : HomeReq) : HomeReq :=
    let par := bit h.req.off 40
    let c := bits h.req.off 38 10
    let good := if par then decide (c < parCells s) && !parMissing s c && parViewOk s false c
      else decide (c < dMax s) && !dataMissing s c && dataViewOk s c
    if h.req.op = 6 ∧ !bit h.req.off 39 ∧ h.snap.isNone ∧ good then
      { h with snap := some (slice (ownCell s false par c) (64 * bits h.req.off 9 0) 64) }
    else h
  keepOld (restartDegraded { s with hive := { s.hive with home := s.hive.home.map f, waitq := s.hive.waitq.map f } } e) e

/-- The next epoch caps on this member; a RESTORE that completes a begun cap skips what is converted (R27, R282, R380,
R381). -/
def capStep (s : State) (skip : Bool) : State :=
  let e := capped s + 1
  let g0 := grantOf s
  let s := latchReads s e
  let x := epochOf s e
  let s := writeRecord s (capped s) e
  let s := convertCap s e skip
  let s := writeRecord s e e
  let s := capScale s e
  let s := wr s R.CMB_CAPPED e
  let s := stageInterval s e
  let s := releaseEpoch s e
  let s := setCod s { s.cod with
    epochs := s.cod.epochs.filter fun y => decide (e < y.num),
    attempts := dropKeys s.cod.attempts (fun k => decide (k ≤ e)),
    v2segs := s.cod.v2segs.filter fun y => decide (e < y.epoch),
    shares := s.cod.shares.map fun y => if y.uEpoch = e + 2 then { y with uLeft := 0, uEpoch := 0 } else y }
  let s := { s with comb := { s.comb with firstSwitch := false },
                    intk := { s.intk with track := s.intk.track.filter fun t => !(t.drained && decide (t.epoch ≤ e)) } }
  let s := { s with shd := { wrote := s.shd.wrote.filter fun w => decide (e < w.1), sent := s.shd.sent.filter (e < ·),
                             got := s.shd.got.filter fun g => decide (e < g.1), ready := s.shd.ready.filter (e < ·),
                             cells := dropKeys s.shd.cells fun k => decide (k ≤ e) } }
  let s := retireMoves s e
  let s := applyHeld (applyDir s) (e + 2)
  let s := schedLatch s (e + 2)
  let s := retireStores s e
  let sw := switchArmed (setEpoch s { x with num := e }) e
  let s := setCod sw.1 { sw.1.cod with epochs := sw.1.cod.epochs.filter fun y => decide (e < y.num) }
  let s := capSpares s
  let s := finishCap s { x with num := e } sw.2
  let s := event s 2 0 0x0E 0 e 0
  leaveSettle (tryReserve (count s C.CMB_CAPS) g0)

/-- The next epoch caps. -/
def capNext (s : State) : State := capStep s false

/-- A slice whose work is needed on an epoch's cells is out of service (R462). -/
def sliceOutFor (s : State) (p : Nat → Bool) : Bool :=
  (s.cod.segs.any fun g => g.mine s && g.kind < 3 && p g.epoch && rdb s (R.SLC_STAT_OUT g.slice)) ||
    s.cod.undo.any fun u => p u.epoch && rdb s (R.SLC_STAT_OUT u.slice)

/-- n epochs cap in ascending order (R281); a conversion that needs a slice in reset waits for it (R462). -/
def capMany : Nat → State → State
  | 0, s => s
  | n + 1, s =>
    if sliceOutFor s (· == capped s + 1) then setComb s { s.comb with capDue := capped s + n + 1 } else capMany n (capNext s)

/-- The member learns that every epoch up to e is capped. -/
def capTo (s : State) (e : Nat) : State := if canCap s then capMany (e - capped s) s else s

/-- The undo of the uncapped epochs needs a slice in reset (R462). -/
def undoWaits (s : State) : Bool := sliceOutFor s (capped s < ·)

/-! ## The cap tree (R279 to R281) -/

/-- A report's 32 bytes; an announcement is the report of a whole, clean job sent down the tree (DESIGN CHOICE,
notes/assumptions/46). -/
def capReportMsg (e att covered missing firstBad : Nat) (clean : Bool) : Bytes :=
  leBytes 32 (e + at' att 48 + at' (b2n clean) 56 + at' (covered % 2 ^ 16) 64 + at' (missing % 2 ^ 16) 80 +
    at' firstBad 96)

/-- A shadow sends no cap report (R385). -/
def isShadow (s : State) (x : Nat) : Bool := memRole (member s x) == 3

/-- The children whose report a node waits for: those with a subtree that reports. -/
def capChildren (s : State) : List Nat :=
  (childrenOf s (ownIdx s)).filter fun y => (subtree s 6 y).any fun z => !isShadow s z

/-- The reports of an epoch at this node: whether all are in, one is unclean, and the totals. -/
structure CapSum where
  allIn : Bool
  bad : Bool
  covered : Nat
  missing : Nat
  firstBad : Nat
  deriving DecidableEq, Repr

/-- The node's own report and its children's added up. -/
def capSum (s : State) (x : Epoch) : CapSum :=
  let own := x.own == 1
  let ownBad := own && !x.clean
  { allIn := (own || isShadow s (ownIdx s)) && (capChildren s).all fun y => x.reports.any fun r => r.child == y,
    bad := ownBad || x.reports.any fun r => !r.clean,
    covered := b2n own + (x.reports.map (·.covered)).sum,
    missing := (x.reports.map (·.missing)).sum,
    firstBad := x.reports.foldl (fun b r => min b r.firstBad) (if ownBad then ownIdx s else 0x3FFF) }

/-- The root tells its driver that a report is unclean or partial (R280). -/
def rootBad (s : State) (e firstBad : Nat) : State := unitError s 0 0x0E e firstBad

/-- The announcement of the next epoch goes down, and the node caps (R281). -/
def announce (s : State) : State :=
  let e := capped s + 1
  let m := capReportMsg e (attemptOf s e) s.comb.listN 0 0x3FFF true
  capTo (toChildren s 5 m) e

/-- The root announces each epoch whose complete, clean report it holds, in order; fuel bounds the epochs. -/
def announceReady : Nat → State → State
  | 0, s => s
  | f + 1, s =>
    let c := capSum s (epochOf s (capped s + 1))
    if c.allIn && !c.bad && c.missing == 0 && canCap s && decide (s.comb.capDue ≤ capped s) then announceReady f (announce s) else s

/-- A cap that waited for a slice goes on (R462). -/
def capResume (s : State) : State :=
  if s.comb.capDue ≤ capped s then s
  else
    let s := capTo s s.comb.capDue
    if amRoot s then announceReady 3 s else s

/-- A node's report of an epoch goes to its parent, or is judged at the root (R280). told: 1 unclean, 2 partial, 3
complete. -/
def capForward (s : State) (e : Nat) : State :=
  let x := epochOf s e
  let c := capSum s x
  let t := if c.bad then 1 else if !c.allIn then 0 else if c.missing = 0 then 3 else 2
  if amRoot s && t == 3 then announceReady 3 (setEpoch s { x with told := 3 })
  else if t = 0 ∨ t = x.told then s
  else
    let s := setEpoch s { x with told := t }
    if amRoot s then rootBad s e c.firstBad
    else toParent s 5 (capReportMsg e (attemptOf s e) c.covered c.missing c.firstBad (t != 1))

/-- A node's own report becomes ready. -/
def ownReady (s : State) (e : Nat) : State := capForward (setEpoch s { epochOf s e with own := 1 }) e

/-- A child's report arrives, replacing its earlier one. Reports of a capped epoch, of another attempt and of positions
outside the list are dropped. -/
def capReportIn (s : State) (x : Nat) (b : Bytes) : State :=
  let v := leAt b 0 32
  let e := bits v 47 0
  if e ≤ capped s ∨ capped s + 2 < e ∨ bits v 55 48 ≠ attemptOf s e ∨ !canCap s then s
  else
    let ep := epochOf s e
    let r : CapRep := { child := x, clean := bit v 56, covered := bits v 79 64, missing := bits v 95 80,
                        firstBad := bits v 109 96 }
    capForward (setEpoch s { ep with reports := (ep.reports.filter fun y => y.child != x) ++ [r] }) e

/-- CMB_CAP_TMO has passed since the own report was ready: a partial report goes up (R280). -/
def capTimeout (s : State) (e : Nat) : State :=
  let x := epochOf s e
  let c := capSum s x
  if x.own ≠ 1 ∨ c.allIn ∨ e ≤ capped s ∨ !canCap s then s
  else
    let gone := (capChildren s).filter fun y => x.reports.all fun r => r.child != y
    let missing := c.missing + (gone.map fun y => (subtree s 6 y).length).sum
    let fb := gone.foldl min c.firstBad
    let s := setEpoch s { x with told := 2 }
    if amRoot s then rootBad s e fb
    else toParent s 5 (capReportMsg e (attemptOf s e) c.covered missing fb (!c.bad))

/-- An announcement or a waggle tells that e is capped: forwarded to the children, then capped here (R281). -/
def capLearn (s : State) (e : Nat) (forward : Bool) : State :=
  if e ≤ max (capped s) s.comb.capDue ∨ !canCap s then s
  else
    let s := if forward then toChildren s 5 (capReportMsg e (attemptOf s e) s.comb.listN 0 0x3FFF true) else s
    capTo s e

/-! ## CAP (R27, R164) -/

/-- CAP: it has armed its stores as it started, and it runs until its epoch caps on this member. -/
def capEffect (s : State) (q : Nat) : State :=
  match activeRun s q 5 0 with
  | none => s
  | some r => if r.phase = .running then s else keepRunning s q r.idx [opd r.raw 47 0]

end Sys2Proof.Machine
end

