-- ==== Sys2Proof/Machine/Drain.lean ====
section
/-! DEFINITION. The drain: sending segments, applying them at a parity holder, acknowledgements and grants, the
version-2 drain (R271 to R277, R298), and the rows of the cap (chapter 9). -/

namespace Sys2Proof.Machine

/-! ## Holders (R256, R271, R277, R378) -/

/-- The version spoken to a rank or other holder. -/
def rankProto (s : State) (r : Nat) : Nat :=
  match holderPeer s r with
  | some p => peerProto (peerEntry s p)
  | none => 3

/-- The holders a segment goes to, with parity index and data position. A DEGRADED rank gets none (R378); a SCALE segment goes
to every other member of the comb that speaks version 3 (DEDUCED, notes/assumptions/47); a shadow sends none (R385). -/
def segHolders (s : State) (g : Seg) : List (Nat × Nat × Nat) :=
  if isShadow s (ownIdx s) then []
  else if g.kind = 3 then
    ((otherRanks s ++ mirrorHolders s).filter fun r => rankProto s r != 2 && (decide (16 ≤ r) || rankState s r != 5)).map fun r => (r, 0, 0)
  else
    let t := dataStripe (cmbN s) (cmbM s) (cmbFixed s) g.rank g.cell
    let pos := dataPos (cmbN s) (cmbM s) (cmbFixed s) g.rank t
    let hs := parHolders (cmbN s) (cmbM s) (cmbFixed s) t
    ((List.range hs.length).map fun j => (hs.getD j 0, j, pos)).filter fun h => rankState s h.1 != 5

/-- The drain stream a segment belongs to. -/
def segOut (s : State) (g : Seg) : DrainOut := outOf s g.rank (segStream g) g.epoch

/-- The grant in force from a rank (R273, R285). -/
def grantFrom (s : State) (r : Nat) : Nat :=
  if rankProto s r = 2 then capped s + 1 else max (capped s + 1) (get s.cod.granted r - 1)

/-- A segment's bytes with the SEQ of a holder, and SEG_CRC over them. -/
def withSeq (b : Bytes) (n : Nat) : Bytes :=
  let b := b.take 16 ++ leBytes 4 n ++ b.drop 20
  b.take 28 ++ leBytes 4 (segCrc b) ++ b.drop 32

/-- Every own segment of an epoch has been acknowledged by every holder (R276). -/
def allAcked (s : State) (e : Nat) : Bool :=
  (s.cod.segs.filter fun g => g.own && g.epoch == e).all fun g =>
    (segHolders s g).all fun h => decide (holderSeq s g h.1 < get (segOut s g).acked h.1)

/-! ## Applying a segment (R274) -/

/-- The receiving stream of a sender rank, slice and epoch at this attempt. -/
def inOf (s : State) (p rank sl e : Nat) : DrainIn :=
  (s.cod.ins.find? fun i => i.rank == rank && i.slice == sl && i.epoch == e && i.attempt == attemptOf s e).getD
    { peer := p, rank := rank, slice := sl, epoch := e, attempt := attemptOf s e, next := 0, told := 0, waits := [] }

/-- The state with a receiving stream stored. -/
def setIn (s : State) (i : DrainIn) : State :=
  let others := s.cod.ins.filter fun x => !(x.rank == i.rank && x.slice == i.slice && x.epoch == i.epoch &&
    x.attempt == i.attempt)
  setCod s { s.cod with ins := others ++ [i] }

/-- Segments of a stream that are applied with every write acknowledged by the memory ports (R24). -/
def durable (s : State) (i : DrainIn) : Nat :=
  match i.waits.find? fun w => !writesAcked s w.2 with
  | some w => w.1
  | none => i.next

/-- A stream's acknowledged count from a holder rises. -/
def ackRise (s : State) (o : DrainOut) (r n : Nat) : State :=
  if get o.acked r < n then setOut s { o with acked := put o.acked r n, tries := put o.tries r 0 } else s

/-- A receiving stream is the member's own, as keeper (R377). -/
def ownStream (s : State) (i : DrainIn) : Bool := i.peer == memPeer (member s (ownIdx s))

/-- A stream is acknowledged to the peer that sends it, as far as its segments are durable (R24, R275). -/
def ackStream (s : State) (i : DrainIn) : State :=
  let n := durable s i
  if n = 0 then s
  else
    let s := setIn s { i with told := n, waits := i.waits.filter fun w => decide (n ≤ w.1) }
    if ownStream s i then ackRise s (outOf s i.rank i.slice i.epoch) (cmbRank s) n
    else sendMsg s i.peer 8 0 (ackMsg i.epoch i.slice i.attempt (n - 1) (grantOf s) false)

/-- Memory writes have been acknowledged: streams with 64 segments applied since their last acknowledgement send one (R275). -/
def drainAcks (s : State) : State :=
  (s.cod.ins.filter fun i => decide ((if ownStream s i then 1 else 64) ≤ durable s i - i.told)).foldl ackStream s

/-- The coding unit works on a piece of work whose writes it follows by a unit number of their own. -/
def ownWrites (s : State) : State :=
  setCod s { s.cod with owner := 2 ^ 20 + s.cod.serial, serial := s.cod.serial + 1 }

/-- Flits of received segments that wait: those of parked segments, and one for each segment whose parity and undo writes the ports
have not taken yet (R25). -/
def drainBacklog (s : State) : Nat :=
  (s.cod.parked.map fun m => ceilDiv m.2.length 232).sum +
    (s.cod.ins.map fun i => (i.waits.filter fun w => s.mrp.any fun x => x.reqs.any fun r => r.owner == w.2 && !r.issued).length).sum

/-- Owner of the reads of a parity cell's first application. -/
def firstOwner : Nat := 27

/-- Whether a parity cell is being read for its first application, and whether the reads are answered. -/
def firstRead (s : State) (c : Nat) : Option Bool := (s.cod.firsts.find? fun x => x.1 == c).map (·.2)

/-- A parity cell is read whole for its first application (R274 step 5, R389). -/
def readFirst (s : State) (c : Nat) : State :=
  let p := parPlace s c
  memRequest (setCod s { s.cod with firsts := s.cod.firsts ++ [(c, false)] }) firstOwner false false p.1 (p.2 * cellSize) cellSize

/-- The read of a first application is used. -/
def dropFirst (s : State) (c : Nat) : State := setCod s { s.cod with firsts := s.cod.firsts.filter fun x => x.1 != c }

/-- What a holder does with a segment: 0 nothing more, 1 it waits for its parity cell. -/
def segVerdict (s : State) (p : Nat) (pre : Nat) (b : Bytes) : State × Bool :=
  let h := segHdr b
  let rank := bits pre 3 0
  if b.length ≠ 64 * h.len ∨ !segOk b then (count s C.COD_SEG_CRC, false)
  else
    let n := cmbN s
    let m := cmbM s
    let fx := cmbFixed s
    let t := dataStripe n m fx rank h.cell
    let scale := h.kind == 3
    let j := if scale then some 0 else parIndex n m fx (cmbRank s) t
    let pos := if scale then 0 else dataPos n m fx rank t
    if j ≠ some (bits pre 5 4) ∨ pos ≠ bits pre 11 8 then
      (unitError (count s C.COD_DRAIN_BAD) ecDescriptor 0x0F (h.epoch + at' rank 48 + at' h.slice 52)
        (h.cell + at' (bits pre 5 4) 32 + at' (bits pre 11 8) 40), false)
    else
      let i := inOf s p rank h.slice h.epoch
      if h.epoch ≤ capped s then
        (sendMsg (count s C.COD_DRAIN_DUP) p 8 0 (ackMsg h.epoch h.slice h.attempt h.seq (grantOf s) false), false)
      else if h.attempt ≠ attemptOf s h.epoch then (count s C.COD_DRAIN_STALE, false)
      else if h.seq < i.next then (ackStream (count s C.COD_DRAIN_DUP) i, false)
      else if i.next < h.seq then (count s C.COD_DRAIN_GAP, false)
      else if grantOf s < h.epoch then (s, false)
      else
        let s := ownWrites s
        let i := { i with peer := p, next := i.next + 1, waits := i.waits ++ [(i.next, s.cod.owner)] }
        let done (s : State) : State × Bool :=
          let s := setCod (count s C.COD_SEG_APPLIED) { s.cod with owner := 17 }
          (drainAcks (setIn s i), false)
        if scale then
          let sl := scaleSlice s
          let k := ceilDiv b.length 64
          let r := allocUnits s h.epoch (k / qUnits + 4) (share s sl) k
          if r.1.length < k then (setCod s { s.cod with owner := 17 }, false)
          else
            let s := writeUnits (setShare s sl r.2) sl r.1 b
            let g : Seg := { slice := sl, off := r.1.headD 0, units := r.1, len := k, epoch := h.epoch, kind := 3, cell := h.cell,
                             seq := h.seq, attempt := h.attempt, nrec := h.nrec, rank := rank, own := false, queue := 16 }
            done (setCod s { s.cod with segs := s.cod.segs ++ [g] })
        else
          let c := parCellOf n m fx (cmbRank s) t
          let first := xUndoB (ledgerX s c) == 0
          let wait := setCod s { s.cod with owner := 17 }
          if parMissing s c then (pullStripe wait (2 ^ 20 + rank * 16 + h.slice) (parStripe (cmbN s) (cmbM s) (cmbFixed s) (cmbRank s) c), true)
          else if (first && lSuspect (ledgerP s c)) || cellHeld s true c || !slotsReady s c h.epoch then (wait, true)
          else if !first then done (applyParity s c (bits pre 5 4) pos h.epoch (segRecs b))
          else
            match firstRead s c with
            | none => (readFirst wait c, true)
            | some false => (wait, true)
            | some true =>
              if parCellOk s c then done (applyParity (dropFirst s c) c (bits pre 5 4) pos h.epoch (segRecs b))
              else (suspectPar (dropFirst wait c) c, true)

/-- The stream key of a drain message: sender rank, slice and epoch. -/
def msgKey (body : Bytes) : Nat × Nat × Nat :=
  let h := segHdr (body.drop 8)
  (bits (leAt body 0 8) 3 0, h.slice, h.epoch)

/-- A segment arrives. One whose parity cell is missing, awaits repair or is held by a copy or the forager waits, and its stream behind it (R274, R372). -/
def segmentIn (s : State) (p : Nat) (body : Bytes) : State :=
  if s.cod.parked.any fun m => m.1 == p && msgKey m.2 == msgKey body then
    setCod s { s.cod with parked := s.cod.parked ++ [(p, body)] }
  else
    let r := segVerdict s p (leAt body 0 8) (body.drop 8)
    if r.2 then setCod r.1 { r.1.cod with parked := r.1.cod.parked ++ [(p, body)] } else r.1

/-- Waiting segments are taken again, in order, after a cell of their own was written or repaired. -/
def retryParked (s : State) : State :=
  let ms := s.cod.parked
  ms.foldl (fun s m => segmentIn s m.1 m.2) (setCod s { s.cod with parked := [] })

/-- The reads of first applications are answered: the segments that wait for them go on. -/
def settleFirsts (s : State) : State :=
  if s.cod.firsts.all (·.2) ∨ !readsAnswered s firstOwner then s
  else retryParked (setCod s { s.cod with firsts := s.cod.firsts.map fun x => (x.1, true) })

/-! ## Sending (R271, R298) -/

/-- The 8 bytes before a segment. -/
def segPrefix (rank j pos : Nat) : Bytes := leBytes 8 (rank + at' j 4 + at' pos 8)

/-- A version-2 drain message (R298). -/
def v2Msg (mseq e rank j pos cell g : Nat) (d : Bytes) : Bytes :=
  leBytes 4 mseq ++ leBytes 16 (e + at' rank 48 + at' j 52 + at' pos 56 + at' cell 64 + at' g 88) ++ d

/-- Messages packed two to a flit. -/
def pairUp : List Bytes → List Bytes
  | a :: b :: t => (a ++ b) :: pairUp t
  | l => l

/-- The key of the next MSEQ toward a holder in an epoch. -/
def v2Key (r e : Nat) : Nat := r * 2 ^ 48 + e

/-- A segment translated for a version-2 holder from a first MSEQ on. -/
def v2Flits (first : Nat) (g : Seg) (j pos : Nat) (recs : List (Nat × Bytes)) : List Bytes :=
  pairUp ((List.range recs.length).map fun i =>
    let r := recs.getD i (0, [])
    v2Msg ((first + i) % 2 ^ 32) g.epoch g.rank j pos g.cell r.1 r.2)

/-- A segment sent to one holder. The member itself, as keeper, takes it in at once. -/
def sendSeg (s : State) (g : Seg) (h : Nat × Nat × Nat) (b : Bytes) : State :=
  let n := holderSeq s g h.1
  let b := withSeq b n
  match holderPeer s h.1 with
  | none => s
  | some p =>
    if h.1 = cmbRank s then segmentIn s p (segPrefix g.rank h.2.1 h.2.2 ++ b)
    else if rankProto s h.1 = 2 then
      let recs := segRecs b
      let old := s.cod.v2segs.find? fun v => v.holder == h.1 && v.src == g.rank && v.epoch == g.epoch &&
        v.slice == g.slice && v.seq == n
      let first := match old with
        | some v => v.first
        | none => get s.cod.v2 (v2Key h.1 g.epoch)
      let s := match old with
        | some _ => s
        | none => setCod s { s.cod with
            v2 := put s.cod.v2 (v2Key h.1 g.epoch) (first + recs.length),
            v2segs := s.cod.v2segs ++ [{ holder := h.1, src := g.rank, epoch := g.epoch, slice := g.slice, seq := n,
                                         first := first, n := recs.length }] }
      (v2Flits first g h.2.1 h.2.2 recs).foldl (fun s m => sendMsg s p 8 0 m) s
    else
      carryFor (sendMsg s p 8 (at' (segStream g) 12 + n % 2 ^ 12) (segPrefix g.rank h.2.1 h.2.2 ++ b)) p 1 g.queue

/-- The holders of a segment whose turn it is: it is the next the holder has not been sent. -/
def dueHolders (s : State) (g : Seg) : List (Nat × Nat × Nat) :=
  (segHolders s g).filter fun h => get (segOut s g).sent h.1 == holderSeq s g h.1

/-- A segment is marked sent to holders. -/
def markSent (s : State) (g : Seg) (hs : List (Nat × Nat × Nat)) : State :=
  let o := segOut s g
  setOut s { o with sent := hs.foldl (fun m h => put m h.1 (holderSeq s g h.1 + 1)) o.sent }

/-- A segment's read-back has failed before: it is never sent. -/
def segBad (s : State) (g : Seg) : Bool := s.cod.badSegs.contains (g.slice, g.off, g.epoch)

/-- A segment fails its read-back check: the report of its epoch is unclean, an event names the cell, and the stream stops at it (R271). -/
def backFails (s : State) (g : Seg) : State :=
  let s := markUnclean (setCod s { s.cod with badSegs := s.cod.badSegs ++ [(g.slice, g.off, g.epoch)] }) g.epoch
  capForward (unitError s 0x0D (0x20 + g.slice) g.cell 0) g.epoch

/-- DRAIN_SEND: the oldest segment of a slice's stream that some holder may have now is read back and sent. With none,
segments that wait for a grant count a cycle (R271, R273). -/
def drainSendEffect (s : State) (sl : Nat) : State :=
  let mine := s.cod.segs.filter fun g => g.own && segStream g == sl && decide (capped s < g.epoch) && !segBad s g
  let ok (g : Seg) : List (Nat × Nat × Nat) := (dueHolders s g).filter fun h => decide (g.epoch ≤ grantFrom s h.1)
  match mine.find? fun g => ok g != [] with
  | none => if mine.any fun g => dueHolders s g != [] then count s C.COD_GRANT_WAIT else s
  | some g =>
    let b := segBytes s g
    if segOk b then (ok g).foldl (fun s h => sendSeg s g h b) (markSent s g (ok g)) else backFails s g

/-- A stream is sent again to a holder from its first unacknowledged segment (R276). -/
def resendTo (s : State) (o : DrainOut) (r : Nat) : State :=
  let gs := s.cod.segs.filter fun g => g.own && g.rank == o.src && segStream g == o.slice && g.epoch == o.epoch &&
    segTo s g r && decide (get o.acked r ≤ holderSeq s g r) && decide (holderSeq s g r < get o.sent r)
  gs.foldl (fun s g =>
    match (segHolders s g).find? fun h => h.1 == r with
    | some h => if segBad s g then s else if segOk (segBytes s g) then sendSeg s g h (segBytes s g) else backFails s g
    | none => s) s

/-- COD_DRAIN_TMO without progress on a stream: it is re-sent to each holder that lags, and after four times a fault of
class 3 is reported (R276, R357). -/
def drainResendEffect (s : State) (src sl e : Nat) : State :=
  let o := outOf s src sl e
  let late := (List.range 16 ++ mirrorHolders s).filter fun r => decide (get o.acked r < get o.sent r)
  if late = [] then s
  else
    let o := { o with tries := late.foldl (fun m r => put m r (get m r + 1)) o.tries }
    let s := count (setOut s o) C.COD_DRAIN_RESEND
    let s := late.foldl (fun s r => resendTo s o r) s
    (late.filter fun r => get o.tries r % 4 == 0).foldl (fun s r =>
      match holderIdx s r with
      | some x => faultReport s x 3
      | none => s) s

/-! ## Acknowledgements (R275, R298) -/

/-- A drain acknowledgement from a holder. The message names no sender rank, so of the streams with its slice, epoch and
attempt it is taken for the first that has sent ACK_SEQ and not had it acknowledged, the own rank's before a kept one's
(DESIGN CHOICE, notes/assumptions/47). -/
def drainAckIn (s : State) (p : Nat) (b : Bytes) : State :=
  let v := leAt b 0 32
  match peerHolder s p with
  | none => s
  | some r =>
    let s := setCod s { s.cod with granted := put s.cod.granted r (bits v 143 96 + 1) }
    if bit v 144 then s
    else
      let n := bits v 95 64 + 1
      let os := s.cod.outs.filter fun o => o.slice == bits v 51 48 && o.epoch == bits v 47 0 && o.attempt == bits v 63 56 &&
        o.attempt == attemptOf s o.epoch && decide (get o.acked r < n) && decide (n ≤ get o.sent r)
      match (os.filter fun o => o.src == cmbRank s) ++ os.filter fun o => o.src != cmbRank s with
      | o :: _ => ackRise s o r n
      | [] => s

/-- A version-2 acknowledgement: the segments whose messages all lie at or below MSEQ (R298). -/
def v2AckIn (s : State) (p e mseq : Nat) : State :=
  match peerRank s p with
  | none => s
  | some r =>
    let got := s.cod.v2segs.filter fun v => v.holder == r && v.epoch == e && decide (v.first + v.n ≤ mseq + 1)
    let s := setCod s { s.cod with v2segs := s.cod.v2segs.filter fun v => !got.contains v }
    got.foldl (fun s v => ackRise s (outOf s v.src v.slice e) r (v.seq + 1)) s

/-- 2 µs with an unacknowledged segment: the holder acknowledges the stream (R275). -/
def ackTimerEffect (s : State) (rank sl e : Nat) : State :=
  match s.cod.ins.find? fun i => i.rank == rank && i.slice == sl && i.epoch == e && i.attempt == attemptOf s e &&
      decide (i.told < durable s i) with
  | some i => ackStream s i
  | none => s

/-! ## The own report (R26, R279, R413) -/

/-- A repair window is open: a repair reads other members' cells (R390). -/
def windowOpen (s : State) : Bool := s.hive.degs.any fun d => match d.use with
  | .repair _ _ => true
  | _ => false

/-- A member's report of an epoch is ready: DRAINING and every segment acknowledged, or unclean. The report of EPOCH + 1 waits for the cells
that a seal of EPOCH copies through their log records (R18, R271, R280, R413). -/
def reportReady (s : State) (e : Nat) : Bool :=
  let x := epochOf s e
  canCap s && !isShadow s (ownIdx s) && x.own == 0 && decide (capped s < e) && decide (e ≤ capped s + 2) &&
    decide (x.phase < 2) && (!x.clean || (x.phase == 1 && allAcked s e)) && !(sealOwes s && e == capped s + 1) &&
    !windowOpen s

/-! ## The rows' meanings -/

/-- CAP (R27, R164, R564). -/
def execCap (q : Fin 16) (s : State) : Ans := .next (drainChecks (capEffect (begin s) q))

/-- CAP_REPORT_READY (R279). -/
def execCapReportReady (e : BitVec 48) (s : State) : Ans :=
  let s := drainChecks (begin s)
  .next (if reportReady s e.toNat then ownReady s e.toNat else s)

/-- CAP_REPORT: peer and message (R280). -/
def execCapReport (p : BitVec 12) (body : Bytes) (s : State) : Ans :=
  let s := begin s
  .next (match peerIdx s p.toNat with
    | some x => capReportIn s x body
    | none => s)

/-- CAP_TIMEOUT of an epoch (R280). -/
def execCapTimeout (e : BitVec 48) (s : State) : Ans := .next (capTimeout (begin s) e.toNat)

/-- CAP_ANNOUNCE: peer and message (R281). -/
def execCapAnnounce (p : BitVec 12) (body : Bytes) (s : State) : Ans :=
  let s := begin s
  .next (match peerIdx s p.toNat with
    | some _ => capLearn s (leAt body 0 6) true
    | none => s)

/-- DRAIN_SEND of a slice's stream, 12 for SCALE segments (R271). -/
def execDrainSend (sl : Fin 13) (s : State) : Ans := .next (drainSendEffect (begin s) sl)

/-- DELTA_SEGMENT: peer and message (R274). -/
def execDeltaSegment (p : BitVec 12) (body : Bytes) (s : State) : Ans := .next (segmentIn (begin s) p.toNat body)

/-- SCALE_SEGMENT: peer and message (R277). -/
def execScaleSegment (p : BitVec 12) (body : Bytes) (s : State) : Ans := .next (segmentIn (begin s) p.toNat body)

/-- DRAIN_ACK: peer and message (R275). -/
def execDrainAck (p : BitVec 12) (body : Bytes) (s : State) : Ans := .next (drainAckIn (begin s) p.toNat body)

/-- DRAIN_ACK_TIMER of a stream: sender rank, slice, epoch (R275). -/
def execDrainAckTimer (rank : Fin 16) (sl : Fin 13) (e : BitVec 48) (s : State) : Ans :=
  .next (ackTimerEffect (begin s) rank sl e.toNat)

/-- DRAIN_RESEND_TIMEOUT of a stream: sender rank, slice, epoch (R276). -/
def execDrainResendTimeout (src : Fin 16) (sl : Fin 13) (e : BitVec 48) (s : State) : Ans :=
  .next (drainResendEffect (begin s) src sl e.toNat)

/-- V2_DRAIN_ACK: peer, epoch, highest contiguous MSEQ (R298). -/
def execV2DrainAck (p : BitVec 12) (e : BitVec 48) (mseq : BitVec 32) (s : State) : Ans :=
  .next (v2AckIn (begin s) p.toNat e.toNat mseq.toNat)

/-- U_RESERVE_TAKE (R273). -/
def execUReserveTake (s : State) : Ans :=
  let s := begin s
  .next (if canCap s then tryReserve s (grantOf s) else s)

end Sys2Proof.Machine
end

