-- ==== Sys2Proof/Machine/Window.lean ====
section
/-! DEFINITION. What every register write shares: rights, answers, staging of table windows (R39, R40, R481, R514). -/

namespace Sys2Proof.Machine

/-- A source holds one of the roles of a mask: bit 0 operator, 1 installer, 2 maker (R481). -/
def hasRole (s : State) (src : BitVec 16) (roles : Nat) : Bool := rightsOf s src.toNat &&& roles != 0

/-- A request has left the port's buffer: the credits of its TREQ beat and of its TWD beats go back (R37). -/
def returnBeats (s : State) (twd : Nat) : State := emit s (.hostCredit 1 twd)

/-- An answer on TRSP to a request of one TWD beat, as a register write is. -/
def trsp (s : State) (r : Req) (stat : Nat) : State := emit (returnBeats s 1) (.trsp r.tag.toNat stat)

/-- An answer on TRD to a request without data. -/
def trd (s : State) (r : Req) (stat : Nat) (data : Bytes) : State := emit (returnBeats s 0) (.trd r.tag.toNat stat data)

/-- TWD beats of a request by its OP and the bytes its SIZE names (R37, R39). -/
def opBeats (s : State) (op n : Nat) : Nat :=
  if op = 0 ∨ 5 < op then 0 else ceilDiv n (if rdb s R.GEN_STRAP_HFP_W128 then 16 else 32)

/-- A request refused as it arrives: a write on TRSP, anything else on TRD; one of a reserved OP on TRSP (DESIGN CHOICE,
notes/assumptions/79). -/
def refuseReq (s : State) (r : Req) (op n stat : Nat) (data : Bytes) : State :=
  let s := returnBeats s (opBeats s op n)
  if op = 1 ∨ 5 < op then emit s (.trsp r.tag.toNat stat) else emit s (.trd r.tag.toNat stat data)

/-- A write's outcome answered: its STAT. -/
def answered (r : Req) (x : State × Nat) : State := trsp x.1 r x.2

/-- Before bring-up stage 4 a field of the installer's, or of the maker's, is not accepted: its write is refused as the member's state
refuses one (R466, R487; DESIGN CHOICE of the status, notes/assumptions/79). -/
def early (s : State) : Bool := decide (rd s R.GEN_STAT_STAGE < 4)

/-- A write to a page of a fast domain. While those domains are held in reset it has no effect (R63, DESIGN CHOICE,
notes/assumptions/65). -/
def unlessHeld (s : State) (x : State × Nat) : State × Nat := if s.chip.held then (s, 0) else x

/-- A field write refused for rights: RIGHTS_WR, and the audit entry for installer and maker fields (R40, R492, R505). -/
def refuseRights (s : State) (page addr src : Nat) (aud : Bool) (old new : Nat) : State × Nat :=
  let s := pgError s page 30 0
  (if aud then audit s 1 addr src (auditRole s src) ecRights old new else s, ecRights)

/-- Words a source has staged in a page's window: word index and value. -/
def stagedWords (s : State) (src page : Nat) : List (Nat × Nat) :=
  (s.acc.win.filter fun w => w.1 == src && w.2.1 == page).map fun w => w.2.2

/-- A source's staged words of a page are discarded. -/
def dropStaged (s : State) (src page : Nat) : State :=
  { s with acc := { s.acc with win := s.acc.win.filter fun w => !(w.1 == src && w.2.1 == page) } }

/-- A word of a window is staged by a source. -/
def stageWord (s : State) (src page w v : Nat) : State :=
  { s with acc := { s.acc with win :=
      (s.acc.win.filter fun x => !(x.1 == src && x.2.1 == page && x.2.2.1 == w)) ++ [(src, page, w, v)] } }

/-- Staging, latches and held values of the pages that a reset leaves (R515). -/
def keepPages (keep : Nat → Bool) (x : RegAcc) : RegAcc :=
  { held := x.held.filter fun e => keep (e.1 / 2 ^ 20), low := x.low.filter fun e => keep (e.2.1 / 4096),
    wide := x.wide.filter fun e => keep (e.2.1 / 4096), win := x.win.filter fun e => keep e.2.1,
    latch := x.latch.filter fun e => keep e.2.1 }

/-- An entry with words laid over it. -/
def overWords (cur : Nat) (ws : List (Nat × Nat)) : Nat :=
  ws.foldl (fun e w => setBits e (32 * w.1 + 31) (32 * w.1) w.2) cur

/-- The entry a write to window offset 0 submits: the current one, the staged words, word 0 and with an 8-byte write word 1
(R499, R514). -/
def submitted (s : State) (src page cur data : Nat) (wide : Bool) : Nat :=
  let ws := (stagedWords s src page).filter fun w => w.1 != 0 && !(wide && w.1 == 1)
  setBits (overWords cur ws) (if wide then 63 else 31) 0 data

/-- Reserved bits of a page written as nonzero set RSVD_WR (R13, R516). -/
def noteReserved (s : State) (page : Nat) (bad : Bool) : State := if bad then pgError s page 31 0 else s

/-- Reserved bits of the entries of a read-only table (R158, R186, R207, R401, R433, R529, R532, R534, R545, R553). -/
def readOnlyRsvd (page t : Nat) : List (Nat × Nat) :=
  match page, t with
  | 0x07, _ => [(125, 125), (123, 121), (119, 0)]
  | 0x08, 0 | 0x08, 1 => [(255, 229), (196, 195)]
  | 0x08, _ => [(253, 252)]
  | 0x0A, 1 => [(99, 20)]
  | 0x0A, 2 => [(102, 20)]
  | 0x0C, 0 => [(126, 120)]
  | 0x0C, _ => [(125, 112), (47, 19)]
  | 0x0E, 0 => [(76, 76), (71, 48)]
  | 0x0E, _ => [(77, 64)]
  | 0x14, _ => [(126, 116), (107, 102), (63, 41)]
  | 0x16, 1 => [(62, 58), (49, 42)]
  | 0x1B, _ => [(287, 264), (191, 56), (49, 48)]
  | _, _ => []

/-- A submitted entry of a read-only table sets reserved bits. -/
def readOnlyBad (page t v : Nat) : Bool := (readOnlyRsvd page t).any fun b => bits v b.1 b.2 != 0

/-- TABLE and INDEX of a table-select register (R514). -/
def selTable (v : Nat) : Nat := bits v 31 28
def selIndex (v : Nat) : Nat := bits v 27 0

end Sys2Proof.Machine
end

