-- ==== Sys2Proof/Machine/Hive.lean ====
section
/-! DEFINITION. The hive: requests of the host, the remote access engine, the home agent and its hot-line buffer
(chapter 11). -/

namespace Sys2Proof.Machine

/-- The state with the light port replaced. -/
def setLp (s : State) (x : LightPort) : State := { s with lp := x }

/-! ## Devices (R324, R325) -/

/-- A peer entry of the block's hive with a device number. -/
def peerOfDev (s : State) (dev : Nat) : Option Nat :=
  (peerIdxs s).find? fun i => peerValid (peerEntry s i) && peerHive (peerEntry s i) == 64 + dev

/-- The block's own peer entry. -/
def ownPeer (s : State) : Option Nat := peerOfFid s (rd s R.LP_FID)

/-- The peer is declared lost. -/
def peerLost (s : State) (p : Nat) : Bool :=
  match peerIdx s p with
  | some x => memState (member s x) == 7
  | none => false

/-- Poison over n bytes (R336). -/
def poison (n : Nat) : Bytes := slice ((List.range 8).flatMap fun _ => leBytes 8 0xDEADC0DEDEADC0DE) 0 n

/-! ## The exported space (R326, R327) -/

/-- Size of the exported space. -/
def hiveSize (s : State) : Nat := let e := dir s (rd s R.HIVE_OBJ); oRows e * oCols e

/-- What HIVE_OBJ must be (R326). -/
def hiveObjOk (s : State) : Bool :=
  let o := rd s R.HIVE_OBJ
  let e := dir s o
  objValid s o && oClass e == clsScratch && oFmt e == fmtByte && oTier e == 0 && !oImg e && oStk e != 0 &&
    hiveSize s % (maskK (oStk e) * cellSize) == 0

/-- Cell of the hive object and byte within it of an offset (R327). -/
def hivePlace (s : State) (o : Nat) : Nat × Nat :=
  let k := max 1 (maskK (oStk (dir s (rd s R.HIVE_OBJ))))
  let p := o / 4096
  let a := p % k
  let b := p / k
  let u := (a + fold 16 2 b) % k
  (b / 16 * k + u, b % 16 * 4096 + o % 4096)

/-- The offset of a byte of the hive object: the inverse of hivePlace (R327). -/
def hiveOffset (s : State) (byte : Nat) : Nat :=
  let k := max 1 (maskK (oStk (dir s (rd s R.HIVE_OBJ))))
  let c := byte / cellSize
  let b := c / k * 16 + byte % cellSize / 4096
  let a := (c % k + k - fold 16 2 b % k) % k
  (b * k + a) * 4096 + byte % 4096

/-- Owner of the home agent's memory requests. -/
def hiveOwner : Nat := 18

/-- The 64 bytes of a line in memory. -/
def lineBytes (s : State) (l : Nat) : Bytes :=
  let p := hivePlace s (64 * l)
  placeBytes s (cellPlace s (dir s (rd s R.HIVE_OBJ)) p.1) p.2 64

/-- A line written to memory. -/
def lineWrite (s : State) (l : Nat) (b : Bytes) : State :=
  let p := hivePlace s (64 * l)
  placeWrite s hiveOwner (cellPlace s (dir s (rd s R.HIVE_OBJ)) p.1) p.2 b

/-- A write (or a read) of the line by the home is still out at the memory port. -/
def lineBusy (s : State) (l : Nat) (write : Bool) : Bool :=
  let p := hivePlace s (64 * l)
  match cellPlace s (dir s (rd s R.HIVE_OBJ)) p.1 with
  | .hbm st slot =>
    let g := (slot * cellSize + p.2) / 64
    s.mrp.any fun x => x.reqs.any fun r => r.write == write && r.owner == hiveOwner && decide (r.src ≤ st * 2 ^ 31 + g) &&
      decide (st * 2 ^ 31 + g < r.src + r.n)
  | _ => false

/-! ## Answers to the requester (R335, R336) -/

/-- A CELL_READ's answer goes to its degraded read. -/
def degAnswer (s : State) (id gran coeff peer stat : Nat) (data : Bytes) : State :=
  match s.hive.degs.find? fun d => d.id == id with
  | none => s
  | some d =>
    let b := if stat = 0 then
        d.bytes.take (64 * gran) ++ xorBytes (slice d.bytes (64 * gran) 64) (gfScale coeff (slice data 0 64)) ++
          d.bytes.drop (64 * gran + 64)
      else d.bytes
    let d := { d with bytes := b, out := d.out - 1, bad := d.bad || stat != 0,
                      badPeers := if stat = 0 then d.badPeers else d.badPeers ++ [peer] }
    let s := admitCtxs 1 (setDeg s d)
    match s.hive.degs.find? fun d => d.id == id with
    | some d => degFinish s d
    | none => s

/-- A context's request is answered: the context is freed and its asker served. A hive write answers on TRSP, everything
else on TRD. -/
def finishCtx (s : State) (c : HiveCtx) (stat : Nat) (data : Bytes) : State :=
  let s := setHive s { s.hive with ctxs := s.hive.ctxs.filter fun x => x.req.ctx != c.req.ctx }
  let s := admitCtxs 1 s
  match c.asker with
  | .host _ tag =>
    if c.req.op = 1 then emit s (.trsp tag stat)
    else
      let n := sizeBytes c.req.size
      let d := if stat = 0 then slice data 0 n else if stat = ecRemoteDead then poison n else List.replicate n 0
      emit s (.trd tag stat (if c.req.op = 0 then d else inLanes c.req.off d))
  | .deg id gran coeff =>
    -- a CELL_READ answered CELL_CHECK is a fault of class 6 (R357)
    let s := if stat = 0x0D then
        (match peerIdx s c.peer with
        | some x => faultReport s x 6
        | none => s) else s
    degAnswer s id gran coeff c.peer stat data

/-! ## Fences over hive requests (R338) -/

/-- A fence fails. -/
def failFence (s : State) (f : Fence) (code : Nat) : State :=
  finish { s with fences := s.fences.filter fun x => !(x.queue == f.queue && x.idx == f.idx) } f.queue f.idx code 0 0

/-- A covered request has ended: the fences no longer wait for it, and fail when it ended with REMOTE_DEAD. -/
def fenceCtx (s : State) (ctx gen : Nat) (dead : Bool) : State :=
  let hit := s.fences.filter fun f => f.ctxs.contains (ctx, gen) || f.watch.contains (ctx, gen)
  if dead then hit.foldl (fun s f => failFence s f ecRemoteDead) s
  else { s with fences := s.fences.map fun f => { f with ctxs := f.ctxs.filter (· != (ctx, gen)), watch := f.watch.filter (· != (ctx, gen)) } }

/-- Fences with nothing left to wait for complete (R321). -/
def settleFences (s : State) : State :=
  (s.fences.filter fun f => f.streams == [] && f.ctxs == [] && f.tiers == [] && f.queued == []).foldl (fun s f => failFence s f 0) s

/-! ## Dead targets (R336) -/

/-- Requests to a peer complete with REMOTE_DEAD: the issued ones, or every one when the peer is lost. -/
def deadPeer (s : State) (p : Nat) (all : Bool) : State :=
  let hit := s.hive.ctxs.filter fun c => c.peer == p && !c.own && (all || c.issued)
  let waiting := if all then s.hive.admq.filter fun c => c.peer == p && !c.own else []
  let s := dropQueued s waiting.contains
  let s := hit.foldl (fun s c =>
    let s := setHive s { s.hive with gens := put s.hive.gens c.req.ctx ((c.req.gen + 1) % 16),
                                     late := put s.hive.late (16 * c.req.ctx + c.req.gen) (respLen c.req) }
    let s := fenceCtx s c.req.ctx c.req.gen (c.req.op != 0)
    count (finishCtx s c ecRemoteDead []) C.HIVE_TMO_CNT) s
  let s := waiting.foldl (fun s c =>
    let s := match c.asker with
      | .host src tag => (s.fences.filter fun f => c.req.op != 0 && f.queued.contains (src, tag)).foldl (fun s f => failFence s f ecRemoteDead) s
      | _ => s
    count (finishCtx s { c with req := { c.req with ctx := 4096 } } ecRemoteDead []) C.HIVE_TMO_CNT) s
  let n := hit.length + waiting.length
  let s := settleFences s
  if n = 0 then s
  else
    match peerIdx s p with
    | none => unitError s ecRemoteDead 0x14 (bits (peerHive (peerEntry s p)) 5 0) n
    | some x =>
      let s := if suspectYoung s (suspectSlot s x 1) x 1 then s
        else unitError s ecRemoteDead 0x14 (bits (peerHive (peerEntry s p)) 5 0) n
      faultReport s x 1

/-! ## The home agent (R330 to R333, R337) -/

/-- A queued access's line. -/
def lineOfRec (r : HiveRec) : Nat := r.off / 64

/-- An access the home cannot apply (R330). -/
def badAccess (s : State) (r : HiveRec) : Bool :=
  let n := sizeBytes r.size
  decide (6 < r.op) || decide (6 < r.size) || decide (hiveSize s < r.off + n) || r.off % n != 0 ||
    (decide (2 ≤ r.op) && decide (r.op ≤ 5) && !(n == 4 || n == 8))

/-- The home answers an access: to its peer in a response record, or to the own context. -/
def homeAnswer (s : State) (h : HomeReq) (stat : Nat) (data : Bytes) : State :=
  match h.peer with
  | some p => packRec s p true (hiveFlow h.req.off) (respBytes h.req.ctx h.req.gen stat (respData h.req stat data))
  | none =>
    match s.hive.ctxs.find? fun c => c.req.ctx == h.req.ctx && c.req.gen == h.req.gen with
    | some c =>
      let s := fenceCtx s c.req.ctx c.req.gen (stat == ecRemoteDead && c.req.op != 0)
      settleFences (finishCtx s c stat data)
    | none => s

/-- The buffered entry of a line. -/
def hotOf (s : State) (l : Nat) : Option HotLine := s.hive.hot.find? fun h => h.line == l

/-- A buffer entry leaves; a dirty value is written to memory. -/
def hotDrop (s : State) (h : HotLine) : State :=
  let s := if h.dirty then lineWrite s h.line h.val else s
  setHive s { s.hive with hot := s.hive.hot.filter fun x => x.line != h.line }

/-- A line with queued accesses. -/
def lineQueued (s : State) (l : Nat) : Bool := s.hive.home.any fun x => x.req.op != 6 && lineOfRec x.req == l

/-- A line enters the buffer, to be read from memory: an entry is free, or the least recently used one with no queue is evicted; none
when every entry has a queue (R332). -/
def hotEnter (s : State) (l : Nat) : Option State :=
  let add (s : State) : State :=
    setHive s { s.hive with hot := s.hive.hot ++ [{ line := l, val := [], dirty := false }] }
  if s.hive.hot.length < 256 then some (add s)
  else
    match s.hive.hot.find? fun h => !lineQueued s h.line with
    | some h => some (add (count (hotDrop s h) C.HIVE_HL_EVICT))
    | none => none

/-- The read of a line from memory that is under way. -/
def fetchOf (s : State) (l : Nat) : Option HomeFetch := s.hive.fetch.find? fun f => f.line == l

/-- The state with the read of a line begun, changed or ended. -/
def setFetch (s : State) (f : HomeFetch) : State :=
  setHive s { s.hive with fetch := (s.hive.fetch.filter fun x => x.line != f.line) ++ [f] }
def endFetch (s : State) (l : Nat) : State := setHive s { s.hive with fetch := s.hive.fetch.filter fun x => x.line != l }

/-- The read of a line is requested once no write of it is out (R48, R332). -/
def kickFetch (s : State) (f : HomeFetch) : State :=
  if f.out || lineBusy s f.line true then s
  else
    let p := hivePlace s (64 * f.line)
    (placeRead (setFetch s { f with out := true }) hiveOwner (cellPlace s (dir s (rd s R.HIVE_OBJ)) p.1) p.2 64).2

/-- A queued access makes its line hot: an atomic, or an access to a line that an earlier one still keeps out at the memory port. The line
enters the buffer and is read from memory; with every entry in use it stays outside and HIVE_HL_FULL counts it (R332). -/
def heatLine (s : State) (r : HiveRec) : State :=
  let l := lineOfRec r
  let atomic := decide (2 ≤ r.op) && decide (r.op ≤ 5)
  if (hotOf s l).isSome || !(atomic || lineBusy s l true || lineBusy s l false) then s
  else
    let f := match fetchOf s l with
      | some f => { f with hot := true }
      | none => { line := l, hot := true, out := false, bad := false }
    match hotEnter s l with
    | some s => kickFetch (setFetch s f) f
    | none => count s C.HIVE_HL_FULL

/-- An access reaches the home: refused, answered at once, or queued on its line, which it may make hot. none when its line or the home is
full and the stream waits (R330, R332, R333). -/
def homeTake (s : State) (h : HomeReq) : Option State :=
  let r := h.req
  if memberState s = 8 then some (homeAnswer s h 0x08 [])
  else if r.op = 6 ∧ r.size = 6 then some (setHive s { s.hive with home := s.hive.home ++ [h] })
  else if r.op ≠ 6 ∧ !rdb s R.HIVE_CFG_EN then some (homeAnswer s h ecDescriptor [])
  else if r.op = 6 ∨ badAccess s r then some (homeAnswer (count s C.HIVE_OOR) h ecDescriptor [])
  else if 16384 ≤ (s.hive.home.filter fun x => x.req.op != 6).length ∨
      rd s R.HIVE_LINE_Q ≤ (s.hive.home.filter fun x => x.req.op != 6 && lineOfRec x.req == lineOfRec r).length then none
  else some (heatLine (setHive s { s.hive with home := s.hive.home ++ [h] }) r)

/-- The requests at the heads of the waiting streams are taken in order; a stream whose head the home cannot take waits (R333). -/
def takeWaiting (s : State) : State :=
  let r := s.hive.waitq.foldl (fun (a : State × List HomeReq) h =>
    if a.2.any fun x => x.peer == h.peer then (a.1, a.2 ++ [h])
    else match homeTake a.1 h with
      | some s => (s, a.2)
      | none => (a.1, a.2 ++ [h])) (setHive s { s.hive with waitq := [] }, [])
  setHive r.1 { r.1.hive with waitq := r.2 }

/-- The new bytes of an access's place, and the data it returns (R330). -/
def applyOp (r : HiveRec) (old : Bytes) : Bytes × Bytes :=
  let n := sizeBytes r.size
  let w := 8 * n
  let x := leVal old
  let y := leVal (slice r.data 0 n)
  match r.op with
  | 0 => (old, old)
  | 1 => ((List.range n).map fun i => if !r.part || bit r.mask i then r.data.getD i 0 else old.getD i 0, [])
  | 2 => (leBytes n ((x + y) % 2 ^ w), old)
  | 3 => (if signed w y < signed w x then leBytes n y else old, old)
  | 4 => (if signed w x < signed w y then leBytes n y else old, old)
  | _ => (leBytes n y, old)

/-- A line as an access leaves it, and the data the access returns (R330). -/
def lineAfter (r : HiveRec) (line : Bytes) : Bytes × Bytes :=
  let n := sizeBytes r.size
  let o := r.off % 64
  let x := applyOp r (slice line o n)
  (line.take o ++ x.1 ++ line.drop (o + n), x.2)

/-- An access leaves its queue and is answered. -/
def homeDone (s : State) (h : HomeReq) (stat : Nat) (data : Bytes) : State :=
  takeWaiting (homeAnswer (setHive s { s.hive with home := s.hive.home.erase h }) h stat data)

/-- An access is applied to its line in the buffer, which becomes the most recently used. -/
def hotApply (s : State) (h : HomeReq) (x : HotLine) : State :=
  let r := lineAfter h.req x.val
  let x := { x with val := r.1, dirty := x.dirty || h.req.op != 0 }
  homeDone (count (setHive s { s.hive with hot := (s.hive.hot.filter fun y => y.line != x.line) ++ [x] }) C.HIVE_APPLIED) h 0 r.2

/-- An access is applied to its line in memory. -/
def memApply (s : State) (h : HomeReq) : State :=
  let l := lineOfRec h.req
  let r := lineAfter h.req (lineBytes s l)
  homeDone (count (if h.req.op = 0 then s else lineWrite s l r.1) C.HIVE_APPLIED) h 0 r.2

/-- The oldest access queued on a line. -/
def oldestOn (s : State) (l : Nat) : Option HomeReq := s.hive.home.find? fun x => x.req.op != 6 && lineOfRec x.req == l

/-- The oldest access of a line is served: from the buffer; a write of the whole line straight to memory, unless the line is still busy at
the memory port; else the line is read for it alone (R48, R332). -/
def homeServe (s : State) (l : Nat) : State :=
  match oldestOn s l, fetchOf s l with
  | none, _ => s
  | _, some _ => s
  | some h, none =>
    match hotOf s l with
    | some x => hotApply (count s C.HIVE_HL_HIT) h x
    | none =>
      let f : HomeFetch := { line := l, hot := false, out := false, bad := false }
      if h.req.op = 1 ∧ !h.req.part ∧ sizeBytes h.req.size = 64 ∧ !lineBusy s l true then memApply s h
      else kickFetch (setFetch s f) f

/-- The oldest access of a line, served when it is of OP (R331). -/
def homeOp (s : State) (l op : Nat) : State :=
  match oldestOn s l with
  | some h => if h.req.op = op then homeServe s l else s
  | none => s

/-- Every access queued on a buffered line is served in order; fuel bounds them (R332). -/
def serveLine (l : Nat) : Nat → State → State
  | 0, s => s
  | f + 1, s => if lineQueued s l then serveLine l f (homeServe s l) else s

/-- Every access queued on a line is answered CELL_CHECK; fuel bounds them. -/
def refuseLine (l : Nat) : Nat → State → State
  | 0, s => s
  | f + 1, s =>
    match oldestOn s l with
    | some h => refuseLine l f (homeDone s h ecCellCheck [])
    | none => s

/-- A line's read is back: the buffer holds it and serves the queue, or its oldest access is applied; a lost one answers
CELL_CHECK. -/
def fetchDone (s : State) (f : HomeFetch) : State :=
  let s := endFetch s f.line
  let n := s.hive.home.length + 1
  let others := s.hive.hot.filter fun x => x.line != f.line
  match oldestOn s f.line with
  | none => if f.hot then setHive s { s.hive with hot := others } else s
  | some h =>
    if f.hot then
      if f.bad then refuseLine f.line n (setHive s { s.hive with hot := others })
      else
        let x : HotLine := { line := f.line, val := lineBytes s f.line, dirty := false }
        serveLine f.line n (hotApply s h x)
    else if f.bad then homeDone s h ecCellCheck []
    else memApply s h

/-- After HIVE_CFG.EN is cleared what is queued is served, and the dirty lines are written back; fuel bounds the accesses (R340). -/
def homeFlush : Nat → State → State
  | 0, s => s
  | f + 1, s =>
    match s.hive.home.find? fun x => x.req.op != 6 && (fetchOf s (lineOfRec x.req)).isNone with
    | some h => homeFlush f (homeServe s (lineOfRec h.req))
    | none => (s.hive.hot.filter fun x => (fetchOf s x.line).isNone).foldl hotDrop s

/-- The home's accesses at the memory port that are answered. -/
def homeSettle (s : State) : State :=
  let s := s.hive.fetch.foldl kickFetch s
  let s := (s.hive.fetch.filter fun f => f.out && !lineBusy s f.line false).foldl fetchDone s
  if rdb s R.HIVE_CFG_EN then s else homeFlush (s.hive.home.length + 1) s

/-- A granule the home read came back uncorrectable, at byte a of stack st as the block addresses it (R47, R130). -/
def homeLost (s : State) (st a : Nat) : State :=
  setHive s { s.hive with fetch := s.hive.fetch.map fun f =>
    let p := hivePlace s (64 * f.line)
    let hit := match cellPlace s (dir s (rd s R.HIVE_OBJ)) p.1 with
      | .hbm n slot => n == st && slot * cellSize + p.2 == a / 64 * 64
      | _ => false
    { f with bad := f.bad || hit } }

/-- A queued CELL_READ of the live view of a data cell that a row is writing waits for the ledger (R28, R182). -/
def cellReadHeld (s : State) (h : HomeReq) : Bool :=
  h.snap.isNone && !bit h.req.off 40 && bit h.req.off 39 && cellBusy s (bits h.req.off 38 10)

/-- Owner of the memory requests with which CELL_READs read their cells. -/
def cellOwner : Nat := 26

/-- A CELL_READ that is answered without a read of its cell: the granule was kept from before a cap, or the cell does not exist, is missing
or SUSPECT (R27, R329, R393). -/
def cellReadNow (s : State) (h : HomeReq) : Bool :=
  let c := bits h.req.off 38 10
  h.snap.isSome || (if bit h.req.off 40 then decide (parCells s ≤ c) || parMissing s c || lSuspect (ledgerP s c)
    else decide (dMax s ≤ c) || dataMissing s c || decide (rd s R.CMB_DATA_CELLS ≤ c) || lSuspect (ledger s c))

/-- A CELL_READ is answered: with the granule, or with CELL_CHECK when the cell is missing, SUSPECT or fails its check (R329, R389,
R393). -/
def cellReadAnswer (s : State) (h : HomeReq) : State :=
  let s := setHive s { s.hive with home := s.hive.home.erase h }
  let par := bit h.req.off 40
  let live := bit h.req.off 39
  let c := bits h.req.off 38 10
  let gran := bits h.req.off 9 0
  match h.snap with
  | some b => homeAnswer s h 0 b
  | none =>
    if if par then decide (parCells s ≤ c) else decide (dMax s ≤ c) then homeAnswer (count s C.HIVE_OOR) h ecDescriptor []
    else if if par then parMissing s c else dataMissing s c then homeAnswer s h ecCellCheck []
    else if par then
      if parViewOk s live c then homeAnswer s h 0 (slice (parView s live c) (64 * gran) 64)
      else homeAnswer (suspectPar s c) h ecCellCheck []
    else if dataViewOk s c then homeAnswer s h 0 (slice (dataView s live c) (64 * gran) 64)
    else homeAnswer (suspectData s c) h ecCellCheck []

/-- A CELL_READ whose cell has been read, or that needs no read, may be answered. -/
def cellReadReady (s : State) (h : HomeReq) : Bool := cellReadNow s h || (h.out && readsAnswered s cellOwner)

/-- The cells that are read for CELL_READs are back: these are answered (R389). -/
def cellReadsBack (s : State) : State :=
  (s.hive.home.filter fun x => x.req.op == 6 && x.out && cellReadReady s x && !cellReadHeld s x).foldl cellReadAnswer s

/-- CELL_READ: the oldest one queued that need not wait is answered, or its cell is read whole for its check; then it is answered when
every granule is back (R329, R389). -/
def cellReadEffect (s : State) : State :=
  match s.hive.home.find? fun x => x.req.op == 6 && !cellReadHeld s x && (!x.out || cellReadReady s x) with
  | none => s
  | some h =>
    if cellReadReady s h then cellReadAnswer s h
    else
      let c := bits h.req.off 38 10
      let p := if bit h.req.off 40 then parPlace s c else dataPlace s c
      let mark (x : HomeReq) : HomeReq := if x = h then { x with out := true } else x
      memRequest (setHive s { s.hive with home := s.hive.home.map mark }) cellOwner false false p.1 (p.2 * cellSize) cellSize

/-! ## The remote access engine (R334) -/

/-- The ready contexts, those of sources held left out: not issued, and no earlier request of its source waits. -/
def readyCtxs : List Nat → List HiveCtx → List HiveCtx
  | _, [] => []
  | held, c :: t =>
    match c.asker with
    | .host a _ =>
      if c.issued then readyCtxs held t
      else if held.contains a then readyCtxs held t
      else c :: readyCtxs (a :: held) t
    | _ => if c.issued then readyCtxs held t else c :: readyCtxs held t

/-- A ready context's request can go: into a flit, or to the own home when that can take it (R333, R334). -/
def canIssue (s : State) (c : HiveCtx) : Bool := !c.own || (homeTake s { peer := none, req := c.req, snap := none, out := false }).isSome

/-- The context that RAE_ISSUE serves: the next in round-robin order among the ready ones whose request can go. -/
def nextCtx (s : State) : Option HiveCtx :=
  let dist (c : HiveCtx) : Nat := (c.req.ctx + 4095 - s.hive.rr) % 4096
  ((readyCtxs [] s.hive.ctxs).filter (canIssue s)).foldl (fun b c => match b with
    | some x => if dist c < dist x then some c else some x
    | none => some c) none

/-- RAE_ISSUE: the next context's request goes to the own home or into a flit to its peer. -/
def raeIssueEffect (s : State) : State :=
  let s := admitCtxs 64 s
  match nextCtx s with
  | none => s
  | some c =>
    let mark (s : State) : State := setHive s { s.hive with rr := c.req.ctx, ctxs := s.hive.ctxs.map fun x =>
      if x.req.ctx = c.req.ctx then { x with issued := true, time := rd s R.TIME_TOD % 2 ^ 32 } else x }
    if c.own then
      match homeTake (mark s) { peer := none, req := c.req, snap := none, out := false } with
      | some s => count (count s C.RAE_LOCAL) C.RAE_ISSUED
      | none => s
    else count (packRec (mark s) c.peer false (hiveFlow c.req.off) (recBytesOf c.req)) C.RAE_ISSUED

/-- A request of the host port takes a context, or joins the admission queue, and its beats' credits go back; with the queue full it waits behind it
in the port's own buffer and keeps them (R37, R39, R334). -/
def hostAdmit (s : State) (c : HiveCtx) : State :=
  let pulse (s : State) : State := returnBeats s (twdBeats s c)
  if s.hive.admq = [] ∧ (freeCtx s).isSome then pulse (takeCtx s c ((freeCtx s).getD 0))
  else
    let full := decide (256 ≤ s.hive.admq.length)
    let s := setHive s { s.hive with admq := s.hive.admq ++ [c] }
    if full then holdHost s c else pulse (count s C.RAE_ADMIT_WAIT)

/-- A hive request of the host port (R38, R325, R334). A version-2 device takes no such message, and the request is refused (R297; DESIGN
CHOICE of the status, notes/assumptions/79). -/
def hostRequest (s : State) (r : Req) (op addr size : Nat) (data : Bytes) (be : Nat) : State :=
  let n := sizeBytes size
  let off := bits addr 40 0
  let dev := bits addr 46 41
  let rsp (stat : Nat) (d : Bytes) : State := refuseReq s r op n stat (if op = 0 then d else inLanes off d)
  if 5 < op ∨ 6 < size ∨ bits addr 57 47 ≠ 0 ∨ off % n ≠ 0 ∨ (2 ≤ op ∧ n ≠ 4 ∧ n ≠ 8) then
    rsp ecDescriptor (List.replicate n 0)
  else
    let ownDev := match ownPeer s with
      | some p => peerHive (peerEntry s p) == 64 + dev
      | none => false
    match (if ownDev then ownPeer s else peerOfDev s dev) with
    | none => rsp ecDescriptor (List.replicate n 0)
    | some p =>
      if !rdb s R.HIVE_CFG_EN then rsp ecDescriptor (List.replicate n 0)
      else if !ownDev && peerLost s p then rsp ecRemoteDead (poison n)
      else if !ownDev && peerProto (peerEntry s p) == 2 then rsp ecDescriptor (List.replicate n 0)
      else if rd s R.CMB_JOB_JOB_TAG = 0 then rsp 0x08 (List.replicate n 0)
      else
        let lane := if 32 ≤ n then 0 else off % 32
        let body := slice data lane n
        let mask := be / 2 ^ lane % 2 ^ n
        let c : HiveCtx :=
          { req := { ctx := 0, gen := 0, op := op, part := op == 1 && mask != 2 ^ n - 1, size := size, off := off,
                     mask := mask, data := if op = 0 then [] else body },
            peer := p, own := ownDev, asker := .host r.src.toNat r.tag.toNat, issued := false, time := 0 }
        hostAdmit s c

/-- A request flit of the job's own with a newer membership epoch: dropped, to be delivered again by re-send (R337). -/
def newerMemb (s : State) (tag memb : Nat) : Bool := tag == rd s R.CMB_JOB_JOB_TAG && decide (rd s R.CMB_JOB_MEMB_EPOCH < memb)

/-- Request records from a peer, packed back to back: a foreign job tag or an older membership epoch is answered
JOB_TAG_STALE under the requests' own in flits of their own, a newer one waits for its re-send (R328, R337; notes/assumptions/70). -/
def requestArrival (s : State) (p tag memb : Nat) (b : Bytes) : State :=
  let rs := takeRecs 30 b
  if tag ≠ rd s R.CMB_JOB_JOB_TAG ∨ memb < rd s R.CMB_JOB_MEMB_EPOCH then
    -- the answering flits carry the request's tag and epoch
    let t := rd s R.CMB_JOB_JOB_TAG
    let m := rd s R.CMB_JOB_MEMB_EPOCH
    let s := sendPack s p true
    let s := wr (wr s R.CMB_JOB_JOB_TAG tag) R.CMB_JOB_MEMB_EPOCH memb
    let s := rs.foldl (fun s r =>
      packRec (count s C.HIVE_STALE) p true (hiveFlow r.off) (respBytes r.ctx r.gen 0x08 (respData r 0x08 []))) s
    let s := sendPack s p true
    wr (wr s R.CMB_JOB_JOB_TAG t) R.CMB_JOB_MEMB_EPOCH m
  else if newerMemb s tag memb then s
  else
    takeWaiting (setHive s { s.hive with waitq := s.hive.waitq ++ rs.map fun r => { peer := some p, req := r, snap := none, out := false } })

/-- Response records from a peer, packed back to back, each as long as its request's answer, a late one as long as the answer of the request
that ended before it; a record of no request known ends the run (R335, R336; notes/assumptions/70). fuel bounds them. -/
def responsesIn : Nat → State → Nat → Bytes → State
  | 0, s, _, _ => s
  | f + 1, s, p, b =>
    let h := leAt b 0 8
    if b.length < 8 then s
    else
      match s.hive.ctxs.find? fun c => c.req.ctx == bits h 63 52 && c.req.gen == bits h 51 48 && c.peer == p && c.issued && !c.own with
      | none =>
        let n := get s.hive.late (bits h 63 48)
        if n = 0 then count s C.HIVE_LATE else responsesIn f (count s C.HIVE_LATE) p (b.drop n)
      | some c =>
        let n := respLen c.req
        let dead := bits h 47 40 == ecRemoteDead && c.req.op != 0
        let s := settleFences (finishCtx (fenceCtx s c.req.ctx c.req.gen dead) c (bits h 47 40) (slice b 8 (n - 8)))
        responsesIn f s p (b.drop n)

/-- The hive object's contents are lost: a free value stands in their place (R339). -/
def hiveLost (s : State) : State :=
  if !rdb s R.HIVE_CFG_EN then s
  else
    let n := s.free
    let o := rd s R.HIVE_OBJ
    let cell (m : Mem) (c : Nat) : Mem :=
      match cellPlace s (dir s o) c with
      | .hbm st slot => mwrite m (hbmKey s st (slot * cellSize)) ((List.range cellSize).map fun i => Config.hiveLostByte n (c * cellSize + i))
      | _ => m
    { s with free := n + 1, hbm := (List.range (objCells (dir s o))).foldl cell s.hbm }

/-- HIVE_CFG.EN written: enabling needs an own device number and a fit hive object; disabling applies and writes back what
is queued (R324, R326, R340). -/
def hiveEnable (s : State) (en : Bool) : State × Nat :=
  if en then
    let own := match ownPeer s with
      | some p => decide (64 ≤ peerHive (peerEntry s p))
      | none => false
    if !own || !hiveObjOk s then (s, ecDescriptor) else (wr s R.HIVE_CFG_EN 1, 0)
  else (homeFlush (s.hive.home.length + 1) (wr s R.HIVE_CFG_EN 0), 0)

/-! ## The rows' meanings -/

/-- HIVE_CFG_EN: an operator's write of HIVE_CFG.EN (R324). -/
def execHiveCfgEn (r : Req) (en : Bool) (s : State) : Ans := .next (answered r (unlessHeld (begin s) (hiveEnable (begin s) en)))

/-- HIVE_HOST_REQUEST: TREQ OP, ADDR, SIZE, and the write data with its byte enables (R38, R325). -/
def execHiveHostRequest (r : Req) (op : BitVec 4) (addr : BitVec 58) (size : BitVec 3) (data : Bytes) (be : BitVec 64)
    (s : State) : Ans := .next (hostRequest (begin s) r op.toNat addr.toNat size.toNat data be.toNat)

/-- RAE_ISSUE (R334). -/
def execRaeIssue (s : State) : Ans := .next (raeIssueEffect (begin s))

/-- HIVE_RESPONSE_RECORD: peer and record (R335, R336). -/
def execHiveResponseRecord (p : BitVec 12) (body : Bytes) (s : State) : Ans := .next (responsesIn 32 (begin s) p.toNat body)

/-- HIVE_PROGRESS_TIMEOUT of a peer (R336). -/
def execHiveProgressTimeout (p : BitVec 12) (s : State) : Ans := .next (deadPeer (begin s) p.toNat false)

/-- HIVE_PACK_TIMEOUT of a peer's request or response flit (R328). -/
def execHivePackTimeout (p : BitVec 12) (resp : Bool) (s : State) : Ans := .next (sendPack (begin s) p.toNat resp)

/-- HOT_LINE_IDLE of a line (R332). -/
def execHotLineIdle (line : BitVec 35) (s : State) : Ans :=
  let s := begin s
  .next (match hotOf s line.toNat with
    | some h => if lineQueued s line.toNat then s else hotDrop s h
    | none => s)

end Sys2Proof.Machine
end

