-- ==== Sys2Proof/Machine/Coll.lean ====
section
/-! DEFINITION. Groups, collectives and fences (R309 to R321). -/

namespace Sys2Proof.Machine

/-! ## Groups (R309, R551) -/

/-- Group table entry g. -/
def group (s : State) (g : Nat) : Nat := tget s 0x12 0 g

def grSeq (e : Nat) : Nat := bits e 127 96
def grTag (e : Nat) : Nat := bits e 95 64
def grValid (e : Nat) : Bool := bit e 63
def grList (e : Nat) : Nat := bits e 50 32
def grMe (e : Nat) : Nat := bits e 27 16
def grN (e : Nat) : Nat := bits e 12 0

/-- The peer of group index i. -/
def grPeer (s : State) (e i : Nat) : Nat := leVal (objRange s (grList e) (2 * i) 2)

/-- The group index of a peer. -/
def grIdxOf (s : State) (e p : Nat) : Option Nat := firstBelow (grN e) fun i => grPeer s e i == p

/-- The valid group with a GTAG. -/
def groupOfTag (s : State) (tag : Nat) : Option Nat :=
  ((s.tab.filter fun x => x.1 / 2 ^ 28 == 0x12 * 16).map fun x => x.1 % 2 ^ 28).find? fun g =>
    grValid (group s g) && grTag (group s g) == tag

/-- A COLL that names the group is fetched and not retired. -/
def groupInUse (s : State) (g : Nat) : Bool :=
  s.queues.any fun x => x.cmds.any fun r => opcodeOf r.raw == 2 && opd r.raw 59 48 == g

/-- GROUP_SUBMIT: an entry of the group table is stored with GSEQ 0, or refused (R309, R514). Reserved bits written as 1
set RSVD_WR and are ignored. -/
def groupSubmit (s : State) (r : Req) (data : Nat) (wide : Bool) : State × Nat :=
  let sel := rd s R.COL_GRP_IDX
  let i := selIndex sel
  let new := submitted s r.src.toNat 0x12 (group s i) data wide
  let s := dropStaged s r.src.toNat 0x12
  if selTable sel ≠ 0 ∨ 4096 ≤ i then (s, ecDescriptor)
  else
    let s := if bits new 62 51 ≠ 0 ∨ bits new 31 28 ≠ 0 ∨ bits new 15 13 ≠ 0 then pgError s 0x12 31 0 else s
    let n := grN new
    if groupInUse s i ∨ (grValid new ∧ (n < 2 ∨ 4096 < n ∨ n ≤ grMe new)) then (s, ecDescriptor)
    else
      (tput s 0x12 0 i (at' (grTag new) 64 + at' (b2n (grValid new)) 63 + at' (grList new) 32 + at' (grMe new) 16 + n), 0)

/-! ## The operands of a COLL (R138) -/

/-- A COLL's operands. -/
structure CollOp where
  sub : Nat
  epoch : Nat
  grp : Nat
  type : Nat
  src : Nat
  srcCell : Nat
  dst : Nat
  dstCell : Nat
  count : Nat
  root : Nat
  deriving DecidableEq, Repr

/-- The operands of a COLL's word. -/
def collOp (raw : Nat) : CollOp :=
  { sub := subopOf raw, epoch := opd raw 47 0, grp := opd raw 59 48, type := opd raw 63 60, src := opd raw 82 64,
    srcCell := opd raw 104 83, dst := opd raw 123 105, dstCell := opd raw 145 124, count := opd raw 177 146,
    root := opd raw 189 178 }

/-- The operands of an open collective's command. -/
def opOf (s : State) (c : Coll) : CollOp := collOp ((findRun s c.queue c.idx).getD Run.none).raw

/-- A row reduce-scatter: a drained list reduced to a reduced list (R317). -/
def rowForm (s : State) (o : CollOp) : Bool :=
  o.sub == 0 && oFmt (dir s o.src) == fmtByte && oFmt (dir s o.dst) == fmtByte

/-- TYPE is one of the state formats. -/
def stateType (o : CollOp) : Bool := decide (o.type < 3)

/-- Tile rows of one shard or range, for a state TYPE. -/
def shardTiles (s : State) (o : CollOp) : Nat := o.count / (128 * max 1 (oCols (dir s o.dst)))

/-- Destination cells of one shard or range. -/
def shardCells (s : State) (o : CollOp) : Nat :=
  if stateType o then shardTiles s o * gridCols (dir s o.dst) else o.count / cellSize

/-- Stripes of a parity scatter or rebuild chain. -/
def stripesOf (o : CollOp) : Nat := o.count / cellSize

/-! ## Checks at the start (R310, R313, R315, R316, R297) -/

/-- A range of whole tile rows from a cell lies in an object, with its elements in a state format. -/
def tilesOk (s : State) (x cell tiles : Nat) : Bool :=
  let e := dir s x
  objValid s x && decide (oFmt e < 3) && cell % max 1 (gridCols e) == 0 &&
    decide (cell + tiles * gridCols e ≤ objCells e)

/-- A range of whole cells of an object stored in TYPE. -/
def cellsOk (s : State) (type x cell n : Nat) : Bool :=
  objValid s x && oFmt (dir s x) == type && decide (cell + n ≤ objCells (dir s x))

/-- The staging object is fit (R316). -/
def stagingOk (s : State) (n : Nat) : Bool :=
  let x := rd s R.COL_STAGE_OBJ
  let e := dir s x
  objValid s x && oClass e == clsScratch && oTier e == 0 && decide (n * rd s R.COL_RS_WIN * cellSize ≤ objBytes e)

/-- The group is complete: a member list, and this member in it. -/
def groupOk (s : State) (g : Nat) : Bool :=
  let e := group s g
  let l := dir s (grList e)
  grValid e && objValid s (grList e) && oFmt l == fmtByte && (oClass l == clsScale || oClass l == clsScratch) &&
    decide (2 * grN e ≤ oRows l * oCols l)

/-- Members of a group by peer. -/
def grPeers (s : State) (e : Nat) : List Nat := (List.range (grN e)).map (grPeer s e)

/-- The checks of a COLL before anything is sent. -/
def collOk (s : State) (o : CollOp) : Bool :=
  let e := group s o.grp
  let n := grN e
  let d := dir s o.dst
  let tr := shardTiles s o
  let v2 := (grPeers s e).any fun p => peerProto (peerEntry s p) == 2
  let scr := oClass d == clsScratch
  let rep := scr || oClass d == clsReplica
  groupOk s o.grp && (decide (3 ≤ o.sub) || !(hiveTaken s o.src || hiveTaken s o.dst)) && o.count != 0 && (o.sub == 4 || !v2) && (o.sub == 2 || o.root == 0) &&
  (match o.sub with
  | 0 =>
    if rowForm s o then
      o.type == fmtW16 && listOk s o.src && (listHdr (objRange s o.src 0 64)).fmt == 0 && objValid s o.dst && scr &&
        o.count % 128 == 0 && stagingOk s n
    else stateType o && o.count % (128 * max 1 (oCols d)) == 0 && oCols (dir s o.src) == oCols d && scr &&
      tilesOk s o.src o.srcCell (n * tr) && tilesOk s o.dst o.dstCell tr && stagingOk s n
  | 1 =>
    if stateType o then o.count % (128 * max 1 (oCols d)) == 0 && oCols (dir s o.src) == oCols d && rep &&
      tilesOk s o.src o.srcCell tr && tilesOk s o.dst o.dstCell (n * tr)
    else o.count % cellSize == 0 && rep && cellsOk s o.type o.src o.srcCell (stripesOf o) &&
      cellsOk s o.type o.dst o.dstCell (n * stripesOf o)
  | 2 =>
    let me := decide (o.root < n) && (grMe e != o.root || (if stateType o then
        oCols (dir s o.src) == oCols d && tilesOk s o.src o.srcCell tr
      else cellsOk s o.type o.src o.srcCell (stripesOf o)))
    if stateType o then o.count % (128 * max 1 (oCols d)) == 0 && rep && me && tilesOk s o.dst o.dstCell tr
    else o.count % cellSize == 0 && rep && me && cellsOk s o.type o.dst o.dstCell (stripesOf o)
  | 3 => o.type == fmtByte && o.count % cellSize == 0 && n == cmbN s && grMe e == cmbRank s &&
      decide (o.srcCell + stripesOf o ≤ cmbS s) && stagingOk s n
  | _ => o.type == fmtByte && o.count % cellSize == 0 && decide (o.srcCell + stripesOf o ≤ cmbS s))

/-! ## Values in chunks (R313) -/

/-- The source element that goes to place i of destination cell j (counted from the range's first) in the cell's stored order, as row
and column; row0 is the source row that corresponds to the range's first. none for padding. -/
def sourceAt (s : State) (o : CollOp) (row0 j i : Nat) : Option (Nat × Nat) :=
  let de := dir s o.dst
  let tc := tileCols (oFmt de)
  let g := max 1 (gridCols de)
  let r := row0 + j / g * 128 + i / tc
  let c := j % g * tc + i % tc
  if oCols de ≤ c ∨ oRows (dir s o.src) ≤ r then none else some (r, c)

/-- Places of a destination cell. -/
def cellPlaces (s : State) (o : CollOp) : Nat := 128 * tileCols (oFmt (dir s o.dst))

/-- The source values that go to destination cell j, converted to TYPE as they are read (R313), with each conversion's counts by source
cell. Padding is zero. -/
def stateChunk (s : State) (o : CollOp) (row0 j : Nat) : Bytes × List (Nat × List Nat) :=
  let se := dir s o.src
  let vs := (List.range (cellPlaces s o)).map fun i =>
    match sourceAt s o row0 j i with
    | none => ((0, []), 0)
    | some (r, c) => (carried o.type (oFmt se) (elemRaw s o.src se r c), (elemPlace se r c).1)
  (vs.flatMap (fun v => leBytes (elemBytes o.type) v.1.1), (vs.filter fun v => v.1.2 != []).map fun v => (v.2, v.1.2))

/-- The source cells that destination cell j's values lie in. -/
def stateSources (s : State) (o : CollOp) (row0 j : Nat) : List Nat :=
  let se := dir s o.src
  let w := tileCols (oFmt (dir s o.dst))
  let c0 := j % max 1 (gridCols (dir s o.dst)) * w
  let c1 := min (c0 + w) (oCols se) - 1
  let r := row0 + j / max 1 (gridCols (dir s o.dst)) * 128
  if oRows se ≤ r then []
  else (List.range (c1 / tileCols (oFmt se) + 1 - c0 / tileCols (oFmt se))).map fun i => (elemPlace se r c0).1 + i

/-- The first source row of shard k (reduce-scatter) or of the range (k = 0). -/
def shardRow (s : State) (o : CollOp) (k : Nat) : Nat :=
  o.srcCell / max 1 (gridCols (dir s o.src)) * 128 + k * shardTiles s o * 128

/-- The slice whose stack holds a cell of an object (R79). -/
def objSlice (s : State) (o c : Nat) : Nat := placeSlice s (cellPlace s (dir s o) c)

/-- Kinds counted by cell of an object. -/
def countCells (s : State) (o : Nat) (l : List (Nat × List Nat)) : State := l.foldl (fun s x => countKinds s (objSlice s o x.1) x.2) s

/-- The bytes of chunk j of shard k, with the conversions' counts by source cell. -/
def chunkData (s : State) (o : CollOp) (k j : Nat) : Bytes × List (Nat × List Nat) :=
  if stateType o then stateChunk s o (shardRow s o k) j else (cellBytes s o.src (o.srcCell + k * stripesOf o + j), [])

/-- The cells of the source that chunk j of shard k is made of. -/
def chunkSources (s : State) (o : CollOp) (k j : Nat) : List Nat :=
  if stateType o then stateSources s o (shardRow s o k) j else [o.srcCell + k * stripesOf o + j]

/-- A chunk's values written to destination cell j, each conditioned and in the destination's format (R70, R80); a home write of the
COLL's epoch (R23). -/
def putChunk (s : State) (owner : Nat) (o : CollOp) (j : Nat) (data : Bytes) : State :=
  let e := dir s o.dst
  let w := elemBytes o.type
  let c := o.dstCell + j
  let r : Bytes × State :=
    if stateType o ∧ !(o.type == fmtL16 && oFmt e == fmtL16) then
      let vs := (List.range (cellPlaces s o)).map fun i => reformat (oFmt e) o.type (leAt data (i * w) w)
      (vs.flatMap fun v => leBytes (elemBytes (oFmt e)) v.1, countKinds s (objSlice s o.dst c) (vs.flatMap (·.2)))
    else (data, s)
  homeWritten (cellWrite r.2 owner o.epoch o.dst c 0 (slice r.1 0 cellSize)) o.dst o.epoch

/-! ## Messages (R312, R314) -/

/-- A collective control message. -/
def collMsg (kind status sender gtag seq digest matched : Nat) : Bytes :=
  leBytes 32 (at' matched 160 + at' digest 128 + at' seq 96 + at' gtag 64 + at' sender 16 + at' status 8 + kind)

/-- A chunk with its sub-header and CRC. -/
def chunkMsg (gtag seq j : Nat) (data : Bytes) : Bytes :=
  leBytes 16 (at' j 64 + at' seq 32 + gtag) ++ data ++ leBytes 4 (crc32 data)

/-- The data of a received chunk, and whether its CRC passes (R18). -/
def chunkBody (b : Bytes) : Bytes × Bool :=
  let d := (b.drop 16).take (b.length - 20)
  (d, decide (20 ≤ b.length) && leAt b (b.length - 4) 4 == crc32 d)

/-! ## The group's tree (R311) -/

/-- Tree neighbours of index x among n: parent first. -/
def grParent (x : Nat) : Option Nat := if x = 0 then none else some ((x - 1) / 8)
def grKids (n x : Nat) : List Nat := ((List.range 8).map fun i => 8 * x + 1 + i).filter (· < n)

/-- A collective control message to group index i; none goes to a version-2 peer (R297). -/
def toGroup (s : State) (g i : Nat) (b : Bytes) : State :=
  let p := grPeer s (group s g) i
  if peerValid (peerEntry s p) && peerProto (peerEntry s p) != 2 then sendMsg s p 6 0 b else s

/-- This member's parent and children in the tree, version-2 members left out: they take no part in the opening (R297; DESIGN CHOICE,
notes/assumptions/85). -/
def grUp (s : State) (e : Nat) : Option Nat := (grParent (grMe e)).filter fun i => peerProto (peerEntry s (grPeer s e i)) != 2
def grDown (s : State) (e : Nat) : List Nat :=
  (grKids (grN e) (grMe e)).filter fun i => peerProto (peerEntry s (grPeer s e i)) != 2

/-! ## Open collectives -/

/-- The open collective of a GTAG and sequence number. -/
def collOf (s : State) (gtag seq : Nat) : Option Coll := s.col.run.find? fun c => c.gtag == gtag && c.seq == seq

/-- An open collective stored. -/
def setColl (s : State) (c : Coll) : State :=
  setCol s { s.col with run := s.col.run.map fun x => if x.gtag = c.gtag ∧ x.seq = c.seq then c else x }

/-- An open collective dropped. -/
def dropColl (s : State) (c : Coll) : State :=
  setCol s { s.col with run := s.col.run.filter fun x => !(x.gtag == c.gtag && x.seq == c.seq) }

/-- Owner of the memory requests that write parity and rebuilt cells. -/
def collOwner : Nat := 22

/-- The unacknowledged end of a stream noted for a collective: the highest ESEQ it has numbered. -/
def noteAck (s : State) (c : Coll) (p vc : Nat) : State :=
  match collOf s c.gtag c.seq with
  | none => s
  | some c =>
    if peerProto (peerEntry s p) = 2 then s
    else
      let e := ((txOf s p vc).next + 2 ^ 32 - 1) % 2 ^ 32
      setColl s { c with acks := (c.acks.filter fun a => !(a.1 == p && a.2.1 == vc)) ++ [(p, vc, e)] }

/-- A data chunk sent to group index i. -/
def sendChunk (s : State) (c : Coll) (i type j : Nat) (data : Bytes) : State :=
  let p := grPeer s (group s c.grp) i
  let vc := (vcOfType type).getD 0
  let s := carryFor (sendMsg s p type (j % 2 ^ 16) (chunkMsg c.gtag c.seq j data)) p vc c.queue
  noteAck s c p vc

/-- Aborts counted by code. -/
def countAbort (s : State) (code : Nat) : State :=
  count s (if code = 1 then C.COL_ABORT_MISMATCH else if code = ecRemoteDead then C.COL_ABORT_DEAD else C.COL_ABORT_OTHER)

/-- ABORT sent to the tree neighbours of group g but one. -/
def sendAborts (s : State) (g gtag seq digest code : Nat) (except : Option Nat) : State :=
  let e := group s g
  ((grUp s e).toList ++ grDown s e).foldl (fun s i =>
    if some i = except then s else toGroup s g i (collMsg 3 code (grMe e) gtag seq digest 0)) s

/-- ABORT of an open collective. -/
def sendAbort (s : State) (c : Coll) (code : Nat) (except : Option Nat) : State := sendAborts s c.grp c.gtag c.seq c.digest code except

/-- A collective ends with an abort's code; its record carries the group sequence (R148). -/
def collFail (s : State) (c : Coll) (code : Nat) : State := finish (countAbort (dropColl s c) code) c.queue c.idx code c.seq 0

/-- This member aborts: ABORT to every neighbour, and the COLL completes with the code. -/
def collAbort (s : State) (c : Coll) (code : Nat) : State := collFail (sendAbort s c code none) c code

/-- Peers without which a collective cannot go on: before OPEN the children whose DESC is missing, or the parent; after it
the peers whose acknowledgement is missing. -/
def collBlocked (s : State) (c : Coll) : List Nat :=
  let e := group s c.grp
  if c.opened then (c.acks.filter fun a => !serialGt (txOf s a.1 a.2.1).ack a.2.2).map (·.1)
  else
    let miss := (grDown s e).filter fun i => !(c.kids.any fun k => k.1 == i)
    if miss = [] then ((grUp s e).map (grPeer s e)).toList else miss.map (grPeer s e)

/-! ## The rows of a list reduce-scatter (R317) -/

/-- Records of the source list with their rows and values in W16, ascending, and the conversions' counts by source cell (R313). -/
def listRows (s : State) (o : CollOp) : List (Nat × List Nat) × List (Nat × List Nat) :=
  let h := listHdr (objRange s o.src 0 64)
  let sz := recSize h.fmt h.cols
  let rs := (List.range h.count).map fun i =>
    let r := listRec s o.src h i
    (i, r.1, r.2.map (reformat fmtW16 fmtS32))
  (rs.map (fun r => (r.2.1, r.2.2.map (·.1))),
   rs.flatMap fun r => (List.range r.2.2.length).filterMap fun c =>
     let k := (r.2.2.getD c (0, [])).2
     if k = [] then none else some ((64 + r.1 * sz + 8 + 4 * c) / cellSize, k))

/-- The chunk of a cell of a shard: rows as records, or above INTK_DENSE_THR rows a row-valid field and the dense cell. -/
def listChunk (s : State) (cols row0 seg : Nat) (rows : List (Nat × List Nat)) : Bytes :=
  let n := min 128 (cols - 128 * seg)
  let vals (l : List Nat) : Bytes := ((l.drop (128 * seg)).take n).flatMap (leBytes 2)
  if rows.length ≤ rd s R.INTK_DENSE_THR then
    rows.flatMap fun r => slice (leBytes 8 r.1 ++ vals r.2) 0 (recSize 1 n)
  else
    leBytes 16 ((rows.map fun r => 2 ^ (r.1 - row0)).sum) ++ (List.range 128).flatMap fun i =>
      match rows.find? fun r => r.1 == row0 + i with
      | some r => slice (vals r.2) 0 256
      | none => List.replicate 256 0

/-- The chunks of shard k with their indices, ascending. -/
def listChunks (s : State) (o : CollOp) (rows : List (Nat × List Nat)) (k : Nat) : List (Nat × Bytes) :=
  let cols := (listHdr (objRange s o.src 0 64)).cols
  let segs := ceilDiv cols 128
  (List.range (o.count / 128)).flatMap fun t =>
    let row0 := k * o.count + 128 * t
    let here := rows.filter fun r => decide (row0 ≤ r.1) && decide (r.1 < row0 + 128)
    if here = [] then [] else (List.range segs).map fun g => (t * segs + g, listChunk s cols row0 g here)

/-- The chunk index of an END chunk: the manual gives it no layout (DESIGN CHOICE, notes/assumptions/49). -/
def endIndex : Nat := 2 ^ 24 - 1

/-- The values a staged chunk holds for a row, or none: n columns. -/
def chunkRow (data : Bytes) (n row0 row : Nat) : Option (List Nat) :=
  if data.length = 16 + 128 * 256 then
    if bit (leAt data 0 16) (row - row0) then some ((List.range n).map fun c => leAt data (16 + 256 * (row - row0) + 2 * c) 2)
    else none
  else
    let sz := recSize 1 n
    ((List.range (data.length / sz)).find? fun i => leAt data (i * sz) 4 == row).map fun i =>
      (List.range n).map fun c => leAt data (i * sz + 8 + 2 * c) 2

/-! ## Forming results (R95, R213) -/

/-- The sum of an element's leaves with the overflows of its nodes: by the rank-ordered tree, or in FAST mode folded in order of arrival
(R95, R97). The own leaf, which does not arrive, is folded last (DESIGN CHOICE, notes/assumptions/86). -/
def rankSum (fast : Bool) (order : List Nat) (n : Nat) (leaf : Nat → Option Nat) : Option Nat × Nat :=
  if fast then (order.filterMap leaf).foldl (fun a v => match a.1 with
    | none => (some v, a.2)
    | some x => (some (fAdd x v).v, a.2 + b2n (fAdd x v).cnt)) (none, 0)
  else (treeSum ((List.range n).map leaf), treeCnt 40 ((List.range n).map leaf))

/-- A leaf as it enters the sum: conditioned, a NaN as an empty leaf (R75, R190), and whether it counts. -/
def leafOf (type v : Nat) : Option Nat × Bool :=
  let r := condition (widen type v)
  (if r.clr then none else some r.v, r.cnt)

/-- An element formed from its leaves: the sum converted once to a format, and the kinds it counts under (R93, R213). DESIGN CHOICE
(notes/assumptions/108): where every leaf is empty, all contributions being NaN, the element written is +0. -/
def formElem (fast : Bool) (order : List Nat) (n fmt type : Nat) (leaf : Nat → Option Nat) : Nat × List Nat :=
  let ls := (List.range n).map fun k => (leaf k).map (leafOf type)
  let r := rankSum fast order n fun k => ((ls.getD k none).map (·.1)).join
  let v := convert fmt (r.1.getD 0)
  (v.v, List.replicate ((ls.filter fun l => (l.map (·.2)).getD false).length) 0 ++ List.replicate r.2 3 ++
    (if v.cnt then [0x0F] else []))

/-- The members in the order in which their chunks j arrived, the own last. -/
def arrivalOf (c : Coll) (me j : Nat) : List Nat := ((c.staged.filter fun x => x.2.1 == j && x.1 != me).map (·.1)) ++ [me]

/-- The staged chunk j of a member. -/
def stagedOf (c : Coll) (i j : Nat) : Bytes := ((c.staged.find? fun x => x.1 == i && x.2.1 == j).map (·.2.2)).getD []

/-- A dense destination cell formed from every member's chunk j: every element is written (R213). In FAST mode the own leaf, which does
not arrive, is folded last (R17, R97; DESIGN CHOICE, notes/assumptions/86). -/
def formDense (s : State) (c : Coll) (o : CollOp) (j : Nat) : State :=
  let e := group s c.grp
  let n := grN e
  let d := dir s o.dst
  let w := elemBytes o.type
  let parts := (List.range n).map fun i => stagedOf c i j
  let fast := fastMode s o.epoch
  let order := arrivalOf c (grMe e) j
  let pad (i : Nat) : Bool :=
    let k := j % max 1 (gridCols d)
    decide (oCols d ≤ k * tileCols (oFmt d) + i % tileCols (oFmt d))
  let vs := (List.range (cellPlaces s o)).map fun i =>
    if pad i then (0, []) else formElem fast order n (oFmt d) o.type fun k => some (leAt (parts.getD k []) (i * w) w)
  let s := countKinds s (objSlice s o.dst (o.dstCell + j)) (vs.flatMap (·.2))
  let s := cellWrite s c.owner o.epoch o.dst (o.dstCell + j) 0 (slice (vs.flatMap fun v => leBytes (elemBytes (oFmt d)) v.1) 0 cellSize)
  setColl (homeWritten s o.dst o.epoch) { c with formed := c.formed ++ [j], staged := c.staged.filter fun x => x.2.1 != j }

/-- The rows of a shard that some member sent, as (tile, row of the tile): ascending, or in FAST mode in the order in which they arrive at
the owner, whatever their tile (R213, R220). seen: the chunks (member, tile) in order of arrival. The own rows, which do not arrive, come
last (DESIGN CHOICE, notes/assumptions/86). -/
def shardRows (fast : Bool) (n tiles me : Nat) (seen : List (Nat × Nat)) (has : Nat → Nat → Nat → Bool) : List (Nat × Nat) :=
  let rows (i t : Nat) : List (Nat × Nat) := ((List.range 128).filter (has i t)).map fun r => (t, r)
  if fast then (((seen.filter fun y => y.1 != me).flatMap fun y => rows y.1 y.2) ++ (List.range tiles).flatMap (rows me)).eraseDups
  else (List.range tiles).flatMap fun t => ((List.range 128).filter fun r => (List.range n).any fun i => has i t r).map fun r => (t, r)

/-- The reduced list formed when every sender's chunks are in: one record per row that any rank sent, ascending, or in FAST mode in order
of arrival. A destination too small for it completes the COLL with DESCRIPTOR. -/
def formList (s : State) (c : Coll) (o : CollOp) : State :=
  let e := group s c.grp
  let n := grN e
  let me := grMe e
  let h := listHdr (objRange s o.src 0 64)
  let segs := ceilDiv h.cols 128
  let fast := fastMode s o.epoch
  let width (g : Nat) : Nat := min 128 (h.cols - 128 * g)
  let row0 (t : Nat) : Nat := me * o.count + 128 * t
  let leaf (g i t r : Nat) : Option (List Nat) := chunkRow (stagedOf c i (t * segs + g)) (width g) (row0 t) (row0 t + r)
  let seen := (c.staged.filter fun y => y.2.1 % max 1 segs == 0).map fun y => (y.1, y.2.1 / max 1 segs)
  let recs := (shardRows fast n (o.count / 128) me seen fun i t r => (leaf 0 i t r).isSome).map fun y =>
    (row0 y.1 + y.2, (List.range segs).flatMap fun g =>
      let ls := (List.range n).map fun i => leaf g i y.1 y.2
      (List.range (width g)).map fun k =>
        formElem fast (arrivalOf c me (y.1 * segs + g)) n fmtW16 fmtW16 fun i => (ls.getD i none).map fun l => l.getD k 0)
  let sz := recSize 1 h.cols
  let d := dir s o.dst
  if oRows d * oCols d < 64 + recs.length * sz then collFail s c ecDescriptor
  else
    let b := hdrBytes recs.length 1 h.lrows h.cols h.idObj ++
      recs.flatMap fun r => slice (leBytes 8 r.1 ++ r.2.flatMap fun v => leBytes 2 v.1) 0 sz
    let cnt := (List.range recs.length).flatMap fun k =>
      let vs := (recs.getD k (0, [])).2
      (List.range vs.length).filterMap fun i =>
        let l := (vs.getD i (0, [])).2
        if l = [] then none else some ((64 + k * sz + 8 + 2 * i) / cellSize, l)
    let s := writeBytes (countCells s o.dst cnt) c.owner o.epoch o.dst 0 b
    setColl (homeWritten s o.dst o.epoch) { c with formed := [0], staged := [] }

/-! ## Parity and rebuilt cells (R318, R319, R372) -/

/-- A coded cell written whole and settled at an epoch: TAG and CAP_TAG, its CRC, POS and undo fields zero; RELOC stays (R401). -/
def settleCell (s : State) (par : Bool) (cell ep : Nat) (b : Bytes) : State :=
  let p := if par then parPlace s cell else dataPlace s cell
  let s := memWrite s collOwner par p.1 (p.2 * cellSize) b
  let old := if par then ledgerP s cell else ledger s cell
  let v := at' (ep % 2 ^ 16) 112 + at' (ep % 2 ^ 16) 96 + at' (bits old 66 66) 66 + crc64 b
  if par then setLedgerPX s cell v 0 else setLedger s cell v

/-- Stripes of a collective's range in which this member holds parity. -/
def parStripes (s : State) (o : CollOp) : List Nat :=
  ((List.range (stripesOf o)).map (o.srcCell + ·)).filter fun t =>
    (parHolders (cmbN s) (cmbM s) (cmbFixed s) t).contains (cmbRank s)

/-- Data cells of the range on this member: stripe and cell. -/
def scatterCells (s : State) (o : CollOp) : List (Nat × Nat) :=
  ((List.range (stripesOf o)).map (o.srcCell + ·)).filterMap fun t =>
    (dataCellOf (cmbN s) (cmbM s) (cmbFixed s) (cmbRank s) t).map fun d => (t, d)

/-- A parity cell computed from scratch once every data holder's chunk of its stripe is in. -/
def formParity (s : State) (c : Coll) (o : CollOp) (t : Nat) : State :=
  let n := cmbN s
  let m := cmbM s
  let f := cmbFixed s
  let j := (parIndex n m f (cmbRank s) t).getD 0
  let b := (c.staged.filter fun x => x.2.1 == t - o.srcCell).foldl (fun a x =>
    xorBytes a (gfScale (coef m j (dataPos n m f x.1 t)) (slice x.2.2 0 cellSize))) (List.replicate cellSize 0)
  let s := settleCell s true (parCellOf n m f (cmbRank s) t) (capped s) b
  setColl s { c with formed := c.formed ++ [t - o.srcCell], staged := c.staged.filter fun x => x.2.1 != t - o.srcCell }

/-- The surviving ranks of a rebuild chain's group, in list order, and the lost rank. -/
def chainRanks (s : State) (g : Nat) : List Nat × Nat :=
  let ps := grPeers s (group s g)
  let rs := (ps.take (ps.length - 1)).filterMap (peerRank s)
  (rs, (firstBelow (cmbN s) fun r => !rs.contains r).getD 0)

/-- The contributors and coefficients of a chain's stripe. -/
def chainCoefs (s : State) (rs : List Nat) (lost t : Nat) : List (Nat × Nat) :=
  let n := cmbN s
  let m := cmbM s
  let cs := rs.take (n - m)
  let ds := decodeCoefs (cs.map fun r => codeRow n m (cmbFixed s) r t) (codeRow n m (cmbFixed s) lost t)
  (List.range cs.length).map fun i => (cs.getD i 0, ds.getD i 0)

/-- This member's term of a stripe: its cell in the capped view, scaled. -/
def chainTerm (s : State) (t coeff : Nat) : Bytes :=
  let c := cellOfRank s (cmbRank s) t
  gfScale coeff (ownCell s false c.1 c.2)

/-- Stripes of a chain in which this member contributes: stripe, its place among the contributors, coefficient, and how many
contribute. -/
def chainTurns (s : State) (c : Coll) (o : CollOp) : List (Nat × Nat × Nat × Nat) :=
  let r := chainRanks s c.grp
  ((List.range (stripesOf o)).map (o.srcCell + ·)).filterMap fun t =>
    let cs := chainCoefs s r.1 r.2 t
    if grMe (group s c.grp) + 1 = grN (group s c.grp) then none
    else (firstBelow cs.length fun i => (cs.getD i (0, 0)).1 == cmbRank s).map fun i => (t, i, (cs.getD i (0, 0)).2, cs.length)

/-- The group index a chain's chunk goes to after contributor i of k. -/
def chainNext (s : State) (c : Coll) (i k : Nat) : Nat := if i + 1 = k then grN (group s c.grp) - 1 else i + 1

/-! ## Completion (R315, R320) -/

/-- How many results this member must form. -/
def collNeed (s : State) (c : Coll) (o : CollOp) : Nat :=
  let e := group s c.grp
  match o.sub with
  | 0 => if rowForm s o then 1 else shardCells s o
  | 1 => grN e * shardCells s o
  | 2 => if grMe e = o.root then 0 else shardCells s o
  | 3 => (parStripes s o).length
  | _ => if grMe e + 1 = grN e then stripesOf o else 0

/-- What a completed collective leaves: the marks of a dense reduce-scatter (R218). -/
def collLeaves (s : State) (o : CollOp) : State :=
  if o.sub = 0 then
    let s := noteWrote s o.epoch o.dst
    if !rowForm s o then
      setMark s { epoch := o.epoch, obj := o.dst, dense := true, first := o.dstCell, count := shardCells s o, rows := [] }
    else s
  else s

/-! ## Sending, part by part (R313 to R319) -/

/-- A part of the source that is sent as a whole: the receiving shard or member, and the chunk; for a parity scatter the stripe and the
data cell, for a chain the place in chainTurns. -/
abbrev Part := Nat × Nat

/-- A broadcast's children of group index i. -/
def castKids (n root i : Nat) : List Nat := (grKids n ((i + n - root) % n)).map fun x => (x + root) % n

/-- How many parts this member sends. -/
def partCount (s : State) (c : Coll) (o : CollOp) : Nat :=
  let e := group s c.grp
  match o.sub with
  | 0 => if rowForm s o then 1 else grN e * shardCells s o
  | 1 => shardCells s o
  | 2 => if grMe e = o.root then shardCells s o else 0
  | 3 => (scatterCells s o).length
  | _ => (chainTurns s c o).length

/-- Part u: the other members' shards in group order and the own last, each in ascending cells (R313). -/
def partAt (s : State) (c : Coll) (o : CollOp) (u : Nat) : Part :=
  let e := group s c.grp
  match o.sub with
  | 0 =>
    let n := max 1 (shardCells s o)
    ((((List.range (grN e)).filter (· != grMe e)) ++ [grMe e]).getD (u / n) 0, u % n)
  | 3 => (scatterCells s o).getD u (0, 0)
  | _ => (0, u)

/-- The cells a part is made of: cells of the source object, data cells of the own rank (own), or parity cells. -/
structure PartCells where
  src : List Nat
  data : List Nat
  par : List Nat
  deriving DecidableEq, Repr

/-- The cells a part is read from. -/
def partCells (s : State) (c : Coll) (o : CollOp) (p : Part) : PartCells :=
  let obj (l : List Nat) : PartCells := { src := l, data := [], par := [] }
  match o.sub with
  | 0 =>
    if rowForm s o then
      let h := listHdr (objRange s o.src 0 64)
      obj (List.range ((64 + h.count * recSize h.fmt h.cols - 1) / cellSize + 1))
    else obj (chunkSources s o p.1 p.2)
  | 1 | 2 => obj (chunkSources s o 0 p.2)
  | 3 => { src := [], data := [p.2], par := [] }
  | _ =>
    let x := (chainTurns s c o).getD p.2 (0, 0, 0, 0)
    let y := cellOfRank s (cmbRank s) x.1
    if y.1 then { src := [], data := [], par := [y.2] } else { src := [], data := [y.2], par := [] }

/-- A chain's part waits for the chunk of the contributor before (R319). -/
def partChunk (s : State) (c : Coll) (o : CollOp) (p : Part) : Option Bytes :=
  let x := (chainTurns s c o).getD p.2 (0, 0, 0, 0)
  if o.sub ≠ 4 ∨ x.2.1 = 0 then some []
  else (c.staged.find? fun y => y.2.1 == x.1 - o.srcCell).map (·.2.2)

/-- The data cells behind a part: those named, and those of a UNIQUE source. -/
def partData (s : State) (o : CollOp) (x : PartCells) : List Nat :=
  x.data ++ if oClass (dir s o.src) = clsUnique then x.src.map fun k => oHome (dir s o.src) + k else []

/-- What a part's cells still wait for is set going: a rebuild, a decoding, a repair, a cache (R127, R175, R367, R377). -/
def partReady (s : State) (c : Coll) (o : CollOp) (x : PartCells) : State × Bool :=
  let ds := (partData s o x).filter fun d => isKept d || decide (d < rd s R.CMB_DATA_CELLS)
  let kept := wantAll s (ds.filter isKept)
  if ds.any (dataMissing s) then (pullData s c.owner ds, false)
  else if x.par.any (parMissing s) then (x.par.foldl (fun s p => pullStripe s c.owner (parStripe (cmbN s) (cmbM s) (cmbFixed s) (cmbRank s) p)) s, false)
  else if !kept.2 then (kept.1, false)
  else if ds.any (cellSuspect s) || x.par.any (fun p => lSuspect (ledgerP s p)) then (s, false)
  else if oClass (dir s o.src) = clsCompat then cacheAll c.owner (qOf s c.queue).tenant (x.src.map fun k => (o.src, k)) s
  else (s, true)

/-- A part's cells are read on their ports. -/
def partFetch (s : State) (c : Coll) (o : CollOp) (x : PartCells) : State :=
  let s := x.src.foldl (fun s k => cellFetch s c.owner o.src k) s
  let s := x.data.foldl (fun s d => if rd s R.CMB_DATA_CELLS ≤ d then s else (placeRead s c.owner (.hbm (dataPlace s d).1 (dataPlace s d).2) 0 cellSize).2) s
  x.par.foldl (fun s p => (placeRead s c.owner (.hbm (parPlace s p).1 (parPlace s p).2) 0 cellSize).2) s

/-- A part is sent, or kept where it is the member's own. -/
def partSend (s : State) (c : Coll) (o : CollOp) (p : Part) : State :=
  let e := group s c.grp
  let me := grMe e
  let others := (List.range (grN e)).filter (· != me)
  let stage (s : State) (j : Nat) (b : Bytes) : State :=
    match collOf s c.gtag c.seq with
    | some c => setColl s { c with staged := c.staged ++ [(me, j, b)] }
    | none => s
  match o.sub with
  | 0 =>
    if rowForm s o then
      let rows := listRows s o
      let s := countCells s o.src rows.2
      let s := others.foldl (fun s k =>
        let cs := listChunks s o rows.1 k
        let s := cs.foldl (fun s x => sendChunk s c k 0x0A x.1 x.2) s
        sendChunk s c k 0x0A endIndex (leBytes 4 cs.length)) s
      (listChunks s o rows.1 me).foldl (fun s x => stage s x.1 x.2) s
    else
      let d := chunkData s o p.1 p.2
      let s := countCells s o.src d.2
      if p.1 = me then stage s p.2 d.1 else sendChunk s c p.1 0x0A p.2 d.1
  | 1 =>
    let d := chunkData s o 0 p.2
    let j := me * shardCells s o + p.2
    stage (others.foldl (fun s k => sendChunk s c k 0x0B j d.1) (countCells s o.src d.2)) j d.1
  | 2 =>
    let d := chunkData s o 0 p.2
    (castKids (grN e) o.root me).foldl (fun s k => sendChunk s c k 0x0B p.2 d.1) (countCells s o.src d.2)
  | 3 =>
    (parHolders (cmbN s) (cmbM s) (cmbFixed s) p.1).foldl (fun s r =>
      sendChunk s c r 0x09 (p.1 - o.srcCell) (dataView s false p.2)) s
  | _ =>
    let x := (chainTurns s c o).getD p.2 (0, 0, 0, 0)
    let term := chainTerm s x.1 x.2.2.1
    let b := match partChunk s c o p with
      | some [] => term
      | some d => xorBytes (slice d 0 cellSize) term
      | none => term
    let s := setColl s { c with staged := c.staged.filter fun y => y.2.1 != x.1 - o.srcCell }
    sendChunk s c (chainNext s c x.2.1 x.2.2.2) 0x09 (x.1 - o.srcCell) b

/-- The parts of an open collective that can be sent are sent, in order: each part's cells are read through the ports and checked first.
A source cell that cannot be had ends the COLL with CELL_CHECK. fuel bounds the parts. -/
def collParts (gtag seq : Nat) : Nat → State → State
  | 0, s => s
  | f + 1, s =>
    match collOf s gtag seq with
    | none => s
    | some c =>
      let o := opOf s c
      if !c.opened || decide (partCount s c o ≤ c.next) then s
      else
        let p := partAt s c o c.next
        let x := partCells s c o p
        let ds := partData s o x
        if c.lost || ds.any (repairGone s) || ds.any (keptGone s) then collAbort s c ecCellCheck
        else if (partChunk s c o p).isNone then s
        else
          let r := if c.reading then (s, true) else partReady s c o x
          let s := r.1
          if !r.2 then s
          else
            let s := if c.reading then s else partFetch (setColl s { c with reading := true }) c o x
            if !readsIn s c.owner then s
            else
              let bad := ds.filter fun d => decide (d < rd s R.CMB_DATA_CELLS) && !dataCellOk s d
              let badP := x.par.filter fun p => !parCellOk s p
              if bad ≠ [] ∨ badP ≠ [] then setColl (badP.foldl suspectPar (bad.foldl suspectData s)) { c with reading := false }
              else
                let c := { c with next := c.next + 1, reading := false }
                collParts gtag seq f (partSend (setColl s c) c o p)

/-! ## Writing results (R315 to R319) -/

/-- What the staged chunks of index j let an open collective write. A destination that a MOVE copies waits (R114). -/
def collWrite (gtag seq : Nat) (s : State) (j : Nat) : State :=
  match collOf s gtag seq with
  | none => s
  | some c =>
    let o := opOf s c
    let e := group s c.grp
    if o.sub < 3 ∧ movingFor s o.dst then s
    else
      match o.sub with
      | 0 =>
        if rowForm s o then
          if c.formed = [] && decide (1 ≤ c.next) && ((List.range (grN e)).filter (· != grMe e)).all fun k =>
              match c.ends.find? fun x => x.1 == k with
              | some x => decide (x.2 ≤ (c.staged.filter fun y => y.1 == k).length)
              | none => false then formList s c o
          else s
        else if decide (j < shardCells s o) && !c.formed.contains j &&
            ((List.range (grN e)).all fun k => c.staged.any fun x => x.1 == k && x.2.1 == j) then formDense s c o j
        else s
      | 1 | 2 =>
        match c.staged.find? fun x => x.2.1 == j with
        | none => s
        | some x => setColl (putChunk s c.owner o j x.2.2) { c with formed := c.formed ++ [j], staged := c.staged.filter fun y => y.2.1 != j }
      | 3 =>
        let t := o.srcCell + j
        let holders := (List.range (grN e)).filter fun r => (dataCellOf (cmbN s) (cmbM s) (cmbFixed s) r t).isSome
        if (parStripes s o).contains t && (holders.all fun r => c.staged.any fun x => x.1 == r && x.2.1 == j) then formParity s c o t
        else s
      | _ =>
        match (if grMe e + 1 = grN e then c.staged.find? fun x => x.2.1 == j else none) with
        | none => s
        | some x =>
          let y := cellOfRank s (chainRanks s c.grp).2 (o.srcCell + j)
          setColl (settleCell s y.1 y.2 (capped s) (slice x.2.2 0 cellSize))
            { c with formed := c.formed ++ [j], staged := c.staged.filter fun y => y.2.1 != j }

/-- A collective whose parts are sent and acknowledged and whose results are written completes (R315, R320). -/
def settleColl (s : State) (c : Coll) : State :=
  match collOf s c.gtag c.seq with
  | none => s
  | some c =>
    let o := opOf s c
    if c.opened && decide (partCount s c o ≤ c.next) && decide (collNeed s c o ≤ c.formed.length) &&
        (c.acks.all fun a => serialGt (txOf s a.1 a.2.1).ack a.2.2) && writesAcked s c.owner && writesAcked s collOwner then
      drainChecks (finish (count (collLeaves (dropColl s c) o) C.COL_DONE) c.queue c.idx 0 c.seq 0)
    else s

/-- The indices of the chunks an open collective has staged; of a list reduce-scatter the one result. -/
def stagedIdxs (s : State) (c : Coll) : List Nat := if rowForm s (opOf s c) then [0] else (c.staged.map fun x => x.2.1).eraseDups

/-- An open collective goes on as far as it can: it sends, writes and completes. -/
def collPump (s : State) (c : Coll) : State :=
  match collOf s c.gtag c.seq with
  | none => s
  | some c =>
    if !c.opened then s
    else
      let s := collParts c.gtag c.seq (partCount s c (opOf s c) + 1) s
      let js := (collOf s c.gtag c.seq).map (stagedIdxs s)
      settleColl ((js.getD []).foldl (collWrite c.gtag c.seq) s) c

/-- Every open collective goes on. -/
def settleColls (s : State) : State := s.col.run.foldl collPump s

/-- What waited for a repair, a move, a cache or a port goes on: moves, held write-backs and collectives. -/
def resumeUnits (s : State) : State := settleColls (resumeBacks (resumeMoves s))

/-! ## Data in (R315 to R319) -/

/-- A chunk of an opened collective is staged, a broadcast's forwarded at once to the own children. -/
def chunkUse (s : State) (c : Coll) (x : Nat × Nat × Bytes) : State :=
  match collOf s c.gtag c.seq with
  | none => s
  | some c =>
    let o := opOf s c
    if x.2.1 = endIndex ∧ rowForm s o then setColl s { c with ends := c.ends ++ [(x.1, leAt x.2.2 0 4)] }
    else
      let s := setColl s { c with staged := c.staged ++ [x] }
      if o.sub = 2 then
        (castKids (grN (group s c.grp)) o.root (grMe (group s c.grp))).foldl (fun s k => sendChunk s c k 0x0B x.2.1 x.2.2) s
      else s

/-- A collective opens here: OPEN goes to the children, the data is sent, and chunks that came early are used. -/
def collOpen (s : State) (c : Coll) : State :=
  if c.opened then s
  else
    let e := group s c.grp
    let early := c.staged
    let c := { c with opened := true, staged := [] }
    let s := setColl s c
    let s := (grDown s e).foldl (fun s i => toGroup s c.grp i (collMsg 2 0 (grMe e) c.gtag c.seq c.digest 0)) s
    collPump (early.foldl (fun s x => chunkUse s c x) s) c

/-- A node's own digest and its children's agree: DESC goes up, or at the root the collective opens (R311). -/
def collForward (s : State) (c : Coll) : State :=
  let e := group s c.grp
  let me := grMe e
  if c.told || !((grDown s e).all fun i => c.kids.any fun k => k.1 == i) then s
  else
    let m := 1 + (c.kids.map (·.2)).sum
    let c := { c with told := true }
    let s := setColl s c
    match grUp s e with
    | some p => toGroup s c.grp p (collMsg 1 0 me c.gtag c.seq c.digest m)
    | none => collOpen s c

/-- A DESC of a child for a started collective: a different digest aborts it. -/
def descFor (s : State) (c : Coll) (d : EarlyDesc) : State :=
  if d.digest ≠ c.digest then collAbort s c 1
  else if c.kids.any fun k => k.1 == d.sender then s
  else
    let c := { c with kids := c.kids ++ [(d.sender, d.matched)] }
    collForward (setColl s c) c

/-- The waiting DESCs of a collective are taken up. -/
def takeEarly (s : State) (gtag seq : Nat) : State :=
  let mine := s.col.early.filter fun d => d.gtag == gtag && d.seq == seq
  let s := setCol s { s.col with early := s.col.early.filter fun d => !(d.gtag == gtag && d.seq == seq) }
  mine.foldl (fun s d => match collOf s gtag seq with
    | some c => descFor s c d
    | none => s) s

/-- The ABORT that came for a COLL before it started here. -/
def abortedAs (s : State) (gtag seq : Nat) : Option Nat := (s.col.aborted.find? fun a => a.1 == gtag && a.2.1 == seq).map (·.2.2)

/-- A COLL starts: it takes its sequence number and digest, and fails, aborts or sends its DESC (R310, R311); executed again, it goes on
where it waited. -/
def collStart (s : State) (q sub : Nat) : State :=
  match activeRun s q 2 sub with
  | none => s
  | some r =>
    if r.phase = .running then resumeUnits s
    else
      let o := collOp r.raw
      let e := group s o.grp
      let seq := grSeq e
      let s := setCol (tput s 0x12 0 o.grp (setBits e 127 96 ((seq + 1) % 2 ^ 32))) { s.col with taken :=
        (s.col.taken.filter fun x => decide (capped s < x.1)) ++ [(o.epoch, o.grp, seq)] }
      if !collOk s o then finish s q r.idx ecDescriptor seq 0
      else
        let dg := crc32 ([BitVec.ofNat 8 sub, BitVec.ofNat 8 o.type] ++ leBytes 2 o.root ++ leBytes 4 o.count ++
          leBytes 4 (grTag e) ++ leBytes 4 seq)
        let c : Coll := { queue := q, idx := r.idx, grp := o.grp, gtag := grTag e, seq := seq, digest := dg, opened := false,
                          kids := [], told := false, acks := [], staged := [], ends := [], formed := [],
                          owner := 2 ^ 19 + s.col.serial % 2 ^ 19, next := 0, reading := false, lost := false, win := rd s R.COL_RS_WIN }
        let s := keepRunning (setCol s { s.col with run := s.col.run ++ [c], serial := s.col.serial + 1 }) q r.idx [40]
        match abortedAs s c.gtag seq with
        | some code => collFail (setCol s { s.col with aborted := s.col.aborted.filter fun a => !(a.1 == c.gtag && a.2.1 == seq) }) c code
        | none =>
          if (grPeers s e).any (peerLost s) then collAbort s c ecRemoteDead
          else if sub = 3 ∧ (scatterCells s o).any (fun x => decide (x.2 < rd s R.CMB_DATA_CELLS) && !settled (ledger s x.2)) then
            collAbort s c ecDescriptor
          else
            let s := takeEarly s c.gtag seq
            match collOf s c.gtag seq with
            | some c => collForward s c
            | none => s

/-- An ABORT for a COLL that has not started here is forwarded to the other tree neighbours, once, and kept for its start (R311). -/
def abortEarly (s : State) (g gtag seq digest sender code : Nat) : State :=
  if serialGt (grSeq (group s g)) seq ∨ (abortedAs s gtag seq).isSome then s
  else sendAborts (setCol s { s.col with aborted := s.col.aborted ++ [(gtag, seq, code)] }) g gtag seq digest code (some sender)

/-! ## Control messages in (R311, R312, R320) -/

/-- A collective control message of KIND: a reserved KIND or an unknown GTAG is stray. -/
def collMsgIn (s : State) (kind : Nat) (b : Bytes) : State :=
  let gtag := leAt b 8 4
  let seq := leAt b 12 4
  let sender := bits (leAt b 0 4) 27 16
  match groupOfTag s gtag with
  | none => count s C.COL_STRAY
  | some g =>
    if leAt b 0 1 ≠ kind then count s C.COL_STRAY
    else
      let dg := leAt b 16 4
      let m := bits (leAt b 20 4) 12 0
      match kind, collOf s gtag seq with
      | 1, some c => descFor s c { gtag := gtag, seq := seq, sender := sender, digest := dg, matched := m }
      | 1, none =>
        if serialGt (grSeq (group s g)) seq then s
        else setCol s { s.col with early := s.col.early ++
          [{ gtag := gtag, seq := seq, sender := sender, digest := dg, matched := m }] }
      | 2, some c => collOpen s c
      | 3, some c => collFail (sendAbort s c (leAt b 1 1) (some sender)) c (leAt b 1 1)
      | 3, none => abortEarly s g gtag seq dg sender (leAt b 1 1)
      | _, _ => s

/-- COL_TIMEOUT: no OPEN, no ABORT or no progress for COL_TMO: ABORT with REMOTE_DEAD, and a report of the peers that did
not answer (R311, R320, R357). -/
def collTimeout (s : State) (gtag seq : Nat) : State :=
  match collOf s gtag seq with
  | none =>
    -- a DESC or an ABORT whose own COLL has not started by then is dropped
    setCol s { s.col with early := s.col.early.filter (fun d => !(d.gtag == gtag && d.seq == seq)),
                          aborted := s.col.aborted.filter fun a => !(a.1 == gtag && a.2.1 == seq) }
  | some c =>
    let ps := (collBlocked s c).eraseDups
    let s := collAbort s c ecRemoteDead
    ps.foldl (fun s p => match peerIdx s p with
      | some x => faultReport s x 2
      | none => s) s

/-- A chunk for a collective of SUBOP sub: stray, of a bad CRC (R18), kept until OPEN, or used. -/
def chunkIn (s : State) (sub p : Nat) (b : Bytes) : State :=
  let gtag := leAt b 0 4
  let seq := leAt b 4 4
  let j := leAt b 8 3
  match collOf s gtag seq with
  | none => count s C.COL_STRAY
  | some c =>
    let o := opOf s c
    match (if o.sub = sub then grIdxOf s (group s c.grp) p else none) with
    | none => count s C.COL_STRAY
    | some i =>
      let d := chunkBody b
      if !d.2 then
        let s := markUnclean (count s C.COL_CHUNK_CRC) o.epoch
        finish (dropColl s c) c.queue c.idx 0x0C c.seq 0
      else if !c.opened then setColl s { c with staged := c.staged ++ [(i, j, d.1)] }
      else collPump (chunkUse s c (i, j, d.1)) c

/-! ## Fences (R321, R338) -/

/-- The highest ESEQ sent and not acknowledged of a version-3 stream that has carried chunks or segments of queue q (R321, R322). A flit
that waits for its WINDOW or on its link's queue is not sent. -/
def sentMark (s : State) (q : Nat) (t : TxStream) : Option (Nat × Nat × Nat) :=
  if !t.qs.contains q ∨ peerProto (peerEntry s t.peer) = 2 then none
  else ((t.buf.filter fun b => !(linkOf s b.2.2.2).txq.contains b.2.2.1).getLast?).map fun b => (t.peer, t.vc, b.1)

/-- A version-3 stream's highest ESEQ, when a flit of it is unacknowledged or still waits (R31, R321). -/
def streamMark (s : State) (t : TxStream) : Option (Nat × Nat × Nat) :=
  if (t.buf = [] ∧ t.wait = []) ∨ peerProto (peerEntry s t.peer) = 2 then none
  else some (t.peer, t.vc, (t.next + 2 ^ 32 - 1) % 2 ^ 32)

/-- FENCE starts: what it covers is recorded: the streams that have carried chunks or segments of its queue's commands, as far as they are
sent. A hive write that is in no flit yet is covered by its context, or by its place
in the admission queue. -/
def fenceEffect (s : State) (q : Nat) : State :=
  match activeRun s q 0x0C 0 with
  | none => s
  | some r =>
    if r.phase = .running then s
    else
      let scope := opd r.raw 2 0
      let st0 := if bit scope 0 then s.lp.tx.filterMap (sentMark s q) else []
      let writes := s.hive.ctxs.filter fun c => c.req.op != 0 && c.req.op != 6
      let sent (c : HiveCtx) : Bool := !c.own && c.issued && !(s.hive.packs.any fun k => k.peer == c.peer && !k.resp)
      let st1 := if bit scope 1 then
          ((s.lp.tx.filter fun t => t.vc == 5 && writes.any fun c => sent c && c.peer == t.peer)).filterMap (streamMark s) else []
      let cx := if bit scope 1 then (writes.filter fun c => !sent c).map fun c => (c.req.ctx, c.req.gen) else []
      let wt := if bit scope 1 then (writes.filter sent).map fun c => (c.req.ctx, c.req.gen) else []
      let ti := if bit scope 2 then (List.range 4).flatMap fun p =>
          ((tierOf s p).reqs.filter (·.write)).map fun t => (p, t.tag) else []
      let qd := if bit scope 1 then (s.hive.admq.filter fun c => c.req.op != 0).filterMap fun c => match c.asker with
          | .host a b => some (a, b)
          | _ => none
        else []
      let f : Fence := { queue := q, idx := r.idx, streams := st0 ++ st1, ctxs := cx, watch := wt, tiers := ti, queued := qd }
      let s := keepRunning { s with fences := s.fences ++ [f] } q r.idx [50]
      if f.streams.any fun x => peerLost s x.1 then failFence s f ecRemoteDead else settleFences s

/-- FENCE_TIMEOUT: the oldest fence of the queue completes with FENCE_TIMEOUT; INFO0 names the first stream still short:
peer FID in [15:0], VC in [18:16] (DESIGN CHOICE, notes/assumptions/50). -/
def fenceTimeout (s : State) (q : Nat) : State :=
  match s.fences.find? fun f => f.queue == q with
  | none => s
  | some f =>
    let info := match f.streams with
      | x :: _ => peerFid (peerEntry s x.1) + at' x.2.1 16
      | [] => 0
    finish { s with fences := s.fences.filter fun x => !(x.queue == f.queue && x.idx == f.idx) } f.queue f.idx 0x07 info 0

/-! ## The rows' meanings -/

/-- GROUP_SUBMIT (R309): the write of window offset 0: 4 bytes, or 8 with wide. -/
def execGroupSubmit (r : Req) (data : BitVec 64) (wide : Bool) (s : State) : Ans :=
  .next (answered r (unlessHeld (begin s) (groupSubmit (begin s) r data.toNat wide)))

/-- COLL_REDUCE_SCATTER (R315). -/
def execCollReduceScatter (q : Fin 16) (s : State) : Ans := .next (collStart (begin s) q 0)

/-- COLL_ALL_GATHER (R315). -/
def execCollAllGather (q : Fin 16) (s : State) : Ans := .next (collStart (begin s) q 1)

/-- COLL_BROADCAST (R315). -/
def execCollBroadcast (q : Fin 16) (s : State) : Ans := .next (collStart (begin s) q 2)

/-- COLL_PARITY_SCATTER (R318). -/
def execCollParityScatter (q : Fin 16) (s : State) : Ans := .next (collStart (begin s) q 3)

/-- COLL_REBUILD_CHAIN (R319). -/
def execCollRebuildChain (q : Fin 16) (s : State) : Ans := .next (collStart (begin s) q 4)

/-- DESC (R311): the message's 32 bytes. -/
def execDesc (body : Bytes) (s : State) : Ans := .next (collMsgIn (begin s) 1 body)

/-- ABORT (R311, R320). -/
def execAbort (body : Bytes) (s : State) : Ans := .next (collMsgIn (begin s) 3 body)

/-- COL_TIMEOUT (R311): GTAG and sequence number. -/
def execColTimeout (gtag seq : BitVec 32) (s : State) : Ans := .next (collTimeout (begin s) gtag.toNat seq.toNat)

/-- FENCE (R321). -/
def execFence (q : Fin 16) (s : State) : Ans := .next (fenceEffect (begin s) q)

/-- FENCE_TIMEOUT (R321): the queue whose fence waits. -/
def execFenceTimeout (q : Fin 16) (s : State) : Ans := .next (fenceTimeout (begin s) q)

end Sys2Proof.Machine
end

