-- ==== Sys2Proof/Machine/Comb.lean ====
section
/-! DEFINITION. Joining and leaving a job, waggles, reports and declarations of loss, and the job-wide ROLLBACK (R342 to
R366, R385). -/

namespace Sys2Proof.Machine

/-! ## The job list (R345 to R347) -/

/-- Entry x of a job list as fetched. -/
def listEntry (b : Bytes) (x : Nat) : Nat := leAt b (64 + 8 * x) 8

def leFid (e : Nat) : Nat := bits e 63 48
def lePeer (e : Nat) : Nat := bits e 47 36
def leRank (e : Nat) : Nat := bits e 35 32
def leComb (e : Nat) : Nat := bits e 31 16
def leRole (e : Nat) : Nat := bits e 15 14
def leExcl (e : Nat) : Bool := bit e 13

/-- The list digest (R347). -/
def listDigest (b : Bytes) (n : Nat) : Nat :=
  crc32 (slice b 4 14 ++ (List.range n).flatMap fun x => leBytes 8 (setBits (setBits (listEntry b x) 47 36 0) 13 13 0))

/-- The header agrees with R345, R251 and CMB_GEOM_LIM. -/
def headerOk (s : State) (b : Bytes) : Bool :=
  let n := leAt b 4 1
  let m := leAt b 5 1
  let sb := leAt b 6 1
  let st := leAt b 8 4
  leAt b 0 4 == 0x4B334A4C && decide (4 ≤ n) && decide (n ≤ 16) && decide (1 ≤ m) && decide (m ≤ 3) && decide (m ≤ n - 1) &&
    decide (sb ≤ 2) && decide (leAt b 7 1 < 4) && st % n == 0 && decide (n ≤ st) && decide (st ≤ 2 ^ 25) &&
    leAt b 18 46 == 0 && decide (n ≤ rd s R.CMB_GEOM_LIM_N_MAX) && decide (m ≤ rd s R.CMB_GEOM_LIM_M_MAX) &&
    decide (sb ≤ rd s R.CMB_GEOM_LIM_SB_MAX)

/-- The positions of a list whose entries satisfy p. -/
def listWhere (b : Bytes) (n : Nat) (p : Nat → Bool) : List Nat := (List.range n).filter fun x => p (listEntry b x)

/-- The own position in a list: the one whose PEER is the block's own entry, when there is exactly one (R346). -/
def ownInList (s : State) (b : Bytes) (n : Nat) : Option Nat :=
  match ownPeer s with
  | none => none
  | some p => match listWhere b n fun e => lePeer e == p with
    | [x] => some x
    | _ => none

/-- The positions that must have a peer entry: the own comb with its shadows and principals, the tree parent, the tree
children (R346). -/
def mustHave (b : Bytes) (n x : Nat) : List Nat :=
  let e := listEntry b x
  (if leRole e = 2 then [] else listWhere b n fun f => leRole f != 2 && leComb f == leComb e) ++
    (grParent x).toList ++ grKids n x

/-- A list the JOIN accepts (R346). -/
def listOkFor (s : State) (b : Bytes) (n : Nat) : Bool :=
  let es := (List.range n).map (listEntry b)
  let nn := leAt b 4 1
  let combs := ((es.filter fun e => leRole e != 2).map leComb).eraseDups
  let ranked (c : Nat) := (es.filter fun e => leRole e == 0 && leComb e == c).map leRank
  headerOk s b && decide (2 ≤ n) && (es.map leFid).eraseDups.length == n &&
    (combs.all fun c => (ranked c).length == nn && ((List.range nn).all fun r => (ranked c).contains r) &&
      decide ((es.filter fun e => leRole e == 1 && leComb e == c).length ≤ leAt b 6 1)) &&
    (es.all fun e => leRole e != 3 || ((ranked (leComb e)).contains (leRank e) &&
      (es.filter fun f => leRole f == 3 && leComb f == leComb e && leRank f == leRank e).length == 1)) &&
    (match ownInList s b n with
    | some x => (mustHave b n x).all fun y => lePeer (listEntry b y) != 0xFFF
    | none => false)

/-! ## Zeroing coded regions (R348, R382) -/

/-- The stack addresses that may lie behind a stored byte: itself, and what remap and relocation send to it. -/
def preimages (s : State) (k : Nat) : List (Nat × Nat) :=
  let st := k / 2 ^ 37
  let a := k % 2 ^ 37
  let as := a :: (List.range 8).filterMap fun e =>
    let v := tget s 0x16 0 (8 * st + e)
    if bit v 63 && (broodBase s st + 33) * cellSize + 4096 * e == a / 4096 * 4096 then some (bits v 24 0 * 4096 + a % 4096)
    else none
  let rel := s.tab.filter fun e => e.1 / 2 ^ 28 == 0x16 * 16 + 1 && bit e.2 63
  as.flatMap fun a => (st, a) :: (rel.filter fun e => bits e.2 53 50 == st && bits e.2 20 0 == a / cellSize).map fun e =>
    (bits e.2 57 54, bits e.2 41 21 * cellSize + a % cellSize)

/-- Memory with the coded regions of every named stack zero: data and parity cells, ledger, delta log, SCALE mirror. -/
def zeroCoded (s : State) : State :=
  let inside (c : Nat × Nat) : Bool := bit (rd s R.CMB_STKMASK) c.1 && ((regions s c.1).drop 2).any fun r =>
    decide (r.1 ≤ c.2 / cellSize) && decide (c.2 / cellSize < r.1 + r.2)
  { s with hbm := s.hbm.filter fun e => !((preimages s e.1).any fun c => hbmKey s c.1 c.2 == e.1 && inside c) }

/-- An empty delta log: every block of every named stack's share is free. -/
def freshShares (s : State) : List Share :=
  (List.range 12).map fun n => if bit (rd s R.CMB_STKMASK) n then
      { Share.empty with total := shareBlocks s, free := List.range (shareBlocks s) }
    else Share.empty

/-- The coding unit at the start of a job: with the log emptied, or as the coded regions keep it. -/
def startCoding (s : State) (fresh : Bool) : State :=
  let c := s.cod
  setCod s { resetCod with
             shares := if fresh then freshShares s else c.shares, segs := if fresh then [] else c.segs,
             undo := if fresh then [] else c.undo, open_ := if fresh then [] else c.open_,
             scaleCap := if fresh then [] else c.scaleCap, scaleHas := if fresh then [] else c.scaleHas, serial := c.serial }

/-! ## JOIN (R348) -/

/-- A member table entry made from a list entry, ABSENT; EXCL counts in the root's list only (R345). -/
def entryFor (e : Nat) (root : Bool) : Nat :=
  at' (leFid e) 112 + at' (lePeer e) 100 + at' (leRank e) 96 + at' (leComb e) 80 + at' (leRole e) 78 +
    at' (b2n (root && leExcl e)) 77

/-- The JOIN is accepted: the member is JOINING, and with it every position of its list (R344). -/
def joinAccept (s : State) (b : Bytes) (n tag memb x : Nat) : State :=
  let e := listEntry b x
  let fresh := bit (leAt b 7 1) 1
  let base := leAt b 12 6
  let s := setComb s { s.comb with
    list := b, listN := n, digest := listDigest b n, base := base, fresh := fresh, firstSwitch := false, needRestore := !fresh,
    rbUntil := 0, rbLow := 0, rbHigh := 0, heard := [], told := [], guards := [], started := false, acked := false, acks := [],
    going := false, capDue := 0, leave := none, rb := none, rbDone := [], rs := none, rsReps := [], rsFresh := [], reqs := [], chunks := [], lostSeen := [] }
  let s := { s with shd := { wrote := [], sent := [], got := [], ready := [], cells := [] } }
  let s := { s with rbd := { s.rbd with cmd := none, shadow := false, rank := 0, written := [], next := 0, seq := 0, out := [], again := [], pull := [], waited := [],
                                        waits := [] } }
  let s := (List.range n).foldl (fun s y => tput s 0x0E 0 y (entryFor (listEntry b y) (x == 0))) s
  let s := wr (wr s R.CMB_JOB_JOB_TAG tag) R.CMB_JOB_MEMB_EPOCH memb
  let s := wr (wr (wr s R.CMB_RANK_LIST_IDX x) R.CMB_RANK_ROLE (leRole e)) R.CMB_RANK_RANK (leRank e)
  let s := wr (wr (wr s R.CMB_GEOM_N (leAt b 4 1)) R.CMB_GEOM_M (leAt b 5 1)) R.CMB_GEOM_SB (leAt b 6 1)
  let s := wr (wr (wr s R.CMB_GEOM_FIXED_PAR (leAt b 7 1 % 2)) R.CMB_GEOM_S (leAt b 8 4)) R.CMB_COMB_STATE 0
  let s := wr (wr s R.CMB_CAPPED (if fresh then base else 0)) R.SEQ_MODE_EPOCH 0
  let s := setLp s { s.lp with tx := [], rx := s.lp.rx.filter fun r => r.tag == tag && r.memb == memb }
  let s := startCoding s fresh
  let s := if fresh then wr (writeRecord (zeroCoded s) base base) R.DIG_TAINT_EPOCH 0 else s
  (List.range n).foldl (fun s y => memberTo s y 1) s

/-! ## The start (R349 to R352) -/

/-- A neighbour with no usable peer entry. -/
def noPeer (s : State) (y : Nat) : Bool :=
  memPeer (member s y) == 0xFFF || !peerValid (peerEntry s (memPeer (member s y)))

/-- Positions excluded in the current list. -/
def exclIdxs (s : State) : List Nat := (List.range s.comb.listN).filter fun x => memExcl (member s x)

/-- EXCL of every position set from a list of indices. -/
def setExcl (s : State) (l : List Nat) : State :=
  (List.range s.comb.listN).foldl (fun s x => tput s 0x0E 0 x (setBits (member s x) 77 77 (b2n (l.contains x)))) s

/-- 2-byte indices of a message body. -/
def idxBytes (l : List Nat) : Bytes := l.flatMap (leBytes 2)
def idxList (b : Bytes) (n : Nat) : List Nat := (List.range n).map fun i => leAt b (2 * i) 2

/-- START to a child. The current exclusions travel in its body: without them no node could form the tree of R352 (DESIGN
CHOICE, notes/assumptions/51). -/
def sendStart (s : State) (y : Nat) : State :=
  sendTo s y 3 (membMsg 1 (ownIdx s) 0 s.comb.digest (exclIdxs s).length (idxBytes (exclIdxs s)))

/-- The acknowledgement of a child, if it has come. -/
def ackFrom (s : State) (y : Nat) : Option StartAck := s.comb.acks.find? fun a => a.child == y

/-- An acknowledgement stored. -/
def putAck (s : State) (a : StartAck) : State :=
  setComb s { s.comb with acks := (s.comb.acks.filter fun x => x.child != a.child) ++ [a] }

/-- Every JOIN command that waits completes. -/
def joinsEnd (s : State) (code info : Nat) : State :=
  let l := s.comb.joins
  l.foldl (fun s c => finish s c.1 c.2 code info 0) (setComb s { s.comb with joins := [] })

/-- Exclusions leave every comb satisfiable (R350). -/
def satisfiable (s : State) : Bool :=
  let xs := List.range s.comb.listN
  let combs := ((xs.filter fun x => memRole (member s x) != 2).map fun x => memComb (member s x)).eraseDups
  combs.all fun c =>
    let out := (xs.filter fun x => memRole (member s x) == 0 && memComb (member s x) == c && memExcl (member s x)).length
    let sb := (xs.filter fun x => memRole (member s x) == 1 && memComb (member s x) == c && !memExcl (member s x)).length
    decide (out ≤ cmbM s + sb)

/-- What a job held for its next cap applies once the member is ABSENT (R104, R508). -/
def applyWaiting (s : State) : State := applyDir (applyHeld s 0)

/-- The member's part in the job is given up: tag, member table, groups and job state are cleared, it is ABSENT, what waited for a cap
applies, and the intake starts anew (R104, R202, R354, R508). -/
def releaseJob (s : State) : State :=
  let s := applyWaiting (intakeDiscard s 0)
  let s := memberTo s (ownIdx s) 0
  let s := setOwnState s 0
  let s := { s with tab := dropKeys s.tab fun k => k / 2 ^ 28 == 0x0E * 16 || k / 2 ^ 28 == 0x12 * 16 }
  let s := wr (wr s R.CMB_JOB_JOB_TAG 0) R.CMB_JOB_MEMB_EPOCH 0
  let s := wr (wr (wr s R.CMB_RANK_LIST_IDX 0) R.CMB_RANK_ROLE 0) R.CMB_RANK_RANK 0
  let s := wr (wr (wr s R.CMB_GEOM_N 0) R.CMB_GEOM_M 0) R.CMB_GEOM_SB 0
  let s := wr (wr (wr s R.CMB_GEOM_FIXED_PAR 0) R.CMB_GEOM_S 0) R.CMB_COMB_STATE 0
  let s := (List.range 3).foldl (fun s k => wr (wr s (R.CMB_KEEP_VALID k) 0) (R.CMB_KEEP_RANK k) 0) (wr (wr s R.CMB_CAPPED 0) R.SEQ_MODE_EPOCH 0)
  let s := setCod s { s.cod with epochs := [], outs := [], ins := [], parked := [], firsts := [], kept := [], v2segs := [], stalls := [] }
  setComb s { s.comb with
    list := [], listN := 0, digest := 0, base := 0, fresh := false, firstSwitch := false,
    needRestore := false, heard := [], told := [], guards := [], joins := [], starts := [], started := false, acked := false, acks := [],
    going := false, capDue := 0, leave := none, rb := none, rbDone := [], rs := none, rsReps := [], rsFresh := [], reqs := [], chunks := [], lostSeen := [] }

/-- The state a position of a role takes at GO. -/
def roleState (role : Nat) : Nat :=
  match role with
  | 1 => 3
  | 3 => 4
  | _ => 2

/-- A position takes its state at GO; one whose LOST came before it is LOST from there on (R344, R386). -/
def goPosition (s : State) (x : Nat) : State :=
  let e := member s x
  if memExcl e then memberTo s x (if memRole e = 0 then 7 else 0)
  else
    let s := memberTo s x (roleState (memRole e))
    if get s.comb.guards x = 0 then s
    else
      let s := memberTo s x 7
      if memRole e ≠ 2 ∧ memComb e = ownComb s then s else count s C.CMB_LOST_SEEN

/-- GO applies: positions take their states, the schedule sets are loaded, and the JOIN completes (R226, R344, R350). -/
def goApply (s : State) : State :=
  let me := ownIdx s
  let s := setComb s { s.comb with going := true, firstSwitch := s.comb.fresh }
  let s := (List.range s.comb.listN).foldl (fun s x => if x = me then s else goPosition s x) s
  let e := member s me
  let js := s.comb.joins
  let s := if s.comb.fresh && !memExcl e then schedStart s (capped s) else s
  let s := if memExcl e then releaseJob s else goPosition s me
  -- after a JOIN from kept regions the reserve waits for the RESTORE, which tells the capped epoch (R273, R348)
  let s := if memExcl e || s.comb.needRestore then s else tryReserve s (grantOf s)
  js.foldl (fun s c => finish s c.1 c.2 0 0 0) (setComb s { s.comb with joins := [] })

/-- GO sent to the children: list indices excluded. -/
def sendGo (s : State) : State :=
  let x := exclIdxs s
  toChildren s 3 (membMsg 3 (treeRoot s) 0 x.length s.comb.base (idxBytes x))

/-- The root has an answer of every child: it sends GO, or its JOIN completes with START_PARTIAL (R350). -/
def rootJudge (s : State) : State :=
  let xs := (List.range s.comb.listN).filter fun x => !memExcl (member s x)
  let cov := 1 + (s.comb.acks.map (·.covered)).sum
  let un := s.comb.acks.flatMap (·.unreached)
  if s.comb.going then joinsEnd s 0 0
  else if s.comb.joins = [] then s
  else if un = [] ∧ xs.length ≤ cov ∧ satisfiable s then goApply (sendGo s)
  else
    let s := joinsEnd s 0x0F (xs.length - cov)
    un.foldl (fun s u => unitError s u.2 0x0E u.1 0) s

/-- A node with every child's answer acknowledges to its parent, or at the root judges (R349). -/
def startSettle (s : State) : State :=
  if !s.comb.started || !((childrenOf s (ownIdx s)).all fun y => (ackFrom s y).isSome) then s
  else if amRoot s then rootJudge s
  else if s.comb.acked then s
  else
    let cov := 1 + (s.comb.acks.map (·.covered)).sum
    let un := s.comb.acks.flatMap (·.unreached)
    toParent (setComb s { s.comb with acked := true }) 3
      (membMsg 2 (ownIdx s) 0 cov 0 (un.flatMap fun u => leBytes 4 (u.1 + at' u.2 16)))

/-- START goes to every child that has not acknowledged in full; a child with no peer entry counts as unreached. -/
def startNode (s : State) : State :=
  let cs := childrenOf s (ownIdx s)
  let s := setComb s { s.comb with started := true, acked := false,
                                   acks := s.comb.acks.filter fun a => cs.contains a.child && a.unreached == [] }
  let s := cs.foldl (fun s y =>
    if (ackFrom s y).isSome then s
    else if noPeer s y then putAck s { child := y, covered := 0, unreached := [(y, ecRemoteDead)] }
    else sendStart s y) s
  startSettle s

/-- An answer to a START that does not match, under the START's own tag and epoch. -/
def refuseStart (s : State) (p tag memb code : Nat) : State :=
  let t := rd s R.CMB_JOB_JOB_TAG
  let m := rd s R.CMB_JOB_MEMB_EPOCH
  let s := wr (wr s R.CMB_JOB_JOB_TAG tag) R.CMB_JOB_MEMB_EPOCH memb
  let s := sendMsg s p 3 0 (membMsg 2 (ownIdx s) code 0 0 [])
  wr (wr s R.CMB_JOB_JOB_TAG t) R.CMB_JOB_MEMB_EPOCH m

/-- START (R349, R351): held before the JOIN, refused in TEARDOWN or another job, or taken up. -/
def startIn (s : State) (p tag memb : Nat) (b : Bytes) : State :=
  let v := leAt b 0 16
  let st := memberState s
  if st = 8 then refuseStart s p tag memb 0x09
  else if st = 0 then
    setComb s { s.comb with starts := (s.comb.starts.filter fun h => h.peer != p) ++
      [{ peer := p, tag := tag, memb := memb, body := b }] }
  else if tag ≠ rd s R.CMB_JOB_JOB_TAG ∨ memb ≠ rd s R.CMB_JOB_MEMB_EPOCH then refuseStart s p tag memb 0x08
  else if bits v 79 48 ≠ s.comb.digest then refuseStart s p tag memb ecDescriptor
  else
    let s := if s.comb.going then s else setExcl s (idxList (b.drop 16) (bits v 127 80))
    startNode s

/-- The held STARTs are judged again after a JOIN is accepted. -/
def takeStarts (s : State) : State :=
  let l := s.comb.starts
  l.foldl (fun s h => startIn s h.peer h.tag h.memb h.body) (setComb s { s.comb with starts := [] })

/-- START_ACK of a child: the members covered and the subtrees unreached, or its refusal. -/
def startAckIn (s : State) (p : Nat) (b : Bytes) : State :=
  let v := leAt b 0 16
  match peerIdx s p with
  | none => s
  | some y =>
    if !s.comb.started || !(childrenOf s (ownIdx s)).contains y then s
    else
      let code := bits v 23 16
      let un := (List.range ((b.length - 16) / 4)).map fun i =>
        let w := leAt b (16 + 4 * i) 4
        (bits w 13 0, bits w 23 16)
      startSettle (putAck s { child := y, covered := if code = 0 then bits v 79 48 else 0,
                              unreached := if code = 0 then un else [(y, code)] })

/-- JOIN_SUBTREE_TIMEOUT: the children that have not answered count as unreached with REMOTE_DEAD. -/
def startTimeout (s : State) : State :=
  if !s.comb.started || s.comb.going || s.comb.acked then s
  else
    let gone := (childrenOf s (ownIdx s)).filter fun y => (ackFrom s y).isNone
    if gone = [] then s
    else startSettle (gone.foldl (fun s y => putAck s { child := y, covered := 0, unreached := [(y, ecRemoteDead)] }) s)

/-- GO from the parent: forwarded, then applied. -/
def goIn (s : State) (tag memb : Nat) (b : Bytes) : State :=
  if memberState s ≠ 1 ∨ s.comb.going ∨ tag ≠ rd s R.CMB_JOB_JOB_TAG ∨ memb ≠ rd s R.CMB_JOB_MEMB_EPOCH then s
  else
    let s := setExcl s (idxList (b.drop 16) (bits (leAt b 0 16) 79 48))
    goApply (sendGo s)

/-- JOIN asks for its list (R345). -/
def joinEffect (s : State) (q : Nat) : State :=
  match activeRun s q 0x0A 0 with
  | none => s
  | some r =>
    if r.phase = .running then s
    else if memberState s = 8 then finish s q r.idx 0x09 0 0
    else hostFetch (keepRunning s q r.idx [60]) q r.idx (opd r.raw 85 40 * 64) (64 + 8 * opd r.raw 99 86)

/-- The list of a JOIN is here: accepted, taken as a repetition, or failed (R346, R348, R351). -/
def joinData (s : State) (q : Nat) (r : Run) : State :=
  let n := opd r.raw 99 86
  let tag := opd r.raw 23 0
  let memb := opd r.raw 39 24
  let b := slice (gotBytes s q r.idx) 0 (64 + 8 * n)
  let s := dropGot s q r.idx
  let wait (s : State) : State := setComb s { s.comb with joins := s.comb.joins ++ [(q, r.idx)] }
  if memberState s = 0 then
    match (if listOkFor s b n then ownInList s b n else none) with
    | none => finish s q r.idx ecDescriptor 0 0
    | some x =>
      let s := wait (joinAccept s b n tag memb x)
      if amRoot s then startNode s else takeStarts s
  else if tag = rd s R.CMB_JOB_JOB_TAG ∧ memb = rd s R.CMB_JOB_MEMB_EPOCH ∧ listDigest b n = s.comb.digest ∧
      memberState s ≠ 8 then
    if s.comb.going then finish s q r.idx 0 0 0
    else
      let root := amRoot s
      let s := wait s
      if root then startNode (setExcl s ((List.range n).filter fun x => leExcl (listEntry b x))) else s
  else finish s q r.idx (if memberState s = 8 then 0x09 else ecDescriptor) 0 0

/-! ## Losing a position (R360 to R362, R379) -/

/-- A command whose word is not a CAP's first switch names an epoch that a ROLLBACK to a target rolls back: one of the two above it. -/
def namesAbove (raw target : Nat) : Bool :=
  match namedEpoch raw with
  | some e => decide (target < e) && decide (e ≤ target + 2)
  | none => false

/-- A started command stops: its thread, collective or ROOT is given up (R147). code goes out with an ABORT. -/
def stopRun (s : State) (q : Nat) (r : Run) (code : Nat) : State :=
  let s := match threadOf s q r.idx with
    | some t => setThread (noteInfo s q r.idx t ((thread s t).visits % 2 ^ 32)) t Thread.idle
    | none => s
  let s := match s.col.run.find? fun c => c.queue == q && c.idx == r.idx with
    | some c => countAbort (dropColl (sendAbort (noteInfo s q r.idx c.seq 0) c code none) c) code
    | none => s
  let s := dropGot s q r.idx
  if opcodeOf r.raw = 0x0F then wr s R.ROOT_STAT_ITER_BUSY 0
  else if opcodeOf r.raw = 6 then setSpine s { s.spine with run := none }
  else s

/-- The fences of a queue that cover chunks and segments fail, as a command of the queue whose writes they cover is cancelled (R387). -/
def cancelFences (s : State) (q code : Nat) : State :=
  (s.fences.filter fun f => f.queue == q && bit (opd ((findRun s q f.idx).getD Run.none).raw 2 0) 0).foldl (fun s f => failFence s f code) s

/-- Every unretired command that names an epoch rolled back is cancelled, a complete one too, and the fences on what started ones have sent
fail (R147, R387). -/
def cancelAbove (s : State) (target code : Nat) : State :=
  let s := s.cod.open_.foldl closeCell s
  let running (x : Queue) : Bool := x.cmds.any fun r => namesAbove r.raw target && (r.phase == .started || r.phase == .running)
  let s := ((List.range 16).filter fun q => running (qOf s q)).foldl (fun s q => cancelFences s q code) s
  (List.range 16).foldl (fun s q => ((qOf s q).cmds.filter fun r => namesAbove r.raw target && !r.cancelled).foldl
    (fun s r => cancelRun (if r.phase = .done then s else stopRun s q r code) q r.idx code) s) s

/-- The own position is lost: running commands that name an epoch fail, queued ones are cancelled, job traffic other than TYPE 0x03 stops,
and the hive object's contents are lost (R339, R362). -/
def ownLost (s : State) : State :=
  hush <| (List.range 16).foldl (fun s q => ((qOf s q).cmds.filter fun r => r.phase != .done && (namedEpoch r.raw).isSome).foldl
    (fun s r => if r.phase = .unstarted then cancelRun s q r.idx ecRemoteDead
      else
        let s := stopRun s q r ecRemoteDead
        let x := (findRun s q r.idx).getD r
        finish s q r.idx ecRemoteDead x.info0 x.info1) s) (hiveLost s)

/-- An epoch whose report a lost position had not sent to its parent is missing that position; a shadow reports nothing (R280, R361, R385). -/
def lostReport (s : State) (x : Nat) : State :=
  if isShadow s x then s else
  (uncapped s).foldl (fun s e =>
    let ep := epochOf s e
    if ep.reports.any (·.child == x) then s
    else setEpoch s { ep with reports := ep.reports ++
      [{ child := x, clean := true, covered := 0, missing := 1, firstBad := x }] }) s

/-- Reports already sent go again, over the tree as it now is. -/
def resendReports (s : State) : State :=
  (uncapped s).foldl (fun s e => capForward (setEpoch s { epochOf s e with told := 0 }) e) s

/-! ## ROLLBACK (R363 to R365) -/

/-- Children whose RB_DONE of a target is in and names nobody missing. -/
def rbChildDone (s : State) (target y : Nat) : Bool :=
  s.comb.rbDone.any fun d => d.target == target && d.child == y && d.missing == []

/-- A loss among the comb, or a ROLLBACK, while a rebuild runs: outstanding stripes are asked for again (R374, R386). -/
def rebuildAgain (s : State) : State :=
  { s with rbd := { s.rbd with out := [], again := s.rbd.again ++ s.rbd.out.map fun o => (o.2.1, o.2.2.1) } }

/-- Epochs 1 and 2 above the target are ROLLED_BACK, the ROLLBACK completes (R365). -/
def rbComplete (s : State) (r : RbRun) : State :=
  let s := [r.target + 1, r.target + 2].foldl (fun s e =>
    if (epochRec s e).isSome then setEpoch s { Epoch.new e with phase := 3 } else s) s
  let s := setComb s { s.comb with
    rb := none, rbDone := s.comb.rbDone.filter fun d => d.target != r.target,
    rbUntil := rd s R.TIME_TOD + 100000 * rd s R.CMB_LOST_TMO, rbLow := r.target, rbHigh := r.newest }
  leaveSettle (finish (count (rebuildAgain s) C.CMB_ROLLBACKS) r.queue r.idx 0 0 0)

/-- RB_ANN goes down, and the ROLLBACK completes here. -/
def rbAnnounce (s : State) (r : RbRun) : State :=
  rbComplete (toChildren s 3 (membMsg 7 (treeRoot s) 0 0 r.target [])) r

/-- Every child has reported: RB_DONE goes up, or at the root RB_ANN goes down. -/
def rbSettle (s : State) : State :=
  match s.comb.rb with
  | none => s
  | some r =>
    if !r.undone || !((childrenOf s (ownIdx s)).all (rbChildDone s r.target)) then s
    else if amRoot s then rbAnnounce s r
    else if r.told then s
    else
      let cov := 1 + ((s.comb.rbDone.filter fun d => d.target == r.target).map (·.covered)).sum
      toParent (setComb s { s.comb with rb := some { r with told := true } }) 3 (membMsg 6 (ownIdx s) 0 cov r.target [])

/-- MSEQ_FLOOR to the version-2 holders: message numbers stay above every one used (R298, R364). -/
def sendFloors (s : State) (target : Nat) : State :=
  (otherRanks s).foldl (fun s r =>
    if rankProto s r ≠ 2 then s
    else [target + 1, target + 2].foldl (fun s e => sendRank s r 3 0 (membMsg 0x0D (ownIdx s) 0 (get s.cod.v2 (v2Key r e)) e [])) s) s

/-- Groups get back the lowest sequence number a COLL of a rolled-back epoch took (R364). -/
def giveBackSeqs (s : State) (target : Nat) : State :=
  let l := s.col.taken.filter fun x => decide (target < x.1)
  let s := ((l.map fun x => x.2.1).eraseDups).foldl (fun s g =>
    match (l.filter fun x => x.2.1 == g).map (·.2.2) with
    | [] => s
    | a :: t => tput s 0x12 0 g (setBits (group s g) 127 96 (t.foldl (fun b x => if serialGt b x then x else b) a))) s
  setCol s { s.col with taken := s.col.taken.filter (fun x => decide (x.1 ≤ target)), aborted := [] }

/-- Stores armed for rolled-back epochs are LOADED again (R164). -/
def disarm (s : State) : State :=
  let f (x : Store) : Store := if x.state = 3 then { x with state := 2 } else x
  { s with seq := { s.seq with bankA := f s.seq.bankA, bankB := f s.seq.bankB, ucIdle := f s.seq.ucIdle } }

/-- What the undo leaves beside the cells: drain, moves, intake, history, taint and epochs as at the target (R364, R426). -/
def undoRest (s : State) (target newest : Nat) : State :=
  let c := s.cod
  let s := setCod s { c with
    outs := c.outs.filter fun o => decide (o.epoch ≤ target), ins := c.ins.filter fun o => decide (o.epoch ≤ target),
    v2segs := c.v2segs.filter fun g => decide (g.epoch ≤ target), kept := [], parked := [], firsts := [],
    digs := c.digs.filter fun d => decide (d.epoch ≤ target),
    epochs := c.epochs.map fun x => if target < x.num then { Epoch.new x.num with phase := x.phase } else x }
  let s := { s with shd := { wrote := s.shd.wrote.filter fun w => decide (w.1 ≤ target), sent := s.shd.sent.filter (· ≤ target),
                             got := s.shd.got.filter fun g => decide (g.1 ≤ target), ready := s.shd.ready.filter (· ≤ target),
                             cells := dropKeys s.shd.cells fun k => decide (target < k) } }
  let s := invalidateHist (intakeDiscard (undoMoves s target) target) target newest
  let s := disarm s
  if target < rd s R.DIG_TAINT_EPOCH then wr s R.DIG_TAINT_EPOCH 0 else s

/-- There is something to undo: an epoch above the capped one is open here, or the log holds something of one (R363). -/
def undoDue (s : State) : Bool :=
  (uncapped s).any (isOpen s) || s.cod.open_ != [] || s.cod.undo != [] || s.cod.ins.any (fun i => decide (capped s < i.epoch)) ||
    s.cod.segs.any fun g => decide (capped s < g.epoch)

/-- Steps 2 to 7 of R364, once the memory ports have acknowledged every write. The undo frees the U reserve, which is taken again where it
can be; a changed grant is told (R273, R275). -/
def rbUndo (s : State) (r : RbRun) : State :=
  let g0 := grantOf s
  let s := undoRest (if undoDue s then undoAll s else s) r.target r.newest
  let s := giveBackSeqs (tryReserve s g0) r.target
  let s := refreshRecord (sendFloors s r.target)
  rbSettle (setComb s { s.comb with rb := some { r with undone := true } })

/-- No memory port holds a write. -/
def portsQuiet (s : State) : Bool := s.mrp.all fun p => p.reqs.all fun r => !r.write

/-- A ROLLBACK goes on to its undo when it can. -/
def rbAdvance (s : State) : State :=
  match s.comb.rb with
  | none => s
  | some r => if r.undone || !portsQuiet s || undoWaits s then s else rbUndo s r

/-- ROLLBACK as it starts: every unretired command of the epochs above the target is cancelled, and each queue's doorbell value is kept
(R147). -/
def startRollback (s : State) (r : Run) : State :=
  let target := opd r.raw 47 0
  let reason := opd r.raw 55 48
  let s := cancelAbove s target reason
  let mark (x : Queue) : Queue :=
    { x with rbMarks := (x.rbMarks.filter fun m => serialGt m.db x.ret) ++
      [{ db := x.db, target := target, newest := target + 2, reason := reason }] }
  { s with queues := s.queues.map mark }

/-- ROLLBACK: the undo follows the cancellation (R364). -/
def rollbackEffect (s : State) (q : Nat) : State :=
  match activeRun s q 9 0 with
  | none => s
  | some r =>
    if r.phase = .running then rbAdvance s
    else
      let target := opd r.raw 47 0
      let reason := opd r.raw 55 48
      let s := keepRunning s q r.idx [target]
      rbAdvance (setComb s { s.comb with rb := some { queue := q, idx := r.idx, target := target, reason := reason,
                                                      newest := target + 2, undone := false, told := false } })

/-- RB_DONE of a child. -/
def rbDoneIn (s : State) (p : Nat) (b : Bytes) : State :=
  match peerIdx s p with
  | none => s
  | some y =>
    let v := leAt b 0 16
    let d : RbDone := { target := bits v 127 80, child := y, covered := bits v 79 48,
                        missing := idxList (b.drop 16) ((b.length - 16) / 2) }
    rbSettle (setComb s { s.comb with rbDone :=
      (s.comb.rbDone.filter fun x => !(x.target == d.target && x.child == y)) ++ [d] })

/-- RB_ANN from the parent: forwarded, and the ROLLBACK completes. -/
def rbAnnIn (s : State) (b : Bytes) : State :=
  match s.comb.rb with
  | none => s
  | some r => if r.undone && bits (leAt b 0 16) 127 80 == r.target then rbAnnounce s r else s

/-- ROLLBACK_REPORT_TIMEOUT: the root posts who is missing; another node passes it up (R365). -/
def rbTimeout (s : State) : State :=
  match s.comb.rb with
  | none => s
  | some r =>
    let mine := (childrenOf s (ownIdx s)).filter fun y =>
      !(s.comb.rbDone.any fun d => d.target == r.target && d.child == y)
    let theirs := (s.comb.rbDone.filter fun d => d.target == r.target).flatMap (·.missing)
    let gone := (mine ++ theirs).eraseDups
    if !r.undone || gone == [] then s
    else if amRoot s then unitError s ecRemoteDead 0x0E r.target (gone.foldl min 0x3FFF + at' gone.length 16)
    else
      let cov := 1 + ((s.comb.rbDone.filter fun d => d.target == r.target).map (·.covered)).sum
      toParent s 3 (membMsg 6 (ownIdx s) 0 cov r.target (idxBytes gone))

/-! ## Waggles and reports (R356 to R359) -/

/-- A waggle's 22 bytes. -/
def waggleMsg (s : State) : Bytes :=
  let h := hist s (rd s R.DIG_NEWEST)
  leBytes 22 (at' (rd s R.DIG_NEWEST) 128 + at' (hiDigest h) 64 + at' (rd s R.HLT_SCORE_SCORE) 56 +
    at' (cmbRank s) 52 + at' (memberState s) 48 + capped s)

/-- WAGGLE_SEND. -/
def waggleSend (s : State) : State :=
  if [2, 3, 4, 6].contains (memberState s) && memRole (member s (ownIdx s)) != 2 then
    let others := (List.range s.comb.listN).filter fun x =>
      x != ownIdx s && memRole (member s x) != 2 && memComb (member s x) == ownComb s
    if fallsSilent s then s else others.foldl (fun s x => sendTo s x 4 (waggleMsg s)) s
  else s

/-- A waggle of a comb member. A ranked member held ACTIVE that says it is REBUILDING after a RESTORE is taken at its word
(DEDUCED, notes/assumptions/52). -/
def waggleIn (s : State) (p : Nat) (b : Bytes) : State :=
  match peerIdx s p with
  | none => s
  | some x =>
    let v := leAt b 0 22
    let e := bits v 47 0
    if memComb (member s x) ≠ ownComb s ∨ memState (member s x) = 7 then s
    else
      let s := tput s 0x0E 0 x (setBits (member s x) 47 0 e)
      let s := setComb s { s.comb with heard := put s.comb.heard x (rd s R.TIME_TOD + 1) }
      let s := if bits v 51 48 = 6 ∧ memState (member s x) = 2 then memberTo s x 6 else s
      let s := capLearn s e false
      peerDigest s x (bits v 175 128) (bits v 127 64)

/-- A fault report arrives: this member acts as guard. -/
def faultIn (s : State) (p : Nat) (b : Bytes) : State :=
  let v := leAt b 0 32
  let x := bits v 13 0
  match peerIdx s p with
  | none => s
  | some y => if s.comb.listN ≤ x then s else guardReport s x (bits v 19 16) (bits v 63 32) y

/-- WAGGLE_SILENCE of a position. -/
def waggleSilence (s : State) (x : Nat) : State :=
  if (combOthers s).contains x then faultReport s x 4 else s

/-! ## Declaring and learning a loss (R360, R361, R374) -/

/-- The runs of stripes in a list of cells: first cell and count. -/
def runsOf : List Nat → List (Nat × Nat)
  | [] => []
  | c :: t => match runsOf t with
    | (f, n) :: r => if f = c + 1 then (c, n + 1) :: r else (c, 1) :: (f, n) :: r
    | [] => [(c, 1)]

/-- The comb is LOST while a rebuild runs: it stops, and the device names its unrecoverable cells (R374). -/
def rebuildStop (s : State) : State :=
  let s := s.rbd.waits.foldl (fun s w => finish s w.1 w.2.1 0x05 0 0) s
  let s := match s.rbd.cmd with
    | none => s
    | some (q, i) =>
      let missing (t : Nat) : Nat := ((List.range (cmbN s)).filter fun r =>
        rankState s r == 5 || rankState s r == 7 || rankState s r == 6 && !(r == cmbRank s && s.rbd.written.contains t)).length
      let ts := (List.range (cmbS s)).filter fun t => !s.rbd.written.contains t && decide (cmbM s < missing t)
      let cells : List (Bool × Nat) := ts.map (cellOfRank s (cmbRank s))
      let par := (cells.filter fun (c : Bool × Nat) => c.1).map fun (c : Bool × Nat) => c.2
      let dat := ((cells.filter fun (c : Bool × Nat) => !c.1).map fun (c : Bool × Nat) => c.2).filter fun d => decide (d < rd s R.CMB_DATA_CELLS)
      let rec_ (b : Bool) (s : State) (r : Nat × Nat) : State :=
        unitError s 0x05 0x0E (cmbRank s + at' (b2n b) 4 + at' r.1 8) r.2
      let s := (runsOf dat).foldl (rec_ false) s
      let s := (runsOf par).foldl (rec_ true) s
      finish s q i 0x05 0 0
  { s with rbd := { s.rbd with cmd := none, out := [], again := [], pull := [], waited := [], waits := [] } }

/-- REBUILD commands that wait on a device that is lost complete with REMOTE_DEAD. -/
def rebuildOrphans (s : State) (r : Nat) : State :=
  let s := (s.rbd.waits.filter fun w => w.2.2 == r).foldl (fun s w => finish s w.1 w.2.1 ecRemoteDead 0 0) s
  { s with rbd := { s.rbd with waits := s.rbd.waits.filter fun w => w.2.2 != r } }

/-- The member learns that position x is lost; g is the declaring guard's rank (R361, R362). -/
def learnLost (s : State) (x g : Nat) : State :=
  let e := member s x
  if s.comb.listN ≤ x then s
  -- before GO the loss is held (R386)
  else if memState e = 1 then setComb s { s.comb with guards := put s.comb.guards x (g + 1) }
  else if !([2, 3, 4, 5, 6].contains (memState e)) then s
  else
    let inComb := memRole e != 2 && memComb e == ownComb s
    let wasChild := (childrenOf s (ownIdx s)).contains x
    let wasRoot := treeRoot s == x
    let wasRebuilding := memState e == 6
    let s := setComb s { s.comb with guards := put s.comb.guards x (g + 1) }
    let s := memberTo s x 7
    let s := if inComb then s else count s C.CMB_LOST_SEEN
    -- ranks this position kept are LOST again (R379)
    let s := if inComb && memRole e == 0 then
        ((List.range s.comb.listN).filter fun y => memState (member s y) == 5 && get s.comb.guards y == memRank e + 1).foldl
          (fun s y => memberTo (setComb s { s.comb with guards := put s.comb.guards y (g + 1) }) y 7) s
      else s
    let p := memPeer e
    let s := deadPeer s p true
    let s := (s.col.run.filter fun c => (grPeers s (group s c.grp)).contains p).foldl (fun s c => collAbort s c ecRemoteDead) s
    let fid := peerFid (peerEntry s p)
    -- the stream keeps its numbers for a later message (R304)
    let s := setLp s { s.lp with tx := s.lp.tx.map fun t => if t.peer = p then { t with buf := [], wait := [], ack := t.next } else t,
                                 links := s.lp.links.map fun l => { l with txq := l.txq.filter fun f => hdrDst f.hdr != fid } }
    let s := (s.fences.filter fun f => f.streams.any fun t => t.1 == p).foldl (fun s f => failFence s f ecRemoteDead) s
    let s := resendReports (if wasChild || (wasRoot && amRoot s) then lostReport s x else s)
    let s := if wasRebuilding then rebuildOrphans s (memRank e) else s
    let s := match s.spine.run with
      | some r => if r.peer = p then finish (setSpine (dropSealRecord s) { (dropSealRecord s).spine with run := none }) r.queue r.idx ecRemoteDead 0 0 else s
      | none => s
    let s := if rd s R.CMB_COMB_STATE = 3 then rebuildStop s else if inComb then rebuildAgain s else s
    let s := rbSettle (setComb s { s.comb with rb := s.comb.rb.map fun r => { r with told := false } })
    if x = ownIdx s then ownLost s else s

/-- A LOST naming a position has passed here. -/
def sawLost (s : State) (x : Nat) : State := setComb s { s.comb with lostSeen := s.comb.lostSeen ++ [x] }

/-- This member declares position x lost as guard: LOST goes into the tree (R360). -/
def declare (s : State) (x : Nat) : State :=
  if memState (member s x) = 7 ∨ s.comb.listN ≤ x then s
  else
    let m := membMsg 4 x 0 (cmbRank s) (capped s) []
    let near := treeNear s
    let s := learnLost (sawLost s x) x (cmbRank s)
    toTree s none (near ++ treeNear s) m

/-- LOST_DECLARE: a report and no waggle for CMB_LOST_TMO together (R360). -/
def lostDeclare (s : State) (x : Nat) : State :=
  let e := member s x
  let tmo := 100000 * rd s R.CMB_LOST_TMO
  let now := rd s R.TIME_TOD
  let told := get s.comb.told x != 0 && decide (now + 1 ≤ get s.comb.told x + tmo)
  let silent := decide (get s.comb.heard x + tmo ≤ now + 1)
  if (memRole e = 0 ∨ memRole e = 1) ∧ memComb e = ownComb s ∧ x < s.comb.listN ∧ told ∧ silent then declare s x else s

/-- LOST from another position: forwarded the first time, also by a member that had taken the position for lost already, then acted on. -/
def lostIn (s : State) (p : Nat) (b : Bytes) : State :=
  let v := leAt b 0 16
  let x := bits v 47 34
  if s.comb.listN ≤ x ∨ s.comb.lostSeen.contains x then s
  else
    let near := treeNear s
    let s := learnLost (sawLost s x) x (bits v 79 48)
    toTree s (peerIdx s p) (near ++ treeNear s) b

/-- LEFT of a member: a loss while this member's job runs, which its guard declares; to a member that leaves too, the sender is in TEARDOWN
(R344, R354, R360). -/
def leftIn (s : State) (p : Nat) : State :=
  match peerIdx s p with
  | none => s
  | some x =>
    if memberState s = 0 then s
    else if s.comb.leave.isSome ∨ memberState s = 8 then
      (if [1, 2, 3, 4, 6].contains (memState (member s x)) then memberTo s x 8 else s)
    else if guardOf s x = some (ownIdx s) then declare s x
    else learnLost s x (match guardOf s x with
      | some y => memRank (member s y)
      | none => 0)

/-- DECLARE_SELF of a member: its guard declares it. -/
def declareSelfIn (s : State) (p : Nat) : State :=
  match peerIdx s p with
  | none => s
  | some x => declare s x

/-- The block sends DECLARE_SELF to its guard and alternate (R360). -/
def sendDeclareSelf (s : State) : State :=
  if isAbsent s then s
  else
    let x := ownIdx s
    let n := max 1 (if cmbFixed s then cmbN s - cmbM s else cmbN s)
    let dests := ([capped s % n, (capped s + 1) % n].filterMap (rankIdxIn s (memComb (member s x)))).eraseDups.filter (· != x)
    dests.foldl (fun s y => sendTo s y 3 (membMsg 0x0E x 0 0 0 [])) s

/-- CMB_DECLARE written: refused beyond the job list, nothing for a position already LOST (R360, R534). -/
def declareWrite (s : State) (x : Nat) : State × Nat :=
  if s.comb.listN ≤ x then (s, ecDescriptor) else (declare s x, 0)

/-! ## LEAVE (R354) -/

/-- LEAVE of either kind starts or goes on. A tag that is not the member's, and a member that is in no state to leave, fail
with DESCRIPTOR (DESIGN CHOICE, notes/assumptions/53). -/
def leaveEffect (s : State) (q sub : Nat) : State :=
  match activeRun s q 0x0B sub with
  | none => s
  | some r =>
    match s.comb.leave with
    | some (lq, li, down) =>
      if lq = q ∧ li = r.idx then (if down then s else leaveSettle s) else finish s q r.idx ecDescriptor 0 0
    | none =>
      if !([1, 2, 3, 4, 6].contains (memberState s)) || opd r.raw 23 0 != rd s R.CMB_JOB_JOB_TAG then
        finish s q r.idx ecDescriptor 0 0
      else
        let s := keepRunning s q r.idx [70]
        let s := setComb s { s.comb with leave := some (q, r.idx, false) }
        if sub = 1 then teardown s q r.idx else leaveSettle s

/-- TEARDOWN_RELEASE: the member is ABSENT, and the LEAVE completes. -/
def releaseEffect (s : State) : State :=
  if memberState s ≠ 8 then s
  else
    let l := s.comb.leave
    let s := joinsEnd s ecDescriptor 0
    let s := releaseJob s
    match l with
    | some (q, i, _) => finish s q i 0 0 0
    | none => s

/-- CAP_WAIT_TIMEOUT of a queue whose oldest unstarted command is a ROLLBACK or SEAL that waits for the cap (R363, R412). -/
def capWaitTimeout (s : State) (q : Nat) : State :=
  match (if (qOf s q).en then oldestUnstarted (qOf s q) else none) with
  | none => s
  | some r =>
    if (opcodeOf r.raw = 9 ∨ opcodeOf r.raw = 6) ∧ capped s < opd r.raw 47 0 ∧ judge s q r = .wait then
      finish s q r.idx ecDescriptor 0 0
    else s

/-! ## The rows' meanings -/

/-- JOIN (R348). -/
def execJoin (q : Fin 16) (s : State) : Ans := .next (joinEffect (begin s) q)

/-- LEAVE_DRAIN (R354). -/
def execLeaveDrain (q : Fin 16) (s : State) : Ans := .next (leaveEffect (begin s) q 0)

/-- LEAVE_IMMEDIATE (R354). -/
def execLeaveImmediate (q : Fin 16) (s : State) : Ans := .next (leaveEffect (begin s) q 1)

/-- ROLLBACK (R363, R364). -/
def execRollback (q : Fin 16) (s : State) : Ans := .next (rollbackEffect (begin s) q)

/-- START (R349): peer, the flit's JOB_TAG and MEMB_EPOCH, message. -/
def execStart (p : BitVec 12) (tag : BitVec 24) (memb : BitVec 16) (body : Bytes) (s : State) : Ans :=
  .next (startIn (begin s) p.toNat tag.toNat memb.toNat body)

/-- START_ACK (R349). -/
def execStartAck (p : BitVec 12) (body : Bytes) (s : State) : Ans := .next (startAckIn (begin s) p.toNat body)

/-- GO (R350): the flit's JOB_TAG and MEMB_EPOCH, message. -/
def execGo (tag : BitVec 24) (memb : BitVec 16) (body : Bytes) (s : State) : Ans :=
  .next (goIn (begin s) tag.toNat memb.toNat body)

/-- JOIN_SUBTREE_TIMEOUT (R349). -/
def execJoinSubtreeTimeout (s : State) : Ans := .next (startTimeout (begin s))

/-- LOST (R361). -/
def execLost (p : BitVec 12) (body : Bytes) (s : State) : Ans := .next (lostIn (begin s) p.toNat body)

/-- LOST_DECLARE (R360): list index. -/
def execLostDeclare (x : BitVec 14) (s : State) : Ans := .next (lostDeclare (begin s) x.toNat)

/-- LEFT (R354). -/
def execLeft (p : BitVec 12) (s : State) : Ans := .next (leftIn (begin s) p.toNat)

/-- DECLARE_SELF (R360). -/
def execDeclareSelf (p : BitVec 12) (s : State) : Ans := .next (declareSelfIn (begin s) p.toNat)

/-- CMB_DECLARE (R360): the index written. -/
def execCmbDeclare (r : Req) (x : BitVec 14) (s : State) : Ans := .next (answered r (unlessHeld (begin s) (declareWrite (begin s) x.toNat)))

/-- TEARDOWN_RELEASE (R354). -/
def execTeardownRelease (s : State) : Ans := .next (releaseEffect (begin s))

/-- RB_DONE (R365). -/
def execRbDone (p : BitVec 12) (body : Bytes) (s : State) : Ans := .next (rbDoneIn (begin s) p.toNat body)

/-- RB_ANN (R365). -/
def execRbAnn (body : Bytes) (s : State) : Ans := .next (rbAnnIn (begin s) body)

/-- ROLLBACK_REPORT_TIMEOUT (R365). -/
def execRollbackReportTimeout (s : State) : Ans := .next (rbTimeout (begin s))

/-- CAP_WAIT_TIMEOUT (R363, R412). -/
def execCapWaitTimeout (q : Fin 16) (s : State) : Ans := .next (capWaitTimeout (begin s) q)

/-- WAGGLE_SEND (R356). -/
def execWaggleSend (s : State) : Ans := .next (waggleSend (begin s))

/-- WAGGLE (R356). -/
def execWaggle (p : BitVec 12) (body : Bytes) (s : State) : Ans := .next (waggleIn (begin s) p.toNat body)

/-- WAGGLE_SILENCE (R357): list index. -/
def execWaggleSilence (x : BitVec 14) (s : State) : Ans := .next (waggleSilence (begin s) x.toNat)

/-- FAULT_REPORT (R359). -/
def execFaultReport (p : BitVec 12) (body : Bytes) (s : State) : Ans := .next (faultIn (begin s) p.toNat body)

end Sys2Proof.Machine
end

