-- ==== Sys2Proof/Machine/Streams.lean ====
section
/-! DEFINITION. The light port's receiving streams: delivery in order, acceptance and acknowledgement, and the rows of messages that are
accepted once their effect is durable (R302 to R306, R316). -/

namespace Sys2Proof.Machine

/-! ## Link credits (R25, R295, R333) -/

/-- A credit return of everything freed since the last one. -/
def sendCredits (s : State) (l : Nat) : State :=
  let x := linkOf s l
  if fallsSilent s then s
  else
    let s := sendControl s l ([2, 0, 0, 0] ++ (List.range 8).flatMap fun v => leBytes 2 (get x.freed v))
    setLink s l { x with freed := [] }

/-- A flit's receive space is free again; 16 freed flits of a VC return their credits, once the link runs; a link that is down has none to
return (R295). -/
def creditFreed (s : State) (l v : Nat) : State :=
  if !linkLives s l then s
  else
    let x := linkOf s l
    let n := get x.freed v + 1
    let s := setLink s l { x with freed := put x.freed v n }
    if 16 ≤ n ∧ linkUp s l then sendCredits s l else s

/-- A flit leaves its receive space. The coding unit keeps back a credit of VC1 for each flit of segments it has not applied (R25). -/
def freeCredit (s : State) (l v : Nat) : State :=
  if linkLives s l ∧ v = 1 ∧ s.lp.heldCred.length < drainBacklog s then setLp s { s.lp with heldCred := s.lp.heldCred ++ [l] }
  else creditFreed s l v

/-- Credits of VC1 kept back return as parity application catches up (R25); fuel bounds them. -/
def returnHeld : Nat → State → State
  | 0, s => s
  | n + 1, s =>
    match s.lp.heldCred with
    | l :: t => if drainBacklog s < s.lp.heldCred.length then returnHeld n (freeCredit (setLp s { s.lp with heldCred := t }) l 1) else s
    | [] => s

/-- Flits of VC5 that still hold their space: those that wait in the reorder memory, and those whose requests the home has not taken
(R333). -/
def hiveFlits (s : State) : Nat :=
  ((s.lp.rx.filter fun r => r.vc == 5).map fun r => r.early.length + (r.held.filter fun h =>
    !h.come || h.reqs.any fun k => s.hive.waitq.any fun x => x.peer == some r.peer && (x.req.ctx, x.req.gen) == k).length).sum

/-- Credits of VC5 kept back return as the home takes requests (R333); fuel bounds them. -/
def returnHive : Nat → State → State
  | 0, s => s
  | n + 1, s =>
    match s.lp.hiveCred with
    | l :: t => if hiveFlits s < s.lp.hiveCred.length then returnHive n (creditFreed (setLp s { s.lp with hiveCred := t }) l 5) else s
    | [] => s

/-! ## Receiving streams (R304, R305) -/

/-- The receiving stream of a peer and VC: WINDOW 16 at first. -/
def rxOf (s : State) (p vc : Nat) : RxStream :=
  (s.lp.rx.find? fun r => r.peer == p && r.vc == vc).getD
    { peer := p, vc := vc, tag := 0, memb := 0, next := 0, early := [], acked := 0, window := 16, part := [],
      held := [] }

/-- The state with a receiving stream stored. -/
def setRx (s : State) (r : RxStream) : State :=
  setLp s { s.lp with rx := (s.lp.rx.filter fun x => !(x.peer == r.peer && x.vc == r.vc)) ++ [r] }

/-- The receiving stream a flit belongs to: a source numbers its flits from 0 after each JOIN, which the job tag and the membership
epoch of the flit tell apart (R304; DEDUCED, notes/assumptions/67). -/
def rxFor (s : State) (p vc : Nat) (f : Flit) : RxStream :=
  let r := rxOf s p vc
  if r.tag = hdrTag f.hdr ∧ r.memb = hdrMemb f.hdr then r
  else
    { r with tag := hdrTag f.hdr, memb := hdrMemb f.hdr, next := 0, early := [], acked := 0, window := 16, part := [], held := [] }

/-! ## What is accepted (R305, R316) -/

/-- The first ESEQ of a stream that is not accepted: that of the oldest message whose effect is not durable, else the next in order. -/
def accEnd (r : RxStream) : Nat :=
  match r.held with
  | h :: _ => h.eseq
  | [] => r.next

/-- Flits accepted since the last acknowledgement. -/
def unacked (r : RxStream) : Nat := (accEnd r + 2 ^ 32 - r.acked) % 2 ^ 32

/-- TYPEs whose messages the receiver writes: chunks, hive requests and seal images. The others are handed to the unit that answers
them. -/
def heldType (t : Nat) : Bool := decide (9 ≤ t) && decide (t ≤ 0x0C) || t == 0x0E

/-- The owner of a held message whose unit answers it later: a seal read request, accepted once its last data message is sent (R416). -/
def serveMark : Nat := 2 ^ 63

/-- A hive request of peer p is accepted: the home has taken it, and a store or atomic is applied (R333). -/
def reqAccepted (s : State) (p : Nat) (k : Nat × Nat) : Bool :=
  let is (x : HomeReq) : Bool := x.peer == some p && (x.req.ctx, x.req.gen) == k
  !s.hive.waitq.any is && !s.hive.home.any fun x => is x && x.req.op != 0 && x.req.op != 6

/-- The message's effect is durable: its unit has taken it, its writes are acknowledged and its hive requests accepted. -/
def msgDurable (s : State) (p : Nat) (h : HeldMsg) : Bool :=
  h.come && (h.owner == 0 || writesAcked s (h.owner - 1)) &&
    (h.owner != serveMark || s.spine.serve.all fun x => x.peer != p) && h.reqs.all (reqAccepted s p)

/-- Messages at the head of a stream's held ones whose effect is durable leave, oldest first. -/
def dropDurable (s : State) (p : Nat) : List HeldMsg → List HeldMsg
  | [] => []
  | h :: t => if msgDurable s p h then dropDurable s p t else h :: t

/-- Flits of a dense chunk of a collective (R288, R314). -/
def chunkFlits (s : State) (o : CollOp) : Nat := ceilDiv (20 + cellPlaces s o * elemBytes o.type) 232

/-- The next chunk of a list reduce-scatter that group index k still owes: the one whose flits arrive, else the one after the last
staged. A sender leaves out cells without rows, so the cell of an arriving chunk passes those below it (R214, R316). -/
def frontier (s : State) (c : Coll) (k : Nat) : Nat :=
  let next := ((c.staged.filter fun x => x.1 == k).map fun x => x.2.1 + 1).foldl max 0
  match (rxOf s (grPeer s (group s c.grp) k) 3).part with
  | f :: _ => if leAt f.payload 0 4 = c.gtag ∧ leAt f.payload 4 4 = c.seq then max next (leAt f.payload 8 3) else next
  | [] => next

/-- j₀: the owner's lowest destination cell whose tree is not complete (R316). -/
def lowestOpen (s : State) (c : Coll) (o : CollOp) : Nat :=
  if rowForm s o then
    (((List.range (grN (group s c.grp))).filter fun k => k != grMe (group s c.grp) && !(c.ends.any fun x => x.1 == k)).map
      (frontier s c)).foldl min endIndex
  else (firstBelow (shardCells s o + 1) fun j => !c.formed.contains j).getD 0

/-- How many flits of group index k's stream beyond those accepted lie in chunks below j₀ + COL_RS_WIN of an open reduce-scatter, and
whether these are all that k still sends for it (R316). Chunks of rows have no fixed length: each is at least one flit long. -/
def rsRoom (s : State) (c : Coll) (k : Nat) (r : RxStream) : Nat × Bool :=
  let o := opOf s c
  let edge := lowestOpen s c o + c.win
  if rowForm s o then
    if c.ends.any fun x => x.1 == k then (0, true)
    else
      let n := edge - frontier s c k
      (if r.held = [] then n else min 1 n, false)
  else
    let got := c.formed.length + (c.staged.filter fun x => x.1 == k).length
    ((min edge (shardCells s o) - got) * chunkFlits s o - (if r.held = [] then r.part.length else chunkFlits s o - 1),
      decide (shardCells s o ≤ edge))

/-- The flits of a VC3 stream that the open reduce-scatters admit, in the order of their start: those of a later one only after all
that is left of the earlier ones (R316). -/
def rsWindow (s : State) (r : RxStream) : List Coll → Nat
  | [] => 0
  | c :: t =>
    match (grIdxOf s (group s c.grp) r.peer).map fun k => rsRoom s c k r with
    | some (n, whole) => n + if whole then rsWindow s r t else 0
    | none => rsWindow s r t

/-- Flits waiting in the reorder memory, of every stream. -/
def reorderHeld (s : State) : Nat := (s.lp.rx.map fun r => r.early.length).sum

/-- The WINDOW a receiver may now grant beyond what it has accepted: up to LP_E2E_WIN, above the first 16 no further than the 8 MiB
reorder memory has room, and on VC3 no further than open reduce-scatters allow (R305, R316; notes/assumptions/10). -/
def grantable (s : State) (r : RxStream) : Nat :=
  let w := min (rd s R.LP_E2E_WIN) (max 16 (32768 - reorderHeld s))
  if r.vc ≠ 3 then w else min w (rsWindow s r (s.col.run.filter fun c => (opOf s c).sub == 0))

/-- Flits beyond those accepted that the last acknowledgement still admits. -/
def stillGranted (r : RxStream) : Nat := (r.acked + r.window + 2 ^ 32 - accEnd r) % 2 ^ 32

/-- One end-to-end acknowledgement of a stream; what was granted is never taken back (R305). -/
def sendAck (s : State) (p vc : Nat) : State :=
  let r := rxOf s p vc
  let w := max (stillGranted r) (grantable s r)
  let s := setRx s { r with acked := accEnd r, window := w }
  sendMsg s p 2 0 (leBytes 16 ((accEnd r + 2 ^ 32 - 1) % 2 ^ 32 + at' w 32 + at' vc 48))

/-- A stream's durable messages are accepted. 64 accepted flits send an acknowledgement, and so does a window of a reduce-scatter that
opens again (R305, R316). -/
def settleRxStream (s : State) (p vc : Nat) : State :=
  let r := rxOf s p vc
  let r := { r with held := dropDurable s p r.held }
  if r.held = (rxOf s p vc).held ∧ unacked r < 64 ∧ vc ≠ 3 then s
  else
    let s := setRx s r
    if 64 ≤ unacked r ∨ (vc = 3 ∧ unacked r = 0 ∧ stillGranted r < min 16 (grantable s r)) then sendAck s p vc else s

/-- Every receiving stream's durable messages are accepted, and the VC5 credits of requests that the home has taken return. -/
def settleRx (s : State) : State :=
  returnHive s.lp.hiveCred.length (s.lp.rx.foldl (fun s r => settleRxStream s r.peer r.vc) s)

/-- The unit of a held message has taken it: the oldest one of its TYPE from the peer that was not yet taken. -/
def takeHeld (owner : Nat) (reqs : List (Nat × Nat)) (type : Nat) : List HeldMsg → List HeldMsg
  | [] => []
  | h :: t =>
    if h.type = type ∧ !h.come then { h with come := true, owner := owner, reqs := reqs } :: t
    else h :: takeHeld owner reqs type t

/-- A unit takes the message of a TYPE that peer p's stream delivered: it is accepted once the writes of an owner (its number plus one, 0
for none) are acknowledged and the hive requests accepted (R305). -/
def takenMsg (s : State) (p type owner : Nat) (reqs : List (Nat × Nat)) : State :=
  let vc := (vcOfType type).getD 0
  let r := rxOf s p vc
  if r.held = [] then s
  else returnHive s.lp.hiveCred.length (settleRxStream (setRx s { r with held := takeHeld owner reqs type r.held }) p vc)

/-! ## Delivery in order (R304) -/

/-- A flit joins the message being gathered; the last one delivers it. A flit that continues no message is dropped. -/
def gather (s : State) (p vc : Nat) (f : Flit) : State :=
  let r := rxOf s p vc
  let part := if hdrFirst f.hdr then [f] else if r.part = [] then [] else r.part ++ [f]
  if hdrLast f.hdr ∧ part ≠ [] then
    let b := part.flatMap fun g => slice g.payload 0 (hdrLen g.hdr)
    let held := if heldType (hdrType f.hdr) ∧ peerProto (peerEntry s p) ≠ 2 then
        r.held ++ [{ eseq := hdrEseq f.hdr, type := hdrType f.hdr, come := false, owner := 0, reqs := [] }] else r.held
    emit (setRx s { r with part := [], held := held }) (.deliver p (hdrType f.hdr) (hdrTag f.hdr) (hdrMemb f.hdr) b)
  else setRx s { r with part := part }

/-- Flits of a stream that are next in order are delivered; fuel bounds them. -/
def deliverNext (p vc : Nat) : Nat → State → State
  | 0, s => s
  | n + 1, s =>
    let r := rxOf s p vc
    match r.early.find? fun e => e.1 == r.next with
    | none => s
    | some e =>
      let s := setRx s { r with early := r.early.filter fun x => x.1 != r.next, next := (r.next + 1) % 2 ^ 32 }
      deliverNext p vc n (gather s p vc e.2)

/-- A flit of a version-3 stream: a duplicate is discarded, one beyond the WINDOW or the 8 MiB reorder memory is left to
its re-send, the others are delivered in order (R304). -/
def streamIn (s : State) (p vc : Nat) (f : Flit) : State :=
  let r := rxFor s p vc f
  let e := hdrEseq f.hdr
  let d := (e + 2 ^ 32 - r.next) % 2 ^ 32
  if 2 ^ 31 ≤ d ∨ r.early.any (fun x => x.1 == e) then count s C.LP_E2E_DUP
  else if r.window ≤ (e + 2 ^ 32 - r.acked) % 2 ^ 32 ∨ (d ≠ 0 ∧ 32768 ≤ reorderHeld s) then s
  else
    let s := setRx s { r with early := r.early ++ [(e, f)] }
    let s := deliverNext p vc (r.early.length + 1) s
    if 64 ≤ unacked (rxOf s p vc) then sendAck s p vc else s

/-! ## End-to-end acknowledgements (R305, R306) -/

/-- One entry of an acknowledgement from peer p. -/
def ackEntry (p : Nat) (s : State) (e : Nat) : State :=
  let t := txOf s p (bits e 50 48)
  let a := bits e 31 0
  let w := bits e 47 32
  let cur := (t.ack + 2 ^ 32 - 1) % 2 ^ 32
  let s := if serialGt a cur then
      setTx s { t with ack := (a + 1) % 2 ^ 32, window := w, buf := t.buf.filter fun b => serialGt b.1 a }
    else count (setTx s { t with window := w }) C.LP_ACK_DUP
  let s := { s with fences := s.fences.map fun f => { f with streams := f.streams.filter fun x =>
      !(x.1 == p && x.2.1 == bits e 50 48 && !serialGt x.2.2 a) } }
  pumpStream s p (bits e 50 48)

/-- The entries of an acknowledgement, at most 14. -/
def ackIn (s : State) (p : Nat) (b : Bytes) : State :=
  ((List.range (min 14 (b.length / 16))).map fun i => leAt b (16 * i) 16).foldl (ackEntry p) s

/-! ## Messages taken -/

/-- A chunk of TYPE from peer p led from s to t: it is accepted once what its collective, or else the unit named, writes is acknowledged
(R305). -/
def chunkTaken (s t : State) (type p : Nat) (b : Bytes) (unit : Nat) : State :=
  let owner := match collOf s (leAt b 0 4) (leAt b 4 4) with
    | some c => c.owner + 1
    | none => unit
  settleRx (takenMsg t p type owner [])

/-- The requests of a hive request flit, by context and generation. -/
def requestKeys (b : Bytes) : List (Nat × Nat) := (takeRecs 30 b).map fun r => (r.ctx, r.gen)

/-! ## The rows' meanings -/

/-- REDUCE_SCATTER_CHUNK (R315, R316): peer and chunk. -/
def execReduceScatterChunk (p : BitVec 12) (body : Bytes) (s : State) : Ans := .next (chunkTaken s (chunkIn (begin s) 0 p.toNat body) 0x0A p.toNat body 0)

/-- GATHER_CHUNK (R315). -/
def execGatherChunk (p : BitVec 12) (body : Bytes) (s : State) : Ans := .next (chunkTaken s (chunkIn (begin s) 1 p.toNat body) 0x0B p.toNat body 0)

/-- BROADCAST_CHUNK (R315). -/
def execBroadcastChunk (p : BitVec 12) (body : Bytes) (s : State) : Ans := .next (chunkTaken s (chunkIn (begin s) 2 p.toNat body) 0x0B p.toNat body 0)

/-- PARITY_SCATTER_CHUNK (R318). -/
def execParityScatterChunk (p : BitVec 12) (body : Bytes) (s : State) : Ans := .next (chunkTaken s (chunkIn (begin s) 3 p.toNat body) 0x09 p.toNat body 0)

/-- OPEN (R311): the senders' windows open with the collective (R316). -/
def execOpen (body : Bytes) (s : State) : Ans := .next (collMsgIn (begin s) 2 body)

/-- E2E_ACK_RECEIVE (R305): sender and entries. -/
def execE2eAckReceive (p : BitVec 12) (body : Bytes) (s : State) : Ans :=
  .next (settleColls (settleFences (ackIn (begin s) p.toNat body)))

/-- E2E_ACK_TIMER (R305). -/
def execE2eAckTimer (p : BitVec 12) (vc : Fin 8) (s : State) : Ans :=
  let s := settleRxStream (begin s) p.toNat vc
  .next (if unacked (rxOf s p.toNat vc) = 0 then s else sendAck s p.toNat vc)

/-- HIVE_REQUEST_ARRIVAL: peer, JOB_TAG, MEMB_EPOCH and the record (R333, R337). -/
def execHiveRequestArrival (p : BitVec 12) (tag : BitVec 24) (memb : BitVec 16) (body : Bytes) (s : State) : Ans :=
  let t := requestArrival (begin s) p.toNat tag.toNat memb.toNat body
  .next (if newerMemb s tag.toNat memb.toNat then t else takenMsg t p.toNat 0x0C 0 (requestKeys body))

/-- HIVE_READ of a line (R330). -/
def execHiveRead (line : BitVec 35) (s : State) : Ans := .next (settleRx (homeOp (begin s) line.toNat 0))

/-- HIVE_WRITE of a line (R330). -/
def execHiveWrite (line : BitVec 35) (s : State) : Ans := .next (settleRx (homeOp (begin s) line.toNat 1))

/-- HIVE_ADD of a line (R330). -/
def execHiveAdd (line : BitVec 35) (s : State) : Ans := .next (settleRx (homeOp (begin s) line.toNat 2))

/-- HIVE_MIN of a line (R330). -/
def execHiveMin (line : BitVec 35) (s : State) : Ans := .next (settleRx (homeOp (begin s) line.toNat 3))

/-- HIVE_MAX of a line (R330). -/
def execHiveMax (line : BitVec 35) (s : State) : Ans := .next (settleRx (homeOp (begin s) line.toNat 4))

/-- HIVE_SWAP of a line (R330). -/
def execHiveSwap (line : BitVec 35) (s : State) : Ans := .next (settleRx (homeOp (begin s) line.toNat 5))

/-- CELL_READ (R329). -/
def execCellRead (s : State) : Ans := .next (settleRx (takeWaiting (cellReadEffect (begin s))))

end Sys2Proof.Machine
end

