-- ==== Sys2Proof/Machine/Recover.lean ====
section
/-! DEFINITION. Rebuilding a rank and the rounds of RESTORE from coded state (R298, R369 to R376, R381 to R383, R386). -/

namespace Sys2Proof.Machine

/-- The state with the rebuild unit replaced. -/
def setRbd (s : State) (x : Rebuild) : State := { s with rbd := x }

/-! ## The named device (R369, R370) -/

/-- ROLE and RANK of a position set. -/
def setRoleRank (s : State) (x role rank : Nat) : State :=
  tput s 0x0E 0 x (setBits (setBits (member s x) 79 78 role) 99 96 rank)

/-- What the named device of a REBUILD is: 0 not admitted, 1 a STANDBY, 2 the rank's fresh device, 3 the rank's shadow. -/
def deviceKind (s : State) (rank y : Nat) : Nat :=
  let e := member s y
  if memRole e = 2 ∨ memComb e ≠ ownComb s then 0
  else if memRole e = 3 ∧ memRank e = rank ∧ memState e = 4 then 3
  else if memRole e = 0 ∧ memRank e = rank ∧ memState e = 6 then 2
  else if memRole e = 1 ∧ memState e = 3 ∧ rankState s rank = 7 then 1
  else 0

/-- Every member takes the change: the lost position gives up its rank, the device takes it and is REBUILDING. A shadow and a
fresh device change nothing. -/
def takeRank (s : State) (rank y kind : Nat) : State :=
  if kind ≠ 1 then s
  else
    let s := match rankIdx s rank with
      | some x => setRoleRank s x 1 rank
      | none => s
    memberTo (setRoleRank s y 0 rank) y 6

/-- Data cells of the loaded directory: those up to the end of the last UNIQUE home of the own rank. -/
def loadedCells (s : State) : Nat :=
  (objIds s).foldl (fun m o =>
    let e := dir s o
    if objValid s o ∧ oClass e = clsUnique ∧ oHome e < 2 ^ 25 then max m (oHome e + objCells e) else m) 0

/-- The SCALE objects of the directory take their live copies from the rank's mirror. An object has a capped copy when its mirror shows one, or
when an epoch has capped since the base of the job: a copy of zeros is capped too (R91, R113; DEDUCED, notes/assumptions/77). -/
def liveFromMirror (s : State) (rank : Nat) : State :=
  let os := (objIds s).filter fun o => objValid s o && oClass (dir s o) == clsScale
  let s := os.foldl (fun s o =>
    (List.range (objCells (dir s o))).foldl (fun s c =>
      placeWrite s s.cod.owner (cellPlace s (dir s o) c) 0 (mread s.cod.scaleCap (scaleKey rank o (c * cellSize)) cellSize)) s) s
  setCod s { s.cod with scaleHas := os.filter fun o => decide (s.comb.base < capped s) ||
    (mread s.cod.scaleCap (scaleKey rank o 0) (objBytes (dir s o))).any (· != 0) }

/-- The REPLICA objects of the directory are repaired from their copies (R370). -/
def repairReplicas (s : State) : State :=
  ((objIds s).filter fun o => objValid s o && oClass (dir s o) == clsReplica).foldl (fun s o =>
    (List.range (objCells (dir s o))).foldl (fun s c =>
      placeWrite s s.cod.owner (cellPlace s (dir s o) c) 0 ((List.range cellSize).map (Config.replicaByte o c))) s) s

/-- The named device starts: it holds the rank, its data cells and its SCALE objects, and asks for stripes from the first. -/
def deviceStart (s : State) (q i rank kind : Nat) : State :=
  let s := if kind = 3 then s else wr (wr s R.CMB_RANK_RANK rank) R.CMB_RANK_ROLE 0
  let s := wr (wr s R.CMB_DATA_CELLS (loadedCells s)) R.CMB_RB_DONE_STRIPES 0
  let s := if kind = 1 then setCod s { s.cod with shares := freshShares s } else s
  let s := repairReplicas (refreshRecord (liveFromMirror s rank))
  keepRunning (setRbd s { s.rbd with
    cmd := some (q, i), shadow := kind == 3, rank := rank, written := [], next := 0, out := [], again := [], pull := [], waited := [] }) q i [rank]

/-! ## Serving requests (R371) -/

/-- GTAG of a rebuild's chunks. -/
def rbTag (s : State) (rank : Nat) : Nat := at' (rd s R.CMB_JOB_JOB_TAG) 8 + at' 0xE 4 + rank

/-- The rank a device rebuilds, as this member knows it; none while it does not. -/
def deviceRank (s : State) (p : Nat) : Option Nat :=
  match peerIdx s p with
  | none => none
  | some y =>
    let e := member s y
    if memComb e ≠ ownComb s then none
    else if memRole e = 3 ∨ (memRole e = 0 ∧ memState e = 6) then some (memRank e)
    else none

/-- The own cell of a stripe can be given to a chain: it is not SUSPECT, nor still missing (R392). -/
def termReady (s : State) (t : Nat) : Bool :=
  let c := cellOfRank s (cmbRank s) t
  !ownMissing s t && (c.1 || !lSuspect (ledger s c.2))

/-- This member's turn in a stripe of a request: its place, its coefficient, and the peer its chunk goes to. -/
def turnOf (s : State) (r : ChainReq) (t : Nat) : Option (Nat × Nat × Nat) :=
  match chainGivers s r.rank t with
  | none => none
  | some cs => (firstBelow cs.length fun i => (cs.getD i (0, 0)).1 == cmbRank s).map fun i =>
      (i, (cs.getD i (0, 0)).2,
       if i + 1 = cs.length then r.peer else (rankPeer s (cs.getD (i + 1) (0, 0)).1).getD 0xFFF)

/-- A chunk of a rebuild goes out: its index is the stripe's place in the request. -/
def sendTerm (s : State) (r : ChainReq) (t dest : Nat) (b : Bytes) : State :=
  if peerValid (peerEntry s dest) then
    sendMsg s dest 9 ((t - r.first) % 2 ^ 16) (chunkMsg (rbTag s r.rank) r.seq (t - r.first) b)
  else s

/-- RB_STALE for a range. -/
def sendStale (s : State) (p first n seq : Nat) : State :=
  sendMsg s p 3 0 (membMsg 0x0B (ownIdx s) 0 n (capped s) (leBytes 4 first ++ leBytes 4 seq))

/-- The own term of a stripe added to what came before it and sent on. A member that has capped since, or whose own cell is SUSPECT, sends
RB_STALE instead (R371, R386, R392; DESIGN CHOICE for a SUSPECT cell, notes/assumptions/54). -/
def giveTerm (s : State) (r : ChainReq) (t c dest : Nat) (b : Bytes) : State :=
  if capped s ≠ r.x ∨ !termReady s t then sendStale s r.peer t 1 r.seq
  else sendTerm s r t dest (xorBytes b (chainTerm s t c))

/-- A chunk reaches a contributor: it adds its term and passes the sum on; one with a bad CRC is reported stale, so that the
device asks for the stripe again (DESIGN CHOICE, notes/assumptions/54). -/
def passTerm (s : State) (r : ChainReq) (j : Nat) (d : Bytes × Bool) : State :=
  let t := r.first + j
  match (if r.n ≤ j then none else turnOf s r t) with
  | none => s
  | some (_, c, dest) =>
    if !d.2 then sendStale (count s C.COL_CHUNK_CRC) r.peer t 1 r.seq
    else giveTerm s r t c dest (slice d.1 0 cellSize)

/-- A request is served: the first contributor of a stripe starts its chunk, and chunks that came before the request are
passed on. -/
def serveReq (s : State) (r : ChainReq) : State :=
  let s := setComb s { s.comb with reqs := (s.comb.reqs.filter fun x =>
    !(x.peer == r.peer && decide (x.first < r.first + r.n) && decide (r.first < x.first + x.n))) ++ [r] }
  let s := ((List.range r.n).map (r.first + ·)).foldl (fun s t =>
    match turnOf s r t with
    | some (0, c, dest) => giveTerm s r t c dest (List.replicate cellSize 0)
    | _ => s) s
  let mine (c : Nat × Bytes) : Bool := leAt c.2 0 4 == rbTag s r.rank && leAt c.2 4 4 == r.seq
  let l := s.comb.chunks.filter mine
  let s := setComb s { s.comb with chunks := s.comb.chunks.filter fun c => !mine c }
  l.foldl (fun s c => passTerm s r (leAt c.2 8 3) (chunkBody c.2)) s

/-- RB_REQ of a device. One that comes before this member's own REBUILD waits for it (rank 16). -/
def rbReqIn (s : State) (p : Nat) (b : Bytes) : State :=
  let v := leAt b 0 16
  let n := bits v 71 48
  let first := leAt b 16 4
  let seq := leAt b 20 4
  let x := bits v 127 80
  if n = 0 ∨ 64 < n ∨ memRole (member s (ownIdx s)) ≠ 0 then s
  else match deviceRank s p with
  | none => setComb s { s.comb with reqs := s.comb.reqs ++
      [{ peer := p, seq := seq, first := first, n := n, x := x, rank := 16 }] }
  | some rank =>
    if capped s ≠ x then sendStale s p first n seq
    else serveReq s { peer := p, seq := seq, first := first, n := n, x := x, rank := rank }

/-- The requests that waited for this member's REBUILD are judged. -/
def takeReqs (s : State) : State :=
  let l := s.comb.reqs.filter fun r => r.rank == 16 && (deviceRank s r.peer).isSome
  let s := setComb s { s.comb with reqs := s.comb.reqs.filter fun r => !l.contains r }
  l.foldl (fun s r =>
    if capped s ≠ r.x then sendStale s r.peer r.first r.n r.seq
    else serveReq s { r with rank := (deviceRank s r.peer).getD 0 }) s

/-! ## REBUILD (R369, R376) -/

/-- The lost rank gets no device: it is DEGRADED, and the guard that declared the loss is its keeper. -/
def keepRank (s : State) (x rank : Nat) : State :=
  let mine := get s.comb.guards x == cmbRank s + 1 && memRole (member s (ownIdx s)) == 0
  let s := memberTo s x 5
  match (if mine then firstBelow 3 fun k => !rdb s (R.CMB_KEEP_VALID k) else none) with
  | some k => wr (wr s (R.CMB_KEEP_VALID k) 1) (R.CMB_KEEP_RANK k) rank
  | none => s

/-- REBUILD: refused, at once done with a keeper, started on the named device, or waiting for its REBUILT. -/
def rebuildEffect (s : State) (q : Nat) : State :=
  match activeRun s q 7 0 with
  | none => s
  | some r =>
    let rank := opd r.raw 3 0
    let sp := opd r.raw 15 4
    let bad (s : State) : State := finish s q r.idx ecDescriptor 0 0
    if r.phase = .running then s
    else if (uncapped s).any (isOpen s) then bad s
    else if sp = 0xFFF then
      match rankIdx s rank with
      | some x => if memState (member s x) = 7 then finish (refreshRecord (keepRank s x rank)) q r.idx 0 0 0 else bad s
      | none => bad s
    else match peerIdx s sp with
    | none => bad s
    | some y =>
      let kind := deviceKind s rank y
      if kind = 0 ∨ (rankIdx s rank).isNone then bad s
      else
        let s := takeRank s rank y kind
        if y = ownIdx s then deviceStart s q r.idx rank kind
        else
          let s := setRbd s { s.rbd with waits := s.rbd.waits ++ [(q, r.idx, rank)] }
          takeReqs (refreshRecord (keepRunning s q r.idx [rank]))

/-! ## The device (R371 to R373) -/

/-- A stripe's cell of the rank must still be written: it is no virtual cell (R252) and not written yet. -/
def stripeNeeded (s : State) (t : Nat) : Bool :=
  let c := cellOfRank s s.rbd.rank t
  decide (t < cmbS s) && (c.1 || decide (c.2 < rd s R.CMB_DATA_CELLS)) && !s.rbd.written.contains t

/-- A stripe is requested and unwritten. -/
def stripeOut (s : State) (t : Nat) : Bool :=
  s.rbd.out.any fun o => decide (o.2.1 ≤ t) && decide (t < o.2.1 + o.2.2.1)

/-- Stripes requested and unwritten. -/
def stripesOut (s : State) : Nat :=
  (s.rbd.out.map fun o => ((List.range o.2.2.1).filter fun k => stripeNeeded s (o.2.1 + k)).length).sum

/-- How many stripes from t on, of at most n, are needed and not requested. -/
def runFrom (s : State) : Nat → Nat → Nat
  | 0, _ => 0
  | n + 1, t => if stripeNeeded s t && !stripeOut s t then 1 + runFrom s n (t + 1) else 0

/-- The next range to request: a stripe wanted first, a range to ask for again, else the next stripes in order. -/
def nextRange (s : State) (room : Nat) : Option (Nat × Nat) × Rebuild :=
  let x := s.rbd
  match x.pull.find? fun t => stripeNeeded s t && !stripeOut s t with
  | some t => (some (t, 1), { x with pull := x.pull.filter (· != t) })
  | none =>
    match x.again.find? fun a => (List.range a.2).any fun k => stripeNeeded s (a.1 + k) && !stripeOut s (a.1 + k) with
    | some a =>
      let k := (firstBelow a.2 fun k => stripeNeeded s (a.1 + k) && !stripeOut s (a.1 + k)).getD 0
      let n := runFrom s (min (a.2 - k) (min 64 room)) (a.1 + k)
      let rest := if a.2 ≤ k + n then [] else [(a.1 + k + n, a.2 - (k + n))]
      (some (a.1 + k, n), { x with again := rest ++ x.again.filter (· != a) })
    | none =>
      match (firstBelow (cmbS s - x.next) fun k => stripeNeeded s (x.next + k) && !stripeOut s (x.next + k)) with
      | some k =>
        let n := runFrom s (min 64 room) (x.next + k)
        (some (x.next + k, n), { x with next := x.next + k + n })
      | none => (none, x)

/-- REBUILD_REQUEST_ISSUE: the next range goes to every contributor. -/
def requestIssue (s : State) : State :=
  let room := rd s R.CMB_RB_WIN - stripesOut s
  if s.rbd.cmd.isNone || room == 0 then s
  else
    match nextRange s room with
    | (none, _) => s
    | (some (t, n), x) =>
      match chainGivers s x.rank t with
      | none => s
      | some cs =>
        let s := setRbd s { x with seq := (x.seq + 1) % 2 ^ 32, out := x.out ++ [(x.seq, t, n, capped s)] }
        let m := membMsg 0x0A (ownIdx s) 0 n (capped s) (leBytes 4 t ++ leBytes 4 x.seq)
        cs.foldl (fun s c => sendRank s c.1 3 0 m) s

/-- Every stripe's cell is written: REBUILT goes to the comb, and the REBUILD completes. -/
def rebuildSettle (s : State) : State :=
  match s.rbd.cmd with
  | none => s
  | some (q, i) =>
    if (List.range (cmbS s)).any (stripeNeeded s) then s
    else
      let m := membMsg 0x0C (ownIdx s) 0 s.rbd.rank (capped s) []
      let s := (combOthers s).foldl (fun s x => sendTo s x 3 m) s
      let s := if s.rbd.shadow then s else memberTo s (ownIdx s) 2
      finish (setRbd s { s.rbd with cmd := none, shadow := false, out := [], again := [], pull := [], waited := [] }) q i 0 0 0

/-- A chain result reaches the device: it writes the cell if it is still missing, settled at the request's epoch. -/
def resultIn (s : State) (o : Nat × Nat × Nat × Nat) (j : Nat) (d : Bytes × Bool) : State :=
  let t := o.2.1 + j
  if o.2.2.1 ≤ j ∨ !stripeNeeded s t then s
  else if !d.2 then
    let s := count s C.COL_CHUNK_CRC
    setRbd s { s.rbd with again := s.rbd.again ++ [(o.2.1, o.2.2.1)], out := s.rbd.out.filter (·.1 != o.1) }
  else
    let c := cellOfRank s s.rbd.rank t
    let s := settleCell s c.1 c.2 o.2.2.2 (slice d.1 0 cellSize)
    let s := setRbd s { s.rbd with written := s.rbd.written ++ [t], waited := s.rbd.waited.filter fun w => w.2 != t }
    let open_ (x : Nat × Nat × Nat × Nat) : Bool := (List.range x.2.2.1).any fun k => stripeNeeded s (x.2.1 + k)
    let s := setRbd s { s.rbd with out := s.rbd.out.filter open_ }
    let s := wr s R.CMB_RB_DONE_STRIPES (rd s R.CMB_RB_DONE_STRIPES + 1)
    rebuildSettle (retryParked s)

/-- The request of this device that a chunk answers. -/
def requestOf (s : State) (seq : Nat) : Option (Nat × Nat × Nat × Nat) := s.rbd.out.find? fun o => o.1 == seq

/-- REBUILD_CHUNK: for an open rebuild collective, for the device, for a contributor, or early; else stray. -/
def rebuildChunk (s : State) (p : Nat) (b : Bytes) : State :=
  let tag := leAt b 0 4
  let seq := leAt b 4 4
  let j := leAt b 8 3
  if (collOf s tag seq).isSome then chunkIn s 4 p b
  else if tag / 256 ≠ rd s R.CMB_JOB_JOB_TAG ∨ bits tag 7 4 ≠ 0xE ∨ isAbsent s then count s C.COL_STRAY
  else if s.rbd.cmd.isSome ∧ s.rbd.rank = bits tag 3 0 then
    match requestOf s seq with
    | some o => resultIn s o j (chunkBody b)
    | none => s
  else
    match s.comb.reqs.find? fun r => r.seq == seq && r.rank == bits tag 3 0 with
    | some r => passTerm s r j (chunkBody b)
    | none => setComb s { s.comb with chunks := s.comb.chunks ++ [(p, b)] }

/-- RB_STALE: the request's range is asked for again. -/
def rbStaleIn (s : State) (b : Bytes) : State :=
  let seq := leAt b 20 4
  match requestOf s seq with
  | none => s
  | some o => setRbd s { s.rbd with out := s.rbd.out.filter (·.1 != seq), again := s.rbd.again ++ [(o.2.1, o.2.2.1)] }

/-- REBUILT: the device is ACTIVE, and the REBUILDs that wait for its rank complete. A shadow's changes no state. -/
def rebuiltIn (s : State) (b : Bytes) : State :=
  let v := leAt b 0 16
  let x := bits v 47 34
  let rank := bits v 79 48
  let s := if memRole (member s x) = 0 ∧ memState (member s x) = 6 then memberTo s x 2 else s
  let s := (s.rbd.waits.filter fun w => w.2.2 == rank).foldl (fun s w => finish s w.1 w.2.1 0 0 0) s
  let p := memPeer (member s x)
  let s := setComb s { s.comb with reqs := s.comb.reqs.filter fun r => r.peer != p,
                                   chunks := s.comb.chunks.filter fun c => leAt c.2 0 4 != rbTag s rank }
  setRbd s { s.rbd with waits := s.rbd.waits.filter fun w => w.2.2 != rank }

/-! ## RESTORE from coded state (R381 to R383) -/

/-- The comb record this member restores from: the best valid one, when N, M, S, FIXED_PAR and rank are the job list's. With its remap and
relocation tables lost it has none (R402). -/
def ownRecord (s : State) : Option Nat :=
  match (if rdb s R.RMAP_STAT_LOST_MAP then none else bestRecord s) with
  | none => none
  | some r =>
    if bits r 271 264 = cmbN s ∧ bits r 263 256 = cmbM s ∧ bits r 303 272 = cmbS s ∧ bits r 248 248 = b2n (cmbFixed s) ∧
        bits r 247 240 = cmbRank s then some r
    else none

/-- A member of a comb without such a record is fresh (R381). A non-comb member keeps no record. -/
def isFresh (s : State) : Bool := memRole (member s (ownIdx s)) != 2 && (ownRecord s).isNone

/-- A member that a report of RESTORE would not bound: no CAPPED, no CAPPING. -/
def noCap : Nat := 2 ^ 48 - 1

/-- The reports of a round at this node, its own included: feasible, minimum CAPPED, maximum CAPPING. -/
def rsSum (s : State) (r : RsRun) (ok : Bool) : Bool × Nat × Nat :=
  let own := match ownRecord s with
    | some x => (recCapped x, recCapping x)
    | none => (noCap, 0)
  let l := s.comb.rsReps.filter fun x => x.round == r.round
  (ok && l.all (·.ok), (l.map (·.lo)).foldl min own.1, (l.map (·.hi)).foldl max own.2)

/-- An RS_REPORT goes up. -/
def sendReport (s : State) (idx : Nat) (ok fresh : Bool) (lo hi : Nat) : State :=
  toParent s 3 (membMsg 8 idx 0 (b2n ok + at' (b2n fresh) 1) lo (leBytes 6 hi))

/-- RS_DECIDE goes down. -/
def sendDecide (s : State) (what status target : Nat) : State :=
  toChildren s 3 (membMsg 9 (treeRoot s) status what target [])

/-- The stored segments of an own cell in an epoch form a complete chain: each passes its CRC, names the cell and the epoch,
and follows the one before it (R263, R266). -/
def chainWhole (s : State) (d e : Nat) : Bool :=
  let l := cellSegs s (cmbRank s) e 1 d
  l != [] && (List.range l.length).all fun i =>
    match l[i]? with
    | none => false
    | some g =>
      let b := segBytes s g
      let h := segHdr b
      let prev := if i = 0 then 0 else match l[i - 1]? with
        | some p => 1 + p.off
        | none => 0
      segOk b && h.cell == d && h.epoch == e && h.prev == prev

/-- A data cell fails the checks of round 2 for a target: the tag found. -/
def dataSplit (s : State) (rec target d : Nat) : Option Nat :=
  let e := ledger s d
  let es := [target + 1, target + 2] ++ (if recCapped rec + 1 = target then [target] else [])
  if settled e then none
  else if es.any fun x => lTag e == x % 2 ^ 16 && chainWhole s d x then none
  else some (lTag e)

/-- A parity cell fails the checks of round 2: POS bits without an undo entry, or a B or U slot whose CRC differs. -/
def parSplit (s : State) (p : Nat) : Option Nat :=
  let x := ledgerX s p
  let es := s.cod.undo.filter fun u => u.k == p
  let good (u : Undo) : Bool :=
    let idx := if u.isU then xUndoU x else xUndoB x
    idx != 0 && crc64 (slotBytes s u.slice (idx - 1)) == u.crc
  if !((List.range 15).any fun i => xPos x i != 0) then none
  else if es.any (fun u => !u.isU) && es.all good then none
  else some (lTag (ledgerP s p))

/-- Runs of affected cells with one tag: first cell, count, tag. -/
def splitRuns : List (Nat × Nat) → List (Nat × Nat × Nat)
  | [] => []
  | c :: t => match splitRuns t with
    | (f, n, g) :: r => if f = c.1 + 1 ∧ g = c.2 then (c.1, n + 1, g) :: r else (c.1, 1, c.2) :: (f, n, g) :: r
    | [] => [(c.1, 1, c.2)]

/-- Round 2 on this member: the records of R383, and how many cells are affected. -/
def splitCheck (s : State) (target : Nat) : State × Nat :=
  match ownRecord s with
  | none => (s, 0)
  | some rec =>
    let ds := (List.range (rd s R.CMB_DATA_CELLS)).filterMap fun d => (dataSplit s rec target d).map fun g => (d, g)
    let ps := (List.range (parCells s)).filterMap fun p => (parSplit s p).map fun g => (p, g)
    let post (par : Bool) (s : State) (r : Nat × Nat × Nat) : State :=
      unitError s 0x03 0x0E (at' (b2n par) 4 + at' r.1 8) (r.2.1 + at' r.2.2 32)
    let s := (splitRuns ds).foldl (post false) s
    ((splitRuns ps).foldl (post true) s, ds.length + ps.length)

/-- What an OK RESTORE leaves in every member: commands that name an epoch are admitted again, the schedule engine holds sets for
the two epochs above the target, the digests of later epochs are invalid and a later taint is cleared (R226, R348, R426, R434, R564). -/
def restoreEnd (s : State) (target : Nat) : State :=
  let s := invalidateHist s target (2 ^ 48)
  let s := if target < rd s R.DIG_TAINT_EPOCH then wr s R.DIG_TAINT_EPOCH 0 else s
  let s := tryReserve (schedStart s target) (grantOf s)
  setComb s { s.comb with needRestore := false, firstSwitch := true, base := target, rs := none, rsReps := [], rsFresh := [] }

/-- The OK outcome: a begun cap is completed, later epochs are undone, the record is written; a fresh member zeroes its coded
regions, and one that holds a rank is REBUILDING (R382). -/
def restoreOk (s : State) (target : Nat) : State :=
  match ownRecord s with
  | some rec =>
    let s := wr s R.CMB_CAPPED (recCapped rec)
    let c := recCapped rec
    let s := setCod s { s.cod with attempts := put (put s.cod.attempts (c + 1) (bits rec 407 400)) (c + 2) (bits rec 415 408) }
    let s := if c + 1 = target then capStep s true else s
    refreshRecord (undoRest (undoAll s) target (target + 2))
  | none =>
    let s := wr s R.CMB_CAPPED target
    if isFresh s then
      let s := setCod (zeroCoded s) { s.cod with shares := freshShares s, segs := [], undo := [], scaleCap := [], scaleHas := [] }
      let s := setRbd s { s.rbd with written := [], next := 0, rank := cmbRank s }
      if memRole (member s (ownIdx s)) = 0 then memberTo (refreshRecord s) (ownIdx s) 6 else refreshRecord s
    else refreshRecord s

/-- The outcome of a RESTORE on this member, forwarded down the tree first: code 0 is OK. A RESTORE that is not OK changes
nothing. -/
def restoreVerdict (s : State) (r : RsRun) (code target : Nat) : State :=
  let s := sendDecide s (if code = 0 then 1 else 2) code target
  let info := if code = 0x04 then target else if code = 0x03 then r.split else 0
  let s := if code = 0 then restoreEnd (restoreOk s target) target
    else setComb s { s.comb with rs := none, rsReps := [], rsFresh := [] }
  finish s r.queue r.idx code info 0

/-- Some comb has more than m fresh members. -/
def combLost (s : State) (fresh : List Nat) : Bool :=
  fresh.any fun x => decide (cmbM s < (fresh.filter fun y => memComb (member s y) == memComb (member s x)).length)

/-- A round is complete at this node: the root judges it, another node reports to its parent. -/
def rsSettle (s : State) : State :=
  match s.comb.rs with
  | none => s
  | some r =>
    let ok := r.split == 0
    let v := rsSum s r ok
    let all := (childrenOf s (ownIdx s)).all fun y => s.comb.rsReps.any fun x => x.round == r.round && x.child == y
    if r.source ≠ 0 ∨ !all then s
    else if !amRoot s then
      if r.told = r.round then s
      else sendReport (setComb s { s.comb with rs := some { r with told := r.round } }) (ownIdx s) v.1 false v.2.1 v.2.2
    else if r.round = 2 then restoreVerdict s r (if v.1 then 0 else 0x03) r.target
    else
      let fresh := s.comb.rsFresh ++ (if isFresh s then [ownIdx s] else [])
      if combLost s fresh then restoreVerdict s r 0x05 v.2.2
      else if v.2.2 ≠ r.epoch then restoreVerdict s r 0x04 v.2.2
      else if v.2.1 < v.2.2 - 1 then restoreVerdict s r 0x03 v.2.2
      else
        let s := sendDecide s 0 0 v.2.2
        let c := splitCheck s v.2.2
        setComb c.1 { c.1.comb with rs := some { r with round := 2, target := v.2.2, split := c.2 } }

/-- Both rounds are tried in turn: a node without children ends the second at once. -/
def rsRounds (s : State) : State := rsSettle (rsSettle s)

/-- RESTORE with SOURCE = 0 starts: a fresh member's own report goes up first, then round 1. -/
def restoreStart (s : State) (q : Nat) (r : Run) : State :=
  let s := keepRunning s q r.idx [opd r.raw 47 0]
  let s := setComb s { s.comb with rs := some { queue := q, idx := r.idx, epoch := opd r.raw 47 0, source := 0, round := 1,
                                                fresh := isFresh s, target := 0, split := 0, told := 0 } }
  rsRounds (if isFresh s && !amRoot s then sendReport s (ownIdx s) true true noCap 0 else s)

/-- RS_REPORT of a child: a fresh member's is passed on, a subtree's is kept for its round. -/
def rsReportIn (s : State) (p : Nat) (b : Bytes) : State :=
  let v := leAt b 0 16
  match peerIdx s p with
  | none => s
  | some y =>
    if bit (bits v 79 48) 1 then
      let x := bits v 47 34
      let s := setComb s { s.comb with rsFresh := (s.comb.rsFresh.filter (· != x)) ++ [x] }
      if amRoot s then s else sendReport s x true true noCap 0
    else
      let round := match s.comb.rs with
        | some r => r.round
        | none => 1
      let rep : RsRep := { child := y, round := round, ok := bit (bits v 79 48) 0, lo := bits v 127 80, hi := leAt b 16 6 }
      rsRounds (setComb s { s.comb with rsReps :=
        (s.comb.rsReps.filter fun x => !(x.child == y && x.round == round)) ++ [rep] })

/-- RS_DECIDE from the parent: round 2 begins, or the verdict. -/
def rsDecideIn (s : State) (b : Bytes) : State :=
  let v := leAt b 0 16
  let what := bits v 49 48
  let target := bits v 127 80
  match s.comb.rs with
  -- a verdict reaches the members below one that runs no RESTORE (R386)
  | none => if what = 2 then sendDecide s 2 (bits v 23 16) target else s
  | some r =>
    if r.source ≠ 0 ∨ what = 3 then s
    else if what = 0 then
      let s := sendDecide s 0 0 target
      let c := splitCheck s target
      rsSettle (setComb c.1 { c.1.comb with rs := some { r with round := 2, target := target, split := c.2 } })
    else restoreVerdict s r (if what = 1 then 0 else bits v 23 16) target

/-- RESTORE_REPORT_TIMEOUT: a round-1 report is missing at the root (R386). -/
def restoreTimeout (s : State) : State :=
  match s.comb.rs with
  | none => s
  | some r => if amRoot s ∧ r.source = 0 ∧ r.round = 1 then restoreVerdict s r ecRemoteDead 0 else s

/-! ## The rows' meanings -/

/-- REBUILD (R369, R370, R376). -/
def execRebuild (q : Fin 16) (s : State) : Ans := .next (rebuildEffect (begin s) q)

/-- REBUILD_REQUEST_ISSUE (R371). -/
def execRebuildRequestIssue (s : State) : Ans := .next (requestIssue (begin s))

/-- RB_REQ (R371). -/
def execRbReq (p : BitVec 12) (body : Bytes) (s : State) : Ans := .next (rbReqIn (begin s) p.toNat body)

/-- RB_STALE (R371). -/
def execRbStale (body : Bytes) (s : State) : Ans := .next (rbStaleIn (begin s) body)

/-- REBUILT (R373). -/
def execRebuilt (body : Bytes) (s : State) : Ans := .next (rebuiltIn (begin s) body)

/-- REBUILD_CHUNK (R319, R371, R372): peer and chunk. -/
def execRebuildChunk (p : BitVec 12) (body : Bytes) (s : State) : Ans :=
  .next (chunkTaken s (rebuildChunk (begin s) p.toNat body) 9 p.toNat body (collOwner + 1))

/-- MSEQ_FLOOR (R298): it speaks to a version-2 holder; this block holds no version-2 drain stream. -/
def execMseqFloor (s : State) : Ans := .next (begin s)

/-- RS_REPORT (R381). -/
def execRsReport (p : BitVec 12) (body : Bytes) (s : State) : Ans := .next (rsReportIn (begin s) p.toNat body)

/-- RS_DECIDE (R382). -/
def execRsDecide (body : Bytes) (s : State) : Ans := .next (rsDecideIn (begin s) body)

/-- RESTORE_REPORT_TIMEOUT (R386). -/
def execRestoreReportTimeout (s : State) : Ans := .next (restoreTimeout (begin s))

end Sys2Proof.Machine
end

