-- ==== Sys2Proof/Machine/Start.lean ====
section
/-! DEFINITION. The start of a command: what it takes as it starts, and COMMAND_START (R141). -/

namespace Sys2Proof.Machine

/-- A STEP RUN or REPLAY takes the lowest free thread (R153). -/
def takeThread (s : State) (q : Nat) (r : Run) : State :=
  match freeThread s with
  | none => s
  | some t =>
    let e := opd r.raw 47 0
    setThread s t { Thread.idle with busy := true, queue := q, idx := r.idx, cmdId := cmdIdOf r.raw, epoch := e,
                                     bank := (bankFor s e).getD 0, row := opd r.raw 61 48, tally0 := s.tallyVal,
                                     replay := opcodeOf r.raw == 0x0E }

/-- Before a STEP of an epoch starts, the principal sends its shadow every cell of the objects written for the epoch since the last such
copy, and how many cells it has sent for the epoch (R385, R416, notes/assumptions/55). -/
def sendCopies (s : State) (e : Nat) : State :=
  match (if memRole (member s (ownIdx s)) = 0 ∧ !isAbsent s ∧ (!s.shd.sent.contains e || s.shd.wrote.any fun w => w.1 == e) then shadowIdx s else none) with
  | none => s
  | some x =>
    let p := memPeer (member s x)
    let os := (s.shd.wrote.filter fun w => w.1 == e).map (·.2)
    let s := os.foldl (fun s o => (List.range (objCells (dir s o))).foldl (fun s c =>
      let b := objCell s o c
      sendMsg s p 0x0E 0 (leBytes 16 (e + at' o 48 + at' c 67 + at' 0x10 120) ++ b ++ leBytes 4 (crc32 b))) s) s
    let n := get s.shd.cells e + (os.map fun o => objCells (dir s o)).sum
    let s := sendMsg s p 0x0E 0 (leBytes 16 (e + at' n 64 + at' 0x11 120))
    { s with shd := { s.shd with wrote := s.shd.wrote.filter (fun w => w.1 != e), cells := put s.shd.cells e n,
                                 sent := (s.shd.sent.filter (· != e)) ++ [e] } }

/-- A CAP starts: the first switch takes effect and completes at once (R564); any other CAP arms its stores (R164), and the fetch of
one that R16 did not accept yet is made good. -/
def startCap (s : State) (q : Nat) (r : Run) : State :=
  let e := opd r.raw 47 0
  if e ≤ capped s then firstSwitch s q r else armStores (noteFetched s q r) e r.raw

/-- A command starts: it holds its resources, and the epoch it names opens (R27, R141); a load's store is LOADING, a ROLLBACK cancels, a
DRAW latches its key (R139, R147, R163). -/
def startRun (s : State) (q : Nat) (r : Run) : State :=
  let s := count (modRun s q r.idx fun x => { x with phase := .started, begun := true }) C.SEQ_CMD_START
  let opc := opcodeOf r.raw
  let s := match namedEpoch r.raw with
    | some e => if capped s < e ∧ opc ≠ 6 then openEpoch s e else s
    | none => s
  let s := if opc = 5 then startCap s q r else s
  if opc = 1 ∧ subopOf r.raw = 0 then takeThread (sendCopies s (opd r.raw 47 0)) q r
  else if opc = 0x0E then takeThread s q r
  else if opc = 1 then takeIdle s (subopOf r.raw == 2)
  else if opc = 0x0F then wr s R.ROOT_STAT_ITER_BUSY 1
  else if opc = 3 then takeMove s q r
  else if opc = 4 ∧ subopOf r.raw = 3 then takeSlot s q r
  else if opc = 9 then startRollback s r
  else if opc = 0x10 then modRun s q r.idx fun x => { x with aux := [1, leVal (scaleCopy s (opd r.raw 18 0) 32)] }
  else s

/-- COMMAND_START: the oldest unstarted command of queue q is judged; it starts, waits, fails or is cancelled
(R141). A wait counts a cycle in QUE_STALLq (R146). Those of a disabled queue stay where they are (R167). -/
def commandStartEffect (s : State) (q : Nat) : State :=
  match (if (qOf s q).en then oldestUnstarted (qOf s q) else none) with
  | none => s
  | some r =>
    match judge s q r with
    | .cancel c => cancelRun s q r.idx c
    | .wait => count s (C.QUE_STALL q)
    | .fail c => finish s q r.idx c 0 0
    | .start => startRun s q r

/-- COMMAND_START (R141). -/
def execCommandStart (q : Fin 16) (s : State) : Ans := .next (commandStartEffect (begin s) q)

end Sys2Proof.Machine
end

