-- ==== Sys2Proof/Machine/Seal.lean ====
section
/-! DEFINITION. Deep seals, seal stores, RESTORE from a seal image, shadow copies, and the spine's records and device (R58,
R384, R412 to R422). -/

namespace Sys2Proof.Machine

/-! ## SEAL (R412 to R417) -/

/-- Cells of the CRC table of an image. -/
def crcCells (cells : Nat) : Nat := ceilDiv (8 * cells) cellSize

/-- Where this member's image goes has room for it (R414). -/
def sealDestOk (s : State) : Bool :=
  let p := rd s R.SPN_SEAL_PEER
  let need := rd s R.CMB_DATA_CELLS + crcCells (rd s R.CMB_DATA_CELLS)
  if p = 0xFFF then
    ownPeer s == some (rd s R.SPN_SEALIN_FROM) && decide (need ≤ rd s R.SPN_SEALIN_CELLS) &&
      (need == 0 || (boardPlace s (sealSlot s 1 (need - 1))).isSome)
  else peerValid (peerEntry s p) && (peerIdx s p).isSome

/-- Cell k of the CRC table: the CRC-64 of each data cell, 8 bytes each. -/
def tableCell (x : SealRun) (k : Nat) : Bytes :=
  slice ((List.range (min 8192 (x.cells - 8192 * k))).flatMap fun i => leBytes 8 (get x.crcs (8192 * k + i))) 0 cellSize

/-- CRC-64 over an image's CRC table. -/
def tableCrc (x : SealRun) : Nat := crc64 ((List.range x.cells).flatMap fun i => leBytes 8 (get x.crcs i))

/-- The seal's image is durable: local tier writes acknowledged, or every flit toward its peer accepted. -/
def sealDurable (s : State) (x : SealRun) : Bool :=
  if x.peer = 0xFFF then writesAcked s spineOwner else (txOf s x.peer 7).buf == [] && (txOf s x.peer 7).wait == []

/-- The SEAL ends with a code; no record names its half unless it is 0. -/
def sealEnd (s : State) (x : SealRun) (code : Nat) : State :=
  finish (setSpine s { s.spine with run := none }) x.queue x.idx code 0 0

/-- The image a finished seal leaves. -/
def sealImg (x : SealRun) : SealImg :=
  { half := x.half, peer := x.peer, epoch := x.epoch, tcrc := tableCrc x, cells := x.cells }

/-- The seal goes on after its last copy: its record is staged at once, or when the one being written is done. Without a record it completes
with SPINE_CRC once its image is durable (R421, R423). -/
def sealSettle (s : State) : State :=
  match s.spine.run with
  | none => s
  | some x =>
    let r := if x.phase = 2 ∧ s.spine.staged.isNone then
        let c := stageRecord s 1 (some (sealImg x))
        (setSpine c.1 { c.1.spine with run := some { x with phase := if c.2 then 3 else 4 } }, { x with phase := if c.2 then 3 else 4 })
      else (s, x)
    if r.2.phase = 4 ∧ sealDurable r.1 x then sealEnd r.1 x 0x10 else r.1

/-- The next data cell in order that is neither copied nor being read. -/
def sealNext (x : SealRun) : Option Nat :=
  (firstBelow (x.cells - x.next) fun k => !x.ahead.contains (x.next + k)).map (x.next + ·)

/-- The last data cell is copied: the CRC table follows. -/
def sealTable (s : State) : State :=
  match s.spine.run with
  | some x =>
    if x.phase = 0 ∧ x.reading = [] ∧ sealNext x = none then setSpine s { s.spine with run := some { x with phase := 1, next := 0 } } else s
  | none => s

/-- Cells whose reads are answered are copied; one that is SUSPECT waits for its repair (R47, R413). -/
def sealArrived (s : State) : State :=
  match s.spine.run with
  | some x =>
    if x.reading = [] ∨ !readsAnswered s spineOwner then s
    else
      sealTable (x.reading.foldl (fun s d =>
        match s.spine.run with
        | some y => if lSuspect (ledger s d) then s else sealCell s y d
        | none => s) s)
  | none => s

/-- One cell more is read: the data cells in ascending order but for those copied ahead; then the CRC table is sent. -/
def sealStep (s : State) (x : SealRun) : State :=
  if x.phase = 0 then
    if x.reading ≠ [] then sealArrived s
    else
      match sealNext x with
      | some d => sealArrived (sealRead (setSpine s { s.spine with run := some { x with next := d + 1, reading := [d] } }) d)
      | none => sealTable s
  else if x.phase = 1 then
    let s := if x.next < crcCells x.cells then sealPut s x (x.cells + x.next) (tableCell x x.next) else s
    sealSettle (setSpine s { s.spine with run := some { x with next := x.next + 1, phase := if x.next + 1 < crcCells x.cells then 1 else 2 } })
  else sealSettle s

/-- SEAL starts, or copies its next cell. -/
def sealEffect (s : State) (q : Nat) : State :=
  match activeRun s q 6 0 with
  | none => s
  | some r =>
    match s.spine.run with
    | some x => if x.queue = q ∧ x.idx = r.idx then sealStep s x else s
    | none =>
      if opd r.raw 47 0 ≠ capped s ∨ !sealDestOk s then finish s q r.idx ecDescriptor 0 0
      else
        let half := match s.spine.image with
          | some i => 1 - i.half
          | none => 0
        setSpine (keepRunning s q r.idx [80]) { s.spine with
          run := some { queue := q, idx := r.idx, epoch := capped s, half := half, peer := rd s R.SPN_SEAL_PEER,
                        cells := rd s R.CMB_DATA_CELLS, next := 0, ahead := [], reading := [], crcs := [], late := (cellsAbove s (capped s)).filter fun d => decide (d < rd s R.CMB_DATA_CELLS),
                        phase := 0 } }

/-- A tier-port write of the running seal's image failed (R417). -/
def sealWriteFailed (s : State) : State :=
  match s.spine.run with
  | some x => if x.peer = 0xFFF then sealEnd (dropSealRecord s) x 0x0D else s
  | none => s

/-- SPINE_RECORD_WRITE: the staged record is written; a seal's record, once its image is durable, completes it (R417, R420). -/
def recordWrite (s : State) : State :=
  match s.spine.staged with
  | none => s
  | some (kind, len, seq) =>
    if kind = 1 ∧ s.spine.run.any (fun x => !sealDurable s x) then s
    else
    let s := writeSpine s len seq
    match kind, s.spine.run with
    | 1, some x =>
      let s := setSpine s { s.spine with image := some (sealImg x) }
      wr (sealEnd s x 0) R.HLT_STAT_SEAL_REQ 0
    | _, _ => sealSettle s

/-! ## The seal store (R414 to R416) -/

/-- Owner of the store's reads for a peer, and of the tier writes of a received image. -/
def storeOwner : Nat := 23

/-- KIND of a TYPE 0x0E message. -/
def sealKind (b : Bytes) : Nat := bits (leAt b 0 16) 127 120

/-- A message that nothing here answers to is discarded. -/
def dropSeal (s : State) : State := count s C.LP_DROP_TYPE

/-- The cell of a message and whether its CRC-32 passes. -/
def sealBody (b : Bytes) : Bytes × Bool :=
  let c := slice (b.drop 16) 0 cellSize
  (c, b.length == 16 + cellSize + 4 && leAt b (16 + cellSize) 4 == crc32 c)

/-- SEAL_IMAGE_CELL: a cell of an image for this store. -/
def imageCellIn (s : State) (p : Nat) (b : Bytes) : State :=
  let v := leAt b 0 16
  let half := bits v 48 48
  let c := bits v 76 52
  let d := sealBody b
  if p ≠ rd s R.SPN_SEALIN_FROM ∨ rd s R.SPN_SEALIN_CELLS ≤ c ∨ sealKind b ≠ 0 then dropSeal s
  else if !d.2 then s
  else boardStore (setHeld s half (bits v 47 0)) storeOwner (sealSlot s half c) d.1

/-- A refusal of a seal read. -/
def sealRefuse (s : State) (p e code : Nat) : State := sendMsg s p 0x0E 0 (leBytes 16 (e + at' code 48 + at' 3 120))

/-- No read of a unit is waiting or outstanding on a tier port. -/
def tierReadsBack (s : State) (owner : Nat) : Bool :=
  s.tier.all fun x => x.reqs.all fun r => r.write || r.owner != owner

/-- The read requests whose tier reads are back are answered, in order: the data cells, or a refusal with CELL_CHECK. -/
def serveSettle (s : State) : State :=
  if !tierReadsBack s storeOwner then s
  else
    let l := s.spine.serve
    l.foldl (fun s x =>
      if x.bad then sealRefuse s x.peer x.epoch 0x0D
      else (List.range x.n).foldl (fun s k =>
        let b := boardRead s (sealSlot s x.half (x.first + k)) 0 cellSize
        sendMsg s x.peer 0x0E 0 (sealHdr 2 x.epoch x.half (x.first + k) ++ b ++ leBytes 4 (crc32 b))) s)
      (setSpine s { s.spine with serve := [] })

/-- SEAL_READ_REQUEST of a peer. -/
def sealReadIn (s : State) (p : Nat) (b : Bytes) : State :=
  let v := leAt b 0 16
  let e := bits v 47 0
  let half := bits v 48 48
  let first := bits v 76 52
  let n := bits v 103 80
  if p ≠ rd s R.SPN_SEALIN_FROM then dropSeal s
  else if !s.spine.held.contains (half, e) ∨ n = 0 ∨ rd s R.SPN_SEALIN_CELLS < first + n then sealRefuse s p e ecDescriptor
  else
    let s := setSpine s { s.spine with serve := s.spine.serve ++
      [{ peer := p, epoch := e, half := half, first := first, n := n, bad := false }] }
    serveSettle ((List.range n).foldl (fun s k => tierRequest s storeOwner false (sealSlot s half (first + k)) 0 cellSize) s)

/-- A tier-port read for a request failed: every request being answered is refused. -/
def serveFailed (s : State) : State :=
  serveSettle (setSpine s { s.spine with serve := s.spine.serve.map fun x => { x with bad := true } })

/-! ## Reading the spine (R422) -/

/-- Slots that hold no valid record are reported; the valid record with the highest SEQ, with its slot. -/
def readSpine (s : State) : State × Option (Nat × Nat) :=
  if rdb s R.SPN_STAT_NVM_BAD then (s, none)
  else
    let sl := List.range (rd s R.SPN_SLOTS)
    let s := (sl.filter fun i => (slotRecord s i).isNone).foldl (fun s i =>
      unitError (count s C.SPN_CRC_FAIL) 0x10 0x19 i 0) s
    (s, (sl.filterMap fun i => (slotRecord s i).map fun h => (h, i)).foldl (fun b x =>
      match b with
      | some y => if bits y.1 415 384 < bits x.1 415 384 then some x else b
      | none => some x) none)

def hdrSealEpoch (h : Nat) : Nat := bits h 351 304
def hdrSealPeer (h : Nat) : Nat := bits h 367 356
def hdrSealValid (h : Nat) : Bool := bit h 374
def hdrSealHalf (h : Nat) : Nat := bits h 375 375
def hdrSealCells (h : Nat) : Nat := bits h 127 103
def hdrTcrc (h : Nat) : Nat := bits h 255 192

/-- The seal image a record names. -/
def hdrImage (h : Nat) : Option SealImg :=
  if hdrSealValid h then some { half := hdrSealHalf h, peer := hdrSealPeer h, epoch := hdrSealEpoch h, tcrc := hdrTcrc h,
                                cells := hdrSealCells h }
  else none

/-- What a read record sets: the last SEQ, and the image it names. -/
def takeSpine (s : State) (r : Option (Nat × Nat)) : State :=
  match r with
  | some (h, _) => setSpine (wr s R.SPN_SEQ (bits h 415 384)) { s.spine with image := hdrImage h }
  | none => s

/-! ## RESTORE from a seal image (R384, R422) -/

/-- Owner of a restoring member's tier reads. -/
def loadOwner : Nat := 24

/-- The SCALE section of the record in a slot: object ids and bytes; fuel bounds them. -/
def scaleSections : Nat → Bytes → List (Nat × Bytes)
  | 0, _ => []
  | f + 1, b =>
    if b.length < 8 then []
    else
      let n := leAt b 4 4
      (bits (leAt b 0 4) 18 0, slice (b.drop 8) 0 n) :: scaleSections f (b.drop (8 + ceilDiv n 8 * 8))

/-- The SCALE objects of the record take their capped copies. -/
def loadScales (s : State) (slot : Nat) : State :=
  let base := slot * nvmSlot
  let o := leVal (mread s.nvm (base + 144) 4)
  let n := leVal (mread s.nvm (base + 148) 4)
  (scaleSections (n / 8 + 1) (mread s.nvm (base + o) n)).foldl (fun s x =>
    setCod s { s.cod with scaleCap := mwrite s.cod.scaleCap (scaleKey (cmbRank s) x.1 0) x.2,
                          scaleHas := (s.cod.scaleHas.filter (· != x.1)) ++ [x.1] }) s

/-- Cells of the loading image that fail their check. -/
def badCells (x : SealLoad) : List Nat :=
  let cells := hdrSealCells x.hdr
  let cell (i : Nat) : Bytes := ((x.got.find? fun g => g.1 == i).map (·.2)).getD (List.replicate cellSize 0)
  let table := slice ((List.range (crcCells cells)).flatMap fun k => cell (cells + k)) 0 (8 * cells)
  if crc64 table ≠ hdrTcrc x.hdr ∨ x.bad.any (cells ≤ ·) then List.range cells
  else (List.range cells).filter fun i => crc64 (cell i) != leAt table (8 * i) 8 || x.bad.contains i

/-- The image is all here: its cells are checked and loaded as settled at the seal's epoch, with the parity zero, or the coded
region stays zeroed (R384, R422). -/
def loadImage (s : State) (x : SealLoad) : State :=
  let e := hdrSealEpoch x.hdr
  let bad := badCells x
  let s := setSpine s { s.spine with load := none }
  let s := zeroCoded s
  let s := setCod s { s.cod with shares := freshShares s, segs := [], undo := [], open_ := [], stalls := [], outs := [], ins := [], parked := [], firsts := [],
                                 kept := [], attempts := [], epochs := [], digs := [] }
  let n := bad.length
  if n ≠ 0 then finish s x.queue x.idx 0x0D n 0
  else
    let s := (x.got.filter fun g => decide (g.1 < min (hdrSealCells x.hdr) (rd s R.CMB_DATA_CELLS))).foldl
      (fun s g => settleCell s false g.1 e g.2) s
    let zero := List.replicate cellSize 0#8
    let s := ((List.range (rd s R.CMB_DATA_CELLS)).drop (hdrSealCells x.hdr)).foldl (fun s d => settleCell s false d e zero) s
    let s := (List.range (parCells s)).foldl (fun s p => settleCell s true p e zero) s
    let s := refreshRecord (wr (loadScales s x.slot) R.CMB_CAPPED e)
    finish (restoreEnd s e) x.queue x.idx 0 0 0

/-- A loading image that is complete, with no local read out, is taken. -/
def loadSettle (s : State) : State :=
  match s.spine.load with
  | none => s
  | some x =>
    let need := hdrSealCells x.hdr + crcCells (hdrSealCells x.hdr)
    if tierReadsBack s loadOwner && (List.range need).all fun i => x.got.any fun g => g.1 == i then loadImage s x else s

/-- The requests for a whole image, each within 24 bits of cells; fuel bounds them. -/
def sealRequests (h : Nat) : Nat → Nat → Nat → List Bytes
  | 0, _, _ => []
  | f + 1, first, n =>
    if n = 0 then []
    else
      let k := min n (2 ^ 24 - 1)
      leBytes 16 (hdrSealEpoch h + at' (hdrSealHalf h) 48 + at' first 52 + at' k 80 + at' 1 120) :: sealRequests h f (first + k) (n - k)

/-- RESTORE with SOURCE = 1 starts: the spine is read, and the image its newest record names is asked for. -/
def restoreSeal (s : State) (q : Nat) (r : Run) : State :=
  let x := readSpine s
  let s := takeSpine x.1 x.2
  match x.2 with
  | none => finish s q r.idx 0x10 0 0
  | some (h, slot) =>
    if !hdrSealValid h || hdrSealEpoch h != opd r.raw 47 0 then finish s q r.idx 0x04 0 0
    else
      let need := hdrSealCells h + crcCells (hdrSealCells h)
      let half := hdrSealHalf h
      let p := hdrSealPeer h
      let s := keepRunning s q r.idx [opd r.raw 47 0]
      let l : SealLoad := { queue := q, idx := r.idx, hdr := h, slot := slot, got := [], bad := [] }
      if p = 0xFFF then
        let got := (List.range need).map fun i => (i, boardRead s (sealSlot s half i) 0 cellSize)
        let s := setSpine s { s.spine with load := some { l with got := got } }
        loadSettle ((List.range need).foldl (fun s i => tierRequest s loadOwner false (sealSlot s half i) 0 cellSize) s)
      else if !peerValid (peerEntry s p) || (peerIdx s p).isNone then finish s q r.idx ecDescriptor 0 0
      else
        let s := setSpine s { s.spine with load := some l }
        loadSettle ((sealRequests h 4 0 need).foldl (fun s b => sendMsg s p 0x0E 0 b) s)

/-- A local read of a slot of the loading image failed: its cell counts as failing. -/
def loadFailed (s : State) (slot : Nat) : State :=
  match s.spine.load with
  | some x => loadSettle (setSpine s { s.spine with load := some { x with bad := (slot - sealSlot s (hdrSealHalf x.hdr) 0) :: x.bad } })
  | none => s

/-- SEAL_READ_DATA: a cell of the image this member loads, from the peer its record names. -/
def sealDataIn (s : State) (p : Nat) (b : Bytes) : State :=
  let v := leAt b 0 16
  match s.spine.load with
  | none => dropSeal s
  | some x =>
    let d := sealBody b
    if p ≠ hdrSealPeer x.hdr ∨ bits v 47 0 ≠ hdrSealEpoch x.hdr ∨ bits v 48 48 ≠ hdrSealHalf x.hdr then dropSeal s
    else if !d.2 then s
    else
      let c := bits v 76 52
      loadSettle (setSpine s { s.spine with load := some { x with got := (x.got.filter fun g => g.1 != c) ++ [(c, d.1)] } })

/-- SEAL_READ_REFUSAL: the RESTORE fails with the refusal's code. -/
def sealRefusedIn (s : State) (p : Nat) (b : Bytes) : State :=
  let v := leAt b 0 16
  match s.spine.load with
  | none => dropSeal s
  | some x =>
    if p ≠ hdrSealPeer x.hdr ∨ bits v 47 0 ≠ hdrSealEpoch x.hdr then dropSeal s
    else finish (setSpine s { s.spine with load := none }) x.queue x.idx (bits v 55 48) 0 0

/-- RESTORE of either source; a member that waits for none refuses it (R348, R381). -/
def restoreEffect (s : State) (q : Nat) : State :=
  match activeRun s q 8 0 with
  | none => s
  | some r =>
    if r.phase = .running then s
    else if !s.comb.needRestore || s.comb.rs.isSome || s.spine.load.isSome then finish s q r.idx ecDescriptor 0 0
    else if opd r.raw 48 48 = 1 then restoreSeal s q r else restoreStart s q r

/-! ## Shadow copies (R385, R416) -/

/-- The peer is this shadow's principal. -/
def fromPrincipal (s : State) (p : Nat) : Bool :=
  let me := member s (ownIdx s)
  memRole me == 3 && match peerIdx s p with
    | some y => memRole (member s y) == 0 && memComb (member s y) == memComb me && memRank (member s y) == memRank me
    | none => false

/-- SHADOW_COPY_CELL: held until the epoch's end message. -/
def copyCellIn (s : State) (p : Nat) (b : Bytes) : State :=
  let v := leAt b 0 16
  let d := sealBody b
  if !fromPrincipal s p then dropSeal s
  else if !d.2 then s
  else
    let e := bits v 47 0
    { s with shd := { s.shd with got := s.shd.got ++ [(e, bits v 66 48, bits v 88 67, d.1)],
                                 cells := put s.shd.cells e (get s.shd.cells e + 1) } }

/-- SHADOW_COPY_END: when as many cells of the epoch have come as were sent, those that wait are written and the epoch's STEPs may start. -/
def copyEndIn (s : State) (p : Nat) (b : Bytes) : State :=
  let v := leAt b 0 16
  let e := bits v 47 0
  let l := s.shd.got.filter fun g => g.1 == e
  if !fromPrincipal s p then dropSeal s
  else if get s.shd.cells e ≠ bits v 95 64 then s
  else
    let s := l.foldl (fun s g =>
      if objValid s g.2.1 && decide (g.2.2.1 < objCells (dir s g.2.1)) then
        homeWritten (cellWrite s storeOwner e g.2.1 g.2.2.1 0 g.2.2.2) g.2.1 e
      else s) s
    { s with shd := { s.shd with got := s.shd.got.filter fun g => g.1 != e, ready := s.shd.ready ++ [e] } }

/-! ## The device (R58, R418) -/

/-- XSPI_DISCOVERY: the SFDP table offers 8D-8D-8D operation, and the device holds so many bytes; or the NVM is bad. -/
def discovery (s : State) (ok : Bool) (size : Nat) : State :=
  if ok then wr (wr s R.SPN_STAT_NVM_BAD 0) R.SPN_SLOTS (min 16 (size / nvmSlot))
  else wr (wr s R.SPN_STAT_NVM_BAD 1) R.SPN_SLOTS 0

/-! ## The rows' meanings -/

/-- SEAL (R412 to R417). -/
def execSeal (q : Fin 16) (s : State) : Ans := .next (sealEffect (begin s) q)

/-- SPINE_RECORD_WRITE (R420). -/
def execSpineRecordWrite (s : State) : Ans := .next (recordWrite (begin s))

/-- SEAL_IMAGE_CELL (R415): peer and message. -/
def execSealImageCell (p : BitVec 12) (body : Bytes) (s : State) : Ans := .next (takenMsg (imageCellIn (begin s) p.toNat body) p.toNat 0x0E (storeOwner + 1) [])

/-- SEAL_READ_REQUEST (R416). -/
def execSealReadRequest (p : BitVec 12) (body : Bytes) (s : State) : Ans := .next (takenMsg (sealReadIn (begin s) p.toNat body) p.toNat 0x0E serveMark [])

/-- SEAL_READ_DATA (R422). -/
def execSealReadData (p : BitVec 12) (body : Bytes) (s : State) : Ans := .next (takenMsg (sealDataIn (begin s) p.toNat body) p.toNat 0x0E 0 [])

/-- SEAL_READ_REFUSAL (R416). -/
def execSealReadRefusal (p : BitVec 12) (body : Bytes) (s : State) : Ans := .next (takenMsg (sealRefusedIn (begin s) p.toNat body) p.toNat 0x0E 0 [])

/-- RESTORE (R381, R422). -/
def execRestore (q : Fin 16) (s : State) : Ans := .next (restoreEffect (begin s) q)

/-- SHADOW_COPY_CELL (R416). -/
def execShadowCopyCell (p : BitVec 12) (body : Bytes) (s : State) : Ans := .next (takenMsg (copyCellIn (begin s) p.toNat body) p.toNat 0x0E 0 [])

/-- SHADOW_COPY_END (R416). -/
def execShadowCopyEnd (p : BitVec 12) (body : Bytes) (s : State) : Ans := .next (takenMsg (copyEndIn (begin s) p.toNat body) p.toNat 0x0E (storeOwner + 1) [])

/-- XSPI_RESET_RELEASE (R58). -/
def execXspiResetRelease (s : State) : Ans :=
  let s := begin s
  .next (setSpine s { s.spine with resetN := true })

/-- XSPI_DISCOVERY (R58, R418): whether the SFDP table offers 8D-8D-8D operation, and the device's bytes. -/
def execXspiDiscovery (ok : Bool) (size : BitVec 40) (s : State) : Ans := .next (discovery (begin s) ok size.toNat)

end Sys2Proof.Machine
end

