-- ==== Sys2Proof/Machine/WindowRead.lean ====
section
/-! DEFINITION. Reads of the coded window (R11, R28, R38, R108, R367): where the bytes lie, which view they are read in, and what
waits. -/

namespace Sys2Proof.Machine

/-- A piece of a window read: offset in the answer, cell, first byte of the cell, bytes. -/
abbrev WinPiece := Nat × Nat × Nat × Nat

/-- The pieces of n bytes of an object from window offset off: element by element for S32, W16 and L16, cell by cell otherwise
(R108). -/
def winPieces (e off n : Nat) : List WinPiece :=
  if oFmt e < 3 then
    let b := elemBytes (oFmt e)
    (List.range (n / b)).map fun i =>
      let k := off / b + i
      let p := elemPlace e (k / oCols e) (k % oCols e)
      (i * b, p.1, p.2, b)
  else
    let k := min n (cellSize - off % cellSize)
    (0, off / cellSize, off % cellSize, k) :: (if k < n then [(k, off / cellSize + 1, 0, n - k)] else [])

/-- A UNIQUE cell as a window read sees it, when this member has it; a kept cell that has not been decoded and a cell a rebuild has
not written are missing (R367). The capped view is that of the epoch the read latched (R29). -/
def uniqueView (s : State) (w : WinRead) (d : Nat) : Option Bytes :=
  if if isKept d then !s.cod.kept.any (fun c => c.1 == d) else dataMissing s d then none
  else if bit w.addr 57 then some (homeCell s d)
  else some ((w.old.filter fun x => x.1 == d).foldl (fun b x => applyRecs b x.2) (dataAt s w.cap d))

/-- A window read waits: for the repair of an own cell whose stored bytes fail their check, which shows as latency alone (R11, R175),
and in the live view for the end of an update of the cell (R28, R182) and for the acknowledgement of a kept cell's segments (R368). -/
def winWaits (s : State) (w : WinRead) (d : Nat) : Bool :=
  (!isKept d && decide (d < rd s R.CMB_DATA_CELLS) && !dataMissing s d && lSuspect (ledger s d)) ||
    (bit w.addr 57 && (cellBusy s d || (isKept d && cellUnacked s (srcRank s d) (d % 2 ^ 25))))

/-- Bytes of a cell of an object that is not UNIQUE: of a valid image when there is one, else of the home (R108). -/
def plainBytes (s : State) (owner o : Nat) (p : WinPiece) : Bytes × State :=
  match imageFor s o p.2.1 with
  | some i => placeRead s owner (imPlace s i p.2.1) p.2.2.1 p.2.2.2
  | none =>
    (cellSlice s o p.2.1 p.2.2.1 p.2.2.2, (placeRead s owner (cellPlace s (dir s o) p.2.1) p.2.2.1 p.2.2.2).2)

/-- The degraded read of the pieces that lie in one missing cell; a stripe that cannot be read answers CELL_CHECK. -/
def winDegraded (s : State) (id home d : Nat) (ps : List WinPiece) : State :=
  match s.hive.wins.find? fun w => w.id == id with
  | none => s
  | some w =>
    let mine := ps.filter fun p => home + p.2.1 == d
    let rank := srcRank s d
    let t := dataStripe (cmbN s) (cmbM s) (cmbFixed s) rank (d % 2 ^ 25)
    let grans := (mine.flatMap fun p => [p.2.2.1 / 64, (p.2.2.1 + p.2.2.2 - 1) / 64]).eraseDups
    match degStart s (.window id (mine.map fun p => (p.1, p.2.2.1, p.2.2.2))) rank t (bit w.addr 57) grans [] with
    | some s => s
    | none => winAnswer s { w with left := w.left - 1, bad := true }

/-- The read of a piece is requested on the port that holds it. -/
def pieceRead (s : State) (w : WinRead) (e : Nat) (p : WinPiece) : State :=
  let d := w.home + p.2.1
  (placeRead s (winOwner w.id) (homePlace s clsUnique (oTier e) (if isKept d then d - p.2.1 else w.home) (oStk e) p.2.1)
    p.2.2.1 p.2.2.2).2

/-- An accepted window read is served: from what this member holds, after its degraded reads, or after what it waits for. -/
def windowServe (s : State) (w : WinRead) : State :=
  let n := sizeBytes w.size
  let o := bits w.addr 56 38
  let e := dir s o
  let ps := winPieces e (bits w.addr 37 0) n
  let w := { w with bytes := List.replicate n 0, left := 0, bad := false, wait := false, lost := false }
  let add (s : State) (w : WinRead) : State :=
    setHive s { s.hive with wins := (s.hive.wins.filter fun x => x.id != w.id) ++ [w] }
  if oClass e ≠ clsUnique then
    let r := ps.foldl (fun (r : Bytes × State) p =>
      let x := plainBytes r.2 (winOwner w.id) o p
      (overlay r.1 p.1 x.1, x.2)) (w.bytes, s)
    winAnswer (add r.2 { w with bytes := r.1 }) { w with bytes := r.1 }
  else
    let ds := (ps.map fun p => w.home + p.2.1).eraseDups
    if ds.any fun d => winWaits s w d && repairGone s d then winAnswer s { w with bad := true }
    else if ds.any (winWaits s w) then add s { w with wait := true }
    else
      let miss := ds.filter fun d => (uniqueView s w d).isNone
      let b := ps.foldl (fun b p =>
        match uniqueView s w (w.home + p.2.1) with
        | some c => overlay b p.1 (slice c p.2.2.1 p.2.2.2)
        | none => b) w.bytes
      let s := ps.foldl (fun s p => if miss.contains (w.home + p.2.1) then s else pieceRead s w e p) s
      let w := { w with bytes := b, left := miss.length }
      if miss = [] then winAnswer (add s w) w
      else miss.foldl (fun s d => winDegraded s w.id w.home d ps) (add s w)

/-- The reads that wait are served again. -/
def retryWindows (s : State) : State := (s.hive.wins.filter (·.wait)).foldl windowServe s

/-- First data cell of an object in a view: from a UNIQUE MOVE's switch-over until its cap, the capped view reads the old home of
the move table (R118). -/
def viewHome (s : State) (o : Nat) (live : Bool) : Nat :=
  match (moveIdxs s).find? fun i => mvObj (moveAt s i) == o && oClass (dir s o) == clsUnique && decide (1 ≤ mvPhase (moveAt s i)) with
  | some i => if live then oHome (dir s o) else mvOldHome (moveAt s i)
  | none => oHome (dir s o)

/-- A well-formed window read is accepted: it latches the capped epoch and the home of its view (R29). -/
def windowAccept (s : State) (tag addr size : Nat) : State :=
  let id := s.hive.nextDeg
  windowServe (setHive (returnBeats s 0) { s.hive with nextDeg := id + 1 })
    { id := id, tag := tag, addr := addr, size := size, cap := capped s, home := viewHome s (bits addr 56 38) (bit addr 57), old := [],
      bytes := [], left := 0, bad := false, wait := false, lost := false }

/-- A granule of a window read came back lost: a UNIQUE cell is read again after its repair, a REPLICA cell is fetched again and answered
as ever, another one answers CELL_CHECK (R47, R130, R175, R395). -/
def windowLost (s : State) (owner : Nat) : State :=
  match s.hive.wins.find? fun w => winOwner w.id == owner with
  | none => s
  | some w =>
    let c := oClass (dir s (bits w.addr 56 38))
    if c = clsReplica then s else setWin s { w with lost := true, bad := w.bad || c != clsUnique }

/-- The port reads of a window read are answered. -/
def windowSettle (s : State) (owner : Nat) : State :=
  match s.hive.wins.find? fun w => winOwner w.id == owner && !w.wait with
  | none => s
  | some w => retryWindows (winAnswer s w)

/-- A request of the coded window (R38, R39, R108): malformed ones answer DESCRIPTOR, writes and atomics RIGHTS. While the hive is
enabled its object is read through the home agent (R326). -/
def codedRequest (s : State) (r : Req) (op addr size : Nat) : State :=
  let n := sizeBytes size
  let o := bits addr 56 38
  let off := bits addr 37 0
  let rsp (stat : Nat) : State := refuseReq s r op n stat (List.replicate n 0)
  if 5 < op ∨ 6 < size ∨ off % n ≠ 0 then rsp ecDescriptor
  else if op ≠ 0 then rsp ecRights
  else if size < 2 ∨ !objValid s o ∨ objBytes (dir s o) < off + n then rsp ecDescriptor
  else if rdb s R.HIVE_CFG_EN && o == rd s R.HIVE_OBJ then
    hostAdmit s
      { req := { ctx := 0, gen := 0, op := 0, part := false, size := size, off := hiveOffset s off, mask := 0, data := [] },
        peer := (ownPeer s).getD 0, own := true, asker := .host r.src.toNat r.tag.toNat, issued := false, time := 0 }
  else windowAccept s r.tag.toNat addr size

/-- CODED_WINDOW_READ (R28, R38, R108): requester, OP, address and SIZE code. -/
def execCodedWindowRead (r : Req) (op : BitVec 4) (addr : BitVec 58) (size : BitVec 3) (s : State) : Ans :=
  .next (codedRequest (begin s) r op.toNat addr.toNat size.toNat)

end Sys2Proof.Machine
end

