-- ==== Sys2Proof/Machine/Integrity.lean ====
section
/-! DEFINITION. Stored-data integrity: what an uncorrectable granule means, the forager, repairs, remap and relocation (R388 to
R401). -/

namespace Sys2Proof.Machine

/-! ## What lies at an address -/

/-- What a slot of a stack holds. -/
inductive SlotUse where
  | data (d : Nat)
  | par (p : Nat)
  | ledger
  | other
  /-- a cell of a plain home -/
  | plain (o c : Nat)
  /-- a cell of an image, by image table index -/
  | img (i : Nat)
  | none
  deriving DecidableEq, Repr

/-- A slot of a region given by base and count. -/
def inRegion (slot base n : Nat) : Bool := decide (base ≤ slot) && decide (slot < base + n)

/-- The valid object on plain HBM whose home holds a slot of stack st, with the cell. -/
def plainAt (s : State) (st slot : Nat) : Option (Nat × Nat) :=
  ((objIds s).find? fun o =>
    let e := dir s o
    objValid s o && oClass e != clsUnique && oTier e == 0 && inRegion slot (homeOn (oStk e) (oHome e) (objCells e) st).1
      (homeOn (oStk e) (oHome e) (objCells e) st).2).map fun o =>
    let e := dir s o
    (o, (slot - oHome e) * max 1 (maskK (oStk e)) + popc st (oStk e))

/-- What slot slot of stack st holds. -/
def slotUse (s : State) (st slot : Nat) : SlotUse :=
  let k := max 1 (codK s)
  let i := popc st (rd s R.CMB_STKMASK)
  let coded := bit (rd s R.CMB_STKMASK) st
  if coded && inRegion slot (rd s R.CMB_DATA_BASE) (ceilDiv (rd s R.CMB_DATA_CELLS) k) then .data ((slot - rd s R.CMB_DATA_BASE) * k + i)
  else if coded && inRegion slot (rd s R.CMB_PAR_BASE) (ceilDiv (parCells s) k) then .par ((slot - rd s R.CMB_PAR_BASE) * k + i)
  else if coded && inRegion slot (rd s R.CMB_LEDGER_BASE) (ceilDiv (ledgerBytes s) cellSize) then .ledger
  else if isPrivate s st slot then .other
  else match plainAt s st slot with
  | some (o, c) => .plain o c
  | none =>
    match (imageIdxs s).find? fun i => imStk (image s i) == st && inRegion slot (imSlot (image s i)) (imCount (image s i)) with
    | some i => .img i
    | none => .none

/-! ## Failing cells (R389, R394) -/

/-- The cells whose entries lie in a ledger granule of stack st, by byte offset within the region. -/
def ledgerCells (s : State) (st off : Nat) : List (Bool × Nat) :=
  let k := max 1 (codK s)
  let i := popc st (rd s R.CMB_STKMASK)
  let ld := 16 * ledgerLD s
  if off < ld then ((List.range 4).map fun j => (false, (off / 16 + j) * k + i)).filter fun c => decide (c.2 < rd s R.CMB_DATA_CELLS)
  else ((List.range 2).map fun j => (true, ((off - ld) / 32 + j) * k + i)).filter fun c => decide (c.2 < parCells s)

/-- A ledger granule is lost: the cells of its entries become SUSPECT, and the reports of the uncapped epochs unclean (R394). -/
def ledgerLost (s : State) (st off : Nat) : State :=
  let cs := ledgerCells s st off
  let s := cs.foldl (fun s (c : Bool × Nat) => if c.1 then suspectPar s c.2 else suspectData s c.2) s
  let s := (uncapped s).foldl markUnclean s
  setHl s { s.hl with lost := s.hl.lost ++ cs.filter fun c => !s.hl.lost.contains c }

/-! ## Repairs (R390 to R393) -/

/-- The record of a cell's repair. -/
def repairOf (s : State) (par : Bool) (cell : Nat) : Repair :=
  (s.hl.repairs.find? fun r => r.par == par && r.cell == cell).getD
    { par := par, cell := cell, out := [], tries := 0, waitCap := 0 }

/-- A repair's record stored. -/
def setRepair (s : State) (r : Repair) : State :=
  setHl s { s.hl with repairs := (s.hl.repairs.filter fun x => !(x.par == r.par && x.cell == r.cell)) ++ [r] }

/-- A cell is right again: SUSPECT clears, and what waited for it goes on. -/
def repairEnd (s : State) (par : Bool) (cell : Nat) : State :=
  let s := setHl s { s.hl with repairs := s.hl.repairs.filter fun x => !(x.par == par && x.cell == cell),
                               lost := s.hl.lost.filter (· != (par, cell)) }
  let s := if par then setLedgerPX s cell (setBits (ledgerP s cell) 67 67 0) (ledgerX s cell)
    else setLedger s cell (setBits (ledger s cell) 67 67 0)
  resumeUnits (retryWindows (retryParked (count s (C.SLC_REPAIR (if par then parSlice s cell else dataSlice s cell)))))

/-- A repair window may open: every epoch for which the member has reported is capped (R390). -/
def windowReady (s : State) : Bool := (uncapped s).all fun e => (epochOf s e).own == 0

/-- Every contributor set is exhausted: the cell is reported, and the reports of the uncapped epochs that wrote it become
unclean (R391, R570). -/
def repairFail (s : State) (r : Repair) : State :=
  let sl := if r.par then parSlice s r.cell else dataSlice s r.cell
  let s := setRepair s { r with tries := cmbM s + 1 }
  let s := unitError s 0x0D (0x20 + sl) (at' (b2n r.par) 4 + at' r.cell 8) 1
  let es := (uncapped s).filter fun e =>
    if r.par then s.cod.undo.any fun u => u.epoch == e && u.k == r.cell
    else s.cod.segs.any fun g => g.mine s && g.kind < 3 && g.cell == r.cell && g.epoch == e
  resumeUnits (retryWindows (es.foldl (fun s e => resendReports (markUnclean s e)) s))

/-- The stripe of a cell of the own rank. -/
def stripeOf (s : State) (par : Bool) (cell : Nat) : Nat :=
  if par then parStripe (cmbN s) (cmbM s) (cmbFixed s) (cmbRank s) cell
  else dataStripe (cmbN s) (cmbM s) (cmbFixed s) (cmbRank s) cell

/-- The ranks a try leaves out: those that answered CELL_CHECK, and from the second try on one more, in ascending order. A parity
cell is encoded from the data holders alone; with one of these missing its cell it is decoded from the rest (R391, R392, R423). -/
def leftOut (s : State) (r : Repair) : List Nat :=
  let t := stripeOf s r.par r.cell
  if r.par then
    let hs := parHolders (cmbN s) (cmbM s) (cmbFixed s) t
    if (contributors s (cmbRank s) t (hs ++ r.out)).isSome then hs ++ r.out else r.out
  else
    let k := r.tries - r.out.length
    let g := goodRanks s t (cmbRank s :: r.out)
    r.out ++ (if k = 0 then [] else (g[k - 1]?).toList)

/-- The degraded read of a cell's repair. -/
def repairRead (s : State) (par : Bool) (cell : Nat) : Option DegRead :=
  s.hive.degs.find? fun d => d.use == .repair par cell

/-- The window of a repair closes. -/
def closeWindow (s : State) (d : DegRead) : State :=
  setHive s { s.hive with degs := s.hive.degs.filter fun x => x.id != d.id }

/-- A repair's read of the capped stripe starts, or the repair fails with no contributor set left. -/
def repairStart (s : State) (r : Repair) : State :=
  if cmbM s < r.tries then s
  else if !windowReady s then
    count s (C.SLC_REPAIR_WAIT (if r.par then parSlice s r.cell else dataSlice s r.cell))
  else
    match degStart s (.repair r.par r.cell) (cmbRank s) (stripeOf s r.par r.cell) false (List.range 1024) (leftOut s r) with
    | some s => setRepair s r
    | none => repairFail s r

/-- A try failed: the peers that answered CELL_CHECK are left out, and the next set is tried at once, in the same window (R390). -/
def repairAgain (s : State) (r : Repair) (d : DegRead) : State :=
  let s := closeWindow s d
  let bad := (d.badPeers.filterMap (peerRank s)).eraseDups.filter fun x => !r.out.contains x
  let r := { r with out := r.out ++ bad, tries := r.tries + max 1 bad.length }
  if cmbM s < r.tries then repairFail s r else repairStart s r

/-- The live contents of a data cell from its capped contents: its own uncapped records XORed in (R391). -/
def liveOf (s : State) (d : Nat) (b : Bytes) : Bytes :=
  (s.cod.segs.filter fun g => g.mine s && g.kind < 3 && g.cell == d && decide (capped s < g.epoch)).foldl
    (fun c g => applyRecs c (segRecs (segBytes s g))) b

/-- CELL_REPAIR of a SUSPECT data cell: the read starts, or its result is judged and written (R391). -/
def cellRepair (s : State) (d : Nat) : State :=
  let r := repairOf s false d
  let unknown := s.hl.lost.contains (false, d)
  if rd s R.CMB_DATA_CELLS ≤ d ∨ !lSuspect (ledger s d) ∨ openElsewhere s 99 d then s
  else if unknown ∧ (s.cod.segs.any fun g => g.mine s && g.kind < 3 && g.cell == d && decide (capped s < g.epoch)) then s
  else
    match repairRead s false d with
    | none => repairStart s r
    | some x =>
      if x.todo ≠ [] ∨ x.out ≠ 0 then s
      else if x.bad then repairAgain s r x
      else if unknown then repairEnd (settleCell (closeWindow s x) false d (capped s) x.bytes) false d
      else
        let b := liveOf s d x.bytes
        if crc64 b = lCrc (ledger s d) then
          let p := dataPlace s d
          repairEnd (memWrite (closeWindow s x) hlOwner false p.1 (p.2 * cellSize) b) false d
        else repairAgain s r x

/-- PARITY_REPAIR of a SUSPECT parity cell (R392). -/
def parityRepair (s : State) (p : Nat) : State :=
  let r := repairOf s true p
  let ub := xUndoB (ledgerX s p)
  let sl := undoSlice s p false
  let pl := parPlace s p
  let unknown := s.hl.lost.contains (true, p)
  let bOk := crc64 (bSlot s p) == bSlotCrc s p
  if parCells s ≤ p ∨ !lSuspect (ledgerP s p) then s
  else if unknown ∧ ub ≠ 0 then s
  else
    match repairRead s true p with
    | none =>
      -- a sound B slot: the error is in the live cell, and waits for the next cap conversion
      if r.waitCap = 0 ∧ ub ≠ 0 ∧ bOk then setRepair s { r with waitCap := capped s + 1 }
      else if capped s < r.waitCap then s
      else repairStart s r
    | some x =>
      if x.todo ≠ [] ∨ x.out ≠ 0 then s
      else if x.bad then repairAgain s r x
      else
        let s' := closeWindow s x
        if unknown then repairEnd (settleCell s' true p (capped s) x.bytes) true p
        else if r.waitCap ≠ 0 then
          let e := xorBytes (parView s false p) x.bytes
          let s' := if ub ≠ 0 then setSlot s' sl (ub - 1) (xorBytes (bSlot s p) e) else s'
          let b := xorBytes (parCell s p) e
          let s' := memWrite s' hlOwner true pl.1 (pl.2 * cellSize) b
          if crc64 b = lCrc (ledgerP s p) then repairEnd s' true p else repairFail s' r
        else if ub ≠ 0 then
          let s' := setSlot s' sl (ub - 1) x.bytes
          if parCellOk s' p then repairEnd s' true p else setRepair s' { r with tries := 0 }
        else if crc64 x.bytes = lCrc (ledgerP s p) then
          repairEnd (memWrite s' hlOwner true pl.1 (pl.2 * cellSize) x.bytes) true p
        else repairFail s' r

/-! ## The forager (R396, R397) -/

/-- Data cell indices whose home stack is st start at i and step by K. -/
def onStack (s : State) (st : Nat) : Nat → Bool := fun c => c % max 1 (codK s) == popc st (rd s R.CMB_STKMASK)

/-- REPLICA cells with plain homes on stack st, by ascending object and cell. -/
def replicaCells (s : State) (st : Nat) : List (Nat × Nat) :=
  ((objIds s).filter fun o => objValid s o && oClass (dir s o) == clsReplica && oTier (dir s o) == 0 &&
      bit (oStk (dir s o)) st).flatMap fun o =>
    ((List.range (objCells (dir s o))).filter fun c => maskStack (oStk (dir s o)) (c % maskK (oStk (dir s o))) == st).map fun c => (o, c)

/-- 256-byte granule groups of the ledger region and of the SCALE mirror region of a stack. -/
def ledgerGroups (s : State) : Nat := ceilDiv (ledgerBytes s) 256
def mirrorGroups (s : State) : Nat := (1 + ceilDiv (64 * cmbN s) (max 1 (codK s))) * 256

/-- The next position the walk of stack st visits in a region, at or after a position. -/
def walkNext (s : State) (st region pos : Nat) : Option Nat :=
  let coded := bit (rd s R.CMB_STKMASK) st && !isAbsent s && memRole (member s (ownIdx s)) != 2
  let from_ (n : Nat) (p : Nat → Bool) : Option Nat := (firstBelow (n - pos) fun k => p (pos + k)).map (pos + ·)
  match region with
  | 0 => if coded then from_ (rd s R.CMB_DATA_CELLS) fun d => onStack s st d && !dataMissing s d else none
  | 1 => if coded then from_ (parCells s) fun p => onStack s st p && !parMissing s p else none
  | 2 => if coded then from_ (ledgerGroups s) fun _ => true else none
  | 3 => if coded then from_ (mirrorGroups s) fun _ => true else none
  | _ => from_ (replicaCells s st).length fun _ => true

/-- The cursor of a stack's walk set. -/
def setCursor (s : State) (n region pos : Nat) : State := wr (wr s (R.SCRB_CUR_REGION n) region) (R.SCRB_CUR_POS n) pos

/-- A cell is being relocated, repaired or read already: the forager skips it (R397). -/
def underRepair (s : State) (par : Bool) (cell : Nat) : Bool :=
  lSuspect (if par then ledgerP s cell else ledger s cell) || cellHeld s par cell

/-- Owner of the reads of stack n's forager. -/
def scrubOwner (n : Nat) : Nat := 114 + n

/-- A forager's read of a coded cell starts. -/
def scrubCell (s : State) (n : Nat) (par : Bool) (cell : Nat) : State :=
  if underRepair s par cell then count s C.SCRB_SKIP
  else
    let p := if par then parPlace s cell else dataPlace s cell
    memRequest (setHl s { s.hl with scrub := s.hl.scrub ++ [(n, par, cell)] }) (scrubOwner n) false false p.1 (p.2 * cellSize) cellSize

/-- One coded cell the forager has read is checked; one found failing already was counted then (R389). -/
def scrubCheck (s : State) (x : Nat × Bool × Nat) : State :=
  if x.2.1 then
    if lSuspect (ledgerP s x.2.2) || parCellOk s x.2.2 then s else count (suspectPar s x.2.2) (C.SCRB_FIND x.1)
  else if lSuspect (ledger s x.2.2) || dataCellOk s x.2.2 then s
  else count (suspectData s x.2.2) (C.SCRB_FIND x.1)

/-- A forager's reads are answered: its coded cells are checked, and what waited for them goes on. -/
def settleScrub (s : State) (n : Nat) : State :=
  let xs := s.hl.scrub.filter fun x => x.1 == n
  if xs = [] ∨ !readsAnswered s (scrubOwner n) then s
  else retryParked (xs.foldl scrubCheck (setHl s { s.hl with scrub := s.hl.scrub.filter fun x => x.1 != n }))

/-- One position is visited. -/
def visitAt (s : State) (n region pos : Nat) : State :=
  match region with
  | 0 => scrubCell s n false pos
  | 1 => scrubCell s n true pos
  | 2 => memRequest s (scrubOwner n) false false n (rd s R.CMB_LEDGER_BASE * cellSize + 256 * pos) 256
  | 3 => memRequest s (scrubOwner n) false false n (rd s R.CMB_SCALE_BASE * cellSize + 256 * pos) 256
  | _ =>
    match (replicaCells s n)[pos]? with
    | none => s
    | some (o, c) => match cellPlace s (dir s o) c with
      | .hbm st slot => memRequest s (scrubOwner n) false false st (slot * cellSize) cellSize
      | _ => s

/-- The walk from a region and position on: the next position, through the regions in order; fuel bounds the regions. -/
def walkFrom (s : State) (n : Nat) : Nat → Nat → Nat → Option (Nat × Nat)
  | 0, _, _ => none
  | f + 1, region, pos =>
    match walkNext s n region pos with
    | some p => some (region, p)
    | none => if region = 4 then none else walkFrom s n f (region + 1) 0

/-- FORAGER_VISIT of stack n: the next position is visited, unless a row is writing its cell; at the end of the last region a pass
is complete and the walk starts again at the top. -/
def foragerVisit (s : State) (n : Nat) : State :=
  match walkFrom s n 5 (rd s (R.SCRB_CUR_REGION n)) (rd s (R.SCRB_CUR_POS n)) with
  | none => setCursor (count s (C.SCRB_PASS n)) n 0 0
  | some (region, pos) =>
    if region = 0 ∧ (s.cod.open_.any fun o => o.d == pos) then setCursor s n region pos
    else setCursor (visitAt s n region pos) n region (pos + 1)

/-! ## Remap (R399, R400) -/

/-- A range of a stack is due for a remap entry, unless it has one or is due already. -/
def remapDue (s : State) (st range cause : Nat) : State :=
  if (s.hl.remapDue.any fun x => x.1 == st && x.2.1 == range) ||
      ((List.range 8).any fun e => bit (tget s 0x16 0 (8 * st + e)) 63 && bits (tget s 0x16 0 (8 * st + e)) 24 0 == range) then s
  else setHl s { s.hl with remapDue := s.hl.remapDue ++ [(st, range, cause)] }

/-- A failing range outside the block-private regions is reported, not redirected (R400). -/
def plainFail (s : State) (st slot : Nat) : State :=
  match slotUse s st slot with
  | .plain o c => unitError (count s C.RMAP_PLAIN_FAIL) 0x0D 0x16 o c
  | .img i =>
    let m := image s i
    let k := (firstBelow (imCount m) fun k => imPlace s i (imFirst m + k) == .hbm st slot).getD 0
    unitError (count s C.RMAP_PLAIN_FAIL) 0x0D 0x16 (imObj m) (imFirst m + k)
  | _ => s

/-- A range behind block address a of stack st fails: due for an entry on the stack that holds it, or reported. -/
def rangeFails (s : State) (st a cause : Nat) : State :=
  let slot := a / cellSize
  if isPrivate s st slot then
    let key := hbmKey s st a
    remapDue s (key / 2 ^ 37) (key % 2 ^ 37 / 4096) cause
  else plainFail s st slot

/-- A corrected granule counts against its range: RMAP_CE_THR of them within 1 s make it fail. The table holds 256 ranges per
stack, the least recently used giving way (R399). -/
def noteCorrected (s : State) (st a : Nat) : State :=
  let key := hbmKey s st a
  let port := key / 2 ^ 37
  let range := key % 2 ^ 37 / 4096
  let now := rd s R.TIME_TOD
  let old := s.hl.ce.find? fun x => x.1 == port && x.2.1 == range
  let (n, t) := match old with
    | some (_, _, n, t) => if now < t + 10 ^ 9 then (n + 1, t) else (1, now)
    | none => (1, now)
  let rest := s.hl.ce.filter fun x => !(x.1 == port && x.2.1 == range)
  let mine := rest.filter fun x => x.1 == port
  let rest := if 256 ≤ mine.length then rest.filter fun x => some x != mine.head? else rest
  if rd s R.RMAP_CE_THR ≤ n then rangeFails (setHl s { s.hl with ce := rest }) st a 2
  else setHl s { s.hl with ce := rest ++ [(port, range, n, t)] }

/-- What the block keeps in a slot of a stack; a relocation target holds what was relocated to it (R401). -/
def slotKept (s : State) (st slot : Nat) : SlotUse :=
  match (relocs s).find? fun e => bits e.2 53 50 == st && bits e.2 20 0 == slot with
  | some e => slotUse s (bits e.2 57 54) (bits e.2 41 21)
  | none => if relocated s st slot then .none else slotUse s st slot

/-- The cells a range of a stack touches are in order: none is SUSPECT, and nothing writes or holds them. -/
def rangeClean (s : State) (st range : Nat) : Bool :=
  match slotKept s st (range * 4096 / cellSize) with
  | .data d => !lSuspect (ledger s d) && !openElsewhere s 99 d
  | .par p => !lSuspect (ledgerP s p) && !cellHeld s true p
  | _ => true

/-- The lowest free remap entry of a stack. -/
def freeRemap (s : State) (st : Nat) : Option Nat := firstBelow 8 fun e => !bit (tget s 0x16 0 (8 * st + e)) 63

/-- A unit's copy runs. -/
def copyOf (s : State) (owner : Nat) : Option MapCopy := s.hl.copies.find? fun c => c.owner == owner

/-- A copy is over. -/
def dropCopy (s : State) (owner : Nat) : State := setHl s { s.hl with copies := s.hl.copies.filter fun c => c.owner != owner }

/-- A granule that a copy read came back uncorrectable: the copy is not used (R47). -/
def copyBad (s : State) (owner : Nat) : State :=
  setHl s { s.hl with copies := s.hl.copies.map fun c => if c.owner = owner then { c with bad := true } else c }

/-- Owner of the reads of stack st's remap copy, and of the relocation's. -/
def remapOwner (st : Nat) : Nat := 100 + st
def relocOwner : Nat := 112

/-- A range is no longer due. -/
def dropDue (s : State) (st range : Nat) : State :=
  setHl s { s.hl with remapDue := s.hl.remapDue.filter fun x => !(x.1 == st && x.2.1 == range) }

/-- REMAP_FILL of stack st: the first range due is read for its copy; with the table full the stack starts migrating (R399, R401). -/
def remapFill (s : State) (st : Nat) : State :=
  if (copyOf s (remapOwner st)).isSome then s
  else
    match s.hl.remapDue.find? fun x => x.1 == st with
    | none => s
    | some (_, range, cause) =>
      if !rangeClean s st range then s
      else
        match freeRemap s st with
        | none => startMigrate (dropDue s st range) st
        | some _ =>
          memRequest (setHl s { s.hl with copies := s.hl.copies ++
              [{ owner := remapOwner st, stk := st, place := range, cause := cause, bad := false }] })
            (remapOwner st) false false st (range * 4096) 4096

/-- The reads of a remap copy are back: the range goes to its target and the entry is written; a range that could not be read waits for
its repair. -/
def remapCopied (s : State) (c : MapCopy) : State :=
  match freeRemap s c.stk with
  | none => startMigrate (dropDue s c.stk c.place) c.stk
  | some e =>
    let b := mread s.hbm (c.stk * 2 ^ 37 + c.place * 4096) 4096
    let s := memWrite s hlOwner false c.stk ((broodBase s c.stk + 33) * cellSize + 4096 * e) b
    count (setMapEntry (dropDue s c.stk c.place) 0 (8 * c.stk + e) (at' 1 63 + at' c.cause 61 + c.place)) C.RMAP_FILL

/-- REMAP_ENTRY_SUBMIT: the installer's entry in table 0, while ABSENT: within a block-private region and no duplicate (R399,
R555). Reserved bits set RSVD_WR and are ignored. -/
def remapSubmit (s : State) (r : Req) (data : Nat) (wide : Bool) : State × Nat :=
  let src := r.src.toNat
  let sel := rd s R.RMAP_TWIN_SEL
  let i := selIndex sel
  let addr := 0x16F00
  let cur := tget s 0x16 (selTable sel) i
  let v := submitted s src 0x16 cur data wide
  let s := dropStaged s src 0x16
  let new := v % 2 ^ 25 + at' (bits v 63 61) 61
  let aud (s : State) (st : Nat) : State := audit s 1 addr src (auditRole s src) st cur new
  if selTable sel = 1 ∧ i < 262144 then (noteReserved s 0x16 (readOnlyBad 0x16 1 v), 0)
  else if selTable sel ≠ 0 ∨ 96 ≤ i then (s, ecDescriptor)
  else
    let s := if bits v 60 25 ≠ 0 then pgError s 0x16 31 0 else s
    let st := i / 8
    let a := bits new 24 0 * 4096
    if !hasRole s r.src 2 then (if new = cur then (s, 0) else refuseRights s 0x16 addr src true cur new)
    else if early s || !isAbsent s then (aud (pgError s 0x16 29 0) ecDescriptor, ecDescriptor)
    else if bit new 63 && (!isPrivate s st (a / cellSize) || (List.range 8).any fun e =>
        8 * st + e != i && bit (tget s 0x16 0 (8 * st + e)) 63 && bits (tget s 0x16 0 (8 * st + e)) 24 0 == bits new 24 0) then
      (aud s ecDescriptor, ecDescriptor)
    else (aud (setMapEntry s 0 i new) 0, 0)

/-! ## Relocation (R401) -/

/-- The next free relocation target: the enabled stacks after st in turn, each from its lowest free target slot. -/
def nextTarget (s : State) (st : Nat) : Option (Nat × Nat) :=
  let order := ((List.range 11).map fun k => (st + 1 + k) % 12).filter (stackOn s)
  let used := (relocs s).map fun e => (bits e.2 53 50, bits e.2 20 0)
  (order.filterMap fun n =>
    (firstBelow (broodSlots s - 34) fun k => !used.contains (n, broodBase s n + 34 + k)).map fun k => (n, broodBase s n + 34 + k)).head?

/-- The lowest free relocation entry. -/
def freeReloc (s : State) : Option Nat := firstBelow 262144 fun i => !bit (tget s 0x16 1 i) 63

/-- RELOC set in the ledger entry of the cell in a slot. -/
def markReloc (s : State) (u : SlotUse) : State :=
  match u with
  | .data d => setLedger s d (setBits (ledger s d) 66 66 1)
  | .par p => setLedgerPX s p (setBits (ledgerP s p) 66 66 1) (ledgerX s p)
  | _ => s

/-- A slot's cell passes its check and no row writes it. -/
def slotReady (s : State) (u : SlotUse) : Bool :=
  match u with
  | .data d => !lSuspect (ledger s d) && !openElsewhere s 99 d
  | .par p => !lSuspect (ledgerP s p) && !cellHeld s true p
  | _ => true

/-- The cell of a slot fails the copy's check. -/
def slotCheck (s : State) (u : SlotUse) : State × Bool :=
  match u with
  | .data d => if rd s R.CMB_DATA_CELLS ≤ d || dataMissing s d || dataCellOk s d then (s, true) else (suspectData s d, false)
  | .par p => if parCells s ≤ p || parMissing s p || parCellOk s p then (s, true) else (suspectPar s p, false)
  | _ => (s, true)

/-- MIGRATION_SLOT: the next slot of the migrating stack is read for its copy (R401). -/
def migrationSlot (s : State) : State :=
  let st := rd s R.RMAP_MIG_STAT_STK
  if !rdb s R.RMAP_MIG_STAT_ACTIVE || (copyOf s relocOwner).isSome then s
  else
    match (migSlots s st).find? fun x => !relocated s st x with
    | none => endMigrate s
    | some slot =>
      if !slotReady s (slotUse s st slot) then s
      else
        match nextTarget s st, freeReloc s with
        | some _, some _ =>
          memRequest (setHl s { s.hl with copies := s.hl.copies ++
              [{ owner := relocOwner, stk := st, place := slot, cause := 0, bad := false }] })
            relocOwner false false st (slot * cellSize) cellSize
        | _, _ => endMigrate (unitError s 0x0D 0x16 st (rd s R.RMAP_MIG_STAT_REMAIN))

/-- The reads of a relocation are back: the slot is checked and copied to its target, and its entry written. -/
def relocCopied (s : State) (c : MapCopy) : State :=
  let st := c.stk
  let u := slotUse s st c.place
  match nextTarget s st, freeReloc s with
  | some (dn, ds), some i =>
    let x := slotCheck s u
    if !x.2 then x.1
    else
      let b := hbRead s st (c.place * cellSize) cellSize
      let s := memWrite s hlOwner false dn (ds * cellSize) b
      let s := setMapEntry s 1 i (at' 1 63 + at' st 54 + at' dn 50 + at' c.place 21 + ds)
      let s := markReloc (count s C.RMAP_RELOC) u
      let s := wr s R.RMAP_RELOC_USED (relocs s).length
      let s := wr s R.RMAP_MIG_STAT_DONE (rd s R.RMAP_MIG_STAT_DONE + 1)
      let s := wr s R.RMAP_MIG_STAT_REMAIN (rd s R.RMAP_MIG_STAT_REMAIN - 1)
      if (migSlots s st).all fun x => relocated s st x then endMigrate s else s
  | _, _ => endMigrate (unitError s 0x0D 0x16 st (rd s R.RMAP_MIG_STAT_REMAIN))

/-- Reads of a copy are answered: with all of them back and none uncorrectable the copy is made (R47, R399, R401). -/
def settleCopy (s : State) (owner : Nat) : State :=
  match copyOf s owner with
  | none => s
  | some c =>
    if !readsAnswered s owner then s
    else
      let s := dropCopy s owner
      retryParked (if c.bad then s else if owner = relocOwner then relocCopied s c else remapCopied s c)

/-! ## The rows' meanings -/

/-- FORAGER_VISIT (R396): stack. -/
def execForagerVisit (n : Fin 12) (s : State) : Ans := .next (foragerVisit (begin s) n)

/-- CELL_REPAIR (R391): data cell. -/
def execCellRepair (d : BitVec 25) (s : State) : Ans := .next (cellRepair (begin s) d.toNat)

/-- PARITY_REPAIR (R392): parity cell. -/
def execParityRepair (p : BitVec 25) (s : State) : Ans := .next (parityRepair (begin s) p.toNat)

/-- REMAP_FILL (R399): stack. -/
def execRemapFill (n : Fin 12) (s : State) : Ans := .next (remapFill (begin s) n)

/-- MIGRATION_SLOT (R401). -/
def execMigrationSlot (s : State) : Ans := .next (migrationSlot (begin s))

/-- REMAP_ENTRY_SUBMIT (R399, R555): the write of window offset 0. -/
def execRemapEntrySubmit (r : Req) (data : BitVec 64) (wide : Bool) (s : State) : Ans :=
  .next (answered r (remapSubmit (begin s) r data.toNat wide))

end Sys2Proof.Machine
end

