-- ==== Sys2Proof/Machine/Link.lean ====
section
/-! DEFINITION. The light port's links: control flits, admission, replay, replacement of lanes and modules, monitor reads (R53, R54, R291
to R306). -/

namespace Sys2Proof.Machine

/-- a is ahead of b, modulo 2¹⁶. -/
def ahead16 (a b : Nat) : Bool :=
  let d := (a + 2 ^ 16 - b) % 2 ^ 16
  0 < d && d < 2 ^ 15

/-! ## Link state reported (R548, R549) -/

/-- LMAP entry l made anew from the link: its fixed RTB_SHARE with the neighbour, UP and PHYS. -/
def noteLmap (s : State) (l : Nat) : State :=
  let x := linkOf s l
  let up := x.phase == 2
  let e := bits (tget s 0x10 1 l) 69 64
  let v := at' e 64 + at' x.part 48 + at' (b2n x.switch) 36 + at' (if up then x.ver else 0) 32 + at' x.fid 16 +
    at' (b2n up) 8 + s.lp.lane.getD l 0x3F
  tput s 0x10 1 l v

/-- A logical link replaced, with what LMAP shows of it. -/
def putLink (s : State) (l : Nat) (x : LinkSt) : State := noteLmap (setLink s l x) l

/-- Every waiting flit that a link may now carry is given to it. -/
def pumpAll (s : State) : State := s.lp.tx.foldl (fun s t => pumpStream s t.peer t.vc) s

/-! ## Control flits (R292) -/

/-- A NAK naming the LSEQ expected. -/
def sendNak (s : State) (l : Nat) : State := sendControl s l ([1, 0] ++ leBytes 2 (linkOf s l).rx)

/-- INIT: version 3, an endpoint, LP_FID and CMB_PART (R296). -/
def sendInit (s : State) (l : Nat) : State :=
  sendControl s l ([3, 0, 0, 0, 3, 0] ++ leBytes 2 (rd s R.LP_FID) ++ leBytes 2 (rd s R.CMB_PART))

/-! ## Replay (R291, R293, R294) -/

/-- A received LACK: the retry buffer loses what it passes. -/
def lackIn (s : State) (l lack : Nat) : State :=
  let x := linkOf s l
  let left := x.retry.filter fun f => !ahead16 lack f.1
  if left.length = x.retry.length then s
  else
    let s := pumpLink (setLink s l { x with retry := left, resends := 0 }) l
    -- streams toward version-2 peers that waited for their old link (R297)
    (s.lp.tx.filter fun t => peerProto (peerEntry s t.peer) == 2 && t.wait != []).foldl (fun s t => pumpStream s t.peer t.vc) s

/-- Kept flits are sent again from LSEQ n onward, in order. -/
def replayFrom (s : State) (l n : Nat) : State :=
  let x := linkOf s l
  if fallsSilent s then s
  else (x.retry.filter fun f => !ahead16 n f.1).foldl
    (fun s f => emit s (.flit l f.1 x.rx f.2.hdr f.2.payload)) s

/-- NAK_RECEIVE: a replay from the named LSEQ (R291). -/
def nakIn (s : State) (l n : Nat) : State :=
  if linkUp s l then replayFrom (count s (C.LP_LRTY l)) l n else s

/-- Credits of eight VCs come back. -/
def creditIn (s : State) (l c : Nat) : State :=
  let x := linkOf s l
  if x.phase ≠ 2 then s
  else
    let credit := (List.range 8).foldl (fun m v => put m v (get m v + bits c (16 * v + 15) (16 * v))) x.credit
    pumpLink (setLink s l { x with credit := credit }) l

/-- A link goes down or starts afresh: the credits kept back for it are void, since link-up grants the whole space (R295). -/
def dropHeld (s : State) (l : Nat) : State :=
  setLp s { s.lp with heldCred := s.lp.heldCred.filter (· != l), hiveCred := s.lp.hiveCred.filter (· != l) }

/-- INIT arrives: the lower version, the neighbour's identity, and the whole receive space granted; a version below 2
leaves the link down (R295, R296). -/
def initIn (s : State) (l ver fid part : Nat) (switch : Bool) : State :=
  let x := linkOf s l
  if x.phase ≠ 1 then s
  else if ver < 2 then putLink s l LinkSt.down
  else
    let freed := (List.range 8).foldl (fun m v => put m v (vcCred s v)) []
    let s := dropHeld s l
    let s := putLink s l { x with phase := 2, ver := min 3 ver, fid := fid, part := part, switch := switch, freed := freed }
    pumpAll (sendCredits s l)

/-- A link control flit by its CODE; a reserved CODE is dropped and counted. -/
def controlIn (s : State) (l : Nat) (b : Bytes) : State :=
  match leAt b 0 1 with
  | 1 => nakIn s l (leAt b 2 2)
  | 2 => creditIn s l (leAt b 4 16)
  | 3 => initIn s l (leAt b 4 1) (leAt b 6 2) (leAt b 8 2) (bit (leAt b 5 1) 0)
  | _ => count s C.LP_DROP_TYPE

/-! ## Admission (R302, R353) -/

/-- KIND of the membership message a flit belongs to: its own, or that of the message being gathered. -/
def membKind (s : State) (p : Nat) (f : Flit) : Nat :=
  if hdrFirst f.hdr then leAt f.payload 0 1
  else match (rxOf s p 0).part with
    | g :: _ => leAt g.payload 0 1
    | [] => 0

/-- What the checks of R302 and R353 say of a flit from a peer: none admits it, some k drops it and counts k. -/
def dropWhy (s : State) (p : Nat) (f : Flit) : Option Nat :=
  let ty := hdrType f.hdr
  let tagOk := hdrTag f.hdr == rd s R.CMB_JOB_JOB_TAG
  let me := rd s R.CMB_JOB_MEMB_EPOCH
  let m := hdrMemb f.hdr
  if hdrDst f.hdr ≠ rd s R.LP_FID then some C.LP_DROP_MISROUTE
  else if ty = 3 then
    let k := membKind s p f
    if k = 1 then none
    else if !tagOk then some C.LP_DROP_TAG
    else if m = me ∨ (me < m ∧ k = 3) then none
    else some C.LP_DROP_STALE
  else if !tagOk then some C.LP_DROP_TAG
  else if m ≠ me ∨ peerLost s p then some C.LP_DROP_STALE
  else none

/-- A flit past the link layer is admitted or dropped. A hive request that fails the job tag or the membership epoch is
answered JOB_TAG_STALE (R337). -/
def admitIn (s : State) (f : Flit) : State :=
  match peerOfFid s (hdrSrc f.hdr) with
  | none => count s C.LP_DROP_FOREIGN
  | some p =>
    match dropWhy s p f with
    | some k =>
      let s := count s k
      if hdrType f.hdr = 0x0C ∧ k ≠ C.LP_DROP_MISROUTE ∧ !peerLost s p then
        requestArrival s p (hdrTag f.hdr) (hdrMemb f.hdr) (slice f.payload 0 (hdrLen f.hdr))
      else s
    | none =>
      if peerProto (peerEntry s p) = 2 then gather s p (hdrVc f.hdr) f else streamIn s p (hdrVc f.hdr) f

/-! ## The link layer (R291, R295) -/

/-- A flit is discarded: the first discard sends a NAK. -/
def discardFlit (s : State) (l : Nat) : State :=
  let x := linkOf s l
  if x.nak then s else sendNak (setLink s l { x with nak := true }) l

/-- A flit taken in LSEQ order. The credit of a VC5 flit waits for the home to take its requests (R333). -/
def takeFlit (s : State) (l : Nat) (f : Flit) : State :=
  let x := linkOf s l
  let s := setLink s l { x with rx := (x.rx + 1) % 2 ^ 16, nak := false }
  let s := if hdrVc f.hdr = 5 then setLp s { s.lp with hiveCred := s.lp.hiveCred ++ [l] } else freeCredit s l (hdrVc f.hdr)
  let s := if vcOfType (hdrType f.hdr) ≠ some (hdrVc f.hdr) then count s C.LP_DROP_TYPE else admitIn s f
  returnHive s.lp.hiveCred.length s

/-- FLIT_RECEIVE: 256 bytes and what the lane's error correction said: 0 clean, 1 corrected, 2 not correctable. Idle and
control flits carry the next LSEQ without taking it (DEDUCED, notes/assumptions/48). -/
def flitIn (s : State) (l : Nat) (b : Bytes) (fec : Nat) : State :=
  let x := linkOf s l
  let ol := s.lp.lane.getD l 0x3F
  if x.phase ≠ 1 ∧ x.phase ≠ 2 then s
  else
    let s := wakeLight s
    let s := if fec = 1 then count s (C.LP_FEC_CORR ol) else if fec = 2 then count s (C.LP_FEC_UNCORR ol) else s
    if fec = 2 ∨ leAt b 252 4 ≠ crc32 (slice b 0 252) then (if x.phase = 2 then discardFlit s l else s)
    else
      let f : Flit := { hdr := leAt b 0 16, payload := slice b 16 232 }
      let ty := hdrType f.hdr
      let lseq := leAt b 248 2
      let s := if x.phase = 2 then lackIn s l (leAt b 250 2) else s
      if ty = 0 then s
      else if ty = 1 then controlIn s l f.payload
      else if x.phase ≠ 2 then s
      else
        let s := count s C.LP_FLIT_RX
        if lseq = x.rx then takeFlit s l f
        else if ahead16 x.rx lseq then s
        else discardFlit s l

/-! ## Links up and down (R294, R296, R306) -/

/-- Logical links behind the lanes of a module. -/
def linksOn (s : State) (k : Nat) : List Nat := (List.range 32).filter fun l => s.lp.lane.getD l 0x3F / 4 == k

/-- Flits of a link's queue that have not gone out. -/
def queuedIn (q : List Flit) (f : Flit) : Bool := q.any fun x => x.hdr == f.hdr

/-- A stream's unacknowledged flits that satisfy p go out again on the links R303 now chooses, ESEQ unchanged; toward a peer with no up
link they wait. A flit that still waits in a link's queue stays there; unsent: flits that had not gone out, which count as no re-send. A member that has learned
of its own loss sends no flit again but those of TYPE 0x03 (R362). -/
def resendStream (s : State) (t : TxStream) (unsent : List Flit) (p : Nat → Bool) : State :=
  let r := t.buf.foldl (fun (acc : State × List (Nat × Nat × Flit × Nat)) e =>
      let f := e.2.2.1
      if p e.2.2.2 && (memberState s != 7 || hdrType f.hdr == 3) && !(linkLives acc.1 e.2.2.2 && queuedIn (linkOf acc.1 e.2.2.2).txq f) then
        match chooseLink acc.1 t.peer t.vc e.2.1 with
        | some l =>
          let s := enqueueFlit acc.1 l f
          (if queuedIn unsent f || decide (64 ≤ e.2.2.2) then s else count s C.LP_E2E_RESEND, acc.2 ++ [(e.1, e.2.1, f, l)])
        | none => (acc.1, acc.2 ++ [(e.1, e.2.1, f, if queuedIn unsent f then 64 else e.2.2.2)])
      else (acc.1, acc.2 ++ [e])) (s, [])
  (List.range 32).foldl pumpLink (setTx r.1 { txOf r.1 t.peer t.vc with buf := r.2 })

/-- A valid peer all of whose links are down. -/
def unreachable (s : State) (p : Nat) : Bool :=
  (setBitsOf 32 (peerLinks (peerEntry s p))).all fun l => !linkLives s l

/-- LINK_DOWN: the link stops; flits it carried go on other links; a peer left with no link is unreachable, counted and
reported as class 0 (R306, R357). -/
def linkDown (s : State) (l : Nat) : State :=
  let x := linkOf s l
  if x.phase = 0 then s
  else
    let peers := (peerIdxs s).filter fun p => peerValid (peerEntry s p) && bit (peerLinks (peerEntry s p)) l && !unreachable s p
    let s := putLink (dropHeld s l) l LinkSt.down
    let s := s.lp.tx.foldl (fun s t => resendStream s t x.txq (· == l)) s
    -- flits to version-2 peers have no path layer: the kept and queued ones follow the peer's next link (R297)
    let s := ((x.retry.map (·.2)) ++ x.txq).foldl (fun s f =>
      match (peerIdxs s).find? fun p => peerValid (peerEntry s p) && peerProto (peerEntry s p) == 2 &&
          peerFid (peerEntry s p) == hdrDst f.hdr with
      | none => s
      | some p => match chooseLink s p (hdrVc f.hdr) 0 with
        | some l => pumpLink (enqueueFlit s l f) l
        | none => s) s
    let s := pumpAll s
    (peers.filter (unreachable s)).foldl (fun s p =>
      let s := count s C.LP_UNREACH
      match peerIdx s p with
      | some x => faultReport s x 0
      | none => s) s

/-! ## Replacing lanes and modules (R53) -/

/-- Free lanes of the spare module. -/
def spareLanes (s : State) : List Nat :=
  let sp := bits (rd s R.GEN_DISABLED) 57 54
  if 8 < sp then [] else (List.range 4).map (4 * sp + ·) |>.filter fun p =>
    !s.lp.failed.contains p && !s.lp.lane.contains p

/-- Link l moves to physical lane p: a running link retrains with its numbers kept. -/
def moveLane (s : State) (l p : Nat) : State :=
  let s := setLp s { s.lp with lane := s.lp.lane.set l p }
  let x := linkOf s l
  putLink s l { x with phase := if x.phase = 2 then 3 else x.phase }

/-- The link behind a failed lane takes a spare lane or goes down: the spare taken. -/
def swapLane (s : State) (l : Nat) : State × Option Nat :=
  match spareLanes s with
  | p :: _ => (count (moveLane s l p) C.LP_SPARE_EVT, some p)
  | [] => (linkDown s l, none)

/-- LANE_FAIL: physical optical lane p is out of use. -/
def opticalFail (s : State) (p : Nat) : State :=
  if s.lp.failed.contains p then s
  else
    let s := setLp s { s.lp with failed := s.lp.failed ++ [p] }
    match firstBelow 32 fun l => s.lp.lane.getD l 0x3F == p with
    | none => s
    | some l =>
      let r := swapLane s l
      spareRec r.1 6 p (r.2.getD 0) r.2.isNone false

/-- The links of a failed module move to the spare module, and what finds no lane goes down. One record names the module and the
spare. -/
def moduleSwap (s : State) (k : Nat) : State :=
  let sp := bits (rd s R.GEN_DISABLED) 57 54
  let ls := linksOn s k
  let free := (spareLanes s).length
  if ls = [] then (if sp = k then wr s R.GEN_DISABLED (setBits (rd s R.GEN_DISABLED) 57 54 0xF) else s)
  else
    let s := ls.foldl (fun s l => match spareLanes s with
      | p :: _ => moveLane s l p
      | [] => linkDown s l) s
    let s := if free = 0 then s else count s C.LP_SPARE_EVT
    let s := if sp = k ∨ spareLanes s = [] then wr s R.GEN_DISABLED (setBits (rd s R.GEN_DISABLED) 57 54 0xF) else s
    spareRec s 5 k sp (decide (free < ls.length)) false

/-- A link retrains on a working lane: a replacement is under way. -/
def swapRuns (s : State) : Bool :=
  (List.range 32).any fun l => (linkOf s l).phase == 3 && !s.lp.failed.contains (s.lp.lane.getD l 0x3F)

/-- Module swaps that waited start, one after the other (R66). fuel bounds them. -/
def startSwaps : Nat → State → State
  | 0, s => s
  | f + 1, s =>
    match s.lp.swapDue with
    | k :: t => if swapRuns s then s else startSwaps f (moduleSwap (setLp s { s.lp with swapDue := t }) k)
    | [] => s

def nextSwap (s : State) : State := startSwaps s.lp.swapDue.length s

/-- A module is out of use: its active lanes move to the spare module, after the replacement that already retrains; meanwhile its links
carry nothing (R53, R66). -/
def moduleFail (s : State) (k : Nat) : State :=
  let wait := swapRuns s
  let s := setLp s { s.lp with failed := s.lp.failed ++ ((List.range 4).map (4 * k + ·)).filter fun p => !s.lp.failed.contains p }
  let s := wr s R.GEN_DISABLED (setBits (rd s R.GEN_DISABLED) (45 + k) (45 + k) 1)
  if wait && linksOn s k != [] then
    let s := (linksOn s k).foldl (fun s l =>
      putLink s l { linkOf s l with phase := if (linkOf s l).phase = 2 then 3 else (linkOf s l).phase }) s
    setLp s { s.lp with swapDue := s.lp.swapDue ++ [k] }
  else moduleSwap s k

/-- LINK_UP: the module's links that are down start afresh and send INIT. A module that has trained below 32 GT/s is failed: its lanes
move to the spare module (R51, R53; the rate is an input, notes/assumptions/101). -/
def linkUpEffect (s : State) (k : Nat) : State :=
  if s.lp.rates.getD k 32 < 32 then moduleFail s k
  else
    (linksOn s k).foldl (fun s l =>
      if (linkOf s l).phase = 0 then sendInit (putLink (dropHeld s l) l { LinkSt.down with phase := 1 }) l else s) s

/-- RETRAIN_DONE: LSEQ, the retry buffer and all else about the link are kept, and the replay starts at the oldest flit (R294). -/
def retrainDone (s : State) (l : Nat) : State :=
  let x := linkOf s l
  if x.phase ≠ 3 ∨ s.lp.failed.contains (s.lp.lane.getD l 0x3F) then s
  else
    let s := putLink s l { x with phase := 2 }
    nextSwap (match x.retry with
    | [] => pumpAll s
    | f :: _ => pumpAll (pumpLink (replayFrom (count s (C.LP_LRTY l)) l f.1) l))

/-- LINK_RETRY_TIMEOUT: no LACK advance for LP_LRTY_TMO. The kept flits are sent again; after LP_LRTY_MAX re-sends without
progress the link's lane is replaced (R294). A receiver may NAK again (R291). -/
def retryTimeout (s : State) (l : Nat) : State :=
  let x := linkOf s l
  if x.phase ≠ 2 then s
  else
    let s := setLink s l { x with nak := false }
    match x.retry with
    | [] => s
    | f :: _ =>
      if rd s R.LP_LRTY_MAX ≤ x.resends then opticalFail s (s.lp.lane.getD l 0x3F)
      else
        replayFrom (count (setLink s l { x with nak := false, resends := x.resends + 1 }) (C.LP_LRTY l)) l f.1

/-! ## Sending again (R306) -/

/-- E2E_RESEND_TIMEOUT of a stream: everything unacknowledged is sent again. -/
def streamTimeout (s : State) (p vc : Nat) : State := resendStream s (txOf s p vc) [] fun _ => true

/-! ## Monitor registers (R54) -/

/-- The monitor registers of an optical engine. -/
def monOffsets : List Nat :=
  [0x000, 0x010, 0x014, 0x018, 0x01C, 0x020, 0x024, 0x028, 0x02C, 0x030, 0x034]

/-- The last value read of a monitor register, or none. -/
def monOf (s : State) (k off : Nat) : Option Nat :=
  match get s.lp.mon (4096 * k + off) with
  | 0 => none
  | v + 1 => some v

/-- MONITOR_POLL of a module. -/
def monPoll (s : State) (k : Nat) : State :=
  let s := monOffsets.foldl (fun s o => emit s (.sideband k o)) s
  setLp s { s.lp with poll := (s.lp.poll.filter fun x => x.1 != k) ++ monOffsets.map fun o => (k, o) }

/-- MONITOR_RESPONSE: a register's value; the module's time-out bit clears. -/
def monResponse (s : State) (k off v : Nat) : State :=
  if !s.lp.poll.contains (k, off) then s
  else
    let s := setLp s { s.lp with poll := s.lp.poll.filter (· != (k, off)), mon := put s.lp.mon (4096 * k + off) (v + 1) }
    wr s R.LP_STAT_MOD_MON_TMO (setBits (rd s R.LP_STAT_MOD_MON_TMO) k k 0)

/-- MONITOR_READ_TIMEOUT of a module with a read out. -/
def monTimeout (s : State) (k : Nat) : State :=
  if s.lp.poll.all fun x => x.1 != k then s
  else
    let s := setLp s { s.lp with poll := s.lp.poll.filter fun x => x.1 != k }
    wr s R.LP_STAT_MOD_MON_TMO (setBits (rd s R.LP_STAT_MOD_MON_TMO) k k 1)

/-! ## The rows' meanings -/

/-- FLIT_RECEIVE (R291, R302, R304): link, 256 bytes, result of the lane's error correction. -/
def execFlitReceive (l : Fin 32) (b : Bytes) (fec : Fin 3) (s : State) : Ans := .next (flitIn (begin s) l b fec)

/-- NAK_RECEIVE (R291): link and the LSEQ named. -/
def execNakReceive (l : Fin 32) (lseq : BitVec 16) (s : State) : Ans := .next (nakIn (begin s) l lseq.toNat)

/-- CREDIT_RETURN (R295): link and the eight counts, VC0 lowest. -/
def execCreditReturn (l : Fin 32) (c : BitVec 128) (s : State) : Ans := .next (creditIn (begin s) l c.toNat)

/-- CREDIT_RETURN_TIMER (R295). -/
def execCreditReturnTimer (l : Fin 32) (s : State) : Ans :=
  let s := begin s
  .next (if linkUp s l && (linkOf s l).freed != [] then sendCredits s l else s)

/-- INIT_RECEIVE (R296): link, highest version, whether a switch, identity, partition. -/
def execInitReceive (l : Fin 32) (ver : BitVec 8) (switch : Bool) (fid part : BitVec 16) (s : State) : Ans :=
  .next (initIn (begin s) l ver.toNat fid.toNat part.toNat switch)

/-- LINK_UP (R296): module. -/
def execLinkUp (k : Fin 9) (s : State) : Ans := .next (linkUpEffect (begin s) k)

/-- LINK_INIT_TIMEOUT (R296). -/
def execLinkInitTimeout (l : Fin 32) (s : State) : Ans :=
  let s := begin s
  .next (if (linkOf s l).phase = 1 then putLink s l LinkSt.down else s)

/-- LINK_RETRY_TIMEOUT (R291, R294). -/
def execLinkRetryTimeout (l : Fin 32) (s : State) : Ans := .next (retryTimeout (begin s) l)

/-- LANE_FAIL (R53): physical optical lane. -/
def execLaneFail (ol : Fin 36) (s : State) : Ans := .next (opticalFail (begin s) ol)

/-- MODULE_LINK_ERROR (R53). -/
def execModuleLinkError (k : Fin 9) (s : State) : Ans := .next (moduleFail (begin s) k)

/-- MODULE_NOT_READY_TIMEOUT (R53). -/
def execModuleNotReadyTimeout (k : Fin 9) (s : State) : Ans := .next (moduleFail (begin s) k)

/-- RETRAIN_DONE (R294). -/
def execRetrainDone (l : Fin 32) (s : State) : Ans := .next (retrainDone (begin s) l)

/-- LINK_DOWN (R306). -/
def execLinkDown (l : Fin 32) (s : State) : Ans := .next (nextSwap (linkDown (begin s) l))

/-- MONITOR_POLL (R54). -/
def execMonitorPoll (k : Fin 9) (s : State) : Ans := .next (monPoll (begin s) k)

/-- MONITOR_RESPONSE (R54): module, offset, value. -/
def execMonitorResponse (k : Fin 9) (off : BitVec 12) (v : BitVec 32) (s : State) : Ans :=
  .next (monResponse (begin s) k off.toNat v.toNat)

/-- MONITOR_READ_TIMEOUT (R54). -/
def execMonitorReadTimeout (k : Fin 9) (s : State) : Ans := .next (monTimeout (begin s) k)

/-- E2E_RESEND_TIMEOUT (R306). -/
def execE2eResendTimeout (p : BitVec 12) (vc : Fin 8) (s : State) : Ans := .next (streamTimeout (begin s) p.toNat vc)

end Sys2Proof.Machine
end

