-- ==== Sys2Proof/Machine/Sequencer.lean ====
section
/-! DEFINITION. Sequencer threads: STEP RUN, rows and their iterations, completion, and REPLAY (R153 to R159, R438 to
R440). -/

namespace Sys2Proof.Machine

/-! ## Bindings (R153) -/

/-- Binding entry i of a list. -/
def bindWord (b : Bytes) (i : Nat) : Nat := leAt b (8 * i) 8

/-- A binding entry read. -/
def bindingOf (v : Nat) : Binding := { obj := bits v 18 0, first := bits v 41 20, count := bits v 60 42 }

/-- A binding entry that names an existing range of a valid object, which is not the hive's (R326). -/
def bindingGood (s : State) (v : Nat) : Bool :=
  let b := bindingOf v
  bits v 63 61 == 0 && !bit v 19 && b.count != 0 && objValid s b.obj && !hiveTaken s b.obj && decide (b.first + b.count ≤ objCells (dir s b.obj))

/-! ## The end of a thread (R155) -/

/-- A STEP's completion: its command is done, with the thread and its row visits, or cancelled (R147, R148). -/
def endStep (s : State) (t : Nat) (x : Thread) : State :=
  let s := setThread s t Thread.idle
  if x.cancelled then cancelRun (noteInfo s x.queue x.idx t (x.visits % 2 ^ 32)) x.queue x.idx x.failed
  else finish s x.queue x.idx x.failed t (x.visits % 2 ^ 32)

/-- The writes of a thread that are waiting or outstanding: port (12 on for the tier ports) and granule. -/
def outWrites (s : State) (t : Nat) : List (Nat × Nat) :=
  ((List.range 12).flatMap fun n => ((mrpOf s n).reqs.filter fun r => r.write && r.owner == t).map fun r => (n, r.src)) ++
  (List.range 4).flatMap fun p => ((tierOf s p).reqs.filter fun r => r.write && r.owner == t).map fun r => (12 + p, r.addr)

/-- A write of a thread has landed: neither a row that began after it was issued nor a signal waits for it any longer (R158). -/
def writeLanded (s : State) (t : Nat) (w : Nat × Nat) : State :=
  if 8 ≤ t then s
  else
    let x := thread s t
    setThread s t { x with prior := x.prior.erase w, sigs := x.sigs.map fun c => (c.1, c.2.erase w) }

/-- The signals of rows whose own writes are visible by now (R158). -/
def giveSigs (s : State) (t : Nat) : State :=
  let x := thread s t
  let out := outWrites s t
  let due (c : Nat × List (Nat × Nat)) : Bool := c.2.all fun w => !out.contains w
  setThread ((x.sigs.filter due).foldl (fun s c => tallyAdd s c.1 1) s) t { x with sigs := x.sigs.filter fun c => !due c }

/-! ## REPLAY (R438 to R440) -/

/-- An image that REPLAY may run: STEP RUN or ROOT of its epoch. -/
def replayImageOk (e raw : Nat) : Bool :=
  wellFormedCmd raw && ((opcodeOf raw == 1 && subopOf raw == 0) || opcodeOf raw == 0x0F) && opd raw 47 0 == e

/-- A REPLAY is over: its thread, its latched inputs, the note of what it formed (R230) and what the intake held for it go. -/
def replayEnd (s : State) (t : Nat) : State :=
  let own := (s.rp.map (·.epoch)).getD 0
  let s := { s with rp := none, sch := { s.sch with replay := none, formed := s.sch.formed.filter fun y => y.1 != own } }
  setThread (intakeDiscard s 0) t Thread.idle

/-- A REPLAY fails with a code; writes already made stay (R439). -/
def replayFail (s : State) (t code : Nat) : State :=
  let x := thread s t
  finish (replayEnd s t) x.queue x.idx code 0 0

/-- The digest of a REPLAY and its completion (R440). -/
def replayDone (s : State) (t : Nat) (r : Replay) : State :=
  let x := thread s t
  let cells := r.changed.map fun c => ({ epoch := r.epoch, obj := c.1, cell := c.2, crc := crc64 (objCell s c.1 c.2) } : DigCell)
  let s := writeHist s r.epoch cells true
  finish (replayEnd s t) x.queue x.idx 0 (digestOf cells) (cells.length % 2 ^ 32)

/-- The ROOT image of a REPLAY that waits for its accesses, kept with its place. -/
def replayKeep (s : State) (root : Option (Nat × List Nat)) : State :=
  { s with rp := s.rp.map fun r => { r with root := root } }

/-- The next recorded image: a STEP fetches its bindings, a ROOT goes on until its last write is acknowledged; none left ends the REPLAY. -/
def replayNext (t : Nat) : Nat → State → State
  | 0, s => s
  | f + 1, s =>
    match s.rp with
    | none => s
    | some r =>
      match r.root, r.images with
      | some (raw, aux), _ =>
        if (thread s t).failed ≠ 0 then replayFail (rootFree s) t (thread s t).failed
        else if rootOut s then replayFail (rootFree (rootOffOut s)) t 0x0D
        else
          let p := RootPos.ofAux aux
          let g := rootGo raw true ((rootStats s raw true).drop p.k) p s
          match g.2.2 with
          | .wait => replayKeep g.1 (some (raw, g.2.1.aux))
          | .fail c => replayFail g.1 t c
          | .done =>
            if writesAcked g.1 rootOwner then replayNext t f (replayKeep (wr g.1 R.ROOT_RESID_LAST g.2.1.worst) none)
            else replayKeep g.1 (some (raw, g.2.1.aux))
      | none, [] => replayDone s t r
      | none, raw :: rest =>
        let x := thread s t
        let s := { s with rp := some { r with images := rest } }
        if opcodeOf raw = 1 then
          let b := activeBank s
          if opd raw 117 112 = 0 ∨ 16 < opd raw 117 112 ∨ (bank s b).state ≠ 4 ∨ (bank s b).rows.length ≤ opd raw 61 48 then
            replayFail s t ecDescriptor
          else
            let s := setThread s t { Thread.idle with busy := true, queue := x.queue, idx := x.idx, cmdId := x.cmdId,
                                                      epoch := r.epoch, bank := b, row := opd raw 61 48, tally0 := s.tallyVal,
                                                      replay := true, visits := x.visits }
            let s := keepRunning (dropGot s x.queue x.idx) x.queue x.idx [31, opd raw 117 112]
            hostFetch s x.queue x.idx (opd raw 109 64 * 64) (8 * opd raw 117 112)
        else if !rootOk s raw true then replayFail (rootRefuse s raw true) t ecDescriptor
        else
          let y : Thread := { x with bound := false, entered := false, ended := false, failed := 0, epoch := r.epoch }
          let s := setThread (rootForm (wakeDomain s 13) raw true) t y
          replayNext t f (replayKeep s (some (raw, (RootPos.fresh s).aux)))

/-- Images left twice over, for a ROOT takes two turns. -/
def replayTurns (s : State) : Nat := 2 * ((s.rp.map fun r => r.images.length).getD 0) + 2

/-- The REPLAY whose ROOT waited for its accesses goes on (R439). -/
def settleReplay (s : State) : State :=
  match (List.range 8).find? fun t => (thread s t).busy && (thread s t).replay with
  | some t => if (s.rp.bind (·.root)).isSome then replayNext t (replayTurns s) s else s
  | none => s

/-- A UNIQUE granule that a REPLAY reads comes back uncorrectable: its row fails with CELL_CHECK, and no ledger entry changes (R439). -/
def replayLost (s : State) (owner : Nat) : Option State :=
  match (List.range 8).find? fun t => (thread s t).busy && (thread s t).replay && (owner == t || owner == rootOwner) with
  | some t => some (failThread s t 0x0D)
  | none => none

/-- Thread t is within an ACC_LIST whose keys lie, in part, in slice n. -/
def listsOn (s : State) (n t : Nat) : Bool :=
  let y := thread s t
  let x := rowCtx s t
  let o := (rsBound s x 0).obj
  y.busy && y.entered && !y.ended && rwUnit x.row == 3 && rwUop x.row == 2 && (listSlices s o (listHdr (objRange s o 0 64))).contains n

/-- Slice n is taken out of service: an ACC_LIST that accumulates there fails its STEP, since its keys are lost (R222). -/
def outList (n : Nat) (s : State) (t : Nat) : State := if listsOn s n t then failThread s t 0x0D else s

/-- A thread with work on a slice that is out of service fails, and its requests there go (R197, R222, R462). -/
def outThread (s : State) (t : Nat) : State :=
  let out (n : Nat) : Bool := rdb s (R.SLC_STAT_OUT n) && (mrpOf s n).reqs.any fun r => r.owner == t
  if !((List.range 12).any out) then s
  else
    let s := failThread s t 0x0D
    (List.range 12).foldl (fun s n =>
      if rdb s (R.SLC_STAT_OUT n) then setMrp s n { mrpOf s n with reqs := (mrpOf s n).reqs.filter fun r => r.owner != t }
      else s) s

/-- What a thread does once it has ended and its writes are acknowledged: a STEP completes, a REPLAY goes on. -/
def settleThread (s : State) (t : Nat) : State :=
  let s := outThread s t
  let s := if (thread s t).busy then giveSigs s t else s
  let x := thread s t
  if !x.busy || !writesAcked s t then s
  else
    if !x.ended then s
    else if x.replay then
      if x.failed ≠ 0 then replayFail s t x.failed
      else
        match s.rp with
        | none => setThread s t Thread.idle
        | some _ => replayNext t (replayTurns s) s
    else drainChecks (endStep s t x)

/-- STEP RUN fetches its binding list (R153). aux 20. -/
def stepRunEffect (s : State) (q : Nat) : State :=
  match activeRun s q 1 0 with
  | none => s
  | some r =>
    if r.phase = .running then s
    else
      hostFetch (keepRunning s q r.idx [20]) q r.idx (opd r.raw 109 64 * 64) (8 * opd r.raw 117 112)

/-- The thread that a command holds takes its bindings, or its STEP fails. The command keeps the objects it binds until it retires (R105):
aux 21 and their numbers. -/
def bindThread (s : State) (t n : Nat) (b : Bytes) : State :=
  let x := thread s t
  let vs := (List.range n).map (bindWord b)
  if x.ended then s
  else if vs.all (bindingGood s) then
    setThread (keepRunning s x.queue x.idx (21 :: vs.map fun v => (bindingOf v).obj)) t { x with binds := vs.map bindingOf, bound := true }
  else settleThread (failThread s t ecDescriptor) t

/-- The binding list of a STEP is back. -/
def stepRunData (s : State) (q : Nat) (r : Run) : State :=
  let b := gotBytes s q r.idx
  let s := dropGot s q r.idx
  match threadOf s q r.idx with
  | none => s
  | some t => bindThread s t (opd r.raw 117 112) b

/-- REPLAY is judged and fetches its recorded images (R438). aux 30. -/
def replayEffect (s : State) (q : Nat) : State :=
  match activeRun s q 0x0E 0 with
  | none => s
  | some r =>
    if r.phase = .running then s
    else
      match threadOf s q r.idx with
      | none => s
      | some t =>
        let n := opd r.raw 127 112
        if !isAbsent s ∨ n = 0 then finish (setThread s t Thread.idle) q r.idx ecDescriptor 0 0
        else hostFetch (keepRunning s q r.idx [30]) q r.idx (opd r.raw 109 64 * 64) (64 * n)

/-- Every seed object with its live copy (R439). -/
def liveSeeds (s : State) : List (Nat × Bytes) := (seedObjs s).map fun o => (o, objBytesAt s o 0 32)

/-- Read data of a REPLAY is all back: its images (aux 30) or the bindings of the image that runs (aux 31). -/
def replayData (s : State) (q : Nat) (r : Run) : State :=
  let b := gotBytes s q r.idx
  let s := dropGot s q r.idx
  match threadOf s q r.idx with
  | none => s
  | some t =>
    if r.aux.headD 0 = 30 then
      let e := opd r.raw 47 0
      let ims := (List.range (opd r.raw 127 112)).map fun i => leAt b (64 * i) 64
      if !isAbsent s || !(ims.all (replayImageOk e)) then replayFail s t ecDescriptor
      else
        let s := { s with rp := some { queue := q, idx := r.idx, epoch := e, images := ims, seeds := liveSeeds s, changed := [], root := none,
                                       droop0 := (List.range 16).map fun c => get s.cnt (C.SNS_DROOP_CNT c) },
                          sch := { s.sch with replay := some (schedSet s e true), formed := s.sch.formed.filter fun y => y.1 != e } }
        replayNext t (replayTurns s) (intakeDiscard s 0)
    else bindThread s t (r.aux.getD 1 0) b

/-! ## Rows (R154, R158, R159) -/

/-- The wait condition of a row: error code to fail with, or whether it holds. Iterations are whole steps, so every
earlier micro-operation has finished (WAIT_KIND 2). -/
def rowWait (s : State) (x : Thread) (row : Nat) : Nat × Bool :=
  if rwWaitKind row = 1 then
    let c := rwWaitTally row
    if tallyErr s c ≠ 0 then (tallyErr s c, false)
    else (0, decide (min cntMax (get x.tally0 c + rwWaitDelta row) ≤ tally s c))
  else (0, true)

/-- A row's signal: once its own writes are visible. They are those among the thread's outstanding ones that it did not find there at its
entry; of a granule it shares with an earlier row the earlier write lands first. -/
def rowSignal (s : State) (t row : Nat) : State :=
  if !rwSigEn row then s
  else
    let x := thread s t
    let out := outWrites s t
    let own := x.prior.foldl List.erase out
    giveSigs (setThread s t { x with sigs := x.sigs ++ [(rwSigTally row, out.filter own.contains)] }) t

/-- A thread moves on to a row. -/
def goRow (s : State) (t n : Nat) : State :=
  setThread s t { thread s t with row := n, entered := false, iter := 0, leaves := [] }

/-- A row of a thread is complete: its cells close, a reduction's result is stored, its signal is given, and the thread
moves to the successor or ends. -/
def rowDone (s : State) (t : Nat) : State :=
  let x := thread s t
  let row := curRow s x
  let s := if rwUnit row = 1 ∧ rwUop row ≠ 1 then finishReduce s (rowCtx s t) x.leaves else s
  let s := rowSignal (closeThread s t) t row
  if rwEnd row then
    let s := goRow s t x.row
    settleThread (setThread s t { thread s t with ended := true }) t
  else goRow s t (rwNext row)

/-- The pass count of a repeat row. -/
def passOf (x : Thread) (r : Nat) : Option Nat := (x.passes.find? fun p => p.1 == r).map (·.2)

/-- One more entry to a row (R148). -/
def visit (s : State) (t : Nat) : State :=
  count (setThread s t { thread s t with visits := (thread s t).visits + 1 }) C.SEQ_ROW_VISITS

/-- A thread arrives at repeat row r (R159). -/
def repeatRow (s : State) (t row : Nat) : State :=
  let x := thread s t
  let r := x.row
  match passOf x r with
  | none =>
    let w := rowWait s x row
    if w.1 ≠ 0 then settleThread (failThread s t w.1) t
    else if !w.2 then s
    else
      let s := visit s t
      goRow (setThread s t { thread s t with passes := x.passes ++ [(r, 0)] }) t (rwNext row)
  | some n =>
    let s := visit s t
    let rest := x.passes.filter fun p => p.1 != r
    if n + 1 < rwLoop row then goRow (setThread s t { thread s t with passes := rest ++ [(r, n + 1)] }) t (rwNext row)
    else
      let s := rowSignal (setThread s t { thread s t with passes := rest, prior := [] }) t row
      if rwEnd row then settleThread (setThread s t { thread s t with ended := true }) t
      else goRow s t (r + 1)

/-- The failure of a row at its entry; SET_BAD tells a bad binding (R229). -/
def rowRefuse (s : State) (t : Nat) : State :=
  let x := rowCtx s t
  let s := if bindingOk s x.pace.e x.epoch x.replay then s else wr s R.SCH_STAT_SET_BAD 1
  settleThread (failThread s t ecDescriptor) t

/-- STEP_ROW_ENTER: thread t enters the row it stands at, once the row's wait holds (R154). -/
def rowEnterEffect (s : State) (t : Nat) : State :=
  let x := thread s t
  if !x.busy || !x.bound || x.ended || x.entered then s
  else
    let row := curRow s x
    if !slotsBound row x.binds.length then settleThread (failThread s t ecDescriptor) t
    else if rwRep row then repeatRow s t row
    else
      let w := rowWait s x row
      if w.1 ≠ 0 then settleThread (failThread s t w.1) t
      else if !w.2 then s
      else if rwUnit row = 1 ∧ slotsBound row x.binds.length ∧ scratchBusy s t then s
      else
        let g := if rwUnit row = 3 then intakeStart s t else (s, .done)
        match g.2 with
        | .wait => g.1
        | .fail c => settleThread (failThread g.1 t c) t
        | .done =>
        let s := visit g.1 t
        let s := setThread s t { thread s t with iter := 0, leaves := [], got := false, prior := outWrites s t }
        let enter (s : State) : State := setThread s t { thread s t with entered := true }
        let needs := match rwUnit row with
          | 1 => (chCodes (chainOf s x row)).any fun c => decide (17 ≤ c) && decide (c < 25)
          | 2 => rwUop row == 1
          | _ => false
        let form (s : State) : State := if needs then noteFormed s (rowCtx s t).pace.e x.epoch x.replay else s
        match rwUnit row with
        | 0 => rowDone s t
        | 1 => if rowOk s t then enter (form s) else rowRefuse s t
        | 2 => if rootRowOk s t then enter (form s) else rowRefuse s t
        | _ => enter s

/-- One iteration's outcome taken by its thread. -/
def iterEnd (r : State × IterEnd) (t : Nat) : State :=
  match r.2 with
  | .wait => r.1
  | .fail c => settleThread (failThread r.1 t c) t
  | .done =>
    let x := thread r.1 t
    let s := setThread r.1 t { x with iter := x.iter + 1, got := false }
    if x.iter + 1 < rwLoop (curRow s x) then s else rowDone s t

/-- The next iteration of thread t's entered row, when that row is UNIT u and UOP op. -/
def runIter (s : State) (t u op : Nat) : State :=
  let x := thread s t
  let row := curRow s x
  if !x.busy || !x.entered || x.ended || rwUnit row != u || rwUop row != op then s
  else
    match u, op with
    | 1, _ => iterEnd (iterate s t x.iter) t
    | 2, _ => iterEnd (rootRow s t x.iter) t
    | 3, 1 => iterEnd (accDense s t x.iter) t
    | 3, 2 => iterEnd (accList s t) t
    | 3, 3 => iterEnd (drainRowOp s t) t
    | 3, 4 => iterEnd (commitOp s t) t
    | _, _ => s

/-- A column fault found while the root unit works (R239, R473). -/
def withFault (s : State) (f : Option (Fin 4 × Fin 129)) : State :=
  match f with
  | some (a, c) => columnFail s a c
  | none => s

/-! ## The rows' meanings -/

/-- QUEUE_FETCH_DATA (R132, R135). The fetch of a CAP may end its epoch's updates. -/
def execQueueFetchData (tag : BitVec 12) (stat : BitVec 2) (data : Bytes) (s : State) : Ans :=
  .next (drainChecks (queueFetchDataEffect (begin s) tag.toNat stat.toNat data))

/-- STEP_RUN (R153). -/
def execStepRun (q : Fin 16) (s : State) : Ans := .next (stepRunEffect (begin s) q)

/-- STEP_LOAD (R162). -/
def execStepLoad (q : Fin 16) (s : State) : Ans := .next (loadEffect (begin s) q false)

/-- STEP_UCODE (R162). -/
def execStepUcode (q : Fin 16) (s : State) : Ans := .next (loadEffect (begin s) q true)

/-- REPLAY (R438, R439). -/
def execReplay (q : Fin 16) (s : State) : Ans := .next (replayEffect (begin s) q)

/-- ROOT (R244). -/
def execRoot (q : Fin 16) (f : Option (Fin 4 × Fin 129)) (s : State) : Ans :=
  .next (drainChecks (rootEffect (withFault (begin s) f) q))

/-- STEP_ROW_ENTER (R154, R159). -/
def execStepRowEnter (t : Fin 8) (s : State) : Ans := .next (rowEnterEffect (begin s) t)

/-- MAP (R174). -/
def execMap (t : Fin 8) (s : State) : Ans := .next (runIter (begin s) t 1 1)

/-- REDUCE_LINE (R191). -/
def execReduceLine (t : Fin 8) (s : State) : Ans := .next (runIter (begin s) t 1 2)

/-- REDUCE_ALL (R191). -/
def execReduceAll (t : Fin 8) (s : State) : Ans := .next (runIter (begin s) t 1 3)

/-- STAT (R242). -/
def execStat (t : Fin 8) (f : Option (Fin 4 × Fin 129)) (s : State) : Ans := .next (runIter (withFault (begin s) f) t 2 1)

/-- APPLY (R243). -/
def execApply (t : Fin 8) (f : Option (Fin 4 × Fin 129)) (s : State) : Ans := .next (runIter (withFault (begin s) f) t 2 2)

/-- ACC_DENSE (R203). -/
def execAccDense (t : Fin 8) (s : State) : Ans := .next (runIter (begin s) t 3 1)

/-- ACC_LIST (R208). -/
def execAccList (t : Fin 8) (s : State) : Ans := .next (runIter (begin s) t 3 2)

/-- INTAKE_DRAIN (R212). -/
def execIntakeDrain (t : Fin 8) (s : State) : Ans := .next (runIter (begin s) t 3 3)

/-- COMMIT (R215, R217). -/
def execCommit (t : Fin 8) (s : State) : Ans := .next (runIter (begin s) t 3 4)

/-- LOG_RESERVATION: the iteration of thread t that waits for room in the log is tried again (R21, R268). -/
def execLogReservation (t : Fin 8) (s : State) : Ans :=
  let s := begin s
  let row := curRow s (thread s t)
  .next (runIter s t (rwUnit row) (rwUop row))

end Sys2Proof.Machine
end

