-- ==== Sys2Proof/Machine/Ports.lean ====
section
/-! DEFINITION. Answers on the block's ports: memory request ports, per-slice reset, tier ports, the initiator's reads, and credits
(R37, R43 to R50, R56, R388 to R395, R462). -/

namespace Sys2Proof.Machine

/-! ## What goes on once a write is acknowledged -/

/-- KX2C_FLUSH reads 0 again once every page it waits for is written back (R539). -/
def settleKx (s : State) : State :=
  if s.chip.flush ≠ [] ∧ (s.chip.flush.all fun i => get s.pool.wb i == 0 && !imDirty (image s i)) then
    wr { s with chip := { s.chip with flush := [] } } R.KX2C_FLUSH 0
  else s

/-- The IMAGE FLUSH commands that wait. -/
def settleFlushes (s : State) : State :=
  (List.range 16).foldl (fun s q =>
    match activeRun s q 4 2 with
    | some r => if r.phase = .running then settleFlush s q r else s
    | none => s) s

/-- The ROOT commands that wait, and a REPLAY's. -/
def settleRoots (s : State) : State :=
  (List.range 16).foldl (fun s q =>
    match activeRun s q 0x0F 0 with
    | some r => if r.phase = .running then rootEffect s q else s
    | none => s) (settleReplay s)

/-- What a unit does once its accesses are answered; a MOVE may wait for any unit's reads, and an acknowledged write may let a flit be
accepted (R115, R305). -/
def settleOwner (s : State) (owner : Nat) : State :=
  let s := if owner < 8 then settleThread s owner
    else if owner = 18 then homeSettle s
    else if owner = 20 then settleRoots s
    else if owner = 21 then sealSettle (sealArrived s)
    else if owner = 23 then serveSettle s
    else if owner = 24 then loadSettle s
    else if owner = 26 then cellReadsBack s
    else if owner = 27 then settleFirsts s
    else if 100 ≤ owner ∧ owner < 113 then settleCopy s owner
    else if 114 ≤ owner ∧ owner < 126 then settleScrub s (owner - 114)
    else if 32 ≤ owner ∧ owner < 96 then settleMove s (owner - 32)
    else if 128 ≤ owner ∧ owner < 2 ^ 19 then
      let i := owner - 128
      let s := settleKx (settleFlushes (settleDrop (settleBack (settleCache (settleFill s i) i) i) i))
      (List.range 4).foldl (fun s k => settleStream k 64 s) s
    else if 2 ^ 40 ≤ owner then windowSettle s owner
    else if 2 ^ 20 ≤ owner then drainAcks s
    else s
  rbAdvance (drainChecks (settleRx (resumeUnits s)))

/-! ## Memory request ports (R46 to R50) -/

/-- The issued request an answer names, and the port without it. -/
def memAnswered (s : State) (n tag : Nat) (write : Bool) : Option (MemReq × State) :=
  let x := mrpOf s n
  match x.reqs.find? fun r => r.issued && r.write == write && r.tag == tag with
  | none => none
  | some r => some (r, setMrp s n { x with reqs := x.reqs.filter fun y => !(y.issued && y.write == write && y.tag == tag) })

/-- A granule that came back uncorrectable, at byte a of stack st as the block addresses it, for a unit: the range fails, and the cell
is handled by what it belongs to (R389, R394, R395). -/
def granuleLost (s : State) (owner st a : Nat) : State :=
  let s := rangeFails (copyBad s owner) st a 1
  let s := if 2 ^ 40 ≤ owner then windowLost s owner else if owner = hiveOwner then homeLost s st a else s
  match slotUse s st (a / cellSize) with
  | .data d => (replayLost s owner).getD (if d < rd s R.CMB_DATA_CELLS then suspectData s d else s)
  | .par p => suspectPar s p
  | .ledger => ledgerLost s st (a - rd s R.CMB_LEDGER_BASE * cellSize)
  | .plain o c => lostCell s owner o c
  | .img i => if owner < 8 then failThread s owner 0x0D else dropImage s i
  | .other =>
    -- a SCALE mirror granule is refetched from another member's mirror (R395, notes/assumptions/84)
    if inRegion (a / cellSize) (rd s R.CMB_SCALE_BASE) (mirrorGroups s / 256) then memWrite s hlOwner false st a (hbRead s st a 64) else s
  | .none => s

/-- A corrected granule is written back to its address with PRIO, unless a write of it is queued (R388). -/
def writeBackGran (s : State) (n gran src : Nat) : State :=
  let x := mrpOf s n
  if x.reqs.any fun r => r.write && !r.issued && decide (r.gran ≤ gran) && decide (gran < r.gran + r.n) then s
  else
    countN (setMrp s n { x with reqs := x.reqs ++
      [{ tag := 0, gran := gran, src := src, n := 1, write := true, prio := true, owner := hlOwner, issued := false, old := [] }] })
      (C.SLC_WR_GRAN n) 1

/-- A granule the stack has returned: what it holds there, unless a write has reached the granule since the read went out. -/
def granuleData (s : State) (n : Nat) (r : MemReq) (g : Nat) (b : Bytes) : State :=
  let gran := r.gran + g
  if r.old.contains gran || (mrpOf s n).reqs.any fun y => y.write && decide (y.gran ≤ gran) && decide (gran < y.gran + y.n) then s
  else { s with hbm := mwrite s.hbm (n * 2 ^ 37 + gran * 64) b }

/-- An uncorrectable granule is a failure a forager finds: a coded cell counts once, as it becomes SUSPECT (R389, R396). -/
def foragerFinds (s : State) (owner st a : Nat) : Bool :=
  decide (114 ≤ owner) && decide (owner < 126) &&
    match slotUse s st (a / cellSize) with
    | .data d => !lSuspect (ledger s d)
    | .par p => !lSuspect (ledgerP s p)
    | _ => true

/-- Granule g of a read with its two status bits and its place in DATA (R45, R47, R388). -/
def granuleIn (n : Nat) (r : MemReq) (stat : Nat) (data : Bytes) (s : State) (g : Nat) : State :=
  let st := (r.src + g) / 2 ^ 31
  let a := (r.src + g) % 2 ^ 31 * 64
  let b := slice data (64 * g) 64
  match bits stat (2 * g + 1) (2 * g) with
  | 0 => granuleData s n r g b
  | 1 =>
    let s := granuleData s n r g b
    writeBackGran (noteCorrected (count s (C.SLC_ECC_CORR n)) st a) n (r.gran + g) (r.src + g)
  | _ =>
    let s := count s (C.SLC_ECC_UNCORR n)
    granuleLost (if foragerFinds s r.owner st a then count s (C.SCRB_FIND n) else s) r.owner st a

/-- MRP_READ_DATA: the read named by the tag is answered. -/
def memReadData (s : State) (n tag stat : Nat) (data : Bytes) : State :=
  match memAnswered s n tag false with
  | none => s
  | some (r, s) =>
    let s := (List.range r.n).foldl (granuleIn n r stat data) s
    settleOwner (pumpMrp s n) r.owner

/-- A write has landed: the outstanding reads of its granules may still bring the contents before it. -/
def markOld (x : Mrp) (w : MemReq) : Mrp :=
  { x with reqs := x.reqs.map fun r =>
      if r.write || !r.issued then r
      else { r with old := r.old ++ (List.range w.n).filterMap fun i =>
          if r.gran ≤ w.gran + i ∧ w.gran + i < r.gran + r.n then some (w.gran + i) else none } }

/-- MRP_WRITE_RESPONSE: the write named by the tag has landed. -/
def memWriteDone (s : State) (n tag : Nat) : State :=
  match memAnswered s n tag true with
  | none => s
  | some (r, s) =>
    let s := writeLanded (setMrp s n (markOld (mrpOf s n) r)) r.owner (n, r.src)
    let s := retryWindows (settleOwner (pumpMrp s n) r.owner)
    returnHeld s.lp.heldCred.length s

/-- MRP_READY rises with the stack's capacity and kind, or falls; up also says how many cycles it was low (R50, R543). -/
def memReady (s : State) (n : Nat) (up hbm4 : Bool) (cap cycles : Nat) : State :=
  let was := rdb s (R.SLC_STAT_READY n)
  let s := wr (wr s (R.SLC_STAT_READY n) (b2n up)) (R.SLC_STAT_HBM4 n) (b2n hbm4)
  if up && !was then pumpMrp (countN (wr s (R.SLC_CAP n) cap) (C.SLC_NOTREADY n) cycles) n else s

/-- Per-slice resets of slice n that began within the last second. -/
def recentResets (s : State) (n : Nat) : Nat :=
  (s.hl.slcRst.filter fun x => x.1 == n && decide (rd s R.TIME_TOD < x.2 + 10 ^ 9)).length

/-- MRP_PORT_TIMEOUT: the outstanding granules count as uncorrectable, the slice goes out of service, and a slice-fault event says
so (R50, R197, R462). A port with nothing outstanding has no time-out. -/
def memTimeout (s : State) (n : Nat) : State :=
  let x := mrpOf s n
  let out := x.reqs.filter (·.issued)
  if out = [] then s
  else
    let s := (List.range 8).foldl (outList n) s
    let s := wr (wr s (R.SLC_STAT_PORT_TMO n) 1) (R.SLC_STAT_OUT n) 1
    let s := (List.range 8).foldl outThread s
    let x := mrpOf s n
    let s := setMrp s n { x with reqs := x.reqs.filter (!·.issued) }
    let s := out.foldl (fun s r => (List.range r.n).foldl (granuleIn n r 0xFF []) s) s
    let s := setHl s { s.hl with slcRst := s.hl.slcRst ++ [(n, rd s R.TIME_TOD)] }
    let s := unitError s ecCellCheck (0x20 + n) n 0
    ((out.map (·.owner)).eraseDups).foldl settleOwner s

/-- What a per-slice reset clears: scratch, the slice's accumulator, its page's live counters, and what sources staged there (R460, R511, R515). -/
def clearSlice (s : State) (n : Nat) : State :=
  let s := { s with seq := { s.seq with scratch := dropKeys s.seq.scratch fun k => k / 2 ^ 21 == n },
                    cnt := dropKeys s.cnt fun k => k / 2 ^ 12 == 0x20 + n, acc := keepPages (· != 0x20 + n) s.acc }
  let s := setIntk s { s.intk with keys := s.intk.keys.filter fun k => k.slice != n }
  wr s (R.SLC_ACC_USED n) 0

/-- SLICE_RESET_DONE: the slice returns to service, or stays out after too many resets within 1 s, when the member declares itself
lost (R462). -/
def sliceResetDone (s : State) (n : Nat) : State :=
  if !rdb s (R.SLC_STAT_OUT n) then s
  else
    let s := count (clearSlice s n) C.GEN_SLCRST
    if rd s R.GEN_SLC_RST_MAX ≤ recentResets s n then sendDeclareSelf (setDisabled s n true)
    else rbAdvance (capResume (pumpMrp (wr s (R.SLC_STAT_OUT n) 0) n))

/-! ## Tier ports (R56) -/

/-- An answered tier write leaves the fences that wait for it (R321). -/
def fenceTier (s : State) (p tag : Nat) : State :=
  settleFences { s with fences := s.fences.map fun f => { f with tiers := f.tiers.filter (· != (p, tag)) } }

/-- A tier read is lost: the seal's own reads fail as R415 to R422 say, the rest by the class of the object. -/
def tierReadLost (s : State) (p : Nat) (r : TierReq) : State :=
  if r.owner = storeOwner then serveFailed s
  else if r.owner = loadOwner then loadFailed s (boardSlotOf s p r.addr)
  else tierLost (if 2 ^ 40 ≤ r.owner then windowLost s r.owner else s) p r

/-- TIER_READ_DATA: status 0 clean, else lost data (R56). -/
def tierRead (s : State) (p tag stat load : Nat) : State :=
  match tierAnswered s p tag false with
  | none => s
  | some (r, s) =>
    let s := noteLoad s p load
    let s := if stat = 0 then s else tierReadLost (count s C.TIER_POISON) p r
    settleOwner s r.owner

/-- A tier write failed. -/
def tierWriteLost (s : State) (p : Nat) (r : TierReq) : State :=
  if r.owner = spineOwner then sealWriteFailed s else tierWriteFailed s p r

/-- TIER_WRITE_COMPLETION. -/
def tierWritten (s : State) (p tag stat load : Nat) : State :=
  match tierAnswered s p tag true with
  | none => s
  | some (r, s) =>
    let s := noteLoad s p load
    let s := if stat = 0 then s else tierWriteLost s p r
    settleOwner (writeLanded (fenceTier s p tag) r.owner (12 + p, r.addr)) r.owner

/-- TIER_TIMEOUT of a request. -/
def tierTimeout (s : State) (p tag : Nat) (write : Bool) : State :=
  match tierAnswered s p tag write with
  | none => s
  | some (r, s) =>
    let s := count s C.TIER_TMO
    if write then settleOwner (writeLanded (fenceTier (tierWriteLost s p r) p tag) r.owner (12 + p, r.addr)) r.owner
    else settleOwner (tierReadLost s p r) r.owner

/-! ## The initiator's reads (R43) -/

/-- A command whose read met a network error fails with DESCRIPTOR. -/
def readFail (s : State) (q : Nat) (r : Run) : State :=
  let s := dropGot s q r.idx
  let t := threadOf s q r.idx
  match opcodeOf r.raw, subopOf r.raw with
  | 1, 0 =>
    match t with
    | some t => settleThread (failThread s t ecDescriptor) t
    | none => finish s q r.idx ecDescriptor 0 0
  | 1, 1 => loadFail s q r.idx ecDescriptor false (loadHdr r)
  | 1, 2 => loadFail s q r.idx ecDescriptor true (loadHdr r)
  | 0x0E, _ =>
    match t with
    | some t => replayFail s t ecDescriptor
    | none => finish s q r.idx ecDescriptor 0 0
  | _, _ => finish s q r.idx ecDescriptor 0 0

/-- A command's reads are all back. -/
def readsDone (s : State) (q : Nat) (r : Run) : State :=
  match opcodeOf r.raw, subopOf r.raw with
  | 1, 0 => stepRunData s q r
  | 1, 1 => loadData s q r false
  | 1, 2 => loadData s q r true
  | 0x0E, _ => replayData s q r
  | 0x0A, _ => joinData s q r
  | _, _ => s

/-- INITIATOR_READ_DATA: data of a read made for a command. -/
def initiatorRead (s : State) (tag stat : Nat) (data : Bytes) : State :=
  match readData s tag stat data with
  | none => s
  | some (h, s) =>
    let s := pumpHost s
    match findRun s h.queue h.idx with
    | none => dropGot s h.queue h.idx
    | some r =>
      if r.phase = .done then dropGot s h.queue h.idx
      else if stat ≠ 0 then
        let s := setHost s { s.host with reads := s.host.reads.filter fun y => y.issued || !(y.queue == h.queue && y.idx == h.idx) }
        readFail s h.queue r
      else if readsBack s h.queue h.idx then readsDone s h.queue r
      else s

/-! ## Credits (R37) -/

/-- A credit pulse of channel ch: 0 AREQ, 1 AWD, 2 to 4 RRQ, WRQ and WD of port n, 5 and 6 RQ and WD of tier port n. What waits for it goes
out. -/
def portCredit (s : State) (ch n : Nat) : State :=
  match ch with
  | 0 => pumpHost (setHost s { s.host with areq := s.host.areq + 1 })
  | 1 => pumpHost (setHost s { s.host with awd := s.host.awd + 1 })
  | 2 => pumpMrp (setMrp s n { mrpOf s n with rrq := (mrpOf s n).rrq + 1 }) n
  | 3 => pumpMrp (setMrp s n { mrpOf s n with wrq := (mrpOf s n).wrq + 1 }) n
  | 4 => pumpMrp (setMrp s n { mrpOf s n with wd := (mrpOf s n).wd + 1 }) n
  | 5 => pumpTier (setTier s n { tierOf s n with rq := (tierOf s n).rq + 1 }) n
  | 6 => pumpTier (setTier s n { tierOf s n with wd := (tierOf s n).wd + 1 }) n
  | _ => s

/-! ## The rows' meanings -/

/-- MRP_READ_DATA (R45 to R47): port, tag, two status bits a granule, and DATA. -/
def execMrpReadData (n : Fin 12) (tag : BitVec 10) (x : ReadBeats) (s : State) : Ans :=
  .next (memReadData (begin s) n tag.toNat x.stat.toNat (leBytes 256 x.data.toNat))

/-- MRP_WRITE_RESPONSE (R46): port and tag. -/
def execMrpWriteResponse (n : Fin 12) (tag : BitVec 10) (s : State) : Ans := .next (memWriteDone (begin s) n tag.toNat)

/-- MRP_READY (R50): port, level, MRPn_TYPE, MRPn_CAP, and the cycles READY was low when it rises. -/
def execMrpReady (n : Fin 12) (up hbm4 : Bool) (cap : BitVec 6) (cycles : BitVec 64) (s : State) : Ans :=
  .next (memReady (begin s) n up hbm4 cap.toNat cycles.toNat)

/-- MRP_PORT_TIMEOUT (R50). -/
def execMrpPortTimeout (n : Fin 12) (s : State) : Ans := .next (memTimeout (begin s) n)

/-- SLICE_RESET_DONE (R462). -/
def execSliceResetDone (n : Fin 12) (s : State) : Ans := .next (sliceResetDone (begin s) n)

/-- TIER_READ_DATA (R56): port, tag, STAT and the load indication. -/
def execTierReadData (p : Fin 4) (tag : BitVec 10) (stat load : BitVec 2) (s : State) : Ans :=
  .next (tierRead (begin s) p tag.toNat stat.toNat load.toNat)

/-- TIER_WRITE_COMPLETION (R56): port, tag, STAT and the load indication. -/
def execTierWriteCompletion (p : Fin 4) (tag : BitVec 10) (stat load : BitVec 2) (s : State) : Ans :=
  .next (tierWritten (begin s) p tag.toNat stat.toNat load.toNat)

/-- TIER_TIMEOUT (R56): port, tag, and whether it is a write's. -/
def execTierTimeout (p : Fin 4) (tag : BitVec 10) (write : Bool) (s : State) : Ans :=
  .next (tierTimeout (begin s) p tag.toNat write)

/-- INITIATOR_READ_DATA (R43): tag, STAT and data. -/
def execInitiatorReadData (tag : BitVec 12) (stat : BitVec 2) (data : Bytes) (s : State) : Ans :=
  .next (initiatorRead (begin s) tag.toNat stat.toNat data)

/-- PORT_CREDIT_RETURN (R37): channel 0 AREQ, 1 AWD, 2 RRQ, 3 WRQ, 4 WD, 5 RQ, 6 tier WD; and the port. -/
def execPortCreditReturn (ch : Fin 7) (n : Fin 12) (s : State) : Ans := .next (portCredit (begin s) ch n)

end Sys2Proof.Machine
end

