-- ==== Sys2Proof/Machine/Time.lean ====
section
/-! DEFINITION. The AON_CLK edge: time of day, TIME_OFFSET, the snapshot strobe and its causes (R442 to R447), and the conditioned
inputs (R467 to R470). -/

namespace Sys2Proof.Machine

/-! ## The strobe (R444 to R446) -/

/-- TIME_TOD with its fraction one edge on, in units of 2⁻³² ns (R442). -/
def nextTime (s : State) : Nat :=
  ((rd s R.TIME_TOD * 2 ^ 32 + s.chip.frac + unsigned 97 (40 * 2 ^ 32 + signed 32 (rd s R.TIME_RATE)))) % 2 ^ 96

/-- The strobe fires at time t with its cause bits: shadows, stamp, sequence number, and the SNAP commands it completes (R445). -/
def strobe (s : State) (t causes : Nat) : State :=
  let n := (rd s R.SNP_SEQ + 1) % 2 ^ 32
  let s := wr (wr (wr { s with shadow := s.cnt } R.SNP_TOD t) R.SNP_SEQ n) R.SNP_STAT causes
  let s := if bit causes 0 then wr s R.SNP_CTRL_STROBE 0 else s
  let done := s.chip.snaps
  done.foldl (fun s c => finish s c.1 c.2 0 n t) (setChip s { s.chip with snaps := [], causes := 0, deferred := 0 })

/-- The timed causes due at time t: the armed time, and the time of the SNAP that holds the timer (R444). -/
def timedCauses (s : State) (t : Nat) : Nat :=
  (if rdb s R.SNP_CTRL_ARM && decide (rd s R.SNP_AT ≤ t) then 4 + at' (b2n s.chip.armLate) 4 else 0) |||
  (match s.chip.timer with
    | some x => if x.time ≤ t then 8 + at' (b2n x.late) 4 else 0
    | none => 0)

/-- Timed causes that have come let go of ARM and of the timer. -/
def takeTimed (s : State) (t : Nat) : State :=
  let s := if rdb s R.SNP_CTRL_ARM && decide (rd s R.SNP_AT ≤ t) then
      setChip (wr s R.SNP_CTRL_ARM 0) { s.chip with armLate := false } else s
  match s.chip.timer with
  | some x => if x.time ≤ t then setChip s { s.chip with timer := none, snaps := s.chip.snaps ++ [(x.queue, x.idx)] } else s
  | none => s

/-- The causes of this edge fire a strobe, or are kept while HOLD is 1: the first deferred cause is kept, and later ones merge into
it (R446). -/
def edgeStrobe (s : State) (t : Nat) : State :=
  let c := s.chip.causes ||| timedCauses s t
  let s := takeTimed s t
  if rdb s R.SNP_CTRL_HOLD then
    let merged := if s.chip.deferred = 0 then popc 4 c - 1 else popc 4 c
    setChip (countN s C.SNP_MISSED merged) { s.chip with causes := 0, deferred := s.chip.deferred ||| c }
  else if c ||| s.chip.deferred = 0 then s
  else strobe s t (c ||| s.chip.deferred ||| (if s.chip.deferred = 0 then 0 else 32))

/-- A lockout's seconds left, 25,000,000 edges each (R485). -/
def lockEdge (s : State) : State :=
  if !rdb s R.ROLE_STAT_LOCKED then s
  else
    let n := s.ses.lockEdges + 1
    let s := if n % 25000000 = 0 then wr s R.ROLE_LOCK_LEFT (rd s R.ROLE_LOCK_LEFT - 1) else s
    { s with ses := { s.ses with lockEdges := n } }

/-- One AON_CLK rising edge: TIME_TOD advances by INC, the strobe fires or waits, and then the sum of the TIME_OFFSET writes since the
last edge is added (R442 to R447). -/
def aonEdge (s : State) : State :=
  let v := nextTime s
  let t := v / 2 ^ 32
  let s := wr (setChip s { s.chip with frac := v % 2 ^ 32 }) R.TIME_TOD t
  let s := lockEdge (edgeStrobe s t)
  if s.chip.stepOn then
    let d := s.chip.step
    let s := if 2 ^ 63 ≤ d then wr s R.TIME_STAT_BACK 1 else s
    setChip (wr s R.TIME_TOD ((t + d) % 2 ^ 64)) { s.chip with step := 0, stepOn := false }
  else s

/-- What a step does with no command waiting: an edge passes. -/
def idleEdge (s : State) : State := aonEdge (begin s)

/-- The edge at which something acts, when it comes before the next command. -/
def withEdge (edge : Bool) (s : State) : State := if edge then aonEdge s else s

/-- A strobe cause occurs. -/
def addCause (s : State) (c : Nat) : State := setChip s { s.chip with causes := s.chip.causes ||| c }

/-- SNP_CTRL.STROBE written as 1; while it reads 1 a further 1 is ignored (R444, R506). -/
def strobeWrite (s : State) : State :=
  if rdb s R.SNP_CTRL_STROBE then s else addCause (wr s R.SNP_CTRL_STROBE 1) 1

/-- SNAP with SUBOP 0. -/
def snapNow (s : State) (q : Nat) : State :=
  match activeRun s q 0x0D 0 with
  | none => s
  | some r =>
    if r.phase = .running then s
    else
      let s := addCause (keepRunning s q r.idx [1]) 8
      setChip s { s.chip with snaps := s.chip.snaps ++ [(q, r.idx)] }

/-- SNAP with SUBOP 1 takes the timer; it waits while ARM is 1 or another holds it. -/
def snapAt (s : State) (q : Nat) : State :=
  match activeRun s q 0x0D 1 with
  | none => s
  | some r =>
    if r.phase = .running ∨ rdb s R.SNP_CTRL_ARM ∨ s.chip.timer.isSome then s
    else
      let t := opd r.raw 63 0
      setChip (keepRunning s q r.idx [1])
        { s.chip with timer := some { queue := q, idx := r.idx, time := t, late := decide (t ≤ rd s R.TIME_TOD) } }

/-- TIME_OFFSET written: the value joins the sum of the next edge, and HOLDOVER clears (R443, R525). -/
def offsetWrite (s : State) (v : Nat) : State :=
  wr (setChip s { s.chip with step := (s.chip.step + v) % 2 ^ 64, stepOn := true }) R.TIME_STAT_HOLDOVER 0

/-- SNP_CTRL.HOLD, ARM and SNP_AT as a write leaves them: an armed time that has passed marks the strobe late (R444). -/
def noteArm (s : State) : State :=
  setChip s { s.chip with armLate := rdb s R.SNP_CTRL_ARM && decide (rd s R.SNP_AT ≤ rd s R.TIME_TOD) }

/-! ## Conditioned inputs (R467 to R470): 0 THERM_IN, 1 BRD_ALERT_IN, 2 SNAP_IN -/

/-- The three inputs' state. -/
def pinOf (s : State) (i : Nat) : Pin := s.chip.pins.getD i { told := false, last := 0 }

/-- Bit i of a PIN_STAT field set. -/
def setPin (s : State) (k i : Nat) (b : Bool) : State := wr s k (setBits (rd s k) i i (b2n b))

/-- The level the block takes for an input (R468, R469). -/
def pinTaken (s : State) (i : Nat) : Bool :=
  let fast := bit (rd s R.PIN_STAT_OVERRATE) i
  let stuck := bit (rd s R.PIN_STAT_STUCK) i
  let level := bit (rd s R.PIN_STAT_LEVEL) i
  if i < 2 then fast || stuck || level else level && !stuck

/-- TAKEN made anew, and with it the thermal limit: D is at or below PWR_THERM_DUTY while THERM_IN is taken as asserted (R459). -/
def notePin (s : State) (i : Nat) : State :=
  let s := setPin s R.PIN_STAT_TAKEN i (pinTaken s i)
  if i ≠ 0 then s
  else if pinTaken s 0 then
    wr (wr s R.PWR_STAT_THERM 1) R.PWR_STAT_DUTY (min (rd s R.PWR_STAT_DUTY) (max 1 (rd s R.PWR_THERM_DUTY)))
  else wr s R.PWR_STAT_THERM 0

/-- A record of an input whose OVERRATE or STUCK has set (R469). -/
def pinRec (s : State) (i : Nat) : State := unitError s 0 0x1C i 0

/-- An event of an input is taken: counted, told, and for SNAP_IN a strobe cause. -/
def pinEvent (s : State) (i : Nat) (level : Bool) : State :=
  let s := setChip s { s.chip with pins := s.chip.pins.set i { told := level, last := rd s R.TIME_TOD + 1 } }
  let s := count s (C.PIN_EVT_CNT i)
  if i = 2 then addCause s 2 else s

/-- A change of an input's filtered level (R467). A falling SNAP_IN is no event; an event of a stuck input stops; one within PIN_RATE
of the last, or while OVERRATE is set, is suppressed (R468). -/
def pinChange (s : State) (i : Nat) (level : Bool) : State :=
  if bit (rd s R.PIN_STAT_LEVEL) i == level then s
  else
    let s := setPin s R.PIN_STAT_LEVEL i level
    let p := pinOf s i
    let fast := bit (rd s R.PIN_STAT_OVERRATE) i
    if bit (rd s R.PIN_STAT_STUCK) i then notePin s i
    else if i = 2 ∧ !level then
      notePin (setChip s { s.chip with pins := s.chip.pins.set 2 { p with told := false } }) i
    else if fast ∨ (p.last ≠ 0 ∧ rd s R.TIME_TOD < p.last - 1 + 1000 * rd s R.PIN_RATE) then
      let s := count (setPin s R.PIN_STAT_OVERRATE i true) (C.PIN_OVR_CNT i)
      notePin (if fast then s else pinRec s i) i
    else notePin (pinEvent s i level) i

/-- PIN_OVERRATE_CLEAR: a level that differs from the one last told is one event (R468). -/
def overrateClear (s : State) (i : Nat) : State :=
  if !bit (rd s R.PIN_STAT_OVERRATE) i then s
  else
    let s := setPin s R.PIN_STAT_OVERRATE i false
    let level := bit (rd s R.PIN_STAT_LEVEL) i
    let s := if level != (pinOf s i).told && !bit (rd s R.PIN_STAT_STUCK) i && (i != 2 || level) then pinEvent s i level else s
    notePin s i

/-- PIN_STUCK of an asserted input (R469). -/
def pinStuck (s : State) (i : Nat) : State :=
  if !bit (rd s R.PIN_STAT_LEVEL) i || bit (rd s R.PIN_STAT_STUCK) i then s
  else notePin (pinRec (setPin s R.PIN_STAT_STUCK i true) i) i

/-- PIN_STUCK_CLEAR of a de-asserted input (R469). -/
def stuckClear (s : State) (i : Nat) : State :=
  if bit (rd s R.PIN_STAT_LEVEL) i || !bit (rd s R.PIN_STAT_STUCK) i then s
  else notePin (setPin s R.PIN_STAT_STUCK i false) i

/-! ## The rows' meanings -/

/-- SNAP_NOW (R444, R445): queue, and whether the edge comes before the next command. -/
def execSnapNow (q : Fin 16) (edge : Bool) (s : State) : Ans := .next (withEdge edge (snapNow (begin s) q))

/-- SNAP_AT_TIME (R444). -/
def execSnapAtTime (q : Fin 16) (s : State) : Ans := .next (snapAt (begin s) q)

/-- TIMED_STROBE (R444): the edge at which TIME_TOD reaches a timed strobe's time. -/
def execTimedStrobe (s : State) : Ans := .next (aonEdge (begin s))

/-- THERM_IN_EVENT (R467, R468): a change of the filtered level. -/
def execThermInEvent (asserted : Bool) (s : State) : Ans := .next (pinChange (begin s) 0 asserted)

/-- BRD_ALERT_EVENT (R467, R468). -/
def execBrdAlertEvent (asserted : Bool) (s : State) : Ans := .next (pinChange (begin s) 1 asserted)

/-- SNAP_IN_EDGE (R444, R467): a change of the filtered level, and whether the edge comes before the next command. -/
def execSnapInEdge (asserted edge : Bool) (s : State) : Ans := .next (withEdge edge (pinChange (begin s) 2 asserted))

/-- PIN_OVERRATE_CLEAR (R468). -/
def execPinOverrateClear (pin : Fin 3) (s : State) : Ans := .next (overrateClear (begin s) pin)

/-- PIN_STUCK (R469). -/
def execPinStuck (pin : Fin 3) (s : State) : Ans := .next (pinStuck (begin s) pin)

/-- PIN_STUCK_CLEAR (R469). -/
def execPinStuckClear (pin : Fin 3) (s : State) : Ans := .next (stuckClear (begin s) pin)

end Sys2Proof.Machine
end

