-- ==== Sys2Proof/Machine/Roles.lean ====
section
/-! DEFINITION. Sessions, the installer's keys, and the test access port (R65, R480 to R497). -/

namespace Sys2Proof.Machine

/-- The state with the session unit's own state changed. -/
def setSes (s : State) (x : Session) : State := { s with ses := x }

/-- SRC of an audit entry the block makes for itself (R493). -/
def selfSrc : Nat := 0xFFFF

/-- The instruction register of the test access port and the data register it selects (R65). -/
def setTap (s : State) (ir tdo : Nat) : State := { s with chip := { s.chip with ir := ir, tdo := tdo } }

/-! ## Sessions (R483 to R486) -/

/-- Without a maker session every instruction but IDCODE selects BYPASS (R65). -/
def tapClosed (s : State) : State := if s.chip.ir = 1 then s else setTap s 0xFF 0

/-- An open session closes with a cause; its entry names the source whose act it is. -/
def closeSession (s : State) (src cause : Nat) : State :=
  if !rdb s R.ROLE_STAT_OPEN then s
  else
    let s := audit s 4 0 src (auditRole s src) 0 cause 0
    tapClosed (wr (wr (wr s R.ROLE_STAT_OPEN 0) R.ROLE_STAT_ROLE 0) R.ROLE_STAT_SRC 0)

/-- The pending challenge lapses. -/
def lapse (s : State) : State :=
  if rdb s R.ROLE_STAT_PENDING then wr (wr s R.ROLE_STAT_PENDING 0) R.ROLE_STAT_SRC 0 else s

/-- A refused REQ, or a failed response: its entry (R493). -/
def roleFail (s : State) (src role stat : Nat) : State :=
  audit s 3 0 src (auditRole s src) stat (rd s R.ROLE_CNT) role

/-- ROLE_CTRL.REQ from a source, for the role in ROLE_CTRL.ROLE, with the register before the write and the data
written (R483 to R485). A refused REQ still ends a pending challenge (R484). The entry of a REQ that is accepted has the KIND of a register write (DESIGN CHOICE, notes/assumptions/59). -/
def roleReq (s : State) (src old new : Nat) : State × Nat :=
  let role := rd s R.ROLE_CTRL_ROLE
  if rdb s R.ROLE_STAT_LOCKED then (roleFail (lapse s) src role ecRights, ecRights)
  else if role = 0 ∨ role = 3 ∨ rdb s R.ROLE_STAT_OPEN ∨ rdb s R.ROLE_STAT_PENDING then
    (roleFail (lapse s) src role ecDescriptor, ecDescriptor)
  else
    let f := fresh s
    let s := f.2
    if !Config.entropyOk f.1 then
      (roleFail (wr s R.ROLE_STAT_ENT_BAD 1) src role ecDescriptor, ecDescriptor)
    else
      let c := (Config.entropy f.1).toNat
      let s := wr (wr s R.ROLE_STAT_ENT_BAD 0) R.ROLE_CNT ((rd s R.ROLE_CNT + 1) % 2 ^ 32)
      let s := (List.range 4).foldl (fun s i => wr s (R.ROLE_CHAL i) (bits c (32 * i + 31) (32 * i))) s
      let s := wr (wr s R.ROLE_STAT_PENDING 1) R.ROLE_STAT_SRC src
      (audit (setSes s { s.ses with asked := role }) 1 0x1010 src (auditRole s src) 0 old new, 0)

/-- The 64-byte message a response authenticates (R483). -/
def roleMessage (s : State) : Bytes :=
  ((List.range 4).flatMap fun i => leBytes 4 (rd s (R.ROLE_CHAL i))) ++ leBytes 4 s.ses.asked ++
    leBytes 4 (rd s R.GEN_LOC) ++ leBytes 4 (rd s R.ROLE_CNT) ++
    leBytes 4 (rd s R.GEN_VER_MINOR + at' (rd s R.GEN_VER_MAJOR) 16) ++ List.replicate 32 0

/-- The response the pending challenge asks for. -/
def roleExpected (s : State) : Bytes :=
  hmac256 (leBytes 32 (Config.secretKey (s.ses.asked == 2)).toNat) (roleMessage s)

/-- A lockout begins: 1 s at first, twice as long each time, 1,024 s at most (R485). -/
def startLockout (s : State) (src : Nat) : State :=
  let n := s.ses.lockLen
  let s := wr (wr s R.ROLE_STAT_LOCKED 1) R.ROLE_LOCK_LEFT n
  let s := setSes s { s.ses with lockLen := min 1024 (2 * n), lockEdges := 0 }
  audit s 8 0 src (auditRole s src) 0 s.ses.fails n

/-- A response judged: the session opens on a match; four or more failures in a row start a lockout (R483, R485). -/
def judgeResponse (s : State) (src : Nat) (resp : Bytes) : State :=
  let role := s.ses.asked
  if resp = roleExpected s then
    let s := audit s 2 0 src (auditRole s src) 0 (rd s R.ROLE_CNT) role
    let s := wr (wr (wr s R.ROLE_STAT_PENDING 0) R.ROLE_STAT_OPEN 1) R.ROLE_STAT_ROLE role
    count (setSes s { s.ses with fails := 0, lockLen := 1 }) C.ROLE_OPEN_CNT
  else
    let s := roleFail (lapse (count s C.ROLE_FAIL_CNT)) src role 0
    let s := setSes s { s.ses with fails := s.ses.fails + 1 }
    if 4 ≤ s.ses.fails then startLockout s src else s

/-- Words a source has staged for a wide register, by the word's byte offset; word i of n, or its default. -/
def wideWord (s : State) (src addr dflt : Nat) : Nat :=
  match s.acc.wide.find? fun w => w.1 == src && w.2.1 == addr with
  | some w => w.2.2
  | none => dflt

/-- A word of a wide register staged by a source (R510). -/
def stageWide (s : State) (src addr v : Nat) : State :=
  { s with acc := { s.acc with wide := (s.acc.wide.filter fun w => !(w.1 == src && w.2.1 == addr)) ++ [(src, addr, v)] } }

/-- The staged words of a wide register at a byte offset are dropped. -/
def dropWide (s : State) (src addr : Nat) : State :=
  { s with acc := { s.acc with wide := s.acc.wide.filter fun w => !(w.1 == src && decide (addr ≤ w.2.1) && decide (w.2.1 < addr + 32)) } }

/-- The write of ROLE_RESP7 (R483, R484): words not staged are zero. -/
def roleResponse (s : State) (src w7 : Nat) : State × Nat :=
  let resp := ((List.range 7).flatMap fun i => leBytes 4 (wideWord s src (0x1060 + 4 * i) 0)) ++ leBytes 4 w7
  let s := dropWide s src 0x1060
  if rdb s R.ROLE_STAT_PENDING && rd s R.ROLE_STAT_SRC == src then (judgeResponse s src resp, 0)
  else (roleFail (count s C.ROLE_FAIL_CNT) src 0 0, 0)

/-- ROLE_CTRL.CLOSE: acts for the owning source alone. -/
def roleClose (s : State) (src : Nat) : State :=
  if rd s R.ROLE_STAT_SRC = src then closeSession s src 0 else s

/-- ROLE_CTRL written: the role, then CLOSE, then REQ. -/
def roleCtrl (s : State) (src v : Nat) : State × Nat :=
  let old := at' (rd s R.ROLE_CTRL_ROLE) 4
  let s := wr s R.ROLE_CTRL_ROLE (bits v 5 4)
  let s := if bit v 1 then roleClose s src else s
  if bit v 0 then roleReq s src old v else (s, 0)

/-- LOCKOUT_EXPIRY (R485). -/
def lockoutEnd (s : State) : State :=
  setSes (wr (wr s R.ROLE_STAT_LOCKED 0) R.ROLE_LOCK_LEFT 0) { s.ses with lockEdges := 0 }

/-! ## The installer's keys (R489, R490) -/

/-- The key slot a table bank was, or is being, verified under holds it in one of these states. -/
def bankUses (s : State) (b slot : Nat) (sts : List Nat) : Bool :=
  (bank s b).keySlot == slot && sts.contains (bank s b).state

/-- A table load that has read its header fails with TABLE_SIGNATURE. -/
def failLoading (s : State) : State :=
  (List.range 16).foldl (fun s q =>
    match activeRun s q 1 1 with
    | some r => if r.phase = .running ∧ r.aux.headD 0 = 11 then loadFail s q r.idx 0x0A false (loadHdr r) else s
    | none => s) s

/-- A new key is in force: loads and loaded banks verified under the old one fall (R490). -/
def keyChanged (s : State) (slot : Nat) : State :=
  (List.range 2).foldl (fun s b =>
    if bankUses s b slot [1] then failLoading s
    else if bankUses s b slot [2] then setBank s b Store.empty
    else s) s

/-- A commit of an installer key: I rights, stage 4 or later, ABSENT only, and no ARMED or ACTIVE bank under the slot (R487, R489, R490). -/
def keyCommit (s : State) (src slot w7 : Nat) : State × Nat :=
  let addr := 0x8080 + 32 * slot
  let cur := rd s (R.TBL_IKEY slot)
  let new := ((List.range 7).map fun i =>
    at' (wideWord s src (addr + 4 * i) (bits cur (32 * i + 31) (32 * i))) (32 * i)).sum + at' w7 224
  let s := dropWide s src addr
  let aud (s : State) (stat : Nat) : State := audit s 1 addr src (auditRole s src) stat cur new
  if rightsOf s src &&& 2 = 0 then (if new = cur then (s, 0) else refuseRights s 8 addr src true cur new)
  else if early s || !isAbsent s || bankUses s 0 slot [3, 4] || bankUses s 1 slot [3, 4] then
    (aud (pgError s 8 29 0) ecDescriptor, ecDescriptor)
  else (keyChanged (aud (wr s (R.TBL_IKEY slot) new) 0) slot, 0)

/-! ## The test access port (R65) -/

/-- IDCODE. -/
def idcode (s : State) : Nat := at' 1 28 + at' 0x4B33 12 + at' (rd s R.GEN_STRAP_MFR_ID) 1 + 1

/-- A maker session is open. -/
def makerOpen (s : State) : Bool := rdb s R.ROLE_STAT_OPEN && rd s R.ROLE_STAT_ROLE == 2

/-- An instruction updated into the instruction register. BYPASS and IDCODE are open; another code runs in a maker session, with an
entry, and selects BYPASS without one. What it shifts out is a free value. -/
def tapInstruction (s : State) (code : Nat) : State :=
  if code = 1 then setTap s 1 (idcode s)
  else if code = 0xFF ∨ !makerOpen s then setTap s 0xFF 0
  else
    let f := fresh s
    audit (setTap f.2 code (Config.tapData f.1).toNat) 7 0 selfSrc 2 0 0 code

/-! ## The rows' meanings -/

/-- ROLE_REQ (R483): ROLE_CTRL written with a role and REQ. -/
def execRoleReq (r : Req) (role : BitVec 2) (s : State) : Ans :=
  .next (answered r (roleCtrl (begin s) r.src.toNat (at' role.toNat 4 + 1)))

/-- ROLE_RESPONSE (R483). -/
def execRoleResponse (r : Req) (word7 : BitVec 32) (s : State) : Ans :=
  .next (answered r (roleResponse (begin s) r.src.toNat word7.toNat))

/-- ROLE_CLOSE (R486): ROLE_CTRL.CLOSE with the role left as it is. -/
def execRoleClose (r : Req) (s : State) : Ans := .next (answered r (roleClose (begin s) r.src.toNat, 0))

/-- CHALLENGE_LAPSE (R484). -/
def execChallengeLapse (s : State) : Ans := .next (lapse (begin s))

/-- LOCKOUT_EXPIRY (R485). -/
def execLockoutExpiry (s : State) : Ans := .next (lockoutEnd (begin s))

/-- SESSION_IDLE (R486). -/
def execSessionIdle (s : State) : Ans := .next (closeSession (begin s) selfSrc 1)

/-- TBL_IKEY_COMMIT (R490): slot and word 7. -/
def execTblIkeyCommit (r : Req) (slot : Fin 4) (word7 : BitVec 32) (s : State) : Ans :=
  .next (answered r (unlessHeld (begin s) (keyCommit (begin s) r.src.toNat slot word7.toNat)))

/-- TAP_INSTRUCTION (R65). -/
def execTapInstruction (code : BitVec 8) (s : State) : Ans := .next (tapInstruction (begin s) code.toNat)

end Sys2Proof.Machine
end

