-- ==== Sys2Proof/Machine/Health.lean ====
section
/-! DEFINITION. The health monitor and the sensor core's digital shell (R403 to R411). -/

namespace Sys2Proof.Machine

/-! ## The sensor core (R403 to R406) -/

/-- Entry p of the thermal table, c of the droop table, a of the ageing table (R557). -/
def pointEntry (s : State) (p : Nat) : Nat := tget s 0x18 0 p
def droopEntry (s : State) (c : Nat) : Nat := tget s 0x18 1 c
def ageEntry (s : State) (a : Nat) : Nat := tget s 0x18 2 a

/-- Offsets and trims as a new frame uses them (R557). -/
def latchTrims (s : State) : State :=
  setHl s { s.hl with used := (List.range 48).foldl (fun m p => put m p (bits (pointEntry s p) 39 0)) [] }

/-- What fuses give the sensor core: trims and baselines (R557). -/
def fuseSensors (s : State) : State :=
  let s := (List.range 48).foldl (fun s p =>
    tput s 0x18 0 p (setBits (pointEntry s p) 31 0 (Config.sensorTrim p).toNat)) s
  let s := (List.range 12).foldl (fun s a => tput s 0x18 2 a (setBits (ageEntry s a) 63 32 (Config.ageBase a).toNat)) s
  latchTrims s

/-- SENSOR_SUBFRAME: the next point of every pod; after the fourth the frame is complete, and what waits for the next frame
applies. -/
def subframe (s : State) : State :=
  if s.hl.sub < 3 then setHl s { s.hl with sub := s.hl.sub + 1 }
  else
    let s := latchTrims (count s C.SNS_FRAMES)
    match s.hl.corr with
    | some c => setHl s { s.hl with sub := 0, offs := c.1, gain := c.2, corr := none }
    | none => setHl s { s.hl with sub := 0 }

/-- The code of a supply point. -/
def supplyConv (s : State) (c raw : Nat) : State :=
  let e := droopEntry s c
  tput s 0x18 1 c (setBits e 47 32 (Config.supplyMv (bits e 47 32) raw s.hl.offs s.hl.gain).toNat)

/-- The code of thermal point p: trims, reference correction, installer offset, filter (R404). TEMP drops the two low bits of the
filtered value (DEDUCED, notes/assumptions/61). -/
def thermalConv (s : State) (p raw : Nat) : State :=
  let u := get s.hl.used p
  let x := signed 16 (Config.pointTemp raw (bits u 31 16) (bits u 15 0) s.hl.offs s.hl.gain).toNat + 4 * signed 8 (bits u 39 32)
  let y := signed 16 (get s.hl.filt p)
  let y := y + (x - y) / (2 ^ rd s R.SNS_FILT : Nat)
  let s := setHl s { s.hl with filt := put s.hl.filt p (unsigned 16 y) }
  tput s 0x18 0 p (setBits (pointEntry s p) 63 48 (unsigned 16 (y / 4)))

/-- SENSOR_CONVERSION of slot k of the sub-frame: 0 to 15 the supply points, 16 and 18 the zero reference, 17 and 19 the bandgap
reference, 20 to 31 the pods, whose selected point may be open (R60, R403). -/
def conversion (s : State) (k raw : Nat) (open_ : Bool) : State :=
  if k < 16 then supplyConv s k raw
  else if k = 16 ∨ k = 18 then setHl s { s.hl with zeros := (raw :: s.hl.zeros).take 64 }
  else if k < 20 then setHl s { s.hl with gaps := (raw :: s.hl.gaps).take 64 }
  else
    let p := 4 * (k - 20) + s.hl.sub
    let s := wr s R.SNS_POD_OPEN (setBits (rd s R.SNS_POD_OPEN) p p (b2n open_))
    if open_ then s else thermalConv s p raw

/-- The mean of a list of conversions. -/
def meanOf (l : List Nat) : Nat := l.sum / l.length

/-- AGE of monitor a from its count: the slowdown against the baseline, in ppm (DEDUCED, notes/assumptions/61). -/
def noteAge (s : State) (a n : Nat) : State :=
  let base := bits (ageEntry s a) 63 32
  tput s 0x18 2 a (setBits (ageEntry s a) 31 0 ((base - n) * 1000000 / base))

/-- AON_CLK's deviation reported, and beyond CLK_DEV_THR marked with one record (R451). -/
def noteDeviation (s : State) (dev : Nat) : State :=
  let s := wr s R.SNS_AON_DEV dev
  if (signed 16 dev).natAbs ≤ rd s R.CLK_DEV_THR ∨ rdb s R.CLK_STAT_AON_DEV then s
  else unitError (wr s R.CLK_STAT_AON_DEV 1) 0 3 dev 0

/-- SENSOR_CALIBRATION: corrections, ageing counts and the deviation of AON_CLK (R405). -/
def calibrate (s : State) (counts dev : Nat) : State :=
  let z := meanOf s.hl.zeros
  let g := meanOf s.hl.gaps
  let o := (Config.calOffset z g).toNat
  let k := (Config.calGain z g).toNat
  let bad := decide (8 < (signed 16 o).natAbs) || decide (20000 < (signed 16 k).natAbs)
  let s := setHl s { s.hl with corr := some (o, k) }
  let s := wr s R.SNS_STAT_CAL_BAD (b2n bad)
  let s := if bad then count s C.SNS_CAL_FAIL else s
  let s := (List.range 12).foldl (fun s a => noteAge s a (bits counts (32 * a + 31) (32 * a))) s
  noteDeviation s dev

/-- DROOP_TRIP of comparator c (R406). -/
def droopTrip (s : State) (c : Nat) : State :=
  let s := count s (C.SNS_DROOP_CNT c)
  setHl s { s.hl with hold := rd s R.SNS_DROOP_HOLD != 0 }

/-! ## The indicators (R407, R408) -/

/-- The counters whose rates the monitor takes: droop trips; corrected, uncorrectable and forager finds of each stack; replays of each
link; corrected codewords of each optical lane. -/
def hlCounters (s : State) : List Nat :=
  [((List.range 16).map fun c => get s.cnt (C.SNS_DROOP_CNT c)).sum] ++
    (List.range 12).map (fun n => get s.cnt (C.SLC_ECC_CORR n)) ++
    (List.range 12).map (fun n => get s.cnt (C.SLC_ECC_UNCORR n)) ++
    (List.range 12).map (fun n => get s.cnt (C.SCRB_FIND n)) ++
    (List.range 32).map (fun l => get s.cnt (C.LP_LRTY l)) ++
    (List.range 36).map fun l => get s.cnt (C.LP_FEC_CORR l)

/-- A millisecond's bucket: what each counter grew by; a counter that a reset cleared counts from zero. -/
def newBucket (s : State) : State :=
  let now := hlCounters s
  let inc := (List.range now.length).map fun i =>
    let a := s.hl.last.getD i 0
    let b := now.getD i 0
    if a ≤ b then b - a else b
  setHl s { s.hl with last := now, buckets := (inc :: s.hl.buckets).take 100 }

/-- The rate of counter i: its growth in the last 100 ms. -/
def rate (s : State) (i : Nat) : Nat := (s.hl.buckets.map fun b => b.getD i 0).sum

/-- The greatest of a list. -/
def maxOf (l : List Nat) : Nat := l.foldl max 0

/-- Full scale and weight of indicator x. -/
def indFs (s : State) (x : Nat) : Nat := bits (tget s 0x17 0 x) 23 0
def indW (s : State) (x : Nat) : Nat := bits (tget s 0x17 0 x) 39 32

/-- i_x of a raw value. -/
def indVal (s : State) (x raw : Nat) : Nat := min 255 (255 * raw / indFs s x)

/-- A thermal point reads its worst value (R407). -/
def pointBad (s : State) (p : Nat) : Bool := rdb s R.SNS_STAT_CAL_BAD || bit (rd s R.SNS_POD_OPEN) p

/-- Indicator 0 over some points. -/
def heat (s : State) (ps : List Nat) : Nat :=
  if ps.any (pointBad s) then 255
  else indVal s 0 (maxOf (ps.map fun p => (signed 16 (bits (pointEntry s p) 63 48) - rd s R.HLT_T_REF).toNat))

/-- Valid remap entries of a stack. -/
def remapUsed (s : State) (n : Nat) : Nat := ((List.range 8).filter fun e => bit (tget s 0x16 0 (8 * n + e)) 63).length

/-- Indicators 3 to 6 of a stack. -/
def stackInd (s : State) (n x : Nat) : Nat :=
  match x with
  | 3 => indVal s 3 (rate s (1 + n))
  | 4 => indVal s 4 (rate s (13 + n))
  | 5 => indVal s 5 (rate s (25 + n))
  | _ => indVal s 6 (remapUsed s n)

/-- A weighted score. -/
def score (s : State) (l : List (Nat × Nat)) : Nat := min 255 ((l.map fun x => indW s x.1 * x.2).sum / 255)

/-- A stack's score. -/
def stackScore (s : State) (n : Nat) : Nat :=
  score s ((0, heat s ((List.range 4).map (4 * n + ·))) :: [3, 4, 5, 6].map fun x => (x, stackInd s n x))

/-- The worst stack: the enabled one with the greatest score, the lower number on a tie. -/
def worstStack (s : State) : Nat :=
  match (List.range 12).filter (stackOn s) with
  | [] => 0
  | n :: t => t.foldl (fun b k => if stackScore s b < stackScore s k then k else b) n

/-- Physical lanes in use: behind a logical link, on a fitted module, not failed. -/
def activeLanes (s : State) : List Nat :=
  (List.range 36).filter fun p => s.lp.lane.contains p && bit (rd s R.GEN_STRAP_LPM_EN) (p / 4) && !s.lp.failed.contains p

/-- A module's monitor reads are unanswered. -/
def monLost (s : State) (k : Nat) : Bool := bit (rd s R.LP_STAT_MOD_MON_TMO) k

/-- What a lane's receive power lacks; a register not yet read lacks nothing (DESIGN CHOICE, notes/assumptions/61). -/
def rxLack (s : State) (p : Nat) : Nat :=
  match get s.lp.mon (4096 * (p / 4) + 0x10 + 4 * (p % 4)) with
  | 0 => 0
  | v + 1 => rd s R.HLT_RXPWR_REF - v % 65536

/-- Indicator 9. -/
def rxInd (s : State) : Nat :=
  if (activeLanes s).any fun p => monLost s (p / 4) then 255 else indVal s 9 (maxOf ((activeLanes s).map (rxLack s)))

/-- Indicator 10: a module in use reports a fault, or does not answer. -/
def oeFault (s : State) : Bool := (activeLanes s).any fun p => monLost s (p / 4) || decide (1 < get s.lp.mon (4096 * (p / 4) + 0x34))

/-- Indicator 11: THERM_IN or BRD_ALERT_IN is taken as asserted. -/
def boardSignal (s : State) : Bool := rd s R.PIN_STAT_TAKEN % 4 != 0

/-- The twelve indicators, with the worst stack's own for 3 to 6. -/
def indicators (s : State) (worst : Nat) : List Nat :=
  [heat s (List.range 48), indVal s 1 (rate s 0),
   indVal s 2 (maxOf ((List.range 12).map fun a => bits (ageEntry s a) 31 0)),
   stackInd s worst 3, stackInd s worst 4, stackInd s worst 5, stackInd s worst 6,
   indVal s 7 (maxOf ((List.range 32).map fun l => rate s (37 + l))),
   indVal s 8 (maxOf ((List.range 36).map fun l => rate s (69 + l))),
   rxInd s, 255 * b2n (oeFault s), 255 * b2n (boardSignal s)]

/-! ## Levels and actions (R409, R410) -/

/-- The actions of a level: those of every level up to it. -/
def levelActs (s : State) (l : Nat) : Nat :=
  (if 1 ≤ l then rd s R.HLT_ACT_WATCH else 0) ||| (if 2 ≤ l then rd s R.HLT_ACT_ALARM else 0)

/-- The actions in force become those of the level: the worst stack starts migrating and a seal is asked for when their actions
begin. -/
def applyActs (s : State) : State :=
  let new := levelActs s (rd s R.HLT_STAT_LEVEL)
  let old := s.hl.acts
  let s := setHl s { s.hl with acts := new }
  let s := if bit new 2 && !bit old 2 then startMigrate s (rd s R.HLT_SCORE_WORST) else s
  if bit new 3 && !bit old 3 then count (wr s R.HLT_STAT_SEAL_REQ 1) C.HLT_SEAL_REQS else s

/-- The record of a level change. -/
def levelRec (s : State) : State :=
  let a := levelActs s (rd s R.HLT_STAT_LEVEL)
  let nz := ((List.range 12).map fun x => at' (b2n (bits (tget s 0x17 0 x) 47 40 != 0)) x).sum
  postRec s { kind := 6, status := 0, cancelled := false, irq := bit a 4 || irqOfKind s 6, flags := 0, queue := 0, cmdId := 0,
              merged := 0, source := 0x17, time := rd s R.TIME_TOD, compl := none, info1 := nz,
              info0 := rd s R.HLT_SCORE_SCORE + at' (rd s R.HLT_STAT_LEVEL) 8 + at' (rd s R.HLT_SCORE_WORST) 10 +
                at' (b2n (bit a 3)) 14 }

/-- The level changes: counted, its actions applied, recorded. -/
def setLevel (s : State) (l : Nat) : State :=
  levelRec (applyActs (count (wr s R.HLT_STAT_LEVEL l) C.HLT_LVL_CHG))

/-- HEALTH_UPDATE (R408 to R410). -/
def healthUpdate (s : State) : State :=
  let s := newBucket s
  let w := worstStack s
  let is := indicators s w
  let v := score s ((List.range 12).map fun x => (x, is.getD x 0))
  let s := (List.range 12).foldl (fun s x => tput s 0x17 0 x (setBits (tget s 0x17 0 x) 47 40 (is.getD x 0))) s
  let s := wr (wr s R.HLT_SCORE_SCORE v) R.HLT_SCORE_WORST w
  let old := rd s R.HLT_STAT_LEVEL
  let lvl := max old (if rd s R.HLT_ALARM ≤ v then 2 else if rd s R.HLT_WATCH ≤ v then 1 else 0)
  let s := if 1 ≤ lvl then count s C.HLT_WATCH_MS else s
  let s := if lvl = 2 then count s C.HLT_ALARM_MS else s
  if lvl = old then applyActs s else setLevel s lvl

/-- LEVEL_DWELL_EXPIRY: the level falls by one while the score is below its threshold less the hysteresis. -/
def dwellExpiry (s : State) : State :=
  let l := rd s R.HLT_STAT_LEVEL
  let thr := if l = 2 then rd s R.HLT_ALARM else rd s R.HLT_WATCH
  if l = 0 ∨ thr ≤ rd s R.HLT_SCORE_SCORE + rd s R.HLT_HYST then s else setLevel s (l - 1)

/-! ## The rows' meanings -/

/-- HEALTH_UPDATE (R408). -/
def execHealthUpdate (s : State) : Ans := .next (healthUpdate (begin s))

/-- LEVEL_DWELL_EXPIRY (R409). -/
def execLevelDwellExpiry (s : State) : Ans := .next (dwellExpiry (begin s))

/-- SENSOR_SUBFRAME (R403). -/
def execSensorSubframe (s : State) : Ans := .next (subframe (begin s))

/-- SENSOR_CONVERSION (R404): slot of the sub-frame, code, and whether the point is open. -/
def execSensorConversion (k : Fin 32) (raw : BitVec 16) (opened : Bool) (s : State) : Ans :=
  .next (conversion (begin s) k raw.toNat opened)

/-- SENSOR_CALIBRATION (R405): the counts of the twelve ageing monitors, 32 bits each, and AON_CLK's deviation in ppm, signed. -/
def execSensorCalibration (counts : BitVec 384) (dev : BitVec 16) (s : State) : Ans :=
  .next (calibrate (begin s) counts.toNat dev.toNat)

/-- DROOP_TRIP (R406): comparator. -/
def execDroopTrip (c : Fin 16) (s : State) : Ans := .next (droopTrip (begin s) c)

/-- DROOP_HOLD_END (R406). -/
def execDroopHoldEnd (s : State) : Ans :=
  let s := begin s
  .next (setHl s { s.hl with hold := false })

end Sys2Proof.Machine
end

