-- ==== Sys2Proof/Machine/Power.lean ====
section
/-! DEFINITION. Clocks, fast domains, the limiter, the three levels of reset, bring-up, test and disabled units, SRAM errors (R61 to
R64, R449 to R478). -/

namespace Sys2Proof.Machine

/-! ## Faults of the whole block (R63, R64) -/

/-- FAULT_OUT rises with a cause; the first cause stands (DESIGN CHOICE, notes/assumptions/62). -/
def raiseFault (s : State) (cause : Nat) : State :=
  let s := setChip s { s.chip with faultOut := true }
  if rd s R.GEN_FAULT_CAUSE = 0 then wr s R.GEN_FAULT_CAUSE cause else s

/-! ## PLLs (R450 to R452) -/

/-- Powered domains a PLL drives: those whose clock freezes with it. -/
def drivenBy (s : State) (k : Nat) : Nat := ((List.range 15).filter fun d => pllOf d == k && bit (rd s R.PWR_DOM) d).length

/-- Relock attempts of PLL k. -/
def tries (s : State) (k : Nat) : Nat := s.chip.tries.getD k 0

/-- PLLs that are off are started. -/
def startPlls (s : State) : State := (List.range 3).foldl (fun s k => if rd s (pllKey k) = 0 then setPll s k 1 0 else s) s

/-- Every PLL is locked. -/
def allLocked (s : State) : Bool := (List.range 3).all fun k => rd s (pllKey k) == 2

/-- PLL_LOCK: the PLL locks; with all three locked in bring-up stage 2, stage 3 begins (R464). -/
def pllLock (s : State) (k : Nat) : State :=
  let st := rd s (pllKey k)
  if st = 0 ∨ st = 2 then s
  else
    let s := setPll s k 2 0
    if rd s R.GEN_STAT_STAGE = 2 ∧ allLocked s then wr s R.GEN_STAT_STAGE 3 else s

/-- A lock is lost: the PLL has lost it and has not come back. -/
def lockLost (s : State) (k : Nat) : Bool := rd s (pllKey k) == 3 || (rd s (pllKey k) == 1 && tries s k != 0)

/-- PLL_LOCK_LOSS: of a locked PLL, whose domains freeze while it is restarted; of one that is locking, a failed attempt, and after
CLK_RELOCK_MAX of them the PLL is FAILED. The loss of all three raises FAULT_OUT (R452). -/
def pllLoss (s : State) (k : Nat) : State :=
  let st := rd s (pllKey k)
  let s := if st = 2 then count (countN (setPll s k 1 1) C.CLK_FREEZE (drivenBy s k)) C.CLK_RELOCK
    else if st = 1 then
      (if rd s R.CLK_RELOCK_MAX ≤ tries s k then setPll s k 3 (tries s k) else count (setPll s k 1 (tries s k + 1)) C.CLK_RELOCK)
    else s
  if (st = 1 ∨ st = 2) ∧ (List.range 3).all (lockLost s) then raiseFault s 2 else s

/-- PLL_RETRY of a FAILED PLL (R452). -/
def pllRetry (s : State) (k : Nat) : State := if rd s (pllKey k) = 3 then count s C.CLK_RELOCK else s

/-- PLL_WARM_HOLD_EXPIRY: a PLL none of whose domains is awake stops (R450). -/
def pllStop (s : State) (k : Nat) : State :=
  if rd s (pllKey k) = 2 ∧ (List.range 15).all fun d => pllOf d != k || (domain s d).phase == 0 then setPll s k 0 0 else s

/-- Every powered domain freezes and each locked PLL moves to another reference and relocks (R451). -/
def moveReference (s : State) : State :=
  (List.range 3).foldl (fun s k =>
    let s := countN s C.CLK_FREEZE (drivenBy s k)
    if rd s (pllKey k) = 2 then count (setPll s k 1 0) C.CLK_RELOCK else s) s

/-- AON_CLK_LOSS (R451). -/
def aonLoss (s : State) : State :=
  if rdb s R.CLK_STAT_AON_LOSS then s
  else moveReference (wr (wr s R.CLK_STAT_AON_LOSS 1) R.TIME_STAT_HOLDOVER 1)

/-- AON_CLK_RESTORE: HOLDOVER stays (R451). -/
def aonRestore (s : State) : State :=
  if rdb s R.CLK_STAT_AON_LOSS then moveReference (wr s R.CLK_STAT_AON_LOSS 0) else s

/-! ## Waking and gating (R453 to R456) -/

/-- RAMP_STEP: the next current step, with PWR_GOOD high and the PLL locked; the eighth completes the ramp. -/
def rampStep (s : State) (d : Nat) : State :=
  let x := domain s d
  if !s.chip.pwrGood || rd s (pllKey (pllOf d)) != 2 || !(x.phase == 1 || x.phase == 2) then s
  else if 7 ≤ x.steps then setDomain s d { x with phase := 3, steps := 8 }
  else setDomain s d { x with phase := 2, steps := x.steps + 1 }

/-- The block returns its credits of HFP_TREQ and HFP_TWD: once, when its sequencer domain is first out of reset (R37; DEDUCED: that is
the release of its isolation, notes/assumptions/78). -/
def grantHost (s : State) : State :=
  if s.host.treq = 0 ∧ s.host.twd = 0 ∧ s.hive.admq.length ≤ 256 then
    emit (setHost s { s.host with treq := 64, twd := 128 }) (.hostCredit 64 128)
  else s

/-- ISOLATION_RELEASE: 640 ns after the first step, when the sixth has begun. -/
def releaseIsolation (s : State) (d : Nat) : State :=
  let x := domain s d
  if (x.phase = 2 ∨ x.phase = 3) ∧ 6 ≤ x.steps then
    let s := wakeSpares (setDomain s d { x with live := true }) d
    if d = 0 then grantHost s else s
  else s

/-- DOMAIN_IDLE_GATE: the ramp-down begins. -/
def gateDomain (s : State) (d : Nat) : State :=
  let x := domain s d
  if x.phase = 3 then setDomain s d { x with phase := 4 } else s

/-- RAMP_DOWN_STEP: one step less, and at none the clock stops. -/
def rampDown (s : State) (d : Nat) : State :=
  let x := domain s d
  if x.phase ≠ 4 then s
  else if x.steps ≤ 1 then setDomain s d Domain.off
  else setDomain s d { x with steps := x.steps - 1 }

/-- ROOT_FILL_EXPIRY: the filler cycles since the last valid vector count, none with ROOT_FILL_MAX 0, and the arrays gate (R249). -/
def fillExpiry (s : State) (cycles : Nat) : State :=
  gateDomain (if rd s R.ROOT_FILL_MAX = 0 then s else countN s C.ROOT_FILL_CYC cycles) 13

/-! ## The limiter (R457 to R459) -/

/-- A cap as it acts: 0 is 190 W, 1 to 79 act as 80, above 760 as 760. -/
def capActs (c : Nat) : Nat := if c = 0 then 760 else min 760 (max 80 c)

/-- The limit in force. -/
def powerLimit (s : State) : Nat := min (capActs (rd s R.PWR_CAP)) (capActs (rd s R.PWR_CAP_MAX))

/-- The duty after an update, and how many updates in a row the estimate has stayed at or below 15/16 of the limit: eight of them raise
the duty, as does each further one (DEDUCED, notes/assumptions/63). -/
def nextDuty (est lim d quiet : Nat) : Nat × Nat :=
  if lim < est then (max 1 (d - 1), 0)
  else if 16 * est ≤ 15 * lim then
    let q := min 8 (quiet + 1)
    (if q = 8 then min 16 (d + 1) else d, q)
  else (d, 0)

/-- LIMITER_UPDATE: estimate, duty, and CAP_UNMET with its record once a second (R458, R459). -/
def limiterUpdate (s : State) : State :=
  let f := fresh s
  let s := f.2
  let est := (Config.powerEst f.1).toNat
  let lim := powerLimit s
  let old := rd s R.PWR_STAT_DUTY
  let n := nextDuty est lim old s.chip.quiet
  let d := if rdb s R.PWR_STAT_THERM then min n.1 (max 1 (rd s R.PWR_THERM_DUTY)) else n.1
  let stuck := if old = 1 ∧ lim < est then s.chip.stuck + 1 else 0
  let s := setChip (wr (wr s R.PWR_EST est) R.PWR_STAT_DUTY d) { s.chip with quiet := n.2, stuck := stuck }
  let s := if d < 16 then count s C.PWR_LIMITED else s
  if stuck < 100 then wr s R.PWR_STAT_CAP_UNMET 0
  else
    let s := wr s R.PWR_STAT_CAP_UNMET 1
    if s.chip.unmetAt = 0 ∨ s.chip.unmetAt - 1 + 10 ^ 9 ≤ rd s R.TIME_TOD then
      setChip (unitError s 0 4 est lim) { s.chip with unmetAt := rd s R.TIME_TOD + 1 }
    else s

/-! ## Resets (R63, R460 to R463, R515) -/

/-- A page of the always-on domain. -/
def aonPage (p : Nat) : Bool := pageRows.any fun r => r.ty == p && r.aon

/-- Register fields a reset of the fast domains leaves: those of always-on pages, those marked kept, and what a memory port's pins
say. -/
def keptReg (k : Nat) : Bool :=
  aonPage (k / 2 ^ 20) || ((List.range 12).any fun n => [R.SLC_LANE_OK n, R.SLC_CAP n, R.SLC_STAT_READY n, R.SLC_STAT_HBM4 n].contains k) ||
    (List.range 4).any fun a => R.ROOT_COLMAP a == k

/-- Table entries it leaves: those of always-on pages and the lane maps. -/
def keptTab (k : Nat) : Bool := aonPage (k / 2 ^ 32) || (decide (0x20 ≤ k / 2 ^ 32) && decide (k / 2 ^ 32 < 0x2C))

/-- The map that takes the kept keys from one map and the others from another. -/
def mergeMaps (kept : Nat → Bool) (a b : NMap) : NMap :=
  (b.filter fun e => !kept e.1).foldl (fun m e => put m e.1 e.2) (a.filter fun e => kept e.1)

/-- A spine record being written is abandoned: its slot holds no valid record (R66, R461). -/
def abandonSpine (s : State) : State :=
  match s.spine.staged with
  | some _ => nvmWrite s (spineSlot s * nvmSlot) (List.replicate 4096 0xFF)
  | none => s

/-- What a reset leaves of the coding unit: what the log and the SCALE mirrors in the stacks hold (R348, R460; DEDUCED,
notes/assumptions/77). -/
def storedCod (c : Coding) : Coding :=
  { resetCod with shares := c.shares, segs := c.segs, undo := c.undo, open_ := c.open_, scaleCap := c.scaleCap, scaleHas := c.scaleHas,
                  serial := c.serial }

/-- The reset of every fast domain: their registers and state return to reset values. Kept: the always-on domain with its pages, the
disabled-unit map and the lane, column and module maps, and what the memories hold. -/
def resetFast (s : State) : State :=
  let s := abandonSpine s
  let z := State.reset
  let c := { s.chip with doms := z.chip.doms, wakeOut := false, snaps := [], timer := none, flush := [] }
  let t : State := { z with
    pending := s.pending, out := s.out, free := s.free, regs := mergeMaps keptReg s.regs z.regs,
    cnt := s.cnt.filter (fun e => aonPage (e.1 / 4096)), shadow := s.shadow.filter (fun e => aonPage (e.1 / 4096)),
    tab := mergeMaps keptTab s.tab z.tab, acc := keepPages aonPage s.acc, ses := s.ses,
    ev := { z.ev with irqOut := s.ev.irqOut }, hbm := s.hbm, board := s.board, nvm := s.nvm, cod := storedCod s.cod,
    lp := { z.lp with lane := s.lp.lane, failed := s.lp.failed, swapDue := s.lp.swapDue }, spr := s.spr,
    spine := { z.spine with held := s.spine.held },
    hl := { s.hl with repairs := [], lost := [], copies := [] }, chip := c }
  let t := wr (wr t R.SEQ_UCODE_VER Config.ucodeVer.toNat) R.SEQ_UCODE_MIN Config.ucodeMin.toNat
  let t := { t with seq := { t.seq with ucAct := { t.seq.ucAct with version := Config.ucodeVer.toNat } } }
  nextSwap ((List.range 32).foldl noteLmap (wr t R.PWR_DOM 0))

/-- The sequencer domain is woken and the PLLs are started. -/
def powerUp (s : State) : State := wakeDomain (startPlls s) 0

/-- A block reset: DECLARE_SELF first, FAULT_OUT falls, bring-up starts again at stage 3 (R460, R461). -/
def blockReset (s : State) : State :=
  let s := closeSession (sendDeclareSelf s) selfSrc 2
  let s := resetFast (hiveLost s)
  let s := { s with ev := { s.ev with irqOut := false } }
  let s := wr (wr (wr s R.GEN_STAT_PWR_LOSS 0) R.GEN_FAULT_CAUSE 0) R.GEN_STAT_STAGE 3
  let s := setChip s { s.chip with faultOut := false, held := false, resetWaits := false }
  powerUp (count s C.GEN_BLKRST)

/-- GEN_CTRL.BLK_RST written as 1: it reads 1 until self-test completes, and waits while PWR_GOOD is low. -/
def blkRst (s : State) : State :=
  if rdb s R.GEN_CTRL_BLK_RST then s
  else
    let s := wr s R.GEN_CTRL_BLK_RST 1
    if s.chip.pwrGood then blockReset s else setChip s { s.chip with resetWaits := true }

/-- PWR_GOOD_FALL (R63): with a fast domain powered, every one is held in reset. -/
def powerFall (s : State) : State :=
  let s := setChip s { s.chip with pwrGood := false }
  if rd s R.PWR_DOM = 0 then s
  else
    let s := resetFast (closeSession s selfSrc 3)
    raiseFault (setChip (wr s R.GEN_STAT_PWR_LOSS 1) { s.chip with held := true }) 4

/-- PWR_GOOD_RISE: high for 1 µs. What waits for it goes on: a block reset, stage 2, or a stage cut short (R456, R461, R478). -/
def powerRise (s : State) : State :=
  let s := setChip s { s.chip with pwrGood := true }
  let st := rd s R.GEN_STAT_STAGE
  if s.chip.resetWaits then blockReset s
  else if st = 1 then (if s.chip.faultOut then s else powerUp (wr s R.GEN_STAT_STAGE 2))
  else if s.chip.held && (st == 2 || st == 3) then powerUp (setChip s { s.chip with held := false })
  else s

/-- AON_RST_ASSERT: everything in the block returns to reset; stacks, NVM and board tier keep what they hold, and PWR_GOOD its level
(R460). -/
def aonReset (s : State) : State :=
  let z := State.reset
  { z with pending := s.pending, free := s.free, hbm := s.hbm, board := s.board, nvm := s.nvm, cod := storedCod s.cod,
           spine := { z.spine with held := s.spine.held },
           chip := { z.chip with pwrGood := s.chip.pwrGood } }

/-! ## Bring-up (R464, R465) -/

/-- AON_RST_DEASSERT: stage 0, TIME_TOD 0. -/
def stage0 (s : State) : State := if rd s R.GEN_STAT_STAGE = 0 then wr s R.TIME_TOD 0 else s

/-- CONFIG_SAMPLE: the straps, in stage 0 (R35). -/
def sampleConfig (s : State) (slices tiers lpms : Nat) (w128 w1024 : Bool) (mfr : Nat) : State :=
  if rd s R.GEN_STAT_STAGE ≠ 0 then s
  else
    let s := wr (wr (wr s R.GEN_STRAP_SLICE_EN slices) R.GEN_STRAP_TIER_EN tiers) R.GEN_STRAP_LPM_EN lpms
    let s := wr (wr (wr s R.GEN_STRAP_HFP_W128 (b2n w128)) R.GEN_STRAP_MRP_W1024 (b2n w1024)) R.GEN_STRAP_MFR_ID mfr
    if s.chip.ir = 1 then setTap s 1 (idcode s) else s

/-- The physical lanes of the modules that GEN_DISABLED names neither spare nor disabled, ascending (R52). -/
def lanesInUse (s : State) : List Nat :=
  let d := rd s R.GEN_DISABLED
  ((List.range 9).filter fun k => bits d 57 54 != k && !bit d (45 + k)).flatMap fun k => (List.range 4).map (4 * k + ·)

/-- The logical links laid in ascending order on the lanes in use; a link beyond them has none. A disabled module's lanes are out of
use (R52, R477). -/
def layLanes (s : State) : State :=
  let off := (List.range 9).filter fun k => bit (rd s R.GEN_DISABLED) (45 + k)
  let s := setLp s { s.lp with lane := (List.range 32).map fun l => (lanesInUse s).getD l 0x3F,
                               failed := off.flatMap fun k => (List.range 4).map (4 * k + ·) }
  (List.range 32).foldl noteLmap s

/-- The fused values, in force from stage 1. GEN_DISABLED has no reserved bit set. -/
def loadFuses (s : State) : State :=
  let s := layLanes (wr s R.GEN_DISABLED (setBits (bits Config.disabledMap.toNat 57 0) 36 36 0))
  let s := wr (wr s R.SEQ_UCODE_VER Config.ucodeVer.toNat) R.SEQ_UCODE_MIN Config.ucodeMin.toNat
  let s := wr (wr s R.ROLE_KVER_KM Config.kverKM.toNat) R.ROLE_KVER_KI Config.kverKI.toNat
  let s := (List.range 4).foldl (fun s a => wr s (R.ROOT_COLMAP a) (Config.rootColMap a).toNat) s
  fuseSensors { s with seq := { s.seq with ucAct := { s.seq.ucAct with version := Config.ucodeVer.toNat } } }

/-- FUSE_LOAD: stage 1. An always-on parity failure raises FAULT_OUT; otherwise stage 2 begins once PWR_GOOD is high. -/
def fuseLoad (s : State) (parityOk : Bool) : State :=
  if rd s R.GEN_STAT_STAGE ≠ 0 then s
  else
    let s := wr (loadFuses s) R.GEN_STAT_STAGE 1
    if !parityOk then raiseFault s 1
    else if s.chip.pwrGood then powerUp (wr s R.GEN_STAT_STAGE 2) else s

/-- Slices in service: with a stack and not SLICE_OFF. -/
def sliceIn (s : State) (n : Nat) : Bool := stackOn s n && !bit (rd s R.GEN_DISABLED) n

/-- MRPn_READY of every enabled slice. -/
def portsReady (s : State) : Bool := (List.range 12).all fun n => !sliceIn s n || rdb s (R.SLC_STAT_READY n)

/-- The result of a lane test of slice n: a mask of failed physical lanes. A lane failed before stays out of use. -/
def testLanes (s : State) (n bad : Nat) : State :=
  let s := wr s (R.SLC_LANE_OK n) ((List.range 34).foldl (fun m p => if bit bad p then m else m + 2 ^ p) 0)
  (setBitsOf 34 bad).foldl (fun s p => laneFail s n p) s

/-- The result of a column test of array a. -/
def testColumns (s : State) (a bad : Nat) : State :=
  ((setBitsOf 129 bad).filter fun c => !bit (get s.spr.colBad a) c).foldl (fun s c => columnFail s a c) s

/-- CFG_BAD: fewer than four slices, or more than one module missing (R36, R465). -/
def cfgBad (s : State) : Bool :=
  decide (((List.range 12).filter (sliceIn s)).length < 4) || decide (popc 9 (rd s R.GEN_STRAP_LPM_EN) < 8)

/-- The tables in a stack's mirror, if its CRC-64 passes (R402, notes/assumptions/56). -/
def mirrorOf (s : State) (n : Nat) : Option Bytes :=
  let len := 96 * 8 + 262144 * 8
  let b := mread s.hbm (n * 2 ^ 37 + broodBase s n * cellSize) (len + 8)
  if crc64 (b.take len) = leAt b len 8 then some (b.take len) else none

/-- Entries of 8 bytes each put into a table of page 0x16 from index i upward. -/
def loadEntries (table : Nat) : Nat → Bytes → State → State
  | i, a :: b :: c :: d :: e :: f :: g :: h :: t, s =>
    loadEntries table (i + 1) t (tput s 0x16 table i (leVal [a, b, c, d, e, f, g, h]))
  | _, _, s => s

/-- Remap and relocation tables reloaded after an AON reset from the lowest stack whose mirror passes, or LOST_MAP (R402). -/
def reloadMaps (s : State) : State :=
  if !s.chip.cold then s
  else
    let s := setChip s { s.chip with cold := false }
    match ((List.range 12).filter (sliceIn s)).findSome? (mirrorOf s) with
    | none => wr s R.RMAP_STAT_LOST_MAP 1
    | some b =>
      let s := loadEntries 1 0 (b.drop 768) (loadEntries 0 0 (b.take 768) s)
      wr s R.RMAP_RELOC_USED (relocs s).length

/-- SELFTEST_DONE: stage 3 completes once every enabled slice's port is ready. A sequencer failure raises FAULT_OUT; failing lanes and
columns are replaced; maps and spine are read; stage 4 begins (R464, R465). -/
def selfTestDone (s : State) (seqOk : Bool) (lanes cols : Nat) : State :=
  if rd s R.GEN_STAT_STAGE ≠ 3 ∨ s.chip.held ∨ !portsReady s then s
  else if !seqOk then raiseFault s 3
  else
    let s := allSpares s
    let s := (List.range 12).foldl (fun s n => testLanes s n (bits lanes (34 * n + 33) (34 * n))) s
    let s := (List.range 4).foldl (fun s a => testColumns s a (bits cols (129 * a + 128) (129 * a))) s
    let s := setSpr s { s.spr with sliceOut := bits (rd s R.GEN_DISABLED) 11 0 }
    let s := reloadMaps (wr s R.GEN_STAT_CFG_BAD (b2n (cfgBad s)))
    let r := readSpine s
    wr (wr (takeSpine r.1 r.2) R.GEN_CTRL_BLK_RST 0) R.GEN_STAT_STAGE 4

/-- GEN_CTRL.CFG_DONE: ends stage 4; ignored outside it, where STATE_WR sets (R520, R541). -/
def cfgDone (s : State) : State := if rd s R.GEN_STAT_STAGE = 4 then wr s R.GEN_STAT_STAGE 5 else pgError s 0 29 0

/-! ## Lane test and disabled units (R472, R477) -/

/-- GEN_CTRL.LTEST: refused with an uncapped epoch; the enabled slices' lanes are tested and failing ones replaced at once. -/
def laneTest (s : State) (bad : Nat) : State × Nat :=
  if anyUncapped s then (pgError s 0 29 0, ecDescriptor)
  else (((List.range 12).filter (sliceIn s)).foldl (fun s n => testLanes s n (bits bad (34 * n + 33) (34 * n))) s, 0)

/-- GEN_CTRL written by a source: CFG_DONE, then LTEST with the lanes it finds bad, then BLK_RST (R520). CFG_DONE is an installer's field,
so an installer's write of the register is audited. -/
def genCtrl (s : State) (src v bad : Nat) : State × Nat :=
  let old := b2n (rdb s R.GEN_CTRL_BLK_RST)
  let may := rightsOf s src &&& 2 != 0
  let x := if !bit v 2 then (s, 0) else if may then (cfgDone s, 0) else (pgError s 0 30 0, ecRights)
  let y := if bit v 1 then laneTest x.1 bad else (x.1, 0)
  let st := max x.2 y.2
  let t := if may || bit v 2 then audit y.1 1 0x10 src (auditRole s src) st old v else y.1
  (if bit v 0 then blkRst t else t, st)

/-- A root array goes out of service. -/
def arrayOff (s : State) (a : Nat) : State :=
  let s := dropColumns s a
  let s := wr s R.ROOT_STAT_ARR_OFF (setBits (rd s R.ROOT_STAT_ARR_OFF) a a 1)
  spareRec (setDisabled s (37 + a) true) 3 a 0 true false

/-- An array's map made anew from its failed columns: the spare stands in for one of them. -/
def remapColumns (s : State) (a : Nat) : State :=
  let bad := get s.spr.colBad a
  let cs := setBitsOf 129 bad
  let off := decide (1 < cs.length)
  let s := wr s (R.ROOT_COLMAP a) (if off then rd s (R.ROOT_COLMAP a) else cs.headD 128)
  let s := dropColumns s a
  let s := wr s R.ROOT_STAT_ARR_OFF (setBits (rd s R.ROOT_STAT_ARR_OFF) a a (b2n off))
  setDisabled (setDisabled s (37 + a) off) (41 + a) (cs != [])

/-- While ABSENT, a slice is present as its SLICE_OFF says. -/
def sliceServes (s : State) (n : Nat) : State :=
  setSpr s { s.spr with sliceOut := setBits s.spr.sliceOut n n (b2n (bit (rd s R.GEN_DISABLED) n)) }

/-- A unit is taken out of service. -/
def takeOut (s : State) (kind idx : Nat) : State :=
  match kind with
  | 1 => laneFail s (idx / 34) (idx % 34)
  | 2 => if bit (get s.spr.colBad (idx / 129)) (idx % 129) then s else columnFail s (idx / 129) (idx % 129)
  | 3 => if bit (rd s R.GEN_DISABLED) (37 + idx) then s else arrayOff s idx
  | 4 => if bit (rd s R.GEN_DISABLED) idx then s else spareRec (sliceServes (setDisabled s idx true) idx) 4 idx 0 true false
  | 5 => if bit (rd s R.GEN_DISABLED) (45 + idx) then s else moduleFail s idx
  | _ => opticalFail s idx

/-- A unit returns to service. A module comes back as the spare when there is none. -/
def putBack (s : State) (kind idx : Nat) : State :=
  match kind with
  | 1 =>
    let n := idx / 34
    let back := bit (badLanes s n) (idx % 34) && decide ((goodLanes s n).length = 15)
    let s := setSpr s { s.spr with laneBad := put s.spr.laneBad n (setBits (badLanes s n) (idx % 34) (idx % 34) 0),
                                   laneDue := s.spr.laneDue.filter (· != n), laneWake := s.spr.laneWake.filter (· != n) }
    remapLanes (if back then sliceServes (setDisabled s n false) n else s) n
  | 2 =>
    let a := idx / 129
    remapColumns (setSpr s { s.spr with colBad := put s.spr.colBad a (setBits (get s.spr.colBad a) (idx % 129) (idx % 129) 0) }) a
  | 3 => remapColumns s idx
  | 4 => sliceServes (setDisabled s idx (decide ((goodLanes s idx).length < 16))) idx
  | 5 =>
    let s := setLp s { s.lp with failed := s.lp.failed.filter fun p => p / 4 != idx }
    let s := setDisabled s (45 + idx) false
    if bits (rd s R.GEN_DISABLED) 57 54 = 0xF then wr s R.GEN_DISABLED (setBits (rd s R.GEN_DISABLED) 57 54 idx) else s
  | _ => setLp s { s.lp with failed := s.lp.failed.filter (· != idx) }

/-- Units of a kind: 0 for a reserved kind. -/
def unitsOf (kind : Nat) : Nat :=
  match kind with
  | 1 => 408
  | 2 => 516
  | 3 => 4
  | 4 => 12
  | 5 => 9
  | 6 => 36
  | _ => 0

/-- GEN_DIS_REQ written by a source (R466, R477). -/
def disRequest (s : State) (src v : Nat) : State × Nat :=
  let kind := bits v 31 28
  let idx := bits v 27 16
  let aud (s : State) (stat : Nat) : State × Nat := (audit s 1 0x60 src (auditRole s src) stat 0 v, stat)
  let s := if bits v 15 1 ≠ 0 then pgError s 0 31 0 else s
  if rightsOf s src &&& 6 = 0 ∨ (bit v 0 ∧ rightsOf s src &&& 4 = 0) then refuseRights s 0 0x60 src true 0 v
  else if unitsOf kind ≤ idx then aud s ecDescriptor
  else if early s ∨ (!isAbsent s ∧ (bit v 0 ∨ kind = 4)) then aud (pgError s 0 29 0) ecDescriptor
  else if bit v 0 then aud (putBack s kind idx) 0
  else aud (takeOut s kind idx) 0

/-! ## SRAM errors (R474, R488, R569) -/

/-- A corrected word: one corrected twice within 1 s has its row moved at the next cap. -/
def sramCorrected (s : State) (page word : Nat) : State :=
  let s := pgError s page 28 0
  let now := rd s R.TIME_TOD
  let again := s.hl.sram.any fun x => x.1 == page && x.2.1 == word && decide (now < x.2.2 + 10 ^ 9)
  let rest := s.hl.sram.filter fun x => !(x.1 == page && x.2.1 == word)
  if again then
    let s := setHl s { s.hl with sram := rest }
    spareRec (setSpr s { s.spr with rowDue := s.spr.rowDue ++ [page] }) 0 page 0 false true
  else setHl s { s.hl with sram := rest ++ [(page, word, now)] }

/-- A command fails with CELL_CHECK because a word it was using is lost. -/
def useFails (s : State) (q : Nat) (r : Run) : State :=
  match opcodeOf r.raw, subopOf r.raw, threadOf s q r.idx with
  | 1, 0, some t => settleThread (failThread s t ecCellCheck) t
  | 0x0E, _, some t => replayFail s t ecCellCheck
  | 1, 1, _ => loadFail s q r.idx ecCellCheck false (loadHdr r)
  | 1, 2, _ => loadFail s q r.idx ecCellCheck true (loadHdr r)
  | _, _, _ => finish (stopRun s q r ecCellCheck) q r.idx ecCellCheck 0 0

/-- The oldest running command of queue q fails. -/
def queueUseFails (s : State) (q : Nat) : State :=
  match (qOf s q).cmds.find? fun r => r.phase == .started || r.phase == .running with
  | some r => useFails s q r
  | none => s

/-- A line of the hot-line buffer is lost: one that is not dirty is read again; a dirty one is reported to its requesters. -/
def hotLost (s : State) (i : Nat) : State :=
  match s.hive.hot[i]? with
  | none => s
  | some h =>
    if (fetchOf s h.line).isSome then s
    else
    let s := setHive s { s.hive with hot := s.hive.hot.filter fun x => x.line != h.line }
    if !h.dirty then s
    else
      let hit := s.hive.home.filter fun x => x.req.op != 6 && lineOfRec x.req == h.line
      let s := setHive s { s.hive with home := s.hive.home.filter fun x => !hit.contains x }
      hit.foldl (fun s x => homeAnswer s x ecRemoteDead []) s

/-- An uncorrectable word by the class of its SRAM: 0 job state, 1 cache, 2 working buffer of a command of queue q, 3 link buffer, whose
flit is lost and comes again by replay or re-send. -/
def sramLost (s : State) (page word cls q : Nat) : State :=
  let s := pgError s page 27 0
  match cls with
  | 0 => sendDeclareSelf s
  | 1 => if page = 0x13 then hotLost s word else s
  | 2 => queueUseFails s q
  | _ => s

/-- PG_CAPS.INJ of a page (R569). -/
def injPage (p : Nat) : Bool := pageRows.any fun r => r.inj && (r.ty == p || (r.ty == 0x20 && decide (0x20 ≤ p) && decide (p < 0x2C)))

/-- An implemented page (R501). -/
def pageExists (p : Nat) : Bool := pageRows.any fun r => r.ty == p || (r.ty == 0x20 && decide (0x20 ≤ p) && decide (p < 0x2C))

/-- SRAM_ECC_ERROR. -/
def sramError (s : State) (page word : Nat) (uncorr : Bool) (cls q : Nat) : State :=
  if !injPage page then s
  else if uncorr then sramLost s page word cls q
  else sramCorrected s page word

/-- The class an injected uncorrectable word of a page has (DESIGN CHOICE, notes/assumptions/64). -/
def injClass (page : Nat) : Nat :=
  if 0x20 ≤ page ∨ [0x0B, 0x0D, 0x14].contains page then 2
  else if [0x0C, 0x0F, 0x13].contains page then 1
  else if page = 0x10 then 3
  else 0

/-- The queue whose running command uses the working buffers of a page: a ROOT, an image or stream command, or a STEP or REPLAY. -/
def injQueue (s : State) (page : Nat) : Option Nat :=
  let ops := if page = 0x0D then [0x0F] else if page = 0x0B then [4] else [1, 0x0E]
  firstBelow 16 fun q => match (qOf s q).cmds.find? fun r => r.phase == .started || r.phase == .running with
    | some r => ops.contains (opcodeOf r.raw)
    | none => false

/-- PG_ERR_INJ of a page written by a source (R488, R505). -/
def injectErr (s : State) (src page v : Nat) : State × Nat :=
  let s := if pageExists page then noteReserved s page (bits v 26 0 != 0) else s
  if !pageExists page then (s, ecDescriptor)
  else if rightsOf s src &&& 4 = 0 then refuseRights s page (4096 * page + 0x2C) src true 0 v
  else
    let s := audit s 1 (4096 * page + 0x2C) src (auditRole s src) 0 0 v
    if !injPage page then (s, 0)
    else
      let s := if bit v 28 then sramCorrected s page 0 else s
      if !bit v 27 then (s, 0)
      else if injClass page = 2 then
        (match injQueue s page with
        | some q => sramLost s page 0 2 q
        | none => pgError s page 27 0, 0)
      else (sramLost s page 0 (injClass page) 0, 0)

/-- AON_PARITY_ERROR (R64): DECLARE_SELF if the light port can still send, and FAULT_OUT. -/
def parityError (s : State) : State := raiseFault (sendDeclareSelf s) 1

/-! ## The rows' meanings -/

/-- DOMAIN_WAKE (R453, R454). -/
def execDomainWake (d : Fin 15) (s : State) : Ans := .next (wakeDomain (begin s) d)

/-- RAMP_STEP (R454). -/
def execRampStep (d : Fin 15) (s : State) : Ans := .next (rampStep (begin s) d)

/-- ISOLATION_RELEASE (R454). -/
def execIsolationRelease (d : Fin 15) (s : State) : Ans := .next (releaseIsolation (begin s) d)

/-- DOMAIN_IDLE_GATE (R453). -/
def execDomainIdleGate (d : Fin 15) (s : State) : Ans := .next (gateDomain (begin s) d)

/-- RAMP_DOWN_STEP (R455). -/
def execRampDownStep (d : Fin 15) (s : State) : Ans := .next (rampDown (begin s) d)

/-- ROOT_FILL_EXPIRY (R249): the filler cycles that ran. -/
def execRootFillExpiry (cycles : BitVec 32) (s : State) : Ans := .next (fillExpiry (begin s) cycles.toNat)

/-- PLL_LOCK (R450). -/
def execPllLock (k : Fin 3) (s : State) : Ans := .next (pllLock (begin s) k)

/-- PLL_WARM_HOLD_EXPIRY (R450). -/
def execPllWarmHoldExpiry (k : Fin 3) (s : State) : Ans := .next (pllStop (begin s) k)

/-- PLL_LOCK_LOSS (R452). -/
def execPllLockLoss (k : Fin 3) (s : State) : Ans := .next (pllLoss (begin s) k)

/-- PLL_RETRY (R452). -/
def execPllRetry (k : Fin 3) (s : State) : Ans := .next (pllRetry (begin s) k)

/-- AON_CLK_LOSS (R451). -/
def execAonClkLoss (s : State) : Ans := .next (aonLoss (begin s))

/-- AON_CLK_RESTORE (R451). -/
def execAonClkRestore (s : State) : Ans := .next (aonRestore (begin s))

/-- LIMITER_UPDATE (R458). -/
def execLimiterUpdate (s : State) : Ans := .next (limiterUpdate (begin s))

/-- AON_RST_ASSERT (R460). -/
def execAonRstAssert (s : State) : Ans := .next (aonReset (begin s))

/-- AON_RST_DEASSERT (R464). -/
def execAonRstDeassert (s : State) : Ans := .next (stage0 (begin s))

/-- CONFIG_SAMPLE (R35): CFG_SLICE_EN, CFG_TIER_EN, CFG_LPM_EN, CFG_HFP_W128, CFG_MRP_W1024, CFG_MFR_ID. -/
def execConfigSample (slices : BitVec 12) (tiers : BitVec 4) (lpms : BitVec 9) (w128 w1024 : Bool) (mfr : BitVec 11) (s : State) : Ans :=
  .next (sampleConfig (begin s) slices.toNat tiers.toNat lpms.toNat w128 w1024 mfr.toNat)

/-- FUSE_LOAD (R464): whether always-on parity passes. -/
def execFuseLoad (parityOk : Bool) (s : State) : Ans := .next (fuseLoad (begin s) parityOk)

/-- PWR_GOOD_FALL (R63). -/
def execPwrGoodFall (s : State) : Ans := .next (powerFall (begin s))

/-- PWR_GOOD_RISE (R456). -/
def execPwrGoodRise (s : State) : Ans := .next (powerRise (begin s))

/-- SELFTEST_DONE (R465): the sequencer's result, failed lanes at 34 × slice + lane, failed columns at 129 × array + column. -/
def execSelftestDone (seqOk : Bool) (lanes : BitVec 408) (cols : BitVec 516) (s : State) : Ans :=
  .next (selfTestDone (begin s) seqOk lanes.toNat cols.toNat)

/-- CFG_DONE (R464, R520). -/
def execCfgDone (r : Req) (s : State) : Ans := .next (answered r (genCtrl (begin s) r.src.toNat 4 0))

/-- BLK_RST (R461). -/
def execBlkRst (r : Req) (s : State) : Ans := .next (answered r (genCtrl (begin s) r.src.toNat 1 0))

/-- LTEST (R472): the lanes that fail the pattern test, at 34 × slice + lane. -/
def execLtest (r : Req) (bad : BitVec 408) (s : State) : Ans := .next (answered r (genCtrl (begin s) r.src.toNat 2 bad.toNat))

/-- GEN_DIS_REQ (R477). -/
def execGenDisReq (r : Req) (v : BitVec 32) (s : State) : Ans := .next (answered r (disRequest (begin s) r.src.toNat v.toNat))

/-- AON_PARITY_ERROR (R64). -/
def execAonParityError (s : State) : Ans := .next (parityError (begin s))

/-- SRAM_ECC_ERROR (R474): page, word, whether it is uncorrectable, class of the SRAM, and the queue of the command that uses it. -/
def execSramEccError (page : BitVec 6) (word : BitVec 32) (uncorr : Bool) (cls : Fin 4) (q : Fin 16) (s : State) : Ans :=
  .next (sramError (begin s) page.toNat word.toNat uncorr cls q)

/-- PG_ERR_INJ (R488): page and value. -/
def execPgErrInj (r : Req) (page : BitVec 6) (v : BitVec 32) (s : State) : Ans :=
  .next (answered r (injectErr (begin s) r.src.toNat page.toNat v.toNat))

end Sys2Proof.Machine
end

