-- ==== Sys2Proof/Machine/Views.lean ====
section
/-! DEFINITION. What register reads and table windows show (R482, R502 to R504, R509, R514, R526 to R557): fields that are views of
other state, register values, window entries, and a read with its latch. -/

namespace Sys2Proof.Machine

/-! ## Pages -/

/-- The type of a page: the slice pages share one (R503). -/
def pageType (p : Nat) : Nat := if 0x20 ≤ p ∧ p < 0x2C then 0x20 else p

/-- The row of a page. -/
def pageRow (p : Nat) : PageRow :=
  (pageRows.find? fun r => r.ty == pageType p).getD { ty := 0xFF, counters := 0, tables := 0, sel := 0, inj := false, aon := true }

/-- The fast domain of a page, numbered as PWR_DOM is; none for an always-on page (R501). -/
def pageDomain (p : Nat) : Option Nat :=
  if (pageRow p).aon then none
  else if 0x20 ≤ p then some (p - 0x1F)
  else if p = 0x0B ∨ p = 0x0D then some 13
  else if 0x10 ≤ p ∧ p ≤ 0x14 then some 14
  else some 0

/-- The key of a page's register field, from the key of the page type's. -/
def onPage (page k : Nat) : Nat := k + (page - pageType page) * 2 ^ 20

/-- The fields of the register at a byte offset of a page, with their keys. -/
def fieldsAt (page off : Nat) : List (FieldSpec × Nat) :=
  (allSpecs.filter fun f => f.key / 2 ^ 20 == pageType page).filterMap fun f =>
    let o := bits f.key 19 8
    let i := if f.stride = 0 then 0 else (off - o) / f.stride
    if o ≤ off ∧ i < f.cnt ∧ o + i * f.stride = off then some (f, onPage page (f.key + i * f.stride * 256)) else none

/-- The lowest bit of a field in its register. -/
def fieldLo (k : Nat) : Nat := k % 256

/-- The width of the register that begins at an offset; 32 where none does. -/
def regWidth (page off : Nat) : Nat :=
  match fieldsAt page off with
  | [] => 32
  | f :: _ => f.1.rw

/-- The key of a page's table-select register. -/
def selKey (page : Nat) : Nat := page * 2 ^ 20 + (pageRow page).sel * 256

/-! ## Fields that are views of other state -/

/-- A mask of the numbers below n that satisfy p. -/
def maskOf (n : Nat) (p : Nat → Bool) : Nat := ((List.range n).map fun i => at' (b2n (p i)) i).sum

/-- The idle table bank. -/
def idleBank (s : State) : Store := bank s (1 - activeBank s)

/-- The own peer entry's HIVE_DEV, 0 when there is no own entry. -/
def ownHiveDev (s : State) : Nat :=
  match ownPeer s with
  | some p => peerHive (peerEntry s p)
  | none => 0

/-- Fields whose value is a view of other state, with that value. -/
def viewFields (s : State) : List (Nat × Nat) :=
  ((List.range 16).map fun q => (R.QUE_DB q, (qOf s q).db)) ++
  ((List.range 8).map fun q => (R.KX2C_DB q, (qOf s q).db)) ++
  ((List.range 12).flatMap fun n =>
    [(R.SLC_STAT_HALF n, b2n (bit (rd s R.GEN_DISABLED) (12 + n))),
     (R.SLC_STAT_OUT n, b2n (rdb s (R.SLC_STAT_OUT n) || bit (rd s R.GEN_DISABLED) n)),
     (R.SLC_ACC_USED n, (entriesOf s n).length)]) ++
  [(R.SEQ_STORES_IDLE_ST, s.seq.ucIdle.state), (R.SEQ_STORES_ACTIVE_ST, s.seq.ucAct.state),
   (R.SEQ_THR, maskOf 8 fun t => (thread s t).busy),
   (R.TBL_BANKS_A_ST, s.seq.bankA.state), (R.TBL_BANKS_B_ST, s.seq.bankB.state),
   (R.TBL_VER, (bank s (activeBank s)).version),
   (R.TBL_IDLE_VER, if (idleBank s).state = 2 ∨ (idleBank s).state = 3 then (idleBank s).version else 0),
   (R.TBL_KEY_USED_IDLE, (idleBank s).keySlot), (R.TBL_KEY_USED_ACTIVE, (bank s (activeBank s)).keySlot),
   (R.OBJ_VALID, (objIds s).length), (R.OBJ_MOVES, (moveIdxs s).length), (R.OBJ_IMAGES, (imageIdxs s).length),
   (R.TIER_POOL_USED, (((imageIdxs s).map (image s)).filter fun m => !imStream m).map imCount |>.sum),
   (R.TIER_STREAMS, maskOf 4 fun k => (s.streams.getD k none).isSome),
   (R.INTK_TRACK_USED, (tracksOpen s).length),
   (R.COD_LOG_BLOCKS, ((s.cod.shares.map (·.total)).foldl max 0)), (R.COD_FREE_MIN, freeMin s),
   (R.LP_LINKS_UP, linksUp s), (R.COL_OPEN, s.col.run.length),
   (R.HIVE_STAT_DEV, ownHiveDev s % 64), (R.HIVE_STAT_MEMBER, ownHiveDev s / 64),
   (R.HIVE_QUEUED, s.hive.home.length), (R.HIVE_HL_USED, s.hive.hot.length),
   (R.RAE_CTX_BUSY, s.hive.ctxs.length), (R.RAE_ADMIT_Q, min 256 s.hive.admq.length)]

/-- The value a register field reads as (R506). -/
def fieldNow (s : State) (k : Nat) : Nat :=
  match (viewFields s).find? fun e => e.1 == k with
  | some e => e.2
  | none => rd s k

/-! ## Registers common to every page (R502 to R505, R482) -/

/-- The roles that own a writable field of a page; every page has error registers, of O and of M. -/
def pageRoles (page : Nat) : Nat :=
  (allSpecs.filter fun f => f.key / 2 ^ 20 == pageType page && f.acc != .ro).foldl (fun m f => m ||| f.roles) 5

/-- PG_CAPS. -/
def pgCaps (page : Nat) : Nat :=
  let r := pageRow page
  at' r.tables 20 + at' (b2n (r.tables != 0)) 19 + at' (b2n !r.aon) 18 + at' (b2n r.aon) 17 + at' (b2n r.inj) 16 + r.counters

/-- A value written to a field of the page marked "at cap", or to a directory entry, waits (R508, R104). -/
def pageHeld (s : State) (page : Nat) : Bool :=
  s.acc.held.any (fun h => h.1 / 2 ^ 20 == page) || (page == 0x0A && s.dirHeld != [])

/-- PG_STAT.GATED and PG_STAT.HELD (R504). -/
def pgStatTop (s : State) (page : Nat) : Nat :=
  let gated := match pageDomain page with
    | some d => !bit (rd s R.PWR_DOM) d
    | none => false
  at' (b2n gated) 31 + at' (b2n (pageHeld s page)) 30

/-- A register's fields put together. -/
def fieldsValue (s : State) (page off : Nat) : Nat :=
  ((fieldsAt page off).map fun f => if f.1.acc = .wo then 0 else at' (fieldNow s f.2) (fieldLo f.2)).sum

/-- The value of the register that begins at an offset below 0x100, as a source reads it. -/
def regValue (s : State) (src page off : Nat) : Nat :=
  match off with
  | 0x00 => at' (pageType page) 24 + at' (page - pageType page) 16 + 0x4B33
  | 0x04 => 0x10000
  | 0x08 => pgCaps page
  | 0x0C => rightsOf s src + at' (pageRoles page) 4
  | 0x14 => fieldsValue s page 0x14 + pgStatTop s page
  | 0x20 => rd s (pgErrRaw page)
  | 0x24 => rd s (pgErrEn page)
  | 0x28 => rd s (pgErrStat page)
  | _ => fieldsValue s page off

/-! ## Window entries -/

/-- A queue entry (R527). -/
def queueEntry (s : State) (q : Nat) : Nat :=
  let x := qOf s q
  let wait := match oldestUnstarted x with
    | some r => waitMask s r.raw
    | none => 0
  at' wait 224 + at' (b2n x.fetchErr) 194 + at' (b2n x.dbBad) 193 + at' (b2n (x.ret == x.db)) 192 + at' x.ret 160 + at' x.head 128 +
    at' x.db 96 + at' x.size 80 + at' x.tenant 76 + at' (b2n x.en) 72 + x.base

/-- A thread entry (R529); an idle thread's reads zero. -/
def threadEntry (s : State) (t : Nat) : Nat :=
  let x := thread s t
  if !x.busy then 0
  else at' x.epoch 208 + at' x.cmdId 176 + at' x.visits 144 + at' x.row 130 + at' x.queue 126 + at' x.bank 124 + at' 1 120

/-- An accumulator entry (R207, R545). -/
def accEntry (s : State) (i : Nat) : Nat :=
  match (entriesOf s (i / 32768)).find? fun a => keySet a.key == i / 8 % 4096 && a.way == i % 8 with
  | some a => at' 1 127 + at' ((a.parts.map fun p => 2 ^ p.1).sum) 112 + at' a.occ 80 + at' a.bundle 60 + a.key
  | none => 0

/-- An intake tracking entry (R545). -/
def trackEntry (s : State) (i : Nat) : Nat :=
  match (tracksOpen s)[i]? with
  | some t => at' 1 127 + at' (b2n t.sparse) 126 + at' (t.next % 2 ^ 16) 96 + at' t.epoch 48 + t.stream
  | none => 0

/-- A context of the remote access engine (R553). -/
def ctxEntry (s : State) (i : Nat) : Nat :=
  match s.hive.ctxs.find? fun c => c.req.ctx == i with
  | some c =>
    at' 1 127 + at' c.req.gen 112 + at' c.req.op 108 + at' (peerHive (peerEntry s c.peer) % 64) 96 +
      at' (if c.issued then c.time else 0) 64 + c.req.off
  | none => 0

/-- Tables of a page's window: their entries and the bytes of one (R514). -/
def tableShape (s : State) (page t : Nat) : Nat × Nat :=
  match pageType page, t with
  | 0x02, 0 => (1024, 32)
  | 0x06, 0 => (8, 256)
  | 0x06, 1 => (16, 32)
  | 0x06, 2 => (1, 256)
  | 0x07, 0 => (8, 32)
  | 0x08, 0 => (s.seq.bankA.rows.length, 32)
  | 0x08, 1 => (s.seq.bankB.rows.length, 32)
  | 0x08, 2 => (s.seq.bankA.chains.length, 32)
  | 0x08, 3 => (s.seq.bankB.chains.length, 32)
  | 0x0A, 0 => (2 ^ 19, 32)
  | 0x0A, 1 => (64, 32)
  | 0x0A, 2 => (16384, 32)
  | 0x0C, 0 => (12 * 32768, 16)
  | 0x0C, 1 => (512, 16)
  | 0x0E, 0 => (s.comb.listN, 16)
  | 0x0E, 1 => (64, 16)
  | 0x10, 0 => (4096, 16)
  | 0x10, 1 => (32, 16)
  | 0x12, 0 => (4096, 16)
  | 0x14, 0 => (4096, 16)
  | 0x16, 0 => (96, 8)
  | 0x16, 1 => (262144, 8)
  | 0x17, 0 => (12, 8)
  | 0x18, 0 => (48, 8)
  | 0x18, 1 => (16, 8)
  | 0x18, 2 => (12, 8)
  | 0x1B, 0 => (64, 64)
  | 0x20, 0 => (1, 32)
  | _, _ => (0, 0)

/-- The selected table and index of a page's window; none beyond the page's tables. -/
def selected (s : State) (page : Nat) : Option (Nat × Nat) :=
  let v := rd s (selKey page)
  if selIndex v < (tableShape s page (selTable v)).1 then some (selTable v, selIndex v) else none

/-- The value of an entry. -/
def entryValue (s : State) (page t i : Nat) : Nat :=
  match pageType page, t with
  | 0x06, 0 => ((List.range 32).map fun k => at' (tally s (32 * i + k)) (64 * k)).sum
  | 0x06, 1 => queueEntry s i
  | 0x06, 2 => ((List.range 256).map fun c => at' (tallyErr s c) (8 * c)).sum
  | 0x07, _ => threadEntry s i
  | 0x08, 0 => s.seq.bankA.rows.getD i 0
  | 0x08, 1 => s.seq.bankB.rows.getD i 0
  | 0x08, 2 => s.seq.bankA.chains.getD i 0
  | 0x08, 3 => s.seq.bankB.chains.getD i 0
  | 0x0C, 0 => accEntry s i
  | 0x0C, 1 => trackEntry s i
  | 0x14, _ => ctxEntry s i
  | _, _ => tget s page t i

/-- The 256 bytes a page's window shows. -/
def windowBytes (s : State) (page : Nat) : Bytes :=
  match selected s page with
  | some (t, i) => slice (leBytes (tableShape s page t).2 (entryValue s page t i)) 0 256
  | none => List.replicate 256 0

/-! ## Reads (R39, R41, R499, R501, R514) -/

/-- The read latch of a source on a page. -/
def latchOf (s : State) (src page : Nat) : Option Bytes :=
  (s.acc.latch.find? fun l => l.1 == src && l.2.1 == page).map fun l => l.2.2

/-- A read latch is dropped. -/
def dropLatch (s : State) (src page : Nat) : State :=
  { s with acc := { s.acc with latch := s.acc.latch.filter fun l => !(l.1 == src && l.2.1 == page) } }

/-- A read latch is taken. -/
def setLatch (s : State) (src page : Nat) (b : Bytes) : State :=
  let s := dropLatch s src page
  { s with acc := { s.acc with latch := s.acc.latch ++ [(src, page, b)] } }

/-- Word off of a page below its window, as a source reads it. -/
def readWord (s : State) (src page off : Nat) : Nat :=
  if off < 0x100 then
    (if off % 8 = 4 ∧ regWidth page (off - 4) = 64 then bits (regValue s src page (off - 4)) 63 32
     else if 0x80 ≤ off ∧ page = 8 then bits (fieldNow s (R.TBL_IKEY ((off - 0x80) / 32))) (8 * (off % 32) + 31) (8 * (off % 32))
     else bits (regValue s src page off) 31 0)
  else
    let live := off < 0x800
    let o := (if live then off else off - 0x700) / 8 * 8
    if (pageRow page).counters ≤ (o - 0x100) / 8 then 0
    else bits (get (if live then s.cnt else s.shadow) (page * 4096 + o)) (32 * (off / 4 % 2) + 31) (32 * (off / 4 % 2))

/-- A well-formed register read of 4 or 8 bytes by a source, answered on TRD. -/
def registerRead (s : State) (r : Req) (addr : Nat) (wide : Bool) : State :=
  let n := if wide then 8 else 4
  let page := addr / 4096
  let off := addr % 4096
  let src := r.src.toNat
  if addr % n ≠ 0 ∨ !pageExists page then trd s r ecDescriptor (List.replicate n 0)
  else if 0xF00 ≤ off then
    let s := if off = 0xF00 then setLatch s src page (windowBytes s page) else s
    trd s r 0 (slice ((latchOf s src page).getD (windowBytes s page)) (off - 0xF00) n)
  else trd s r 0 (leBytes 4 (readWord s src page off) ++ (if wide then leBytes 4 (readWord s src page (off + 4)) else []))

end Sys2Proof.Machine
end

