-- ==== Sys2Proof/Machine/Access.lean ====
section
/-! DEFINITION. Register writes: the rows that name one register, table-window submissions, and the write of any other register
under rights, ranges, states and staging (R38 to R40, R101 to R105, R301, R487, R492, R499, R505 to R516, R526 to R557). -/

namespace Sys2Proof.Machine

/-! ## Queues and the event ring (R133, R135, R527, R528) -/

/-- QUE_CTRLq.ABORT written as 1: it reads 1 until the retire index equals the doorbell, and a further 1 is ignored meanwhile. -/
def abortWrite (s : State) (q : Nat) : State :=
  if rdb s (R.QUE_CTRL_ABORT q) then s
  else
    let s := if (qOf s q).ret = (qOf s q).db then s else wr s (R.QUE_CTRL_ABORT q) 1
    abortQ s q

/-- EVT_CONS written: accepted from the value in force up to EVT_PROD, otherwise ignored and counted (R528). -/
def evtConsWrite (s : State) (v : Nat) : State :=
  let cons := rd s R.EVT_CONS
  let prod := rd s R.EVT_PROD
  if (v + 2 ^ 32 - cons) % 2 ^ 32 ≤ (prod + 2 ^ 32 - cons) % 2 ^ 32 then
    let s := wr s R.EVT_CONS v
    let left := s.ev.flagged.filter fun i => decide ((i + 2 ^ 32 - v) % 2 ^ 32 < (prod + 2 ^ 32 - v) % 2 ^ 32)
    updateIrq { s with ev := { s.ev with flagged := left } }
  else count s C.EVT_CONS_BAD

/-- A submission on a page's window: the selected table and index with the entry submitted, its staged words dropped. -/
def submission (s : State) (src page data : Nat) (wide : Bool) : State × Option (Nat × Nat × Nat × Nat) :=
  match selected s page with
  | some (t, i) =>
    let cur := entryValue s page t i
    (dropStaged s src page, some (t, i, cur, submitted s src page cur data wide))
  | none => (dropStaged s src page, none)

/-- A submission on the QUE window: words 0 to 2 of a queue's entry. Its other tables are read only (R527). -/
def queueSubmit (s : State) (src data : Nat) (wide : Bool) : State × Nat :=
  match submission s src 6 data wide with
  | (s, some (1, q, _, new)) =>
    let s := noteReserved s 6 (bits new 71 64 != 0 || bits new 75 73 != 0 || bits new 79 78 != 0 || bits new 95 85 != 0 ||
      bits new 223 195 != 0 || bits new 255 228 != 0)
    match submitQueue s q new with
    | some s => (s, 0)
    | none => (s, ecDescriptor)
  | (s, some _) => (s, 0)
  | (s, none) => (s, ecDescriptor)

/-! ## The placement directory (R101 to R105) -/

/-- The objects a command's operands name (R138). -/
def objectsOf (raw : Nat) : List Nat :=
  match opcodeOf raw, subopOf raw with
  | 0x02, _ => [opd raw 82 64, opd raw 123 105]
  | 0x03, _ | 0x04, 0 | 0x04, 2 | 0x04, 3 => [opd raw 18 0]
  | 0x0F, _ => [opd raw 66 48, opd raw 85 67]
  | 0x10, _ => [opd raw 18 0, opd raw 37 19]
  | _, _ => []

/-- The objects a running stream program names. -/
def objectsOfStream (p : Stream) : List Nat := p.obj :: p.slotObj :: p.descs.flatMap fun l => l.map (·.obj)

/-- The objects a command names: those of its operands, and those a STEP or a REPLAY has bound (R105). -/
def objectsOfRun (r : Run) : List Nat :=
  objectsOf r.raw ++ (if (opcodeOf r.raw = 1 ∨ opcodeOf r.raw = 0x0E) ∧ subopOf r.raw = 0 ∧ r.aux.headD 0 = 21 then r.aux.drop 1 else [])

/-- An object that may not be deleted now (R105). -/
def objectNamed (s : State) (o : Nat) : Bool :=
  (s.queues.any fun q => q.cmds.any fun r => (objectsOfRun r).contains o) || (openObjs s).contains o ||
    ((moveIdxs s).any fun i => bits (tget s 0xA 1 i) 18 0 == o) ||
    (s.streams.any fun p => match p with
      | some p => (objectsOfStream p).contains o
      | none => false) ||
    ((imageIdxs s).any fun i => imObj (image s i) == o && imHeld (image s i)) ||
    ((objIds s).any fun p => p != o && (oComp (dir s p) == o || oLink (dir s p) == o || oSeed (dir s p) == o)) ||
    (oClass (dir s o) == clsUnique && !isAbsent s)

/-- An object is deleted: its entry, its images and its held change go. -/
def deleteObject (s : State) (o : Nat) : State :=
  let s := ((imageIdxs s).filter fun i => imObj (image s i) == o).foldl dropImage s
  let s := dropScale { s with dirHeld := put s.dirHeld o 0 } o
  tput s 0xA 0 o 0

/-- What a directory submission does: the state after it, and OBJ_STAT.WHY, 0 when it is accepted. A change within a job waits for
the cap (R104). -/
def dirEffect (s : State) (o cur new : Nat) : State × Nat :=
  if oValid new then
    if oValid cur then
      (match changeWhy s cur new with
      | 0 => if isAbsent s then (tput s 0xA 0 o (dirAtCap cur new), 0) else ({ s with dirHeld := put s.dirHeld o (new + 1) }, 0)
      | w => (s, w))
    else
      (match createWhy s o new with
      | 0 => (latchSeeds (tput (if isAbsent s then s else dropScale s o) 0xA 0 o new), 0)
      | w => (s, w))
  else if !oValid cur then (s, 0)
  else if objectNamed s o then (s, 7)
  else (deleteObject s o, 0)

/-- A submission on the OBJ window. HOME_EPOCH stays the block's; the move and image tables are read only (R101, R532). -/
def dirSubmit (s : State) (src data : Nat) (wide : Bool) : State × Nat :=
  match submission s src 0xA data wide with
  | (s, some (0, o, cur, v)) =>
    let new := setBits v 255 240 (oHomeEpoch cur)
    let s := noteReserved (count s C.OBJ_DIR_SUBMIT) 0xA !entryReserved new
    (match dirEffect s o cur new with
    | (s, 0) => (s, 0)
    | (s, w) => (wr (wr (count s C.OBJ_DIR_REFUSE) R.OBJ_STAT_DIR_REFUSED 1) R.OBJ_STAT_WHY w, ecDescriptor))
  | (s, some (t, _, _, v)) => (noteReserved s 0xA (readOnlyBad 0xA t v), 0)
  | (s, none) => (s, ecDescriptor)

/-! ## The peer table and the link map (R300, R301, R549) -/

/-- An entry of the running job's member list names peer i. -/
def peerInJob (s : State) (i : Nat) : Bool :=
  !isAbsent s && i != 0xFFF && (List.range s.comb.listN).any fun x => memPeer (member s x) == i

/-- A peer entry, new at index i, that the table may not hold: valid with another partition or no PROTO, or with a fabric identity or
hive device another valid entry has (R301). -/
def peerBad (s : State) (i new : Nat) : Bool :=
  peerValid new && (bits new 95 80 != rd s R.CMB_PART || decide (peerProto new < 2)) ||
    ((peerIdxs s).any fun j => j != i && peerValid (peerEntry s j) &&
      (peerFid (peerEntry s j) == peerFid new || (decide (64 ≤ peerHive new) && peerHive (peerEntry s j) == peerHive new)))

/-- A peer entry written by an installer: refused entries leave the table as it is and set PEER_REFUSED (R301). -/
def peerWrite (s : State) (src i cur new : Nat) : State × Nat :=
  let aud (s : State) (st : Nat) : State × Nat := (audit s 1 0x10F00 src (auditRole s src) st cur new, st)
  let fixed := early s || (peerInJob s i && setBits new 31 0 0 != setBits cur 31 0 0)
  if fixed || peerBad s i new then
    let s := if fixed then pgError s 0x10 29 0 else s
    aud (wr s R.LP_STAT_PEER_REFUSED 1) ecDescriptor
  else
    let r := aud (tput s 0x10 0 i new) 0
    (pumpAll r.1, 0)

/-- RTB_SHARE of link l written by an installer: ABSENT only, 1 to 32, and 128 units over all links (R549). -/
def shareWrite (s : State) (src l cur new : Nat) : State × Nat :=
  let aud (s : State) (st : Nat) : State × Nat := (audit s 1 0x10F00 src (auditRole s src) st cur new, st)
  let x := bits new 69 64
  let others := (((List.range 32).filter (· != l)).map fun k => bits (tget s 0x10 1 k) 69 64).sum
  if early s ∨ !isAbsent s ∨ x = 0 ∨ 32 < x then aud (pgError s 0x10 29 0) ecDescriptor
  else if 128 < others + x then aud s ecDescriptor
  else aud (tput s 0x10 1 l (setBits cur 69 64 x)) 0

/-- A submission on the LP window: a peer entry, or a link's RTB_SHARE. -/
def peerSubmit (s : State) (src data : Nat) (wide : Bool) : State × Nat :=
  match submission s src 0x10 data wide with
  | (s, some (0, i, cur, v)) =>
    let s := noteReserved s 0x10 (bits v 127 110 != 0 || bits v 99 96 != 0)
    let new := setBits (bits v 109 0) 99 96 0
    if rightsOf s src &&& 2 = 0 then (if new = cur then (s, 0) else refuseRights s 0x10 0x10F00 src true cur new)
    else peerWrite s src i cur new
  | (s, some (_, l, cur, v)) =>
    let s := noteReserved s 0x10 (bits v 127 70 != 0 || bits v 47 37 != 0 || bits v 15 9 != 0 || bits v 7 6 != 0)
    let new := setBits cur 69 64 (bits v 69 64)
    if rightsOf s src &&& 2 = 0 then (if new = cur then (s, 0) else refuseRights s 0x10 0x10F00 src true cur new)
    else shareWrite s src l cur new
  | (s, none) => (s, ecDescriptor)

/-! ## Health indicators and sensor entries (R556, R557) -/

/-- A submission on the HLT window: weight and full scale of an indicator. -/
def healthSubmit (s : State) (src data : Nat) (wide : Bool) : State × Nat :=
  match submission s src 0x17 data wide with
  | (s, some (_, x, cur, v)) =>
    let s := noteReserved s 0x17 (bits v 31 24 != 0 || bits v 63 48 != 0)
    let new := setBits (setBits cur 39 32 (bits v 39 32)) 23 0 (bits v 23 0)
    let aud (s : State) (st : Nat) : State × Nat := (audit s 1 0x17F00 src (auditRole s src) st cur new, st)
    if rightsOf s src &&& 2 = 0 then (if new = cur then (s, 0) else refuseRights s 0x17 0x17F00 src true cur new)
    else if early s ∨ (x < 10 ∧ bits new 23 0 = 0) then aud (pgError s 0x17 29 0) ecDescriptor
    else aud (tput s 0x17 0 x new) 0
  | (s, none) => (s, ecDescriptor)

/-- A thermal point's entry written: TOFF with I rights, the trims with M rights, each judged by itself (R40, R557). -/
def pointWrite (s : State) (src p cur v : Nat) : State × Nat :=
  let rights := rightsOf s src
  let toff := setBits cur 39 32 (bits v 39 32)
  let new := if rights &&& 2 = 0 then cur else toff
  let new := if rights &&& 4 = 0 then new else setBits new 31 0 (bits v 31 0)
  let all := setBits toff 31 0 (bits v 31 0)
  let refused := new != all
  let soon := early s && new != cur
  let s := if refused then pgError s 0x18 30 0 else s
  let s := if soon then pgError s 0x18 29 0 else s
  let st := if soon then ecDescriptor else if refused then ecRights else 0
  let s := if soon then s else tput s 0x18 0 p new
  (if rights = 1 ∧ !refused then s else audit s 1 0x18F00 src (auditRole s src) st cur all, st)

/-- A droop threshold written: 10 to 150 mV. -/
def droopWrite (s : State) (src c cur v : Nat) : State × Nat :=
  let new := setBits cur 7 0 (bits v 7 0)
  let aud (s : State) (st : Nat) : State × Nat := (audit s 1 0x18F00 src (auditRole s src) st cur new, st)
  let x := bits v 7 0
  if rightsOf s src &&& 2 = 0 then (if new = cur then (s, 0) else refuseRights s 0x18 0x18F00 src true cur new)
  else if early s ∨ x < 10 ∨ 150 < x then aud (pgError s 0x18 29 0) ecDescriptor
  else aud (tput s 0x18 1 c new) 0

/-- A submission on the SNS window; the ageing table is read only. -/
def sensorSubmit (s : State) (src data : Nat) (wide : Bool) : State × Nat :=
  match submission s src 0x18 data wide with
  | (s, some (0, p, cur, v)) => pointWrite (noteReserved s 0x18 (bits v 47 40 != 0)) src p cur v
  | (s, some (1, c, cur, v)) => droopWrite (noteReserved s 0x18 (bits v 31 8 != 0 || bits v 63 48 != 0)) src c cur v
  | (s, some _) => (s, 0)
  | (s, none) => (s, ecDescriptor)

/-- A submission on a read-only table: nothing changes but RSVD_WR for reserved bits (R516). -/
def readOnlySubmit (s : State) (src page data : Nat) (wide : Bool) : State × Nat :=
  match submission s src page data wide with
  | (s, some (t, _, _, v)) => (noteReserved s page (readOnlyBad (pageType page) t v), 0)
  | (s, none) => (s, ecDescriptor)

/-- The write of window offset 0 of a page (R514). -/
def windowSubmit (s : State) (r : Req) (page data : Nat) (wide : Bool) : State × Nat :=
  let src := r.src.toNat
  match page with
  | 0x06 => queueSubmit s src data wide
  | 0x0A => dirSubmit s src data wide
  | 0x10 => peerSubmit s src data wide
  | 0x12 => groupSubmit s r data wide
  | 0x16 => remapSubmit s r data wide
  | 0x17 => healthSubmit s src data wide
  | 0x18 => sensorSubmit s src data wide
  | _ => readOnlySubmit s src page data wide

/-- A word of a window written beside offset 0: staged; beyond the entry it is reserved. -/
def windowWord (s : State) (src page w v : Nat) : State :=
  match selected s page with
  | some (t, _) =>
    if 4 * w < (tableShape s page t).2 then stageWord s src page w v else noteReserved s page (v != 0)
  | none => stageWord s src page w v

/-- A write of a page's window (R499, R514, R516). -/
def windowWrite (s : State) (r : Req) (page off data : Nat) (wide : Bool) : State × Nat :=
  let src := r.src.toNat
  let w := (off - 0xF00) / 4
  if (pageRow page).tables = 0 then (noteReserved s page (data != 0), 0)
  else if w = 0 then windowSubmit s r page data wide
  else if wide then (windowWord (windowWord s src page w (bits data 31 0)) src page (w + 1) (bits data 63 32), 0)
  else (windowWord s src page w data, 0)

/-! ## Forerunner aliases (R127, R539) -/

/-- A forerunner alias acts only while KX2C_CFG.EN is 1; otherwise the write is ignored and STATE_WR sets. -/
def ifKx (s : State) (t : State) : State := if rdb s R.KX2C_CFG_EN then t else pgError s 0x1D 29 0

/-- KX2C_FLUSH written as 1: every dirty cache is written back; it reads 1 until that is done. -/
def kxFlush (s : State) : State :=
  if rdb s R.KX2C_FLUSH then s
  else
    let is := dirtyCaches s 0
    if is = [] then s
    else
      let s := flushAll (joinFlushes (wr s R.KX2C_FLUSH 1) is) is
      settleKx { s with chip := { s.chip with flush := is } }

/-! ## Settings that other state constrains (R109, R300, R528, R533, R535, R550 to R552, R555, R556) -/

/-- The stated range of a field, with the ranges that are not one interval. -/
def inRange (f : FieldSpec) (k x : Nat) : Bool :=
  if k = R.EVT_SIZE then x == 0 || (decide (7 ≤ x) && decide (x ≤ 20))
  else if k = R.RMAP_BROOD_SLOTS then x == 0 || decide (35 ≤ x)
  else f.hi == 0 || (decide (f.lo ≤ x) && decide (x ≤ f.hi))

/-- The home agent has nothing queued, and all it held is in memory (R340, R559). -/
def homeDrained (s : State) : Bool :=
  s.hive.home == [] && s.hive.fetch == [] && s.hive.hot.all (fun h => !h.dirty) && writesAcked s hiveOwner

/-- The user of a field is at work, so that a write of it is refused. -/
def settingBusy (s : State) (k : Nat) : Bool :=
  if k = R.EVT_BASE ∨ k = R.EVT_SIZE then s.queues.any (·.en) || rd s R.EVT_PROD != rd s R.EVT_CONS
  else if k = R.ROOT_WS_OBJ then rdb s R.ROOT_STAT_ITER_BUSY
  else if k = R.COL_STAGE_OBJ then s.col.run != []
  else if k = R.HIVE_OBJ then rdb s R.HIVE_CFG_EN || !homeDrained s
  else if k = R.SPN_SEAL_PEER ∨ k = R.SPN_SEALIN_FROM ∨ k = R.SPN_SEALIN_BASE ∨ k = R.SPN_SEALIN_CELLS then
    s.spine.run.isSome || !writesAcked s storeOwner
  else if k = R.SNP_AT ∨ k = R.SNP_CTRL_ARM then s.chip.timer.isSome
  else if k = R.CMB_PART then (peerIdxs s).any fun i => peerValid (peerEntry s i)
  else false

/-- Two regions of one stack share a slot. -/
def regionsClash : List Region → Bool
  | [] => false
  | a :: t => t.any (overlap a) || regionsClash t

/-- No two regions of an enabled stack overlap, and every valid home lies in its region (R109). -/
def regionsOk (s : State) : Bool :=
  ((List.range 12).filter (stackOn s)).all (fun st => !regionsClash (regions s st)) &&
    (objIds s).all fun o => homeInRegion s (homeOfEntry (dir s o))

/-- The floors of the image pool fit the pool (R533). -/
def floorsOk (s : State) : Bool := decide (((List.range 4).map (floorOf s)).sum ≤ poolCells s)

/-- Registers that set a region of R109. -/
def regionKeys : List Nat :=
  [R.RMAP_BROOD_BASE, R.RMAP_BROOD_SLOTS, R.COD_LOG_SIZE, R.COD_LOG_BASE, R.CMB_STKMASK, R.CMB_DATA_CELLS, R.CMB_DATA_BASE,
   R.CMB_PAR_BASE, R.CMB_LEDGER_BASE, R.CMB_SCALE_BASE, R.TIER_POOL_BASE, R.TIER_POOL_SLOTS]

/-- Flits all virtual channels grant (R550). -/
def creditTotal (s : State) : Nat :=
  rd s R.LP_VCCRED_VC0 + rd s R.LP_VCCRED_VC1 + rd s R.LP_VCCRED_VC2 + rd s R.LP_VCCRED_VC3 + rd s R.LP_VCCRED_VC4 +
    rd s R.LP_VCCRED_VC5 + rd s R.LP_VCCRED_VC6 + rd s R.LP_VCCRED_VC7

/-- The settings as they stand are ones that a write of field k may leave. -/
def settingOk (s : State) (k : Nat) : Bool :=
  let page := k / 2 ^ 20
  if k = R.TIER_POOL_BASE ∨ k = R.TIER_POOL_SLOTS then regionsOk s && floorsOk s
  else if regionKeys.contains k then regionsOk s
  else if R.TIER_POOL_FLOOR 0 ≤ k ∧ k ≤ R.TIER_POOL_FLOOR 3 then floorsOk s
  else if page = 0x0B ∧ k < R.TIER_POOL_FLOOR 0 then
    decide (((List.range 4).map fun n => rd s (R.TIER_LIM n) - rd s (R.TIER_BASE n)).sum ≤ 2 ^ 27)
  else if R.LP_VCCRED_VC0 ≤ k ∧ k ≤ R.LP_VCCRED_VC7 then decide (creditTotal s ≤ 1024)
  else if k = R.HLT_WATCH ∨ k = R.HLT_ALARM ∨ k = R.HLT_HYST then
    decide (rd s R.HLT_HYST ≤ rd s R.HLT_WATCH) && decide (rd s R.HLT_WATCH < rd s R.HLT_ALARM)
  else true

/-! ## A register without a row of its own (R40, R487, R505 to R508, R516) -/

/-- What a write does to one field. -/
inductive FieldAct where
  /-- nothing -/
  | leave
  /-- refused for rights -/
  | rights
  /-- refused with DESCRIPTOR -/
  | refuse
  /-- stored -/
  | store (x : Nat)
  /-- held for the cap -/
  | hold (x : Nat)
  deriving DecidableEq, Repr

/-- What a write of x to a field does (R40, R466, R487, R506, R508). -/
def fieldAct (s : State) (src : Nat) (f : FieldSpec) (k x : Nat) : FieldAct :=
  let may := rightsOf s src &&& f.roles != 0
  match f.acc with
  | .ro => .leave
  | .rw =>
    if !may then (if x = fieldNow s k then .leave else .rights)
    else if !inRange f k x || settingBusy s k || (f.absent && !isAbsent s) || (f.roles &&& 1 == 0 && early s) then .refuse
    else if f.atCap && !isAbsent s then .hold x
    else .store x
  | .w1c => if x = 0 then .leave else if may then .store (bits (rd s k) (f.width - 1) 0 - (rd s k &&& x)) else .rights
  | .wo => if may then .leave else .rights
  | .ws => if may || x == 0 then .leave else .rights

/-- A field as an act leaves it. A value that a cap would apply takes effect at once while ABSENT. -/
def actField (s : State) (f : FieldSpec) (k : Nat) (a : FieldAct) : State :=
  match a with
  | .store x => if f.atCap then applyField s k x 0 else wr s k x
  | .hold x => { s with acc := { s.acc with held := put s.acc.held k (x + 1) } }
  | _ => s

/-- What follows the write of a field. -/
def afterField (s : State) (src k : Nat) : State :=
  let page := k / 2 ^ 20
  if k = R.EVT_CTRL_IRQ_EN then updateIrq s
  else if k = R.SNP_AT then (if rdb s R.SNP_CTRL_ARM then noteArm s else s)
  else if (pageRow page).tables ≠ 0 ∧ k = selKey page then dropLatch (dropStaged s src page) src page
  else s

/-- An installer's or maker's field that the write covers and that the writer may write or was refused (R492). -/
def audited (s : State) (src : Nat) (f : FieldSpec) (k x : Nat) : Bool :=
  f.acc != .ro && f.roles &&& 6 != 0 && (rightsOf s src &&& f.roles != 0 || x != fieldNow s k)

/-- The fields of a register written together, as one value: each field by itself; settings that the result would break refuse the
whole write; one audit entry for the register (R40, R492, R519). With one field refused for rights and another with DESCRIPTOR, DESCRIPTOR
answers (DESIGN CHOICE, notes/assumptions/79). -/
def writeFields (s : State) (src page off v : Nat) : State × Nat :=
  let fs := (fieldsAt page off).map fun f => (f.1, f.2, bits v (fieldLo f.2 + f.1.width - 1) (fieldLo f.2))
  let acts := fs.map fun f => (f.1, f.2.1, fieldAct s src f.1 f.2.1 f.2.2)
  let old := regValue s src page off
  let aud := fs.any fun f => audited s src f.1 f.2.1 f.2.2
  let done := acts.foldl (fun s a => actField s a.1 a.2.1 a.2.2) s
  let bad := acts.any fun a => match a.2.2 with
    | .store _ => !settingOk done a.2.1
    | _ => false
  let refused := bad || acts.any fun a => a.2.2 == .refuse
  let rights := acts.any fun a => a.2.2 == .rights
  let st := if refused then ecDescriptor else if rights then ecRights else 0
  let t := if bad then s else done
  let t := if rights then pgError t page 30 0 else t
  let t := if refused then pgError t page 29 0 else t
  let t := if refused ∧ page = 0x0E ∧ off = 0x40 then wr t R.LP_STAT_PEER_REFUSED 1 else t
  let t := if aud then audit t 1 (4096 * page + off) src (auditRole s src) st old v else t
  (acts.foldl (fun t a => match a.2.2 with
    | .store _ => if bad then t else afterField t src a.2.1
    | _ => t) t, st)

/-! ## Registers whose write acts (R443, R444, R472, R477, R483, R505, R520, R536) -/

/-- PG_ERR_RAW, PG_ERR_EN and PG_ERR_STAT (R505). -/
def errorWrite (s : State) (page off v : Nat) : State :=
  let x := v / 2 ^ 27 * 2 ^ 27
  let clear (s : State) (k : Nat) : State := wr s k (rd s k - (rd s k &&& x))
  match off with
  | 0x20 => clear s (pgErrRaw page)
  | 0x24 => wr s (pgErrEn page) x
  | _ => clear (clear s (pgErrStat page)) (pgErrRaw page)

/-- GEN_CTRL. The lanes an LTEST finds bad are free. -/
def genCtrlWrite (s : State) (src v : Nat) : State × Nat :=
  let f := fresh s
  if bit v 1 then genCtrl f.2 src v (Config.laneTestBad f.1).toNat else genCtrl s src v 0

/-- SNP_CTRL: HOLD, ARM and STROBE. ARM is refused while a SNAP holds the timer when the write would change it (R444). -/
def snpCtrl (s : State) (v : Nat) : State × Nat :=
  let arm := bit v 1
  let change := arm != rdb s R.SNP_CTRL_ARM
  let no := change && settingBusy s R.SNP_CTRL_ARM
  let s := wr s R.SNP_CTRL_HOLD (b2n (bit v 2))
  let s := if no then pgError s 0x1A 29 0
    else if change then noteArm (wr s R.SNP_CTRL_ARM (b2n arm)) else s
  (if bit v 0 then strobeWrite s else s, if no then ecDescriptor else 0)

/-- DIG_EXP_EPOCH written: the expectation is armed with the value then in force (R436, R537). -/
def expectWrite (s : State) (v : Nat) : State :=
  digExpect (setCod (wr s R.DIG_EXP_EPOCH (bits v 47 0)) { s.cod with expect := rd s R.DIG_EXP_VALUE })

/-- Bits of a register that belong to no field. -/
def reservedBits (page off v : Nat) : Nat :=
  if 0x20 ≤ off ∧ off < 0x2C then bits v 26 0
  else if off = 0x08 then bits v 31 24 + bits v 15 8
  else if off = 0x0C then bits v 31 7
  else if off < 0x10 ∨ off = 0x2C then 0
  else
    let m := (fieldsAt page off).foldl (fun m f => m ||| at' (2 ^ f.1.width - 1) (fieldLo f.2)) (if off = 0x14 then 3 * 2 ^ 30 else 0)
    v - (v &&& m)

/-- A write of a register that acts, by page and offset; none for a register of plain fields. -/
def actRegister (s : State) (src page off v : Nat) : Option (State × Nat) :=
  match page, off with
  | 0x00, 0x10 => some (genCtrlWrite s src v)
  | 0x00, 0x60 => some (disRequest s src v)
  | 0x01, 0x10 => some (roleCtrl s src v)
  | 0x05, 0x50 => some (offsetWrite s v, 0)
  | 0x06, 0xD0 => some (evtConsWrite s v, 0)
  | 0x0E, 0x98 => some (declareWrite s (bits v 13 0))
  | 0x13, 0x40 => some (hiveEnable s (bit v 0))
  | 0x1A, 0x10 => some (snpCtrl s v)
  | 0x1B, 0x48 => some (expectWrite s v, 0)
  | 0x1D, 0x80 => some (if bit v 0 then ifKx s (kxFlush s) else s, 0)
  | _, _ =>
    if off < 0x10 then some (s, 0)
    else if 0x20 ≤ off ∧ off < 0x2C then some (errorWrite s page off v, 0)
    else if off = 0x2C then some (injectErr s src page v)
    else if page = 6 ∧ 0x40 ≤ off ∧ off < 0x80 then some (doorbell s ((off - 0x40) / 4) v, 0)
    else if page = 6 ∧ 0x80 ≤ off ∧ off < 0xC0 then some (if bit v 0 then abortWrite s ((off - 0x80) / 4) else s, 0)
    else if page = 0x1D ∧ 0x60 ≤ off ∧ off < 0x80 then some (ifKx s (doorbell s ((off - 0x60) / 4) v), 0)
    else none

/-- A whole register of 32 or 64 bits written (R40, R516). -/
def commitRegister (s : State) (src page off v : Nat) : State × Nat :=
  let s := noteReserved s page (reservedBits page off v != 0)
  match actRegister s src page off v with
  | some x => x
  | none => writeFields s src page off v

/-- A half of a 64-bit register staged by a source: one register per source (R509). -/
def stageLow (s : State) (src addr v : Nat) : State :=
  { s with acc := { s.acc with low := (s.acc.low.filter fun l => l.1 != src) ++ [(src, addr, v)] } }

/-- The high half of a 64-bit register commits with the staged low half, or with the low half as it is; zero for WO and WS (R509). -/
def commitHigh (s : State) (src page off v : Nat) : State × Nat :=
  let addr := 4096 * page + off
  let plain := (fieldsAt page off).any fun f => f.1.acc == .wo || f.1.acc == .ws
  let low := match s.acc.low.find? fun l => l.1 == src && l.2.1 == addr with
    | some l => l.2.2
    | none => if plain then 0 else bits (regValue s src page off) 31 0
  let s := { s with acc := { s.acc with low := s.acc.low.filter fun l => !(l.1 == src && l.2.1 == addr) } }
  commitRegister s src page off (v * 2 ^ 32 + low)

/-- A word of a wide register: response words and key slots commit on their word 7 (R510). -/
def wideWrite (s : State) (src page off v : Nat) : State × Nat :=
  if page = 1 then (if off = 0x7C then roleResponse s src v else (stageWide s src (0x1000 + off) v, 0))
  else if off % 32 = 28 then keyCommit s src ((off - 0x80) / 32) v
  else (stageWide s src (0x8000 + off) v, 0)

/-- A 4-byte write below offset 0x100. -/
def writeWord (s : State) (src page off v : Nat) : State × Nat :=
  if (page = 1 ∧ 0x60 ≤ off ∧ off < 0x80) ∨ (page = 8 ∧ 0x80 ≤ off) then wideWrite s src page off v
  else if regWidth page off = 64 then (stageLow s src (4096 * page + off) v, 0)
  else if off % 8 = 4 ∧ regWidth page (off - 4) = 64 then commitHigh s src page (off - 4) v
  else commitRegister s src page off v

/-- A write of counters and shadows: ignored, and reserved where the page implements none (R511, R512, R516). -/
def counterWrite (s : State) (page off data : Nat) : State × Nat :=
  let o := if off < 0x800 then off else off - 0x700
  (noteReserved s page ((pageRow page).counters ≤ (o - 0x100) / 8 && data != 0), 0)

/-- A register write of 4 or 8 bytes: its status (R38, R499, R501). Two registers at once act lower first, and the worse status
stands. -/
def registerWrite (s : State) (r : Req) (addr : Nat) (wide : Bool) (data : Nat) : State × Nat :=
  let src := r.src.toNat
  let page := addr / 4096
  let off := addr % 4096
  let data := if wide then data else bits data 31 0
  if addr % (if wide then 8 else 4) ≠ 0 ∨ !pageExists page then (s, ecDescriptor)
  else if s.chip.held && !(pageRow page).aon then (s, 0)
  else if 0xF00 ≤ off then windowWrite s r page off data wide
  else if 0x100 ≤ off then counterWrite s page off data
  else if !wide then writeWord s src page off data
  else if regWidth page off = 64 then commitRegister s src page off data
  else
    let x := writeWord s src page off (bits data 31 0)
    let y := writeWord x.1 src page (off + 4) (bits data 63 32)
    (y.1, max x.2 y.2)

/-! ## The rows' meanings -/

/-- QUE_DB (R133): queue and doorbell value. -/
def execQueDb (r : Req) (q : Fin 16) (v : BitVec 32) (s : State) : Ans :=
  .next (answered r (unlessHeld (begin s) (doorbell (begin s) q v.toNat, 0)))

/-- QUE_ABORT (R135). -/
def execQueAbort (r : Req) (q : Fin 16) (s : State) : Ans :=
  .next (answered r (unlessHeld (begin s) (abortWrite (begin s) q, 0)))

/-- QUE_ENTRY_SUBMIT (R527): the data of the write of window offset 0, and whether it is 8 bytes. -/
def execQueEntrySubmit (r : Req) (data : BitVec 64) (wide : Bool) (s : State) : Ans :=
  .next (answered r (unlessHeld (begin s) (queueSubmit (begin s) r.src.toNat data.toNat wide)))

/-- EVT_CONS_WRITE (R528). -/
def execEvtConsWrite (r : Req) (v : BitVec 32) (s : State) : Ans :=
  .next (answered r (unlessHeld (begin s) (evtConsWrite (begin s) v.toNat, 0)))

/-- DIRECTORY_SUBMIT (R101). -/
def execDirectorySubmit (r : Req) (data : BitVec 64) (wide : Bool) (s : State) : Ans :=
  .next (answered r (unlessHeld (begin s) (dirSubmit (begin s) r.src.toNat data.toNat wide)))

/-- PEER_ENTRY_WRITE (R301). -/
def execPeerEntryWrite (r : Req) (data : BitVec 64) (wide : Bool) (s : State) : Ans :=
  .next (answered r (unlessHeld (begin s) (peerSubmit (begin s) r.src.toNat data.toNat wide)))

/-- TIME_OFFSET (R443): the value, and whether the edge comes before the next command. -/
def execTimeOffset (r : Req) (v : BitVec 64) (edge : Bool) (s : State) : Ans :=
  .next (withEdge edge (answered r (offsetWrite (begin s) v.toNat, 0)))

/-- SNP_STROBE (R444): STROBE written with HOLD and ARM as they are, and whether the edge comes before the next command. -/
def execSnpStrobe (r : Req) (edge : Bool) (s : State) : Ans :=
  .next (withEdge edge (answered r (strobeWrite (begin s), 0)))

/-- DIG_EXP_EPOCH (R436). -/
def execDigExpEpoch (r : Req) (e : BitVec 48) (s : State) : Ans :=
  .next (answered r (unlessHeld (begin s) (expectWrite (begin s) e.toNat, 0)))

/-- KX2C_DB (R539): an alias of queues 0 to 7. -/
def execKx2cDb (r : Req) (q : Fin 8) (v : BitVec 32) (s : State) : Ans :=
  .next (answered r (unlessHeld (begin s) (ifKx (begin s) (doorbell (begin s) q v.toNat), 0)))

/-- KX2C_FLUSH (R539). -/
def execKx2cFlush (r : Req) (s : State) : Ans :=
  .next (answered r (unlessHeld (begin s) (ifKx (begin s) (kxFlush (begin s)), 0)))

/-- A request of the register window, or of the reserved window 3: reads and writes of 4 or 8 bytes act, everything else is malformed
(R38, R39). The table of commands has no row for a read, which comes with this one's operands. -/
def registerRequest (s : State) (r : Req) (win3 : Bool) (op addr size data : Nat) : State :=
  let n := sizeBytes size
  let bad := win3 || decide (1 < op) || (size != 2 && size != 3) || decide (2 ^ 18 ≤ addr) || decide (addr % n ≠ 0)
  if bad then refuseReq s r op n ecDescriptor (List.replicate n 0)
  else if op = 0 then registerRead s r addr (size == 3)
  else answered r (registerWrite s r addr (size == 3) data)

/-- REGISTER_WRITE (R38, R506): the request's OP, whether it names window 3 in place of 0, its byte address, its SIZE code and its data. -/
def execRegisterWrite (r : Req) (x : RegOp) (size : BitVec 3) (data : BitVec 64) (s : State) : Ans :=
  .next (registerRequest (begin s) r x.win3 x.op.toNat x.addr.toNat size.toNat data.toNat)

end Sys2Proof.Machine
end

