-- ==== Sys2Proof/Machine/Dispatch.lean ====
section
/-! DEFINITION. The effect of each command on everything but the queue of waiting commands: one arm per row. -/

namespace Sys2Proof.Machine

/-- The effect of a command. -/
def exec (i : Instr) (s : State) : Host.Outcome State Fault Refusal :=
  match i with
  | .nop q => Sys2Proof.Machine.execNop q s
  | .stepRun q => Sys2Proof.Machine.execStepRun q s
  | .stepLoad q => Sys2Proof.Machine.execStepLoad q s
  | .stepUcode q => Sys2Proof.Machine.execStepUcode q s
  | .collReduceScatter q => Sys2Proof.Machine.execCollReduceScatter q s
  | .collAllGather q => Sys2Proof.Machine.execCollAllGather q s
  | .collBroadcast q => Sys2Proof.Machine.execCollBroadcast q s
  | .collParityScatter q => Sys2Proof.Machine.execCollParityScatter q s
  | .collRebuildChain q => Sys2Proof.Machine.execCollRebuildChain q s
  | .move q => Sys2Proof.Machine.execMove q s
  | .imageFill q => Sys2Proof.Machine.execImageFill q s
  | .imageDrop q => Sys2Proof.Machine.execImageDrop q s
  | .imageFlush q => Sys2Proof.Machine.execImageFlush q s
  | .imageStream q => Sys2Proof.Machine.execImageStream q s
  | .imageStop q => Sys2Proof.Machine.execImageStop q s
  | .cap q => Sys2Proof.Machine.execCap q s
  | .seal q => Sys2Proof.Machine.execSeal q s
  | .rebuild q => Sys2Proof.Machine.execRebuild q s
  | .restore q => Sys2Proof.Machine.execRestore q s
  | .rollback q => Sys2Proof.Machine.execRollback q s
  | .join q => Sys2Proof.Machine.execJoin q s
  | .leaveDrain q => Sys2Proof.Machine.execLeaveDrain q s
  | .leaveImmediate q => Sys2Proof.Machine.execLeaveImmediate q s
  | .fence q => Sys2Proof.Machine.execFence q s
  | .snapNow q edge => Sys2Proof.Machine.execSnapNow q edge s
  | .snapAtTime q => Sys2Proof.Machine.execSnapAtTime q s
  | .replay q => Sys2Proof.Machine.execReplay q s
  | .root q f => Sys2Proof.Machine.execRoot q f s
  | .drawRaw q => Sys2Proof.Machine.execDrawRaw q s
  | .drawUniform q => Sys2Proof.Machine.execDrawUniform q s
  | .tallyAdd q => Sys2Proof.Machine.execTallyAdd q s
  | .tallySet q => Sys2Proof.Machine.execTallySet q s
  | .tallyClearErr q => Sys2Proof.Machine.execTallyClearErr q s
  | .queueFetch => Sys2Proof.Machine.execQueueFetch s
  | .queueFetchData tag stat data => Sys2Proof.Machine.execQueueFetchData tag stat data s
  | .commandStart q => Sys2Proof.Machine.execCommandStart q s
  | .commandRetire q => Sys2Proof.Machine.execCommandRetire q s
  | .eventPost => Sys2Proof.Machine.execEventPost s
  | .eventRecordAck stat => Sys2Proof.Machine.execEventRecordAck stat s
  | .irqHoldoffExpiry => Sys2Proof.Machine.execIrqHoldoffExpiry s
  | .initiatorReadData tag stat data => Sys2Proof.Machine.execInitiatorReadData tag stat data s
  | .initiatorWriteResponse tag stat => Sys2Proof.Machine.execInitiatorWriteResponse tag stat s
  | .queDb r q v => Sys2Proof.Machine.execQueDb r q v s
  | .queAbort r q => Sys2Proof.Machine.execQueAbort r q s
  | .queEntrySubmit r data wide => Sys2Proof.Machine.execQueEntrySubmit r data wide s
  | .evtConsWrite r v => Sys2Proof.Machine.execEvtConsWrite r v s
  | .directorySubmit r data wide => Sys2Proof.Machine.execDirectorySubmit r data wide s
  | .peerEntryWrite r data wide => Sys2Proof.Machine.execPeerEntryWrite r data wide s
  | .groupSubmit r data wide => Sys2Proof.Machine.execGroupSubmit r data wide s
  | .remapEntrySubmit r data wide => Sys2Proof.Machine.execRemapEntrySubmit r data wide s
  | .roleReq r role => Sys2Proof.Machine.execRoleReq r role s
  | .roleResponse r word7 => Sys2Proof.Machine.execRoleResponse r word7 s
  | .roleClose r => Sys2Proof.Machine.execRoleClose r s
  | .blkRst r => Sys2Proof.Machine.execBlkRst r s
  | .ltest r bad => Sys2Proof.Machine.execLtest r bad s
  | .cfgDone r => Sys2Proof.Machine.execCfgDone r s
  | .genDisReq r v => Sys2Proof.Machine.execGenDisReq r v s
  | .cmbDeclare r x => Sys2Proof.Machine.execCmbDeclare r x s
  | .timeOffset r v edge => Sys2Proof.Machine.execTimeOffset r v edge s
  | .snpStrobe r edge => Sys2Proof.Machine.execSnpStrobe r edge s
  | .tblIkeyCommit r slot word7 => Sys2Proof.Machine.execTblIkeyCommit r slot word7 s
  | .digExpEpoch r e => Sys2Proof.Machine.execDigExpEpoch r e s
  | .hiveCfgEn r en => Sys2Proof.Machine.execHiveCfgEn r en s
  | .kx2cDb r q v => Sys2Proof.Machine.execKx2cDb r q v s
  | .kx2cFlush r => Sys2Proof.Machine.execKx2cFlush r s
  | .pgErrInj r page v => Sys2Proof.Machine.execPgErrInj r page v s
  | .registerWrite r x size data => Sys2Proof.Machine.execRegisterWrite r x size data s
  | .codedWindowRead r op addr size => Sys2Proof.Machine.execCodedWindowRead r op addr size s
  | .hiveHostRequest r op addr size data be => Sys2Proof.Machine.execHiveHostRequest r op addr size data be s
  | .raeIssue => Sys2Proof.Machine.execRaeIssue s
  | .hiveRequestArrival p tag memb body => Sys2Proof.Machine.execHiveRequestArrival p tag memb body s
  | .hiveRead line => Sys2Proof.Machine.execHiveRead line s
  | .hiveWrite line => Sys2Proof.Machine.execHiveWrite line s
  | .hiveAdd line => Sys2Proof.Machine.execHiveAdd line s
  | .hiveMin line => Sys2Proof.Machine.execHiveMin line s
  | .hiveMax line => Sys2Proof.Machine.execHiveMax line s
  | .hiveSwap line => Sys2Proof.Machine.execHiveSwap line s
  | .cellRead => Sys2Proof.Machine.execCellRead s
  | .hiveResponseRecord p body => Sys2Proof.Machine.execHiveResponseRecord p body s
  | .hiveProgressTimeout p => Sys2Proof.Machine.execHiveProgressTimeout p s
  | .hivePackTimeout p resp => Sys2Proof.Machine.execHivePackTimeout p resp s
  | .hotLineIdle line => Sys2Proof.Machine.execHotLineIdle line s
  | .flitReceive l b fec => Sys2Proof.Machine.execFlitReceive l b fec s
  | .nakReceive l lseq => Sys2Proof.Machine.execNakReceive l lseq s
  | .creditReturn l c => Sys2Proof.Machine.execCreditReturn l c s
  | .creditReturnTimer l => Sys2Proof.Machine.execCreditReturnTimer l s
  | .initReceive l ver switch fid part => Sys2Proof.Machine.execInitReceive l ver switch fid part s
  | .linkUp k => Sys2Proof.Machine.execLinkUp k s
  | .linkInitTimeout l => Sys2Proof.Machine.execLinkInitTimeout l s
  | .linkRetryTimeout l => Sys2Proof.Machine.execLinkRetryTimeout l s
  | .laneFail ol => Sys2Proof.Machine.execLaneFail ol s
  | .moduleLinkError k => Sys2Proof.Machine.execModuleLinkError k s
  | .moduleNotReadyTimeout k => Sys2Proof.Machine.execModuleNotReadyTimeout k s
  | .retrainDone l => Sys2Proof.Machine.execRetrainDone l s
  | .linkDown l => Sys2Proof.Machine.execLinkDown l s
  | .monitorPoll k => Sys2Proof.Machine.execMonitorPoll k s
  | .monitorResponse k off v => Sys2Proof.Machine.execMonitorResponse k off v s
  | .monitorReadTimeout k => Sys2Proof.Machine.execMonitorReadTimeout k s
  | .e2eAckReceive p body => Sys2Proof.Machine.execE2eAckReceive p body s
  | .e2eAckTimer p vc => Sys2Proof.Machine.execE2eAckTimer p vc s
  | .e2eResendTimeout p vc => Sys2Proof.Machine.execE2eResendTimeout p vc s
  | .fenceTimeout q => Sys2Proof.Machine.execFenceTimeout q s
  | .startMsg p tag memb body => Sys2Proof.Machine.execStart p tag memb body s
  | .startAck p body => Sys2Proof.Machine.execStartAck p body s
  | .goMsg tag memb body => Sys2Proof.Machine.execGo tag memb body s
  | .joinSubtreeTimeout => Sys2Proof.Machine.execJoinSubtreeTimeout s
  | .lostMsg p body => Sys2Proof.Machine.execLost p body s
  | .lostDeclare x => Sys2Proof.Machine.execLostDeclare x s
  | .leftMsg p => Sys2Proof.Machine.execLeft p s
  | .declareSelf p => Sys2Proof.Machine.execDeclareSelf p s
  | .teardownRelease => Sys2Proof.Machine.execTeardownRelease s
  | .rbDone p body => Sys2Proof.Machine.execRbDone p body s
  | .rbAnn body => Sys2Proof.Machine.execRbAnn body s
  | .rollbackReportTimeout => Sys2Proof.Machine.execRollbackReportTimeout s
  | .rsReport p body => Sys2Proof.Machine.execRsReport p body s
  | .rsDecide body => Sys2Proof.Machine.execRsDecide body s
  | .restoreReportTimeout => Sys2Proof.Machine.execRestoreReportTimeout s
  | .rebuildRequestIssue => Sys2Proof.Machine.execRebuildRequestIssue s
  | .rbReq p body => Sys2Proof.Machine.execRbReq p body s
  | .rbStale body => Sys2Proof.Machine.execRbStale body s
  | .rebuilt body => Sys2Proof.Machine.execRebuilt body s
  | .mseqFloor => Sys2Proof.Machine.execMseqFloor s
  | .waggleSend => Sys2Proof.Machine.execWaggleSend s
  | .waggle p body => Sys2Proof.Machine.execWaggle p body s
  | .waggleSilence x => Sys2Proof.Machine.execWaggleSilence x s
  | .faultReport p body => Sys2Proof.Machine.execFaultReport p body s
  | .capReportReady e => Sys2Proof.Machine.execCapReportReady e s
  | .capReport p body => Sys2Proof.Machine.execCapReport p body s
  | .capTimeout e => Sys2Proof.Machine.execCapTimeout e s
  | .capAnnounce p body => Sys2Proof.Machine.execCapAnnounce p body s
  | .spineRecordWrite => Sys2Proof.Machine.execSpineRecordWrite s
  | .descMsg body => Sys2Proof.Machine.execDesc body s
  | .openMsg body => Sys2Proof.Machine.execOpen body s
  | .abortMsg body => Sys2Proof.Machine.execAbort body s
  | .colTimeout gtag seq => Sys2Proof.Machine.execColTimeout gtag seq s
  | .reduceScatterChunk p body => Sys2Proof.Machine.execReduceScatterChunk p body s
  | .gatherChunk p body => Sys2Proof.Machine.execGatherChunk p body s
  | .broadcastChunk p body => Sys2Proof.Machine.execBroadcastChunk p body s
  | .parityScatterChunk p body => Sys2Proof.Machine.execParityScatterChunk p body s
  | .rebuildChunk p body => Sys2Proof.Machine.execRebuildChunk p body s
  | .drainSend sl => Sys2Proof.Machine.execDrainSend sl s
  | .deltaSegment p body => Sys2Proof.Machine.execDeltaSegment p body s
  | .scaleSegment p body => Sys2Proof.Machine.execScaleSegment p body s
  | .drainAck p body => Sys2Proof.Machine.execDrainAck p body s
  | .drainAckTimer rank sl e => Sys2Proof.Machine.execDrainAckTimer rank sl e s
  | .drainResendTimeout src sl e => Sys2Proof.Machine.execDrainResendTimeout src sl e s
  | .v2DrainAck p e mseq => Sys2Proof.Machine.execV2DrainAck p e mseq s
  | .uReserveTake => Sys2Proof.Machine.execUReserveTake s
  | .sealImageCell p body => Sys2Proof.Machine.execSealImageCell p body s
  | .sealReadRequest p body => Sys2Proof.Machine.execSealReadRequest p body s
  | .sealReadData p body => Sys2Proof.Machine.execSealReadData p body s
  | .sealReadRefusal p body => Sys2Proof.Machine.execSealReadRefusal p body s
  | .shadowCopyCell p body => Sys2Proof.Machine.execShadowCopyCell p body s
  | .shadowCopyEnd p body => Sys2Proof.Machine.execShadowCopyEnd p body s
  | .stepRowEnter t => Sys2Proof.Machine.execStepRowEnter t s
  | .mapRow t => Sys2Proof.Machine.execMap t s
  | .reduceLine t => Sys2Proof.Machine.execReduceLine t s
  | .reduceAll t => Sys2Proof.Machine.execReduceAll t s
  | .logReservation t => Sys2Proof.Machine.execLogReservation t s
  | .stat t f => Sys2Proof.Machine.execStat t f s
  | .apply t f => Sys2Proof.Machine.execApply t f s
  | .accDense t => Sys2Proof.Machine.execAccDense t s
  | .accList t => Sys2Proof.Machine.execAccList t s
  | .intakeDrain t => Sys2Proof.Machine.execIntakeDrain t s
  | .commit t => Sys2Proof.Machine.execCommit t s
  | .mrpReadData n tag x => Sys2Proof.Machine.execMrpReadData n tag x s
  | .mrpWriteResponse n tag => Sys2Proof.Machine.execMrpWriteResponse n tag s
  | .mrpReady n up hbm4 cap cycles => Sys2Proof.Machine.execMrpReady n up hbm4 cap cycles s
  | .mrpPortTimeout n => Sys2Proof.Machine.execMrpPortTimeout n s
  | .sliceResetDone n => Sys2Proof.Machine.execSliceResetDone n s
  | .tierReadData p tag stat load => Sys2Proof.Machine.execTierReadData p tag stat load s
  | .tierWriteCompletion p tag stat load => Sys2Proof.Machine.execTierWriteCompletion p tag stat load s
  | .tierTimeout p tag write => Sys2Proof.Machine.execTierTimeout p tag write s
  | .tierLoadRecovery p => Sys2Proof.Machine.execTierLoadRecovery p s
  | .streamVisitFill k => Sys2Proof.Machine.execStreamVisitFill k s
  | .foragerVisit n => Sys2Proof.Machine.execForagerVisit n s
  | .cellRepair d => Sys2Proof.Machine.execCellRepair d s
  | .parityRepair p => Sys2Proof.Machine.execParityRepair p s
  | .remapFill n => Sys2Proof.Machine.execRemapFill n s
  | .migrationSlot => Sys2Proof.Machine.execMigrationSlot s
  | .sramEccError page word uncorr cls q => Sys2Proof.Machine.execSramEccError page word uncorr cls q s
  | .healthUpdate => Sys2Proof.Machine.execHealthUpdate s
  | .levelDwellExpiry => Sys2Proof.Machine.execLevelDwellExpiry s
  | .sensorSubframe => Sys2Proof.Machine.execSensorSubframe s
  | .sensorConversion k raw opened => Sys2Proof.Machine.execSensorConversion k raw opened s
  | .sensorCalibration counts dev => Sys2Proof.Machine.execSensorCalibration counts dev s
  | .droopTrip c => Sys2Proof.Machine.execDroopTrip c s
  | .droopHoldEnd => Sys2Proof.Machine.execDroopHoldEnd s
  | .limiterUpdate => Sys2Proof.Machine.execLimiterUpdate s
  | .domainWake d => Sys2Proof.Machine.execDomainWake d s
  | .rampStep d => Sys2Proof.Machine.execRampStep d s
  | .domainIdleGate d => Sys2Proof.Machine.execDomainIdleGate d s
  | .rampDownStep d => Sys2Proof.Machine.execRampDownStep d s
  | .rootFillExpiry cycles => Sys2Proof.Machine.execRootFillExpiry cycles s
  | .pllLock k => Sys2Proof.Machine.execPllLock k s
  | .pllWarmHoldExpiry k => Sys2Proof.Machine.execPllWarmHoldExpiry k s
  | .pllLockLoss k => Sys2Proof.Machine.execPllLockLoss k s
  | .pllRetry k => Sys2Proof.Machine.execPllRetry k s
  | .aonClkLoss => Sys2Proof.Machine.execAonClkLoss s
  | .aonClkRestore => Sys2Proof.Machine.execAonClkRestore s
  | .aonRstAssert => Sys2Proof.Machine.execAonRstAssert s
  | .aonRstDeassert => Sys2Proof.Machine.execAonRstDeassert s
  | .configSample slices tiers lpms w128 w1024 mfr => Sys2Proof.Machine.execConfigSample slices tiers lpms w128 w1024 mfr s
  | .fuseLoad parityOk => Sys2Proof.Machine.execFuseLoad parityOk s
  | .pwrGoodFall => Sys2Proof.Machine.execPwrGoodFall s
  | .pwrGoodRise => Sys2Proof.Machine.execPwrGoodRise s
  | .selftestDone seqOk lanes cols => Sys2Proof.Machine.execSelftestDone seqOk lanes cols s
  | .xspiDiscovery ok size => Sys2Proof.Machine.execXspiDiscovery ok size s
  | .thermInEvent asserted => Sys2Proof.Machine.execThermInEvent asserted s
  | .brdAlertEvent asserted => Sys2Proof.Machine.execBrdAlertEvent asserted s
  | .snapInEdge asserted edge => Sys2Proof.Machine.execSnapInEdge asserted edge s
  | .pinOverrateClear pin => Sys2Proof.Machine.execPinOverrateClear pin s
  | .pinStuck pin => Sys2Proof.Machine.execPinStuck pin s
  | .pinStuckClear pin => Sys2Proof.Machine.execPinStuckClear pin s
  | .timedStrobe => Sys2Proof.Machine.execTimedStrobe s
  | .tapInstruction code => Sys2Proof.Machine.execTapInstruction code s
  | .challengeLapse => Sys2Proof.Machine.execChallengeLapse s
  | .lockoutExpiry => Sys2Proof.Machine.execLockoutExpiry s
  | .sessionIdle => Sys2Proof.Machine.execSessionIdle s
  | .capWaitTimeout q => Sys2Proof.Machine.execCapWaitTimeout q s
  | .aonParityError => Sys2Proof.Machine.execAonParityError s
  | .portCreditReturn ch n => Sys2Proof.Machine.execPortCreditReturn ch n s
  | .isolationRelease d => Sys2Proof.Machine.execIsolationRelease d s
  | .xspiResetRelease => Sys2Proof.Machine.execXspiResetRelease s

end Sys2Proof.Machine
end

