-- ==== Sys2Proof/Machine/Step.lean ====
section
/-! DEFINITION. One step: the command at the front of the queue, or an AON_CLK edge when none waits. -/

namespace Sys2Proof.Machine

/-- One step of the block. With no command waiting, one AON_CLK rising edge passes (DESIGN CHOICE, notes/assumptions/1). -/
def step (s : State) : Host.Outcome State Fault Refusal :=
  match s.pending with
  | c :: rest => exec c { s with pending := rest }
  | [] => .next (idleEdge s)

/-- The command a word spells put at the front of the queue; the table gives no row bits, so the state is unchanged. -/
def State.withFetchWord (s : State) (nbits w : Nat) : State :=
  match decodeTableWord nbits w with
  | some c => { s with pending := c :: s.pending }
  | none => s

end Sys2Proof.Machine
end

