-- ==== Sys2Proof/Safety.lean ====
section
/-! DEFINITION. What counts as a safe run: the invariant of the block's state, and what the claims are stated with. -/

namespace Sys2Proof.Machine

/-- Every value of a sparse map is within a live counter's range (R511). -/
def NMap.bounded (m : NMap) : Prop := ∀ k, get m k ≤ cntMax

/-- Every stored map and memory is in its one canonical form: keys rising, no entry at the value an unlisted one has. -/
structure State.Canonical (s : State) : Prop where
  regs : NMap.wf s.regs = true
  cnt : NMap.wf s.cnt = true
  shadow : NMap.wf s.shadow = true
  tab : NMap.wf s.tab = true
  tallyVal : NMap.wf s.tallyVal = true
  tallyCode : NMap.wf s.tallyCode = true
  hbm : Memory.wf s.hbm = true
  board : Memory.wf s.board = true
  nvm : Memory.wf s.nvm = true

/-- The invariant of a run: the canonical forms, and counters and shadows within their range (R511). -/
structure State.Inv (s : State) : Prop where
  canonical : s.Canonical
  counters : NMap.bounded s.cnt
  shadows : NMap.bounded s.shadow

/-- A step is safe when the block goes on: it neither faults nor is refused. -/
def State.Safe (s : State) : Prop := ∃ t, step s = .next t

end Sys2Proof.Machine
end

