-- ==== Sys2Proof/Certificates/Slice0/Obligations.lean ====
section
/-! DEFINITION. The statements for the provers. Each docstring names the rules of spec/ it formalises; a clause that rests on
a choice of the model names its log entry. -/

open Sys2Proof Sys2Proof.Machine

/-- NOP and the TALLY commands take their effect and complete. A started NOP completes with no other effect; TALLY ADD
adds its value to the counter, saturating at 2^64 - 1; TALLY SET stores it; TALLY CLEAR_ERR clears the stored error
code. Each completes with code 0 and changes nothing else but the outputs of the step before. (R138, R144) -/
def Obligations.NopAndTallyTakeEffect : Prop :=
  ∀ (q : Fin 16) (s : State) (r : Run),
    (activeRun s q 0x00 0 = some r → exec (.nop q) s = .next (finish (begin s) q r.idx 0 0 0)) ∧
    (activeRun s q 0x11 0 = some r → exec (.tallyAdd q) s = .next (finish
      { begin s with
        tallyVal := put s.tallyVal (opd r.raw 7 0) (min (2 ^ 64 - 1) (get s.tallyVal (opd r.raw 7 0) + opd r.raw 127 64)) }
      q r.idx 0 0 0)) ∧
    (activeRun s q 0x11 1 = some r → exec (.tallySet q) s = .next (finish
      { begin s with tallyVal := put s.tallyVal (opd r.raw 7 0) (opd r.raw 127 64) } q r.idx 0 0 0)) ∧
    (activeRun s q 0x11 2 = some r → exec (.tallyClearErr q) s = .next (finish
      { begin s with tallyCode := put s.tallyCode (opd r.raw 7 0) 0 } q r.idx 0 0 0))

/-- DRAW writes the COUNT generator words to host memory. A started DRAW with COUNT nonzero and a seed object writes
COUNT words of the generator under the key it latched at its start, at the named coordinates, DRAW_RAW as they are
and DRAW_UNIFORM as uniform numbers, in 64-byte writes the last of which is padded with zero; its completion waits
for them. With COUNT 0 or another object it fails with DESCRIPTOR. (R139, R90) -/
def Obligations.DrawWritesItsWords : Prop :=
  ∀ (q : Fin 16) (s : State) (r : Run) (uni : Bool),
    activeRun s q 0x10 (b2n uni) = some r → r.phase = .started →
    (opd r.raw 97 82 = 0 ∨ (seedObjs s).contains (opd r.raw 18 0) = false →
      exec (if uni then .drawUniform q else .drawRaw q) s = .next (finish (begin s) q r.idx ecDescriptor 0 0)) ∧
    (opd r.raw 97 82 ≠ 0 → (seedObjs s).contains (opd r.raw 18 0) = true →
    let words := (List.range (opd r.raw 97 82)).map fun j =>
      let w := genWord (leBytes 32 (r.aux.getD 1 0)) (opd r.raw 191 144) 4 (opd r.raw 45 38) (opd r.raw 37 19)
        (opd r.raw 81 46 + j)
      if uni then uniform w else w
    let b := words.flatMap (leBytes 4)
    exec (if uni then .drawUniform q else .drawRaw q) s =
      .next ((List.range (ceilDiv b.length 64)).foldl
        (fun s k => hostStore s q r.idx (opd r.raw 143 98 * 64 + 64 * k) (slice b (64 * k) 64) (2 ^ 64 - 1))
        (keepRunning (begin s) q r.idx [1])))

/-- A queue fetch reads one aligned group, and its data enter the queue in order. QUEUE_FETCH gives the next fetchable
queue in round-robin order one 256-byte read of the aligned group that holds its HEAD. The good answer of a fetch of
a queue that no ABORT runs, with no CAP among its commands, appends the n commands in slot order with their indices,
advances HEAD by n, and frees the read. (R132, R44) -/
def Obligations.QueueFetchTakesCommands : Prop :=
  (∀ (s : State) (k q : Nat),
    (List.range 16).find? (fun k => canFetch (qOf s ((s.seq.rr + k) % 16))) = some k → q = (s.seq.rr + k) % 16 →
    exec .queueFetch s = .next { pumpHost (setHost
        (setQ (begin s) q { qOf s q with fetching := some ((qOf s q).head, fetchCount (qOf s q)) })
        { s.host with reads := s.host.reads ++
          [{ tag := 0, addr := slotAddr (qOf s q) (qOf s q).head / 256 * 256, size := 256, off := 0, queue := 16 + q,
             idx := (qOf s q).head, issued := false }] }) with seq := { s.seq with rr := (q + 1) % 16 } }) ∧
  (∀ (s : State) (tag : BitVec 12) (data : Bytes) (r : HostRead) (q h n : Nat),
    s.host.reads.find? (fun r => r.issued && r.tag == tag.toNat && decide (16 ≤ r.queue)) = some r →
    r.queue = 16 + q → (qOf s q).fetching = some (h, n) → (qOf s q).abortTo = none →
    (∀ i, i < n → opcodeOf (leAt data (64 * ((h + i) % 4)) 64) ≠ 5) →
    exec (.queueFetchData tag 0 data) s = .next (drainChecks (setQ
      (setHost (begin s) { s.host with reads := s.host.reads.filter fun y => !(y.issued && y.tag == tag.toNat) }) q
      { qOf s q with
        head := (h + n) % 2 ^ 32
        fetching := none
        cmds := (qOf s q).cmds ++ (List.range n).map fun i => newRun (leAt data (64 * ((h + i) % 4)) 64) ((h + i) % 2 ^ 32) })))

/-- COMMAND_START starts, holds, fails or cancels the oldest unstarted command. The commands of a disabled queue stay as
they are. By the judgement of the start point the oldest unstarted command of an enabled queue is cancelled with the
code of the counter or ROLLBACK, waits for one more cycle of QUE_STALL, completes with its error code, or starts: it
is marked started and SEQ_CMD_START advances. What a start takes besides: a SEAL (which opens no epoch) and a
command that names no epoch and needs nothing take nothing more; a MOVE of another class takes its move table entry,
an IMAGE STREAM its slot, a load its idle store, a REPLAY its thread, a DRAW latches its key, a ROLLBACK cancels. A
command that opens its epoch (C + 1 or C + 2) opens it first; a ROOT then takes the iteration engine. (R141, R146,
R139, R147) -/
def Obligations.CommandStartJudges : Prop :=
  ∀ (q : Fin 16) (s : State) (r : Run), oldestUnstarted (qOf s q) = some r →
    ((qOf s q).en = false → exec (.commandStart q) s = .next (begin s)) ∧
    ((qOf s q).en = true →
    (∀ c, judge s q r = .cancel c → exec (.commandStart q) s = .next (cancelRun (begin s) q r.idx c)) ∧
    (judge s q r = .wait → exec (.commandStart q) s = .next (count (begin s) (C.QUE_STALL q))) ∧
    (∀ c, judge s q r = .fail c → exec (.commandStart q) s = .next (finish (begin s) q r.idx c 0 0)) ∧
    (judge s q r = .start →
      let s1 := count (modRun (begin s) q r.idx fun x => { x with phase := .started, begun := true }) C.SEQ_CMD_START
      (namedEpoch r.raw = none ∨ opcodeOf r.raw = 6 →
        ([0, 2, 6, 7, 8, 0x0A, 0x0B, 0x0C, 0x0D, 0x11].contains (opcodeOf r.raw) = true ∨ (opcodeOf r.raw = 4 ∧ subopOf r.raw ≠ 3) →
          exec (.commandStart q) s = .next s1) ∧
        (opcodeOf r.raw = 3 → exec (.commandStart q) s = .next (takeMove s1 q r)) ∧
        (opcodeOf r.raw = 4 → subopOf r.raw = 3 → exec (.commandStart q) s = .next (takeSlot s1 q r)) ∧
        (opcodeOf r.raw = 1 → exec (.commandStart q) s = .next (takeIdle s1 (subopOf r.raw == 2))) ∧
        (opcodeOf r.raw = 0x0E → exec (.commandStart q) s = .next (takeThread s1 q r)) ∧
        (opcodeOf r.raw = 9 → exec (.commandStart q) s = .next (startRollback s1 r)) ∧
        (opcodeOf r.raw = 0x10 → exec (.commandStart q) s = .next (modRun s1 q r.idx fun x =>
          { x with aux := [1, leVal (scaleCopy s1 (opd r.raw 18 0) 32)] }))) ∧
      (∀ e, namedEpoch r.raw = some e → capped s < e → opcodeOf r.raw ≠ 6 →
        (opcodeOf r.raw = 2 → exec (.commandStart q) s = .next (openEpoch s1 e)) ∧
        (opcodeOf r.raw = 3 → exec (.commandStart q) s = .next (takeMove (openEpoch s1 e) q r)) ∧
        (opcodeOf r.raw = 5 → exec (.commandStart q) s = .next (startCap (openEpoch s1 e) q r)) ∧
        (opcodeOf r.raw = 1 → exec (.commandStart q) s = .next (takeThread (sendCopies (openEpoch s1 e) (opd r.raw 47 0)) q r)) ∧
        (opcodeOf r.raw = 0x0F → exec (.commandStart q) s = .next (wr (openEpoch s1 e) R.ROOT_STAT_ITER_BUSY 1)))))

/-- COMMAND_RETIRE posts the record first, then signals and removes the oldest command. A complete oldest command that
needs a record and has none posts its completion record. One that needs none, or whose record is written, signals
its counter (an addition of one, or the error code where it failed or was cancelled), leaves the queue and advances
RETIRE by one; under an ABORT, whose bit clears when RETIRE reaches the doorbell, the same happens. With no command,
or an oldest one that is not complete, nothing happens. (R143, R148) -/
def Obligations.RetireInOrderWithRecordAndSignal : Prop :=
  ∀ (q : Fin 16) (s : State) (r : Run) (rest : List Run), (qOf s q).cmds = r :: rest → r.phase = .done →
    (needsRecord r = true → r.posted = 0 → exec (.commandRetire q) s =
      .next (postRec (modRun (begin s) q r.idx fun x => { x with posted := 1 })
        { kind := 1, status := r.err, cancelled := r.cancelled, irq := irqOf r.raw, flags := 0, queue := q,
          cmdId := cmdIdOf r.raw, merged := 0, source := 0, info0 := r.info0, info1 := r.info1,
          time := rd s R.TIME_TOD, compl := some (q.val, r.idx) })) ∧
    (needsRecord r = false ∨ r.posted = 2 →
      let s1 := setQ
        (if sigEnOf r.raw = true ∧ r.noRecord = false then
          (if r.err ≠ 0 ∨ r.cancelled = true then tallyFail (begin s) (sigTallyOf r.raw) r.err
           else tallyAdd (begin s) (sigTallyOf r.raw) 1)
         else begin s) q { qOf s q with cmds := rest, ret := ((qOf s q).ret + 1) % 2 ^ 32 }
      exec (.commandRetire q) s = .next (if ((qOf s q).ret + 1) % 2 ^ 32 = (qOf s q).db ∧ rdb s (R.QUE_CTRL_ABORT q) = true then
        wr s1 (R.QUE_CTRL_ABORT q) 0 else s1))

/-- Event records are written oldest first, and their acknowledgement advances the ring. With no record being written
and room in the ring, EVENT_POST writes the oldest waiting record of 32 bytes at EVT_PROD, in full, or on the
128-bit host port without byte 2. The good answer of the first write on that port is followed by a write of byte 2;
the good answer of the last write marks a completion record posted, notes the IRQ flag, advances EVT_PROD by one and
counts EVT_POSTED; an error answer loses the record, counts EVT_WR_FAIL and lets its command retire. The end of the
hold-off lets IRQ_OUT rise again. (R148, R149, R151, R152) -/
def Obligations.EventRecordsReachTheRing : Prop :=
  (∀ (s : State) (r : EvRec) (t : List EvRec), s.ev.writing = none → s.ev.buf = r :: t → ringFree s ≠ 0 →
    exec .eventPost s = .next (hostStore { begin s with ev := { s.ev with buf := t, writing := some (r, 0) } } 16 0
      (rd s R.EVT_BASE * 4096 + 32 * (rd s R.EVT_PROD % 2 ^ rd s R.EVT_SIZE)) (recBytes r (phaseAt s))
      (if rdb s R.GEN_STRAP_HFP_W128 then 2 ^ 32 - 1 - 4 else 2 ^ 32 - 1))) ∧
  (∀ (s : State) (r : EvRec) (n : Nat) (stat : BitVec 2), s.ev.writing = some (r, n) →
    s.host.writes.any (fun w => w.queue == 16 && w.issued) = true →
    let s1 := setHost (begin s) { s.host with writes := s.host.writes.filter fun w => w.queue != 16 }
    let s2 := { s1 with ev := { s.ev with writing := none } }
    let s3 := match r.compl with
      | some (q, i) => modRun s2 q i fun x => { x with posted := 2 }
      | none => s2
    let s4 := if r.irq then { s3 with ev := { s3.ev with flagged := s3.ev.flagged ++ [rd s3 R.EVT_PROD] } } else s3
    (stat ≠ 0 → exec (.eventRecordAck stat) s = .next (count s3 C.EVT_WR_FAIL)) ∧
    (stat = 0 → rdb s R.GEN_STRAP_HFP_W128 = true → n = 0 → exec (.eventRecordAck stat) s =
      .next (hostStore { s1 with ev := { s.ev with writing := some (r, 1) } } 16 0
        (rd s R.EVT_BASE * 4096 + 32 * (rd s R.EVT_PROD % 2 ^ rd s R.EVT_SIZE)) (recBytes r (phaseAt s)) 4)) ∧
    (stat = 0 → rdb s R.GEN_STRAP_HFP_W128 = false ∨ n ≠ 0 → exec (.eventRecordAck stat) s =
      .next (updateIrq (count (wr s4 R.EVT_PROD ((rd s3 R.EVT_PROD + 1) % 2 ^ 32)) C.EVT_POSTED)))) ∧
  (∀ s : State, exec .irqHoldoffExpiry s = .next (updateIrq { begin s with ev := { s.ev with holdoff := false } }))

/-- STEP RUN, REPLAY, STEP LOAD and STEP UCODE fetch what they need when they run. A started STEP RUN asks for its
8-byte bindings, a started REPLAY of an ABSENT member with images asks for its 64-byte images, and fails with
DESCRIPTOR on another member or with none; a started load, whose idle store is LOADING since its start, asks for the
64-byte header of its image. Each goes on when the data are back. (R153, R162, R438) -/
def Obligations.StepFetchesItsBindings : Prop :=
  ∀ (q : Fin 16) (s : State) (r : Run), r.phase = .started →
    (activeRun s q 1 0 = some r → exec (.stepRun q) s =
      .next (hostFetch (keepRunning (begin s) q r.idx [20]) q r.idx (opd r.raw 109 64 * 64) (8 * opd r.raw 117 112))) ∧
    (∀ t, activeRun s q 0x0E 0 = some r → threadOf s q r.idx = some t →
      (isAbsent s = true → opd r.raw 127 112 ≠ 0 → exec (.replay q) s = .next (hostFetch (keepRunning (begin s) q r.idx [30]) q r.idx
        (opd r.raw 109 64 * 64) (64 * opd r.raw 127 112))) ∧
      (isAbsent s = false ∨ opd r.raw 127 112 = 0 → exec (.replay q) s =
        .next (finish (setThread (begin s) t Thread.idle) q r.idx ecDescriptor 0 0))) ∧
    (activeRun s q 1 1 = some r → exec (.stepLoad q) s =
      .next (hostFetch (keepRunning (begin s) q r.idx [10]) q r.idx (opd r.raw 45 0 * 64) 64)) ∧
    (activeRun s q 1 2 = some r → exec (.stepUcode q) s =
      .next (hostFetch (keepRunning (begin s) q r.idx [10]) q r.idx (opd r.raw 45 0 * 64) 64))

/-- A thread enters a row whose wait holds and runs one iteration at a time. STEP_ROW_ENTER of a row that may enter
counts the visit and, for a row with no unit, completes it at once; a row of the other units is checked and entered,
or refused; an intake row claims its stream first. One iteration of an entered row of each unit (MAP, REDUCE_LINE,
REDUCE_ALL, STAT, APPLY, ACC_DENSE, ACC_LIST, INTAKE_DRAIN, COMMIT, and LOG_RESERVATION, which tries the row again
that waited) is done, waits, or fails: after a good one with more to come the thread stands at the next iteration,
after the last one the row is done, a failed one fails the thread with its code, and one that waits is tried again.
(R154, R158, R268) -/
def Obligations.RowsEnterAndIterate : Prop :=
  (∀ (t : Fin 8) (s : State), (thread s t).busy = true → (thread s t).bound = true → (thread s t).ended = false →
    (thread s t).entered = false →
    let row := curRow s (thread s t)
    slotsBound row (thread s t).binds.length = true → rwRep row = false → rowWait s (thread s t) row = (0, true) →
    let at0 (u : State) : State :=
      let v := visit u t
      setThread v t { thread v t with iter := 0, leaves := [], got := false, prior := outWrites v t }
    let enter (u : State) : State := setThread u t { thread u t with entered := true }
    let form (u : State) : State := noteFormed u (rowCtx u t).pace.e (thread s t).epoch (thread s t).replay
    let s1 := at0 (begin s)
    (rwUnit row = 0 → exec (.stepRowEnter t) s = .next (rowDone s1 t)) ∧
    (rwUnit row = 1 → scratchBusy s t = false → exec (.stepRowEnter t) s = .next (if rowOk s1 t = false then rowRefuse s1 t
      else if ((chCodes (chainOf s (thread s t) row)).any fun c => decide (17 ≤ c) && decide (c < 25)) = true then enter (form s1)
      else enter s1)) ∧
    (rwUnit row = 2 → exec (.stepRowEnter t) s = .next (if rootRowOk s1 t = false then rowRefuse s1 t
      else if rwUop row = 1 then enter (form s1) else enter s1)) ∧
    (∀ u, rwUnit row = 3 → intakeStart (begin s) t = (u, .done) → exec (.stepRowEnter t) s = .next (enter (at0 u)))) ∧
  (∀ (t : Fin 8) (s : State) (u op : Nat) (c : Instr) (work : State × IterEnd),
    (u = 1 ∧ ((op = 1 ∧ c = .mapRow t) ∨ (op = 2 ∧ c = .reduceLine t) ∨ (op = 3 ∧ c = .reduceAll t) ∨ c = .logReservation t) ∧
      work = iterate (begin s) t (thread s t).iter) ∨
    (u = 2 ∧ ((op = 1 ∧ c = .stat t none) ∨ (op = 2 ∧ c = .apply t none) ∨ c = .logReservation t) ∧
      work = rootRow (begin s) t (thread s t).iter) ∨
    (u = 3 ∧ ((op = 1 ∧ (c = .accDense t ∨ c = .logReservation t) ∧ work = accDense (begin s) t (thread s t).iter) ∨
      (op = 2 ∧ (c = .accList t ∨ c = .logReservation t) ∧ work = accList (begin s) t) ∨
      (op = 3 ∧ (c = .intakeDrain t ∨ c = .logReservation t) ∧ work = drainRowOp (begin s) t) ∨
      (op = 4 ∧ (c = .commit t ∨ c = .logReservation t) ∧ work = commitOp (begin s) t))) →
    (thread s t).busy = true → (thread s t).entered = true → (thread s t).ended = false →
    rwUnit (curRow s (thread s t)) = u → rwUop (curRow s (thread s t)) = op →
    (work.2 = .wait → exec c s = .next work.1) ∧
    (∀ code, work.2 = .fail code → exec c s = .next (settleThread (failThread work.1 t code) t)) ∧
    (work.2 = .done → (thread work.1 t).iter + 1 < rwLoop (curRow (setThread work.1 t
        { thread work.1 t with iter := (thread work.1 t).iter + 1, got := false }) (thread work.1 t)) →
      exec c s = .next (setThread work.1 t { thread work.1 t with iter := (thread work.1 t).iter + 1, got := false })) ∧
    (work.2 = .done → rwLoop (curRow (setThread work.1 t
        { thread work.1 t with iter := (thread work.1 t).iter + 1, got := false }) (thread work.1 t)) ≤ (thread work.1 t).iter + 1 →
      exec c s = .next (rowDone (setThread work.1 t { thread work.1 t with iter := (thread work.1 t).iter + 1, got := false }) t)))

/-- MOVE takes the lowest free move table entry at its start, copies every cell and goes on from there. At its start a
MOVE that may begin takes the lowest free entry of the move table with the old and the new home in it, and one that
may not completes with DESCRIPTOR. MOVE then runs: the cells of a UNIQUE object are copied as cells of its epoch as
far as their reads, the log and other writers allow, the cells of another object are all requested from the old
home; executed again, it goes on where it waited. (R114, R115, R117, R141) -/
def Obligations.MoveTakesAnEntryAndCopies : Prop :=
  (∀ (q : Fin 16) (s : State) (r : Run), moveOk s r.raw = false → takeMove s q r = finish s q r.idx ecDescriptor 0 0) ∧
  (∀ (q : Fin 16) (s : State) (r : Run) (i : Nat), moveOk s r.raw = true →
    firstBelow 64 (fun i => !bit (moveAt s i) 19) = some i →
    let e := dir s (opd r.raw 18 0)
    let h := moveDest s r.raw
    takeMove s q r = modRun (tput s 0xA 1 i (moveEntry (opd r.raw 111 64) (oHome e) (oStk e) (oTier e) h.home h.mask h.tier 0 0
      (opd r.raw 18 0))) q r.idx fun x => { x with aux := [1, i, 0, 0] }) ∧
  (∀ (q : Fin 16) (s : State) (r : Run), activeRun s q 3 0 = some r →
    let i := r.aux.getD 1 0
    (r.phase = .running → exec (.move q) s = .next (settleMove (begin s) i)) ∧
    (r.phase = .started → oClass (dir s (mvObj (moveAt s i))) = clsUnique →
      exec (.move q) s = .next (settleMove (keepRunning (begin s) q r.idx r.aux) i)) ∧
    (r.phase = .started → oClass (dir s (mvObj (moveAt s i))) ≠ clsUnique →
      exec (.move q) s = .next (settleMove ((List.range (objCells (dir s (mvObj (moveAt s i))))).foldl
        (fun u k => homeFetch u (moveOwner i) (mvObj (moveAt s i)) k) (setMoveAux (keepRunning (begin s) q r.idx r.aux) i 0 1)) i)))

/-- IMAGE FILL, DROP, FLUSH, STREAM and STOP do their work. An IMAGE FILL of a range that may be imaged, once there is
room, takes a free image table entry marked filling and requests the cells, and waits while there is none; an IMAGE
DROP of a valid image removes it, a dirty cache after its pages are written back; an IMAGE FLUSH writes back the
dirty caches of its COMPAT object; an IMAGE STREAM of a good program fills visit 0 in the slot it took at its start
and completes with that slot, and one of a bad program frees the slot; an IMAGE STOP drops the images of the program
and frees its slot. What may not be done fails with DESCRIPTOR. That a full image table makes a FILL wait, and that
DROP writes back first, are the model's choices (log 83). (R119, R121, R124, R125, R127, R130, R138) -/
def Obligations.ImageCommandsWork : Prop :=
  ∀ (q : Fin 16) (s : State) (r : Run),
    (activeRun s q 4 0 = some r → r.phase = .started →
      let n := opd r.raw 60 42
      let o := opd r.raw 18 0
      let t := (qOf s q).tenant
      (imageableRange s o (opd r.raw 41 20) n = false ∨ fillTooBig s t n = true →
        exec (.imageFill q) s = .next (finish (begin s) q r.idx ecDescriptor 0 0)) ∧
      (imageableRange s o (opd r.raw 41 20) n = true → fillTooBig s t n = false →
        (∀ s1, makeRoom t n 16385 (begin s) = (s1, none) → exec (.imageFill q) s = .next (count s1 C.TIER_POOL_WAIT)) ∧
        (∀ s1 st slot i, makeRoom t n 16385 (begin s) = (s1, some (st, slot)) → freeImage s1 = some i →
          exec (.imageFill q) s = .next (settleFill (fillCells (keepRunning (tput s1 0xA 2 i
            (imageEntry s1 st slot (opd r.raw 41 20) n t o (bit (opd r.raw 191 0) 19) false false true)) q r.idx [2, i]) i) i)))) ∧
    (activeRun s q 4 1 = some r → r.phase = .started →
      let i := opd r.raw 13 0
      (imValid (image s i) = false ∨ imStream (image s i) = true ∨ imFilling (image s i) = true →
        exec (.imageDrop q) s = .next (finish (begin s) q r.idx ecDescriptor 0 0)) ∧
      (imValid (image s i) = true → imStream (image s i) = false → imFilling (image s i) = false →
        (imCompat (image s i) = false ∨ imDirty (image s i) = false →
          exec (.imageDrop q) s = .next (finish (dropImage (begin s) i) q r.idx 0 0 0)) ∧
        (imCompat (image s i) = true → imDirty (image s i) = true → exec (.imageDrop q) s =
          .next (settleDrop (settleBack (writeBack (keepRunning (begin s) q r.idx [3, i]) i 3) i) i)))) ∧
    (activeRun s q 4 2 = some r → r.phase = .started →
      (objValid s (opd r.raw 18 0) = false ∨ oClass (dir s (opd r.raw 18 0)) ≠ clsCompat →
        exec (.imageFlush q) s = .next (finish (begin s) q r.idx ecDescriptor 0 0)) ∧
      (objValid s (opd r.raw 18 0) = true → oClass (dir s (opd r.raw 18 0)) = clsCompat →
        let is := dirtyCaches s (opd r.raw 18 0)
        exec (.imageFlush q) s = .next (settleFlush (is.foldl (fun u i => settleBack (writeBack u i 1) i)
          (keepRunning (begin s) q r.idx (4 :: is))) q { r with aux := 4 :: is }))) ∧
    (activeRun s q 4 3 = some r →
      let k := r.aux.getD 1 0
      (∀ p, readProgram s (opd r.raw 18 0) (qOf s q).tenant = some p → exec (.imageStream q) s =
        .next (settleStream k 8 (finish (fillVisit (setStream (begin s) k (some p)) k p 0) q r.idx 0 k 0))) ∧
      (readProgram s (opd r.raw 18 0) (qOf s q).tenant = none → exec (.imageStream q) s =
        .next (finish (setStream (begin s) k none) q r.idx ecDescriptor 0 0))) ∧
    (activeRun s q 4 4 = some r →
      (s.streams.getD (opd r.raw 1 0) none = none → exec (.imageStop q) s = .next (finish (begin s) q r.idx ecDescriptor 0 0)) ∧
      (∀ p, s.streams.getD (opd r.raw 1 0) none = some p → exec (.imageStop q) s = .next (finish (setStream
        (((List.range (min p.depth p.started)).flatMap fun v => slotImages s p v).foldl dropImage (begin s)) (opd r.raw 1 0) none)
        q r.idx 0 0 0)))

/-- The next visit of a stream is filled once the release tally allows it. STREAM_VISIT_FILL fills visit v = the number
started, when v is a layer of the program and either v is below DEPTH or the release tally has advanced by v + 1 -
DEPTH since the start; otherwise, or with no program in the slot, it changes nothing. (R125) -/
def Obligations.StreamVisitFillsInOrder : Prop :=
  (∀ (k : Fin 4) (s : State), s.streams.getD k none = none → exec (.streamVisitFill k) s = .next (begin s)) ∧
  (∀ (k : Fin 4) (s : State) (p : Stream), s.streams.getD k none = some p →
    exec (.streamVisitFill k) s = .next
      (if p.started < p.layers ∧ (p.started < p.depth ∨ p.rel0 + (p.started + 1 - p.depth) ≤ get s.tallyVal p.relTally) then
        settleStream k 8 (fillVisit (begin s) k p p.started) else begin s))

/-- Answers of a memory request port free the request and let its unit go on. The answer of a read takes the request it
names off the port and gives each granule its status: clean data are what the stack holds, corrected data are
counted, noted and written back, uncorrectable ones counted and recovered; then what waits is issued and the unit
goes on. The answer of a write does the same for its request, and the reads of its granules still out may bring
older data. A tag that names no request has no effect. When READY rises the capacity is read and the low cycles
counted; with requests outstanding a time-out takes the slice out of service, counts its granules as uncorrectable
and posts a slice-fault record with STATUS CELL_CHECK (the STATUS is the model's choice, log 27). (R46, R47, R50) -/
def Obligations.MemoryPortAnswersSettle : Prop :=
  (∀ (n : Fin 12) (tag : BitVec 10) (stat : BitVec 8) (data : BitVec 2048) (s : State),
    (memAnswered (begin s) n tag.toNat false = none → exec (.mrpReadData n tag ⟨stat, data⟩) s = .next (begin s)) ∧
    (memAnswered (begin s) n tag.toNat true = none → exec (.mrpWriteResponse n tag) s = .next (begin s))) ∧
  (∀ (n : Fin 12) (tag : BitVec 10) (stat : BitVec 8) (data : BitVec 2048) (s s1 : State) (r : MemReq),
    memAnswered (begin s) n tag.toNat false = some (r, s1) →
    exec (.mrpReadData n tag ⟨stat, data⟩) s = .next (settleOwner (pumpMrp ((List.range r.n).foldl (fun u g =>
      let st := (r.src + g) / 2 ^ 31
      let a := (r.src + g) % 2 ^ 31 * 64
      let x := bits stat.toNat (2 * g + 1) (2 * g)
      let got := granuleData u n r g (slice (leBytes 256 data.toNat) (64 * g) 64)
      if x = 0 then got
      else if x = 1 then writeBackGran (noteCorrected (count got (C.SLC_ECC_CORR n)) st a) n (r.gran + g) (r.src + g)
      else
        let v := count u (C.SLC_ECC_UNCORR n)
        granuleLost (if foragerFinds v r.owner st a then count v (C.SCRB_FIND n) else v) r.owner st a) s1) n) r.owner)) ∧
  (∀ (n : Fin 12) (tag : BitVec 10) (s s1 : State) (r : MemReq), memAnswered (begin s) n tag.toNat true = some (r, s1) →
    let s2 := retryWindows (settleOwner (pumpMrp (writeLanded (setMrp s1 n (markOld (mrpOf s1 n) r)) r.owner (n, r.src)) n) r.owner)
    exec (.mrpWriteResponse n tag) s = .next (returnHeld s2.lp.heldCred.length s2)) ∧
  (∀ (n : Fin 12) (up hbm4 : Bool) (cap : BitVec 6) (cycles : BitVec 64) (s : State),
    let s1 := wr (wr (begin s) (R.SLC_STAT_READY n) (b2n up)) (R.SLC_STAT_HBM4 n) (b2n hbm4)
    exec (.mrpReady n up hbm4 cap cycles) s = .next (if up = true ∧ rdb s (R.SLC_STAT_READY n) = false then
      pumpMrp (countN (wr s1 (R.SLC_CAP n) cap.toNat) (C.SLC_NOTREADY n) cycles.toNat) n else s1)) ∧
  (∀ (n : Fin 12) (s : State), (mrpOf s n).reqs.filter (·.issued) = [] → exec (.mrpPortTimeout n) s = .next (begin s)) ∧
  (∀ (n : Fin 12) (s : State), (mrpOf s n).reqs.filter (·.issued) ≠ [] →
    let out := (mrpOf s n).reqs.filter (·.issued)
    let s0 := (List.range 8).foldl (outList n) (begin s)
    let s1 := (List.range 8).foldl outThread (wr (wr s0 (R.SLC_STAT_PORT_TMO n) 1) (R.SLC_STAT_OUT n) 1)
    let s2 := setMrp s1 n { mrpOf s1 n with reqs := (mrpOf s1 n).reqs.filter (!·.issued) }
    let s3 := out.foldl (fun s r => (List.range r.n).foldl (granuleIn n r 0xFF []) s) s2
    let s4 := setHl s3 { s3.hl with slcRst := s3.hl.slcRst ++ [(n.val, rd s3 R.TIME_TOD)] }
    exec (.mrpPortTimeout n) s = .next
      (((out.map (·.owner)).eraseDups).foldl settleOwner (unitError s4 0x0D (0x20 + n) n 0)))

/-- A finished per-slice reset clears the slice and returns it to service, or leaves it out for good. SLICE_RESET_DONE
of a slice out of service clears its scratch, its accumulator and its live counters, counts GEN_SLCRST, returns the
slice to service and lets a cap or an undo that waited for it go on; with GEN_SLC_RST_MAX or more resets within one
second it stays out and the member declares itself. For a slice in service it has no effect. (R460, R462, R511) -/
def Obligations.SliceResetClearsAndReturns : Prop :=
  ∀ (n : Fin 12) (s : State),
    (rdb s (R.SLC_STAT_OUT n) = false → exec (.sliceResetDone n) s = .next (begin s)) ∧
    (rdb s (R.SLC_STAT_OUT n) = true →
      let s1 := { begin s with
        seq := { s.seq with scratch := dropKeys s.seq.scratch fun k => k / 2 ^ 21 == n }
        cnt := dropKeys s.cnt fun k => k / 2 ^ 12 == 0x20 + n }
      let s2 := count (wr { s1 with intk := { s.intk with keys := s.intk.keys.filter fun k => k.slice != n } }
        (R.SLC_ACC_USED n) 0) C.GEN_SLCRST
      exec (.sliceResetDone n) s = .next (if rd s2 R.GEN_SLC_RST_MAX ≤ recentResets s2 n then
        sendDeclareSelf (setDisabled s2 n true) else rbAdvance (capResume (pumpMrp (wr s2 (R.SLC_STAT_OUT n) 0) n))))

/-- Answers and time-outs of a tier port free the request, note the load and let its unit go on. A read answer and a
write completion take the request they name off the port and let its unit go on, after the load indication is noted;
a status other than 0 makes it lost data, which is counted and recovered by the class of the object (a read), or a
failed write; a written request also leaves the fences that wait for it. A time-out counts TIER_TMO and the read or
the write is lost. TIER_LOAD_RECOVERY restores the full request rate unless overload is still indicated. (R56, R130,
R321) -/
def Obligations.TierAnswersSettle : Prop :=
  (∀ (p : Fin 4) (tag : BitVec 10) (load : BitVec 2) (s s1 : State) (r : TierReq),
    (tierAnswered (begin s) p tag.toNat false = some (r, s1) → ∀ stat : BitVec 2,
      exec (.tierReadData p tag stat load) s = .next (settleOwner (if stat = 0 then noteLoad s1 p load.toNat
        else tierReadLost (count (noteLoad s1 p load.toNat) C.TIER_POISON) p r) r.owner)) ∧
    (tierAnswered (begin s) p tag.toNat true = some (r, s1) → ∀ stat : BitVec 2,
      exec (.tierWriteCompletion p tag stat load) s = .next (settleOwner (writeLanded (fenceTier (if stat = 0 then noteLoad s1 p load.toNat
        else tierWriteLost (noteLoad s1 p load.toNat) p r) p tag.toNat) r.owner (12 + p.val, r.addr)) r.owner)) ∧
    (tierAnswered (begin s) p tag.toNat false = some (r, s1) →
      exec (.tierTimeout p tag false) s = .next (settleOwner (tierReadLost (count s1 C.TIER_TMO) p r) r.owner)) ∧
    (tierAnswered (begin s) p tag.toNat true = some (r, s1) →
      exec (.tierTimeout p tag true) s =
        .next (settleOwner (writeLanded (fenceTier (tierWriteLost (count s1 C.TIER_TMO) p r) p tag.toNat) r.owner (12 + p.val, r.addr)) r.owner))) ∧
  (∀ (p : Fin 4) (s : State), exec (.tierLoadRecovery p) s = .next
    (if bits (rd s R.TIER_LOAD) (2 * p + 1) (2 * p) ≤ 1 then
      { begin s with tier := s.tier.set p { tierOf s p with slow := 1 } } else begin s))

/-- Answers of the host fabric port go to the command that asked, and credits issue what waits. A good part of a read
that has more parts out is kept for its command and frees the read; the last part lets the command go on with all
the bytes; a network error fails the command and withdraws its reads not yet issued. The answer of the last write of
a command completes it with code 0; an error answer fails it with DESCRIPTOR. A returned credit is booked on its
channel and what waits for it is issued. (R37, R43, R44) -/
def Obligations.HostTransfersComplete : Prop :=
  (∀ (tag : BitVec 12) (data : Bytes) (s : State) (h : HostRead) (r : Run),
    s.host.reads.find? (fun r => r.issued && r.tag == tag.toNat && decide (r.queue < 16)) = some h →
    let left := s.host.reads.filter fun y => !(y.issued && y.tag == tag.toNat)
    let s1 := pumpHost (setHost (begin s) { s.host with
      reads := left, got := s.host.got ++ [(h.queue, h.idx, h.off, slice data 0 h.size)] })
    findRun s1 h.queue h.idx = some r → r.phase ≠ .done → readsBack s1 h.queue h.idx = false →
    exec (.initiatorReadData tag 0 data) s = .next s1) ∧
  (∀ (tag : BitVec 12) (data : Bytes) (s : State) (h : HostRead) (r : Run),
    s.host.reads.find? (fun r => r.issued && r.tag == tag.toNat && decide (r.queue < 16)) = some h →
    let left := s.host.reads.filter fun y => !(y.issued && y.tag == tag.toNat)
    let s1 := pumpHost (setHost (begin s) { s.host with
      reads := left, got := s.host.got ++ [(h.queue, h.idx, h.off, slice data 0 h.size)] })
    findRun s1 h.queue h.idx = some r → r.phase ≠ .done → readsBack s1 h.queue h.idx = true →
    exec (.initiatorReadData tag 0 data) s = .next (readsDone s1 h.queue r)) ∧
  (∀ (tag : BitVec 12) (stat : BitVec 2) (data : Bytes) (s : State) (h : HostRead) (r : Run),
    s.host.reads.find? (fun r => r.issued && r.tag == tag.toNat && decide (r.queue < 16)) = some h → stat ≠ 0 →
    let s1 := pumpHost (setHost (begin s) { s.host with
      reads := s.host.reads.filter fun y => !(y.issued && y.tag == tag.toNat) })
    findRun s1 h.queue h.idx = some r → r.phase ≠ .done →
    exec (.initiatorReadData tag stat data) s = .next (readFail (setHost s1 { s1.host with
      reads := s1.host.reads.filter fun y => y.issued || !(y.queue == h.queue && y.idx == h.idx) }) h.queue r)) ∧
  (∀ (tag : BitVec 12) (stat : BitVec 2) (s : State) (w : HostWrite),
    s.host.writes.find? (fun w => w.issued && w.tag == tag.toNat && w.queue != 16) = some w →
    let s1 := setHost (begin s) { s.host with writes := s.host.writes.filter fun y => !(y.issued && y.tag == tag.toNat) }
    (stat ≠ 0 → exec (.initiatorWriteResponse tag stat) s = .next (finish s1 w.queue w.idx ecDescriptor 0 0)) ∧
    (stat = 0 → exec (.initiatorWriteResponse tag stat) s =
      .next (if writesBack s1 w.queue w.idx then finish s1 w.queue w.idx 0 0 0 else s1))) ∧
  (∀ (n : Fin 12) (s : State),
    exec (.portCreditReturn 0 n) s = .next (pumpHost { begin s with host := { s.host with areq := s.host.areq + 1 } }) ∧
    exec (.portCreditReturn 1 n) s = .next (pumpHost { begin s with host := { s.host with awd := s.host.awd + 1 } }) ∧
    exec (.portCreditReturn 2 n) s = .next (pumpMrp (setMrp (begin s) n { mrpOf s n with rrq := (mrpOf s n).rrq + 1 }) n) ∧
    exec (.portCreditReturn 3 n) s = .next (pumpMrp (setMrp (begin s) n { mrpOf s n with wrq := (mrpOf s n).wrq + 1 }) n) ∧
    exec (.portCreditReturn 4 n) s = .next (pumpMrp (setMrp (begin s) n { mrpOf s n with wd := (mrpOf s n).wd + 1 }) n) ∧
    exec (.portCreditReturn 5 n) s = .next (pumpTier (setTier (begin s) n { tierOf s n with rq := (tierOf s n).rq + 1 }) n) ∧
    exec (.portCreditReturn 6 n) s = .next (pumpTier (setTier (begin s) n { tierOf s n with wd := (tierOf s n).wd + 1 }) n))

/-- A started COLL takes its sequence number and announces itself up the group tree, or fails. COLL_REDUCE_SCATTER,
COLL_ALL_GATHER, COLL_BROADCAST, COLL_PARITY_SCATTER and COLL_REBUILD_CHAIN at their start: the group's entry gives
the sequence number, which advances by one whatever follows; operands that are not in order fail the command with
DESCRIPTOR; else the collective is entered with the digest of its operands. An ABORT that came before fails it with
its code, a lost peer aborts it with REMOTE_DEAD, an unsettled data cell of a parity scatter with DESCRIPTOR;
otherwise its early DESCs are taken up, and once its own and every child's agree the DESC goes up or, at the root,
the collective opens. A collective that runs goes on where it waited. (R310, R311, R315, R318, R319) -/
def Obligations.CollectivesStart : Prop :=
  ∀ (q : Fin 16) (s : State) (r : Run) (sub : Nat) (c : Instr),
    (sub = 0 ∧ c = .collReduceScatter q) ∨ (sub = 1 ∧ c = .collAllGather q) ∨ (sub = 2 ∧ c = .collBroadcast q) ∨
      (sub = 3 ∧ c = .collParityScatter q) ∨ (sub = 4 ∧ c = .collRebuildChain q) →
    activeRun s q 2 sub = some r →
    let o := collOp r.raw
    let e := group s o.grp
    let seq := grSeq e
    let s1 := tput (begin s) 0x12 0 o.grp (setBits e 127 96 ((seq + 1) % 2 ^ 32))
    let s2 := setCol s1 { s.col with
      taken := (s.col.taken.filter fun x => decide (capped s < x.1)) ++ [(o.epoch, o.grp, seq)] }
    let dg := crc32 ([BitVec.ofNat 8 sub, BitVec.ofNat 8 o.type] ++ leBytes 2 o.root ++ leBytes 4 o.count ++
      leBytes 4 (grTag e) ++ leBytes 4 seq)
    let k : Coll := { queue := q, idx := r.idx, grp := o.grp, gtag := grTag e, seq := seq, digest := dg, opened := false,
                      kids := [], told := false, acks := [], staged := [], ends := [], formed := [],
                      owner := 2 ^ 19 + s.col.serial % 2 ^ 19, next := 0, reading := false, lost := false,
                      win := rd s R.COL_RS_WIN }
    let s3 := keepRunning (setCol s2 { s2.col with run := s.col.run ++ [k], serial := s.col.serial + 1 }) q r.idx [40]
    (r.phase ≠ .running → exec c s = .next (if collOk s2 o = false then finish s2 q r.idx ecDescriptor seq 0
      else match abortedAs s3 k.gtag seq with
        | some code => collFail (setCol s3 { s3.col with
            aborted := s3.col.aborted.filter fun a => !(a.1 == k.gtag && a.2.1 == seq) }) k code
        | none =>
          if (grPeers s3 e).any (peerLost s3) = true then collAbort s3 k ecRemoteDead
          else if sub = 3 ∧ (scatterCells s3 o).any
              (fun x => decide (x.2 < rd s3 R.CMB_DATA_CELLS) && !settled (ledger s3 x.2)) = true then collAbort s3 k ecDescriptor
          else match collOf (takeEarly s3 k.gtag seq) k.gtag seq with
            | some d => collForward (takeEarly s3 k.gtag seq) d
            | none => takeEarly s3 k.gtag seq)) ∧
    (r.phase = .running → exec c s = .next (resumeUnits (begin s)))

/-- DESC, OPEN and ABORT of a known group act on the collective they name; others are counted stray. A control message
with an unknown GTAG or another KIND counts COL_STRAY and does nothing else. A DESC of a started collective is
compared and forwarded; one that comes before its COLL waits for it. OPEN opens the collective. ABORT is passed on
and fails it with the message's code; for a COLL that has not started here it is passed on once and kept. DESC_MSG,
OPEN, ABORT and COL_TIMEOUT: a collective that times out is aborted with REMOTE_DEAD and the peers that did not
answer are reported; one that never started has its waiting DESCs and ABORT dropped. (R311, R312, R320) -/
def Obligations.CollectiveMessagesAct : Prop :=
  ∀ (body : Bytes) (s : State),
    let gtag := leAt body 8 4
    let seq := leAt body 12 4
    let d : EarlyDesc := { gtag := gtag, seq := seq, sender := bits (leAt body 0 4) 27 16, digest := leAt body 16 4,
                           matched := bits (leAt body 20 4) 12 0 }
    (groupOfTag s gtag = none → exec (.descMsg body) s = .next (count (begin s) C.COL_STRAY) ∧
      exec (.openMsg body) s = .next (count (begin s) C.COL_STRAY) ∧
      exec (.abortMsg body) s = .next (count (begin s) C.COL_STRAY)) ∧
    (∀ g c, groupOfTag s gtag = some g → collOf s gtag seq = some c →
      (leAt body 0 1 = 1 → exec (.descMsg body) s = .next (descFor (begin s) c d)) ∧
      (leAt body 0 1 = 2 → exec (.openMsg body) s = .next (collOpen (begin s) c)) ∧
      (leAt body 0 1 = 3 → exec (.abortMsg body) s =
        .next (collFail (sendAbort (begin s) c (leAt body 1 1) (some d.sender)) c (leAt body 1 1)))) ∧
    (∀ g, groupOfTag s gtag = some g → collOf s gtag seq = none → leAt body 0 1 = 1 →
      serialGt (grSeq (group s g)) seq = false →
      exec (.descMsg body) s = .next { begin s with col := { s.col with early := s.col.early ++ [d] } }) ∧
    (∀ g, groupOfTag s gtag = some g → collOf s gtag seq = none → leAt body 0 1 = 3 →
      serialGt (grSeq (group s g)) seq = false → abortedAs s gtag seq = none →
      exec (.abortMsg body) s = .next (sendAborts { begin s with col := { s.col with
        aborted := s.col.aborted ++ [(gtag, seq, leAt body 1 1)] } } g gtag seq (leAt body 16 4) (leAt body 1 1) (some d.sender))) ∧
    (∀ (tag sq : BitVec 32) (c : Coll), collOf s tag.toNat sq.toNat = some c → exec (.colTimeout tag sq) s =
      .next ((collBlocked s c).eraseDups.foldl (fun s p => match peerIdx s p with
        | some x => faultReport s x 2
        | none => s) (collAbort (begin s) c ecRemoteDead))) ∧
    (∀ (tag sq : BitVec 32), collOf s tag.toNat sq.toNat = none → exec (.colTimeout tag sq) s =
      .next { begin s with col := { s.col with 
        early := s.col.early.filter fun x => !(x.gtag == tag.toNat && x.seq == sq.toNat),
        aborted := s.col.aborted.filter fun a => !(a.1 == tag.toNat && a.2.1 == sq.toNat) } })

/-- A chunk is used by the open collective it names, kept until OPEN, or refused. REDUCE_SCATTER_CHUNK, GATHER_CHUNK,
BROADCAST_CHUNK and PARITY_SCATTER_CHUNK: a chunk whose GTAG and sequence number name no collective of its SUBOP, or
whose sender is not in the group, counts COL_STRAY. A chunk with a bad CRC drops the collective, fails its command
with code 0x0C and makes the epoch unclean. A good chunk that comes before OPEN waits in order of arrival; a good
chunk of an open collective is used, and the collective sends, writes and completes as far as it can. Each chunk is
accepted once what its collective writes is acknowledged. (R18, R305, R312, R315) -/
def Obligations.CollectiveChunksAreUsed : Prop :=
  (∀ (p : BitVec 12) (body : Bytes) (s : State) (c : Coll) (i : Nat), collOf s (leAt body 0 4) (leAt body 4 4) = some c →
    grIdxOf s (group s c.grp) p.toNat = some i → (chunkBody body).2 = true → c.opened = true →
    let x := (i, leAt body 8 3, (chunkBody body).1)
    let used (type : Nat) : State := settleRx (takenMsg (collPump (chunkUse (begin s) c x) c) p.toNat type (c.owner + 1) [])
    ((opOf s c).sub = 0 → exec (.reduceScatterChunk p body) s = .next (used 0x0A)) ∧
    ((opOf s c).sub = 1 → exec (.gatherChunk p body) s = .next (used 0x0B)) ∧
    ((opOf s c).sub = 2 → exec (.broadcastChunk p body) s = .next (used 0x0B)) ∧
    ((opOf s c).sub = 3 → exec (.parityScatterChunk p body) s = .next (used 9))) ∧
  (∀ (p : BitVec 12) (body : Bytes) (s : State),
    exec (.reduceScatterChunk p body) s = .next (chunkTaken s (chunkIn (begin s) 0 p.toNat body) 0x0A p.toNat body 0) ∧
    exec (.gatherChunk p body) s = .next (chunkTaken s (chunkIn (begin s) 1 p.toNat body) 0x0B p.toNat body 0) ∧
    exec (.broadcastChunk p body) s = .next (chunkTaken s (chunkIn (begin s) 2 p.toNat body) 0x0B p.toNat body 0) ∧
    exec (.parityScatterChunk p body) s = .next (chunkTaken s (chunkIn (begin s) 3 p.toNat body) 9 p.toNat body 0)) ∧
  (∀ (p : BitVec 12) (body : Bytes) (s : State) (sub type : Nat) (k : Instr),
    (sub = 0 ∧ type = 0x0A ∧ k = .reduceScatterChunk p body) ∨ (sub = 1 ∧ type = 0x0B ∧ k = .gatherChunk p body) ∨
      (sub = 2 ∧ type = 0x0B ∧ k = .broadcastChunk p body) ∨ (sub = 3 ∧ type = 9 ∧ k = .parityScatterChunk p body) →
    (collOf s (leAt body 0 4) (leAt body 4 4) = none →
      exec k s = .next (settleRx (takenMsg (count (begin s) C.COL_STRAY) p.toNat type 0 []))) ∧
    (∀ c, collOf s (leAt body 0 4) (leAt body 4 4) = some c →
      let took (t : State) := settleRx (takenMsg t p.toNat type (c.owner + 1) [])
      ((opOf s c).sub ≠ sub ∨ grIdxOf s (group s c.grp) p.toNat = none →
        exec k s = .next (took (count (begin s) C.COL_STRAY))) ∧
      (∀ i, (opOf s c).sub = sub → grIdxOf s (group s c.grp) p.toNat = some i →
        ((chunkBody body).2 = false → exec k s = .next (took (finish
          (dropColl (markUnclean (count (begin s) C.COL_CHUNK_CRC) (opOf s c).epoch) c) c.queue c.idx 0x0C c.seq 0))) ∧
        ((chunkBody body).2 = true → c.opened = false → exec k s =
          .next (took (setColl (begin s) { c with staged := c.staged ++ [(i, leAt body 8 3, (chunkBody body).1)] }))) ∧
        ((chunkBody body).2 = true → c.opened = true → exec k s =
          .next (took (collPump (chunkUse (begin s) c (i, leAt body 8 3, (chunkBody body).1)) c))))))

/-- A FENCE records what it covers and completes when all of it is acknowledged. A FENCE with SCOPE bit 0 covers, of
each stream that has carried chunks or segments of its queue's commands, what has been sent; with bit 1 the hive
writes: the streams of those that have been sent, the contexts of those that have not, and the queued ones; with bit
2 the writes outstanding on the tier ports. It fails with REMOTE_DEAD when a covered peer is lost, and completes
when nothing is left. An acknowledgement (E2E_ACK_RECEIVE) is applied entry by entry and then settles fences and
collectives. FENCE_TIMEOUT completes the oldest fence of the queue with code 0x07, and does nothing without one. How
a stream is known to carry a queue's work and the INFO of a time-out are the model's choice (notes/assumptions/50).
(R305, R321, R338) -/
def Obligations.FencesWaitForWhatTheyCover : Prop :=
  (∀ (q : Fin 16) (s : State) (r : Run), activeRun s q 0x0C 0 = some r → r.phase ≠ .running →
    let scope := opd r.raw 2 0
    let writes := s.hive.ctxs.filter fun c => c.req.op != 0 && c.req.op != 6
    let sent (c : HiveCtx) : Bool := !c.own && c.issued && !(s.hive.packs.any fun k => k.peer == c.peer && !k.resp)
    let only (b : Bool) (l : List (Nat × Nat)) : List (Nat × Nat) := if b then l else []
    let f : Fence :=
      { queue := q, idx := r.idx,
        streams := (if bit scope 0 then s.lp.tx.filterMap (sentMark s q) else []) ++
          (if bit scope 1 then
            (s.lp.tx.filter fun t => t.vc == 5 && writes.any fun c => sent c && c.peer == t.peer).filterMap (streamMark s) else []),
        ctxs := only (bit scope 1) ((writes.filter fun c => !sent c).map fun c => (c.req.ctx, c.req.gen)),
        watch := only (bit scope 1) ((writes.filter sent).map fun c => (c.req.ctx, c.req.gen)),
        tiers := only (bit scope 2) ((List.range 4).flatMap fun p =>
          ((tierOf s p).reqs.filter (·.write)).map fun t => (p, t.tag)),
        queued := only (bit scope 1) ((s.hive.admq.filter fun c => c.req.op != 0).filterMap fun c => match c.asker with
          | .host a b => some (a, b)
          | _ => none) }
    let s1 := keepRunning { begin s with fences := s.fences ++ [f] } q r.idx [50]
    exec (.fence q) s = .next (if (f.streams.any fun x => peerLost s1 x.1) = true then failFence s1 f ecRemoteDead
      else settleFences s1)) ∧
  (∀ (q : Fin 16) (s : State) (r : Run), activeRun s q 0x0C 0 = some r → r.phase = .running →
    exec (.fence q) s = .next (begin s)) ∧
  (∀ (p : BitVec 12) (body : Bytes) (s : State), exec (.e2eAckReceive p body) s = .next (settleColls (settleFences
    (((List.range (min 14 (body.length / 16))).map fun i => leAt body (16 * i) 16).foldl (ackEntry p.toNat) (begin s))))) ∧
  (∀ (q : Fin 16) (s : State) (f : Fence), (s.fences.find? fun f => f.queue == q.val) = some f →
    exec (.fenceTimeout q) s = .next (finish
      { begin s with fences := s.fences.filter fun x => !(x.queue == f.queue && x.idx == f.idx) } f.queue f.idx 0x07
      (match f.streams with
        | x :: _ => peerFid (peerEntry s x.1) + at' x.2.1 16
        | [] => 0) 0)) ∧
  (∀ (q : Fin 16) (s : State), (s.fences.find? fun f => f.queue == q.val) = none →
    exec (.fenceTimeout q) s = .next (begin s))

/-- ROOT works through its range and completes with its residual and counts. A started ROOT whose operands are refused
fails with DESCRIPTOR, one whose requests stand at a port out of service with 0x0D. One whose operands are good
forms its scalars once and works through its statistics from the first, and later from where it waited; when all is
done and its writes are acknowledged it completes with its residual, the place of it and the number over the warning
level, when it must wait it keeps its place, and a failure ends it with that code. A column failure in it is noted
first. (R239, R244, R245) -/
def Obligations.RootRunsItsRange : Prop :=
  ∀ (q : Fin 16) (s : State) (r : Run), activeRun s q 0x0F 0 = some r →
    (r.phase = .started → rootOk s r.raw false = false → exec (.root q none) s = .next (drainChecks (finish (rootFree
      (if bindingOk s (dir s (opd r.raw 66 48)) (opd r.raw 47 0) false then begin s else wr (begin s) R.SCH_STAT_SET_BAD 1))
      q r.idx ecDescriptor 0 0))) ∧
    ((r.phase = .started ∧ rootOk s r.raw false = true ∨ r.phase = .running) →
      (rootOut s = true → exec (.root q none) s =
        .next (drainChecks (finish (rootFree (rootOffOut (begin s))) q r.idx 0x0D 0 0))) ∧
      (rootOut s = false →
        let fresh := r.phase == .started
        let s1 := if fresh then rootForm (wakeDomain (begin s) 13) r.raw false else begin s
        let p0 := if fresh then { k := 0, got := false, worst := 0, place := 0, above := 0, warn := rd s R.ROOT_RESID_WARN }
          else RootPos.ofAux r.aux
        let g := rootGo r.raw false ((rootStats s1 r.raw false).drop p0.k) p0 s1
        let p := g.2.1
        (g.2.2 = .done → writesAcked g.1 rootOwner = true → exec (.root q none) s = .next (drainChecks
          (finish (rootReport g.1 p) q r.idx 0 (p.worst + at' p.place 32) p.above))) ∧
        (g.2.2 = .done ∧ writesAcked g.1 rootOwner = false ∨ g.2.2 = .wait → exec (.root q none) s =
          .next (drainChecks (keepRunning g.1 q r.idx [6, p.k, b2n p.got, p.worst, p.place, p.above, p.warn]))) ∧
        (∀ c, g.2.2 = .fail c → exec (.root q none) s = .next (drainChecks (finish (rootFree g.1) q r.idx c 0 0))))) ∧
    (∀ (f : Fin 4 × Fin 129), exec (.root q (some f)) s = .next (drainChecks (rootEffect (columnFail (begin s) f.1 f.2) q)))

/-- CAP waits for the cap of its epoch; reports go up the tree and announcements down it. A CAP, which armed its stores
as it started, stays until its epoch caps. CAP_REPORT_READY: a member whose report is ready gives it to its own
node. CAP_REPORT: a child's report of another epoch or attempt is dropped, a good one replaces its earlier one and
is forwarded. CAP_TIMEOUT: a partial report goes up, or is told at the root, when CMB_CAP_TMO has passed with
children missing. CAP_ANNOUNCE: an announcement is passed on and caps every epoch up to it, once. Messages of a peer
outside the list are dropped. The bytes of an announcement are the model's choice (notes/assumptions/46). (R27,
R279, R280, R281) -/
def Obligations.CapCommandAndReports : Prop :=
  (∀ (q : Fin 16) (s : State) (r : Run), activeRun s q 5 0 = some r →
    (r.phase ≠ .running → exec (.cap q) s = .next (drainChecks (keepRunning (begin s) q r.idx [opd r.raw 47 0]))) ∧
    (r.phase = .running → exec (.cap q) s = .next (drainChecks (begin s)))) ∧
  (∀ (e : BitVec 48) (s : State), exec (.capReportReady e) s = .next (if reportReady (drainChecks (begin s)) e.toNat then
    capForward (setEpoch (drainChecks (begin s)) { epochOf (drainChecks (begin s)) e.toNat with own := 1 }) e.toNat
    else drainChecks (begin s))) ∧
  (∀ (p : BitVec 12) (body : Bytes) (s : State) (x : Nat), peerIdx s p.toNat = some x →
    let v := leAt body 0 32
    let e := bits v 47 0
    (canCap s = true → capped s < e → e ≤ capped s + 2 → bits v 55 48 = attemptOf s e → exec (.capReport p body) s =
      .next (capForward (setEpoch (begin s) { epochOf s e with
        reports := ((epochOf s e).reports.filter fun y => y.child != x) ++
          [{ child := x, clean := bit v 56, covered := bits v 79 64, missing := bits v 95 80, firstBad := bits v 109 96 }] })
        e)) ∧
    (canCap s = false ∨ e ≤ capped s ∨ capped s + 2 < e ∨ bits v 55 48 ≠ attemptOf s e →
      exec (.capReport p body) s = .next (begin s))) ∧
  (∀ (p : BitVec 12) (body : Bytes) (s : State), peerIdx s p.toNat = none →
    exec (.capReport p body) s = .next (begin s) ∧ exec (.capAnnounce p body) s = .next (begin s)) ∧
  (∀ (e : BitVec 48) (s : State), (epochOf s e.toNat).own = 1 → (capSum s (epochOf s e.toNat)).allIn = false →
    capped s < e.toNat → canCap s = true →
    let x := epochOf s e.toNat
    let c := capSum s x
    let gone := (capChildren s).filter fun y => x.reports.all fun r => r.child != y
    let s1 := setEpoch (begin s) { x with told := 2 }
    exec (.capTimeout e) s = .next (if amRoot s1 = true then unitError s1 0 0x0E e.toNat (gone.foldl min c.firstBad)
      else toParent s1 5 (capReportMsg e.toNat (attemptOf s1 e.toNat) c.covered
        (c.missing + (gone.map fun y => (subtree s 6 y).length).sum) (gone.foldl min c.firstBad) (!c.bad)))) ∧
  (∀ (p : BitVec 12) (body : Bytes) (s : State) (x : Nat), peerIdx s p.toNat = some x → canCap s = true →
    let e := leAt body 0 6
    exec (.capAnnounce p body) s = .next (if e ≤ max (capped s) s.comb.capDue then begin s
      else capTo (toChildren (begin s) 5 (capReportMsg e (attemptOf s e) s.comb.listN 0 0x3FFF true)) e))

/-- Segments are sent in order, applied once, acknowledged and re-sent. DRAIN_SEND reads back the oldest segment some
holder may have now and sends it to those holders; one that fails its CRC makes the epoch unclean and is not sent;
with none, a segment that waits for a grant counts a cycle. DELTA_SEGMENT and SCALE_SEGMENT: a segment is judged and
waits where its parity cell is not ready, or behind its stream. DRAIN_ACK notes the grant of its holder and raises
the acknowledged count of the stream it fits. DRAIN_ACK_TIMER acknowledges what is durable and not yet told.
DRAIN_RESEND_TIMEOUT re-sends a stream without progress to every holder that lags, and reports class 3 each fourth
time. V2_DRAIN_ACK frees the segments whose messages all lie at or below its MSEQ. U_RESERVE_TAKE tries the reserve.
SEQ per holder and the stream of an acknowledgement are the model's choice (notes/assumptions/47). (R271, R273,
R274, R275, R276, R277, R298) -/
def Obligations.DrainSendsAndAcknowledges : Prop :=
  (∀ (sl : Fin 13) (s : State),
    let mine := s.cod.segs.filter fun g => g.own && segStream g == sl.val && decide (capped s < g.epoch) && !segBad s g
    let ok (g : Seg) : List (Nat × Nat × Nat) := (dueHolders s g).filter fun h => decide (g.epoch ≤ grantFrom s h.1)
    (∀ g, (mine.find? fun g => ok g != []) = some g →
      (segOk (segBytes s g) = true → exec (.drainSend sl) s =
        .next ((ok g).foldl (fun t h => sendSeg t g h (segBytes s g)) (markSent (begin s) g (ok g)))) ∧
      (segOk (segBytes s g) = false → exec (.drainSend sl) s = .next (backFails (begin s) g))) ∧
    ((mine.find? fun g => ok g != []) = none → exec (.drainSend sl) s =
      .next (if (mine.any fun g => dueHolders s g != []) = true then count (begin s) C.COD_GRANT_WAIT else begin s))) ∧
  (∀ (p : BitVec 12) (body : Bytes) (s : State),
    let r := segVerdict (begin s) p.toNat (leAt body 0 8) (body.drop 8)
    let parked := s.cod.parked.any fun m => m.1 == p.toNat && msgKey m.2 == msgKey body
    let t := if parked = true then setCod (begin s) { s.cod with parked := s.cod.parked ++ [(p.toNat, body)] }
      else if r.2 = true then setCod r.1 { r.1.cod with parked := r.1.cod.parked ++ [(p.toNat, body)] } else r.1
    exec (.deltaSegment p body) s = .next t ∧ exec (.scaleSegment p body) s = .next t) ∧
  (∀ (p : BitVec 12) (body : Bytes) (s : State) (r : Nat), peerHolder s p.toNat = some r →
    let v := leAt body 0 32
    let n := bits v 95 64 + 1
    let s1 := { begin s with cod := { s.cod with granted := put s.cod.granted r (bits v 143 96 + 1) } }
    (bit v 144 = true → exec (.drainAck p body) s = .next s1) ∧
    (∀ o : DrainOut, bit v 144 = false → s.cod.outs = [o] → o.slice = bits v 51 48 → o.epoch = bits v 47 0 →
      o.attempt = bits v 63 56 → o.attempt = attemptOf s o.epoch → get o.acked r < n → n ≤ get o.sent r →
      exec (.drainAck p body) s = .next (setOut s1 { o with acked := put o.acked r n, tries := put o.tries r 0 }))) ∧
  (∀ (rank : Fin 16) (sl : Fin 13) (e : BitVec 48) (s : State),
    let due := s.cod.ins.find? fun i => i.rank == rank.val && i.slice == sl.val && i.epoch == e.toNat &&
      i.attempt == attemptOf s e.toNat && decide (i.told < durable s i)
    (due = none → exec (.drainAckTimer rank sl e) s = .next (begin s)) ∧
    (∀ i, due = some i →
      let t := setIn (begin s) { i with told := durable s i, waits := i.waits.filter fun w => decide (durable s i ≤ w.1) }
      exec (.drainAckTimer rank sl e) s = .next (if ownStream t i = true then
          ackRise t (outOf t i.rank i.slice i.epoch) (cmbRank t) (durable s i)
        else sendMsg t i.peer 8 0 (ackMsg i.epoch i.slice i.attempt (durable s i - 1) (grantOf t) false)))) ∧
  (∀ (src : Fin 16) (sl : Fin 13) (e : BitVec 48) (s : State),
    let o := outOf s src sl e.toNat
    let late := (List.range 16 ++ mirrorHolders s).filter fun r => decide (get o.acked r < get o.sent r)
    let o2 := { o with tries := late.foldl (fun m r => put m r (get m r + 1)) o.tries }
    (late = [] → exec (.drainResendTimeout src sl e) s = .next (begin s)) ∧
    (late ≠ [] → exec (.drainResendTimeout src sl e) s = .next ((late.filter fun r => get o2.tries r % 4 == 0).foldl
      (fun t r => match holderIdx t r with
        | some x => faultReport t x 3
        | none => t)
      (late.foldl (fun t r => resendTo t o2 r) (count (setOut (begin s) o2) C.COD_DRAIN_RESEND))))) ∧
  (∀ (p : BitVec 12) (e : BitVec 48) (mseq : BitVec 32) (s : State) (r : Nat), peerRank s p.toNat = some r →
    let got := s.cod.v2segs.filter fun v => v.holder == r && v.epoch == e.toNat && decide (v.first + v.n ≤ mseq.toNat + 1)
    exec (.v2DrainAck p e mseq) s = .next (got.foldl (fun t v => ackRise t (outOf t v.src v.slice e.toNat) r (v.seq + 1))
      { begin s with cod := { s.cod with v2segs := s.cod.v2segs.filter fun v => !got.contains v } })) ∧
  (∀ s : State, exec .uReserveTake s =
    .next (if canCap s then tryReserve (begin s) (grantOf s) else begin s))

/-- JOIN fetches its list; START, START_ACK, GO and the subtree time-out run the start. JOIN, as it starts outside
TEARDOWN, asks for its job list of 64 bytes and 8 per position. A START is refused with code 0x09 in TEARDOWN and
0x08 in another job, held while ABSENT, refused with DESCRIPTOR where the digest differs, and else taken up with its
exclusions. A START_ACK of a child is stored and the start goes on; one of another position is dropped. GO of this
job is forwarded and applied once; any other is dropped. JOIN_SUBTREE_TIMEOUT: after the time-out the children that
have not answered count as unreached with REMOTE_DEAD. (R345, R347, R348, R349, R350, R351) -/
def Obligations.JoinAndStartOverTheTree : Prop :=
  (∀ (q : Fin 16) (s : State) (r : Run), activeRun s q 0x0A 0 = some r →
    exec (.join q) s = .next (if r.phase = .running then begin s else if memberState s = 8 then finish (begin s) q r.idx 0x09 0 0
      else hostFetch (keepRunning (begin s) q r.idx [60]) q r.idx (opd r.raw 85 40 * 64) (64 + 8 * opd r.raw 99 86))) ∧
  (∀ (p : BitVec 12) (tag : BitVec 24) (memb : BitVec 16) (body : Bytes) (s : State),
    exec (.startMsg p tag memb body) s = .next
      (if memberState s = 8 then refuseStart (begin s) p.toNat tag.toNat memb.toNat 0x09
       else if memberState s = 0 then { begin s with comb := { s.comb with
          starts := (s.comb.starts.filter fun h => h.peer != p.toNat) ++
            [{ peer := p.toNat, tag := tag.toNat, memb := memb.toNat, body := body }] } }
       else if tag.toNat ≠ rd s R.CMB_JOB_JOB_TAG ∨ memb.toNat ≠ rd s R.CMB_JOB_MEMB_EPOCH then
         refuseStart (begin s) p.toNat tag.toNat memb.toNat 0x08
       else if bits (leAt body 0 16) 79 48 ≠ s.comb.digest then
         refuseStart (begin s) p.toNat tag.toNat memb.toNat ecDescriptor
       else startNode (if s.comb.going then begin s
         else setExcl (begin s) (idxList (body.drop 16) (bits (leAt body 0 16) 127 80))))) ∧
  (∀ (p : BitVec 12) (body : Bytes) (s : State) (y : Nat), peerIdx s p.toNat = some y → s.comb.started = true →
    (childrenOf s (ownIdx s)).contains y = true →
    let v := leAt body 0 16
    (bits v 23 16 ≠ 0 → exec (.startAck p body) s = .next (startSettle (putAck (begin s)
      { child := y, covered := 0, unreached := [(y, bits v 23 16)] }))) ∧
    (bits v 23 16 = 0 → exec (.startAck p body) s = .next (startSettle (putAck (begin s)
      { child := y, covered := bits v 79 48,
        unreached := (List.range ((body.length - 16) / 4)).map fun i =>
          (bits (leAt body (16 + 4 * i) 4) 13 0, bits (leAt body (16 + 4 * i) 4) 23 16) })))) ∧
  (∀ (p : BitVec 12) (body : Bytes) (s : State), s.comb.started = false ∨ peerIdx s p.toNat = none →
    exec (.startAck p body) s = .next (begin s)) ∧
  (∀ (tag : BitVec 24) (memb : BitVec 16) (body : Bytes) (s : State), memberState s ≠ 1 ∨ s.comb.going = true ∨
    tag.toNat ≠ rd s R.CMB_JOB_JOB_TAG ∨ memb.toNat ≠ rd s R.CMB_JOB_MEMB_EPOCH → exec (.goMsg tag memb body) s = .next (begin s)) ∧
  (∀ (tag : BitVec 24) (memb : BitVec 16) (body : Bytes) (s : State), memberState s = 1 → s.comb.going = false →
    tag.toNat = rd s R.CMB_JOB_JOB_TAG → memb.toNat = rd s R.CMB_JOB_MEMB_EPOCH →
    exec (.goMsg tag memb body) s =
      .next (goApply (sendGo (setExcl (begin s) (idxList (body.drop 16) (bits (leAt body 0 16) 79 48)))))) ∧
  (∀ (s : State), s.comb.started = false ∨ s.comb.going = true ∨ s.comb.acked = true →
    exec .joinSubtreeTimeout s = .next (begin s)) ∧
  (∀ (s : State), s.comb.started = true → s.comb.going = false → s.comb.acked = false →
    let gone := (childrenOf s (ownIdx s)).filter fun y => (ackFrom s y).isNone
    exec .joinSubtreeTimeout s = .next (if gone = [] then begin s else startSettle
      (gone.foldl (fun t y => putAck t { child := y, covered := 0, unreached := [(y, ecRemoteDead)] }) (begin s))))

/-- A declared position becomes LOST once, and the declaration goes over the tree. CMB_DECLARE of a position of the list
that is not LOST makes it LOST and sends LOST over the tree; beyond the list it is answered DESCRIPTOR, under a
slice hold held. LOST_DECLARE does so only with a report and silence together; DECLARE_SELF does so at once, LEFT of
a member at its guard, and another member learns the loss; messages of peers outside the list are dropped. A LOST is
passed to every tree neighbour but the sender, and acted on, the first time it comes for a position; later ones
change nothing. (R354, R360, R361, R362, R534) -/
def Obligations.LossesAreDeclaredAndLearned : Prop :=
  (∀ (r : Req) (x : BitVec 14) (s : State), s.chip.held = false → exec (.cmbDeclare r x) s =
    .next (if s.comb.listN ≤ x.toNat then answered r (begin s, ecDescriptor)
      else answered r (declare (begin s) x.toNat, 0))) ∧
  (∀ (x : BitVec 14) (s : State),
    let tmo := 100000 * rd s R.CMB_LOST_TMO
    let ours : Prop := (memRole (member s x.toNat) = 0 ∨ memRole (member s x.toNat) = 1) ∧ memComb (member s x.toNat) = ownComb s
    let told : Prop := get s.comb.told x.toNat ≠ 0 ∧ rd s R.TIME_TOD + 1 ≤ get s.comb.told x.toNat + tmo
    let silent : Prop := get s.comb.heard x.toNat + tmo ≤ rd s R.TIME_TOD + 1
    (ours ∧ x.toNat < s.comb.listN ∧ told ∧ silent → exec (.lostDeclare x) s = .next (declare (begin s) x.toNat)) ∧
    (¬ (ours ∧ x.toNat < s.comb.listN ∧ told ∧ silent) → exec (.lostDeclare x) s = .next (begin s))) ∧
  (∀ (p : BitVec 12) (s : State) (x : Nat), peerIdx s p.toNat = some x →
    exec (.declareSelf p) s = .next (declare (begin s) x)) ∧
  (∀ (p : BitVec 12) (s : State), peerIdx s p.toNat = none →
    exec (.declareSelf p) s = .next (begin s) ∧ exec (.leftMsg p) s = .next (begin s)) ∧
  (∀ (p : BitVec 12) (s : State), memberState s = 0 → exec (.leftMsg p) s = .next (begin s)) ∧
  (∀ (p : BitVec 12) (s : State) (x : Nat), peerIdx s p.toNat = some x → memberState s ≠ 0 →
    s.comb.leave ≠ none ∨ memberState s = 8 → exec (.leftMsg p) s =
      .next (if [1, 2, 3, 4, 6].contains (memState (member s x)) = true then memberTo (begin s) x 8 else begin s)) ∧
  (∀ (p : BitVec 12) (s : State) (x : Nat), peerIdx s p.toNat = some x → s.comb.leave = none → memberState s ≠ 8 →
    memberState s ≠ 0 → exec (.leftMsg p) s = .next (if guardOf s x = some (ownIdx s) then declare (begin s) x
      else learnLost (begin s) x (match guardOf s x with
        | some y => memRank (member s y)
        | none => 0))) ∧
  (∀ (p : BitVec 12) (body : Bytes) (s : State),
    let v := leAt body 0 16
    let x := bits v 47 34
    (s.comb.listN ≤ x ∨ s.comb.lostSeen.contains x = true → exec (.lostMsg p body) s = .next (begin s)) ∧
    (x < s.comb.listN → s.comb.lostSeen.contains x = false → exec (.lostMsg p body) s =
      .next (let t := learnLost (sawLost (begin s) x) x (bits v 79 48)
        toTree t (peerIdx t p.toNat) (treeNear s ++ treeNear t) body))) ∧
  (∀ (s : State) (x : Nat), x < s.comb.listN → memState (member s x) ≠ 7 →
    declare s x = toTree (learnLost s x (cmbRank s)) none (treeNear s ++ treeNear (learnLost s x (cmbRank s)))
      (membMsg 4 x 0 (cmbRank s) (capped s) []))

/-- LEAVE announces itself, goes through TEARDOWN and leaves the member ABSENT. LEAVE_IMMEDIATE with the own tag, and
LEAVE_DRAIN with no open epoch, sends LEFT to the comb and the tree neighbours and enters TEARDOWN; a LEAVE_DRAIN
with an open epoch waits for it, and goes on when executed again. Another tag, another state or a second LEAVE fails
with DESCRIPTOR (the model's choice, notes/assumptions/53). TEARDOWN_RELEASE gives up the part in the job and
completes the LEAVE. (R354) -/
def Obligations.LeaveTearsDownAndReleases : Prop :=
  (∀ (q : Fin 16) (s : State) (r : Run) (sub : Nat) (c : Instr),
    (sub = 0 ∧ c = .leaveDrain q) ∨ (sub = 1 ∧ c = .leaveImmediate q) → activeRun s q 0x0B sub = some r →
    (∀ (lq li : Nat) (down : Bool), s.comb.leave = some (lq, li, down) → exec c s = .next (if lq = q.val ∧ li = r.idx then
        (if down = true ∨ (uncapped s).any (isOpen s) = true then begin s else teardown (begin s) lq li)
      else finish (begin s) q r.idx ecDescriptor 0 0)) ∧
    (s.comb.leave = none → ([1, 2, 3, 4, 6].contains (memberState s) = false ∨ opd r.raw 23 0 ≠ rd s R.CMB_JOB_JOB_TAG) →
      exec c s = .next (finish (begin s) q r.idx ecDescriptor 0 0)) ∧
    (s.comb.leave = none → [1, 2, 3, 4, 6].contains (memberState s) = true → opd r.raw 23 0 = rd s R.CMB_JOB_JOB_TAG →
      let s1 := keepRunning (begin s) q r.idx [70]
      let s2 := { s1 with comb := { s.comb with leave := some (q.val, r.idx, false) } }
      exec c s = .next (if sub = 1 ∨ (uncapped s2).any (isOpen s2) = false then
        (let s3 := toTree s2 none (combOthers s2 ++ treeNear s2) (membMsg 5 (ownIdx s2) 0 0 (capped s2) [])
         memberTo { s3 with comb := { s3.comb with leave := some (q.val, r.idx, true) } } (ownIdx s3) 8)
        else s2))) ∧
  (∀ (s : State), memberState s ≠ 8 → exec .teardownRelease s = .next (begin s)) ∧
  (∀ (s : State), memberState s = 8 → s.comb.leave = none →
    exec .teardownRelease s = .next (releaseJob (joinsEnd (begin s) ecDescriptor 0))) ∧
  (∀ (s : State) (q i : Nat) (b : Bool), memberState s = 8 → s.comb.leave = some (q, i, b) →
    exec .teardownRelease s = .next (finish (releaseJob (joinsEnd (begin s) ecDescriptor 0)) q i 0 0 0))

/-- ROLLBACK cancels and undoes the epochs above its target and completes job-wide. As it starts, a ROLLBACK cancels
every unretired command of an epoch it rolls back with its REASON and marks every queue with its doorbell value. It
then undoes when the memory ports hold no write and no slice it needs is out of service. RB_DONE of a child is
stored and the ROLLBACK goes on; RB_ANN of its target is forwarded and completes it, any other is dropped;
ROLLBACK_REPORT_TIMEOUT tells who is missing, as a record at the root and up the tree elsewhere. CAP_WAIT_TIMEOUT: a
command that waits for a cap too long fails with DESCRIPTOR. (R147, R363, R364, R365, R412) -/
def Obligations.RollbackCancelsUndoesAndAgrees : Prop :=
  (∀ (s : State) (r : Run),
    let target := opd r.raw 47 0
    let s1 := cancelAbove s target (opd r.raw 55 48)
    let mark (x : Queue) : RbMark := { db := x.db, target := target, newest := target + 2, reason := opd r.raw 55 48 }
    startRollback s r = { s1 with queues := s1.queues.map fun x =>
      { x with rbMarks := (x.rbMarks.filter fun m => serialGt m.db x.ret) ++ [mark x] } }) ∧
  (∀ (q : Fin 16) (s : State) (r : Run), activeRun s q 9 0 = some r →
    let target := opd r.raw 47 0
    let run : RbRun := { queue := q, idx := r.idx, target := target, reason := opd r.raw 55 48, newest := target + 2,
                         undone := false, told := false }
    let s1 := keepRunning (begin s) q r.idx [target]
    let s2 := if r.phase = .running then begin s else { s1 with comb := { s.comb with rb := some run } }
    exec (.rollback q) s = .next (match s2.comb.rb with
      | none => s2
      | some x => if (x.undone || !portsQuiet s2 || undoWaits s2) = true then s2 else rbUndo s2 x)) ∧
  (∀ (s : State) (r : RbRun), rbUndo s r =
    let s1 := undoRest (if undoDue s = true then undoAll s else s) r.target r.newest
    let s2 := refreshRecord (sendFloors (giveBackSeqs (tryReserve s1 (grantOf s)) r.target) r.target)
    rbSettle { s2 with comb := { s2.comb with rb := some { r with undone := true } } }) ∧
  (∀ (p : BitVec 12) (body : Bytes) (s : State), peerIdx s p.toNat = none → exec (.rbDone p body) s = .next (begin s)) ∧
  (∀ (p : BitVec 12) (body : Bytes) (s : State) (y : Nat), peerIdx s p.toNat = some y →
    let v := leAt body 0 16
    let d : RbDone := { target := bits v 127 80, child := y, covered := bits v 79 48,
                        missing := idxList (body.drop 16) ((body.length - 16) / 2) }
    exec (.rbDone p body) s = .next (rbSettle { begin s with comb := { s.comb with
      rbDone := (s.comb.rbDone.filter fun x => !(x.target == d.target && x.child == y)) ++ [d] } })) ∧
  (∀ (body : Bytes) (s : State) (r : RbRun), s.comb.rb = some r → r.undone = true →
    bits (leAt body 0 16) 127 80 = r.target →
    exec (.rbAnn body) s =
      .next (rbComplete (toChildren (begin s) 3 (membMsg 7 (treeRoot s) 0 0 r.target [])) r)) ∧
  (∀ (body : Bytes) (s : State), (∀ r, s.comb.rb = some r → r.undone = false ∨ bits (leAt body 0 16) 127 80 ≠ r.target) →
    exec (.rbAnn body) s = .next (begin s)) ∧
  (∀ (s : State), s.comb.rb = none → exec .rollbackReportTimeout s = .next (begin s)) ∧
  (∀ (s : State) (r : RbRun), s.comb.rb = some r →
    let mine := (childrenOf s (ownIdx s)).filter fun y =>
      !(s.comb.rbDone.any fun d => d.target == r.target && d.child == y)
    let gone := (mine ++ (s.comb.rbDone.filter fun d => d.target == r.target).flatMap (·.missing)).eraseDups
    exec .rollbackReportTimeout s = .next (if r.undone = false ∨ gone = [] then begin s
      else if amRoot s = true then unitError (begin s) ecRemoteDead 0x0E r.target (gone.foldl min 0x3FFF + at' gone.length 16)
      else toParent (begin s) 3 (membMsg 6 (ownIdx s) 0
        (1 + ((s.comb.rbDone.filter fun d => d.target == r.target).map (·.covered)).sum) r.target (idxBytes gone)))) ∧
  (∀ (q : Fin 16) (s : State) (r : Run), (qOf s q).en = true → oldestUnstarted (qOf s q) = some r →
    (opcodeOf r.raw = 9 ∨ opcodeOf r.raw = 6) → capped s < opd r.raw 47 0 → judge s q r = .wait →
    exec (.capWaitTimeout q) s = .next (finish (begin s) q r.idx ecDescriptor 0 0))

/-- Waggles carry the member's state to its comb, and silence and reports reach the guard. WAGGLE_SEND: a member that
takes part sends its waggle to every other position of its comb, unless a failed PLL of its slices or light ports
has made it fall silent. A waggle of a comb member that is not LOST sets its capped epoch and the time it was heard,
takes up a later capped epoch, and compares its digest; a ranked member held ACTIVE that says it is REBUILDING is
taken at its word (the model's choice, notes/assumptions/52). WAGGLE_SILENCE of a comb member is reported with class
4; a FAULT_REPORT about a listed position is taken by this member as guard, any other is dropped. (R356, R357, R359) -/
def Obligations.WagglesAndReports : Prop :=
  (∀ (s : State),
    let others := (List.range s.comb.listN).filter fun x =>
      x != ownIdx s && memRole (member s x) != 2 && memComb (member s x) == ownComb s
    exec .waggleSend s = .next
    (if ([2, 3, 4, 6].contains (memberState s) && memRole (member s (ownIdx s)) != 2) = true then
      (if fallsSilent s then begin s else others.foldl (fun t x => sendTo t x 4 (waggleMsg t)) (begin s)) else begin s)) ∧
  (∀ (p : BitVec 12) (body : Bytes) (s : State) (x : Nat), peerIdx s p.toNat = some x →
    let v := leAt body 0 22
    (memComb (member s x) ≠ ownComb s ∨ memState (member s x) = 7 → exec (.waggle p body) s = .next (begin s)) ∧
    (memComb (member s x) = ownComb s → memState (member s x) ≠ 7 →
      let s1 := tput (begin s) 0x0E 0 x (setBits (member s x) 47 0 (bits v 47 0))
      let s2 := { s1 with comb := { s.comb with heard := put s.comb.heard x (rd s R.TIME_TOD + 1) } }
      let s3 := if bits v 51 48 = 6 ∧ memState (member s2 x) = 2 then memberTo s2 x 6 else s2
      exec (.waggle p body) s = .next (peerDigest (capLearn s3 (bits v 47 0) false) x (bits v 175 128) (bits v 127 64)))) ∧
  (∀ (p : BitVec 12) (body : Bytes) (s : State), peerIdx s p.toNat = none →
    exec (.waggle p body) s = .next (begin s) ∧ exec (.faultReport p body) s = .next (begin s)) ∧
  (∀ (x : BitVec 14) (s : State), exec (.waggleSilence x) s =
    .next (if (combOthers s).contains x.toNat then faultReport (begin s) x.toNat 4 else begin s)) ∧
  (∀ (p : BitVec 12) (body : Bytes) (s : State) (y : Nat), peerIdx s p.toNat = some y →
    exec (.faultReport p body) s = .next (if s.comb.listN ≤ bits (leAt body 0 32) 13 0 then begin s
      else guardReport (begin s) (bits (leAt body 0 32) 13 0) (bits (leAt body 0 32) 19 16) (bits (leAt body 0 32) 63 32) y))

/-- REBUILD gives the lost rank to a device or a keeper, and completes or waits for REBUILT. A REBUILD with an open
uncapped epoch, of a rank no position holds, without a spare of a rank that is not LOST, or with a device that is
none of the three admitted, fails with DESCRIPTOR. With no spare named, a LOST rank becomes DEGRADED under its
keeper and the command completes. With a fit device that is another position, the rank is handed over, and the
command waits for REBUILT after the requests that came early are judged; where this block is the device, it starts
rebuilding. REBUILT makes a REBUILDING ranked position ACTIVE and completes the REBUILDs that wait for its rank.
(R369, R370, R373, R376) -/
def Obligations.RebuildStartsOrWaits : Prop :=
  (∀ (q : Fin 16) (s : State) (r : Run), activeRun s q 7 0 = some r →
    let rank := opd r.raw 3 0
    let sp := opd r.raw 15 4
    let bad := finish (begin s) q r.idx ecDescriptor 0 0
    (r.phase = .running → exec (.rebuild q) s = .next (begin s)) ∧
    (r.phase ≠ .running → (uncapped s).any (isOpen s) = true ∨ rankIdx s rank = none → exec (.rebuild q) s = .next bad) ∧
    (∀ x, r.phase ≠ .running → (uncapped s).any (isOpen s) = false → sp = 0xFFF → rankIdx s rank = some x →
      exec (.rebuild q) s = .next (if memState (member s x) = 7 then
        finish (refreshRecord (keepRank (begin s) x rank)) q r.idx 0 0 0 else bad)) ∧
    (r.phase ≠ .running → (uncapped s).any (isOpen s) = false → sp ≠ 0xFFF →
      (∀ y, peerIdx s sp = some y → deviceKind s rank y = 0) → exec (.rebuild q) s = .next bad) ∧
    (∀ y, r.phase ≠ .running → (uncapped s).any (isOpen s) = false → sp ≠ 0xFFF → peerIdx s sp = some y →
      deviceKind s rank y ≠ 0 → (rankIdx s rank).isSome = true →
      let s1 := takeRank (begin s) rank y (deviceKind s rank y)
      (y = ownIdx s1 → exec (.rebuild q) s = .next (deviceStart s1 q r.idx rank (deviceKind s rank y))) ∧
      (y ≠ ownIdx s1 → exec (.rebuild q) s = .next (takeReqs (refreshRecord (keepRunning
        { s1 with rbd := { s1.rbd with waits := s1.rbd.waits ++ [(q.val, r.idx, rank)] } } q r.idx [rank])))))) ∧
  (∀ (body : Bytes) (s : State),
    let v := leAt body 0 16
    let x := bits v 47 34
    let rank := bits v 79 48
    let s1 := if memRole (member s x) = 0 ∧ memState (member s x) = 6 then memberTo (begin s) x 2 else begin s
    let s2 := (s1.rbd.waits.filter fun w => w.2.2 == rank).foldl (fun t w => finish t w.1 w.2.1 0 0 0) s1
    let s3 := { s2 with comb := { s2.comb with
      reqs := s2.comb.reqs.filter fun r => r.peer != memPeer (member s2 x)
      chunks := s2.comb.chunks.filter fun c => leAt c.2 0 4 != rbTag s2 rank } }
    exec (.rebuilt body) s =
      .next { s3 with rbd := { s3.rbd with waits := s3.rbd.waits.filter fun w => w.2.2 != rank } })

/-- Requests, stale answers and chunks of a rebuild act on the stripes they name. REBUILD_REQUEST_ISSUE: the rebuilding
device asks every contributor of the next range it needs and has not asked for, within its window, and else does
nothing. RB_REQ: a request of a range of 1 to 64 stripes to a ranked member is served at the own capped epoch and
answered RB_STALE at another one; from a peer not known as a device it waits. RB_STALE makes the device ask again.
REBUILD_CHUNK: a chunk of an open collective is used by it; one of a rebuild of this job goes to the device's
request, to the contributor's request, or waits for its request; another one counts COL_STRAY; each is accepted once
what it writes is acknowledged. MSEQ_FLOOR has no effect on this block. (R298, R305, R319, R371, R372) -/
def Obligations.RebuildRequestsAndChunks : Prop :=
  (∀ (s : State), (s.rbd.cmd = none ∨ rd s R.CMB_RB_WIN - stripesOut s = 0 ∨
      (nextRange s (rd s R.CMB_RB_WIN - stripesOut s)).1 = none) → exec .rebuildRequestIssue s = .next (begin s)) ∧
  (∀ (s : State) (t n : Nat) (x : Rebuild), s.rbd.cmd.isSome = true →
    rd s R.CMB_RB_WIN - stripesOut s ≠ 0 → nextRange s (rd s R.CMB_RB_WIN - stripesOut s) = (some (t, n), x) →
    exec .rebuildRequestIssue s = .next (match chainGivers s x.rank t with
      | none => begin s
      | some cs => cs.foldl (fun u c => sendRank u c.1 3 0
          (membMsg 0x0A (ownIdx s) 0 n (capped s) (leBytes 4 t ++ leBytes 4 x.seq)))
        { begin s with rbd := { x with seq := (x.seq + 1) % 2 ^ 32, out := x.out ++ [(x.seq, t, n, capped s)] } })) ∧
  (∀ (p : BitVec 12) (body : Bytes) (s : State),
    let v := leAt body 0 16
    let n := bits v 71 48
    let rq (rank : Nat) : ChainReq := { peer := p.toNat, seq := leAt body 20 4, first := leAt body 16 4, n := n,
                                        x := bits v 127 80, rank := rank }
    (n = 0 ∨ 64 < n ∨ memRole (member s (ownIdx s)) ≠ 0 → exec (.rbReq p body) s = .next (begin s)) ∧
    (memRole (member s (ownIdx s)) = 0 → 0 < n → n ≤ 64 → exec (.rbReq p body) s = .next (match deviceRank s p.toNat with
      | none => { begin s with comb := { s.comb with reqs := s.comb.reqs ++ [rq 16] } }
      | some rank => if capped s ≠ bits v 127 80 then sendStale (begin s) p.toNat (leAt body 16 4) n (leAt body 20 4)
        else serveReq (begin s) (rq rank)))) ∧
  (∀ (body : Bytes) (s : State), exec (.rbStale body) s = .next (match requestOf s (leAt body 20 4) with
    | none => begin s
    | some o => { begin s with rbd := { s.rbd with
        out := s.rbd.out.filter (·.1 != leAt body 20 4), again := s.rbd.again ++ [(o.2.1, o.2.2.1)] } })) ∧
  (∀ (p : BitVec 12) (body : Bytes) (s : State),
    let tag := leAt body 0 4
    let seq := leAt body 4 4
    let j := leAt body 8 3
    let took (owner : Nat) (t : State) := settleRx (takenMsg t p.toNat 9 (owner + 1) [])
    (∀ c, collOf s tag seq = some c →
      exec (.rebuildChunk p body) s = .next (took c.owner (chunkIn (begin s) 4 p.toNat body))) ∧
    (collOf s tag seq = none → (tag / 256 ≠ rd s R.CMB_JOB_JOB_TAG ∨ bits tag 7 4 ≠ 0xE ∨ isAbsent s = true) →
      exec (.rebuildChunk p body) s = .next (took collOwner (count (begin s) C.COL_STRAY))) ∧
    (collOf s tag seq = none → tag / 256 = rd s R.CMB_JOB_JOB_TAG → bits tag 7 4 = 0xE → isAbsent s = false →
      exec (.rebuildChunk p body) s = .next (took collOwner
        (if s.rbd.cmd.isSome = true ∧ s.rbd.rank = bits tag 3 0 then
          (match requestOf s seq with
            | some o => resultIn (begin s) o j (chunkBody body)
            | none => begin s)
        else match s.comb.reqs.find? fun r => r.seq == seq && r.rank == bits tag 3 0 with
          | some r => passTerm (begin s) r j (chunkBody body)
          | none => { begin s with comb := { s.comb with chunks := s.comb.chunks ++ [(p.toNat, body)] } })))) ∧
  (∀ s : State, exec .mseqFloor s = .next (begin s))

/-- RESTORE starts its round or its seal read, and reports and decisions carry it on. A RESTORE of a member that waits
for none, or while one runs, fails with DESCRIPTOR; with SOURCE 0 round 1 starts; with SOURCE 1 the spine is read:
no valid record fails it with 0x10, a record of another epoch with 0x04, one that names no peer here with
DESCRIPTOR, and else the image is read on the board tier or asked for from its peer. RS_REPORT of a fresh member is
noted and passed up, another is kept for the round and the rounds go on. RS_DECIDE starts round 2 or gives the
verdict; where no RESTORE runs, a refusal is passed on and another one has no effect. RESTORE_REPORT_TIMEOUT: the
missing report of round 1 gives REMOTE_DEAD at the root, and is nothing elsewhere. (R348, R381, R382, R384, R386,
R422) -/
def Obligations.RestoreRunsItsRounds : Prop :=
  (∀ (q : Fin 16) (s : State) (r : Run), activeRun s q 8 0 = some r →
    (r.phase = .running → exec (.restore q) s = .next (begin s)) ∧
    (r.phase ≠ .running → s.comb.needRestore = false ∨ s.comb.rs.isSome = true ∨ s.spine.load.isSome = true →
      exec (.restore q) s = .next (finish (begin s) q r.idx ecDescriptor 0 0)) ∧
    (r.phase ≠ .running → s.comb.needRestore = true → s.comb.rs = none → s.spine.load = none →
      (opd r.raw 48 48 ≠ 1 → exec (.restore q) s = .next (restoreStart (begin s) q r)) ∧
      (opd r.raw 48 48 = 1 → (readSpine (begin s)).2 = none →
        exec (.restore q) s = .next (finish (readSpine (begin s)).1 q r.idx 0x10 0 0)) ∧
      (∀ h slot, opd r.raw 48 48 = 1 → (readSpine (begin s)).2 = some (h, slot) →
        let s1 := takeSpine (readSpine (begin s)).1 (some (h, slot))
        let s2 := keepRunning s1 q r.idx [opd r.raw 47 0]
        let need := hdrSealCells h + crcCells (hdrSealCells h)
        let l : SealLoad := { queue := q, idx := r.idx, hdr := h, slot := slot, got := [], bad := [] }
        let loading (l : SealLoad) : State := { s2 with spine := { s2.spine with load := some l } }
        (hdrSealValid h = false ∨ hdrSealEpoch h ≠ opd r.raw 47 0 →
          exec (.restore q) s = .next (finish s1 q r.idx 0x04 0 0)) ∧
        (hdrSealValid h = true → hdrSealEpoch h = opd r.raw 47 0 →
          exec (.restore q) s = .next (if hdrSealPeer h = 0xFFF then
              loadSettle ((List.range need).foldl
                (fun t i => tierRequest t loadOwner false (sealSlot t (hdrSealHalf h) i) 0 cellSize)
                (loading { l with got := (List.range need).map fun i => (i, boardRead s2 (sealSlot s2 (hdrSealHalf h) i) 0 cellSize) }))
            else if (!peerValid (peerEntry s2 (hdrSealPeer h)) || (peerIdx s2 (hdrSealPeer h)).isNone) = true then
              finish s2 q r.idx ecDescriptor 0 0
            else loadSettle ((sealRequests h 4 0 need).foldl (fun t b => sendMsg t (hdrSealPeer h) 0x0E 0 b) (loading l))))))) ∧
  (∀ (p : BitVec 12) (body : Bytes) (s : State), peerIdx s p.toNat = none → exec (.rsReport p body) s = .next (begin s)) ∧
  (∀ (p : BitVec 12) (body : Bytes) (s : State) (y : Nat), peerIdx s p.toNat = some y →
    let v := leAt body 0 16
    (bit (bits v 79 48) 1 = true →
      let s1 := { begin s with comb := { s.comb with
        rsFresh := (s.comb.rsFresh.filter (· != bits v 47 34)) ++ [bits v 47 34] } }
      exec (.rsReport p body) s = .next (if amRoot s1 then s1 else sendReport s1 (bits v 47 34) true true noCap 0)) ∧
    (bit (bits v 79 48) 1 = false →
      let round := match s.comb.rs with
        | some r => r.round
        | none => 1
      let rep : RsRep := { child := y, round := round, ok := bit (bits v 79 48) 0, lo := bits v 127 80, hi := leAt body 16 6 }
      exec (.rsReport p body) s = .next (rsRounds { begin s with comb := { s.comb with
        rsReps := (s.comb.rsReps.filter fun x => !(x.child == y && x.round == round)) ++ [rep] } }))) ∧
  (∀ (body : Bytes) (s : State), s.comb.rs = none → exec (.rsDecide body) s = .next
    (if bits (leAt body 0 16) 49 48 = 2 then sendDecide (begin s) 2 (bits (leAt body 0 16) 23 16) (bits (leAt body 0 16) 127 80)
     else begin s)) ∧
  (∀ (body : Bytes) (s : State) (r : RsRun), s.comb.rs = some r →
    let v := leAt body 0 16
    (r.source ≠ 0 ∨ bits v 49 48 = 3 → exec (.rsDecide body) s = .next (begin s)) ∧
    (r.source = 0 → bits v 49 48 = 0 →
      let c := splitCheck (sendDecide (begin s) 0 0 (bits v 127 80)) (bits v 127 80)
      exec (.rsDecide body) s = .next (rsSettle { c.1 with comb := { c.1.comb with
        rs := some { r with round := 2, target := bits v 127 80, split := c.2 } } })) ∧
    (r.source = 0 → bits v 49 48 = 1 → exec (.rsDecide body) s = .next (restoreVerdict (begin s) r 0 (bits v 127 80))) ∧
    (r.source = 0 → bits v 49 48 = 2 →
      exec (.rsDecide body) s = .next (restoreVerdict (begin s) r (bits v 23 16) (bits v 127 80)))) ∧
  (∀ (s : State), s.comb.rs = none → exec .restoreReportTimeout s = .next (begin s)) ∧
  (∀ (s : State) (r : RsRun), s.comb.rs = some r → exec .restoreReportTimeout s =
    .next (if amRoot s = true ∧ r.source = 0 ∧ r.round = 1 then restoreVerdict (begin s) r ecRemoteDead 0 else begin s))

/-- SEAL starts on the capped epoch, and the staged spine record is written to its slot. A SEAL of the capped epoch with
a fit destination starts to copy into the half that the newest image does not use; another epoch or no destination
fails it with DESCRIPTOR; the running one goes on with its next cell, and another one waits for it.
SPINE_RECORD_WRITE: the staged record goes to its slot; a seal's record waits until the image is durable, and
completes the SEAL and becomes the newest image. XSPI_RESET_RELEASE releases the device, and XSPI_DISCOVERY sets the
number of slots, at most 16, or marks the NVM bad. (R58, R412, R413, R417, R418, R420) -/
def Obligations.SealCopiesAndRecords : Prop :=
  (∀ (q : Fin 16) (s : State) (r : Run), activeRun s q 6 0 = some r →
    let half := match s.spine.image with
      | some i => 1 - i.half
      | none => 0
    let new : SealRun := { queue := q, idx := r.idx, epoch := capped s, half := half, peer := rd s R.SPN_SEAL_PEER,
                           cells := rd s R.CMB_DATA_CELLS, next := 0, ahead := [], reading := [], crcs := [],
                           late := (cellsAbove s (capped s)).filter fun d => decide (d < rd s R.CMB_DATA_CELLS), phase := 0 }
    (s.spine.run = none → (opd r.raw 47 0 ≠ capped s ∨ sealDestOk s = false) →
      exec (.seal q) s = .next (finish (begin s) q r.idx ecDescriptor 0 0)) ∧
    (s.spine.run = none → opd r.raw 47 0 = capped s → sealDestOk s = true → exec (.seal q) s =
      .next { keepRunning (begin s) q r.idx [80] with spine := { s.spine with run := some new } }) ∧
    (∀ x, s.spine.run = some x → exec (.seal q) s =
      .next (if x.queue = q ∧ x.idx = r.idx then sealStep (begin s) x else begin s))) ∧
  (∀ (s : State), s.spine.staged = none → exec .spineRecordWrite s = .next (begin s)) ∧
  (∀ (s : State) (kind len seq : Nat), s.spine.staged = some (kind, len, seq) →
    let s1 := writeSpine (begin s) len seq
    (kind ≠ 1 ∨ s.spine.run = none → exec .spineRecordWrite s = .next (sealSettle s1)) ∧
    (∀ x, kind = 1 → s.spine.run = some x → sealDurable s x = false → exec .spineRecordWrite s = .next (begin s)) ∧
    (∀ x, kind = 1 → s.spine.run = some x → sealDurable s x = true → exec .spineRecordWrite s = .next (wr (finish
      { s1 with spine := { s1.spine with run := none, image := some (sealImg x) } }
      x.queue x.idx 0 0 0) R.HLT_STAT_SEAL_REQ 0))) ∧
  (∀ s : State, exec .xspiResetRelease s = .next { begin s with spine := { s.spine with resetN := true } }) ∧
  (∀ (ok : Bool) (size : BitVec 40) (s : State), exec (.xspiDiscovery ok size) s = .next
    (if ok then wr (wr (begin s) R.SPN_STAT_NVM_BAD 0) R.SPN_SLOTS (min 16 (size.toNat / (5 * 2 ^ 20)))
     else wr (wr (begin s) R.SPN_STAT_NVM_BAD 1) R.SPN_SLOTS 0))

/-- Seal messages and shadow copies are checked and stored. SEAL_IMAGE_CELL: a good cell of an image from the peer that
may seal here is written to its slot of the seal store. SEAL_READ_REQUEST of a held image is answered once its reads
are back, another one refused with DESCRIPTOR. SEAL_READ_DATA: a cell this member asked for is gathered;
SEAL_READ_REFUSAL fails its RESTORE with the refusal's code. SHADOW_COPY_CELL: a good copy of the principal is held
and counted; SHADOW_COPY_END with the matching count of its epoch writes the cells and makes the epoch ready. A bad
CRC or another count is let pass unused; anything else is discarded and counted. Each message is accepted once what
it writes is durable, a read request once its answer is sent. (R305, R385, R414, R415, R416, R422) -/
def Obligations.SealStoreAndShadowMessages : Prop :=
  (∀ (p : BitVec 12) (body : Bytes) (s : State),
    let v := leAt body 0 16
    let half := bits v 48 48
    let took (owner : Nat) (t : State) := takenMsg t p.toNat 0x0E owner []
    let drop := count (begin s) C.LP_DROP_TYPE
    (p.toNat ≠ rd s R.SPN_SEALIN_FROM ∨ rd s R.SPN_SEALIN_CELLS ≤ bits v 76 52 ∨ sealKind body ≠ 0 →
      exec (.sealImageCell p body) s = .next (took (storeOwner + 1) drop)) ∧
    (p.toNat = rd s R.SPN_SEALIN_FROM → bits v 76 52 < rd s R.SPN_SEALIN_CELLS → sealKind body = 0 →
      let s1 := setHeld (begin s) half (bits v 47 0)
      exec (.sealImageCell p body) s = .next (took (storeOwner + 1) (if (sealBody body).2 then
        boardStore s1 storeOwner (sealSlot s1 half (bits v 76 52)) (sealBody body).1 else begin s))) ∧
    (p.toNat ≠ rd s R.SPN_SEALIN_FROM → exec (.sealReadRequest p body) s = .next (took serveMark drop)) ∧
    (p.toNat = rd s R.SPN_SEALIN_FROM →
      (s.spine.held.contains (half, bits v 47 0) = false ∨ bits v 103 80 = 0 ∨
          rd s R.SPN_SEALIN_CELLS < bits v 76 52 + bits v 103 80 → exec (.sealReadRequest p body) s =
        .next (took serveMark (sealRefuse (begin s) p.toNat (bits v 47 0) ecDescriptor))) ∧
      (s.spine.held.contains (half, bits v 47 0) = true → bits v 103 80 ≠ 0 →
        bits v 76 52 + bits v 103 80 ≤ rd s R.SPN_SEALIN_CELLS →
        let rq : SealServe := { peer := p.toNat, epoch := bits v 47 0, half := half, first := bits v 76 52,
                                n := bits v 103 80, bad := false }
        exec (.sealReadRequest p body) s = .next (took serveMark (serveSettle ((List.range (bits v 103 80)).foldl
          (fun t k => tierRequest t storeOwner false (sealSlot t half (bits v 76 52 + k)) 0 cellSize)
          { begin s with spine := { s.spine with serve := s.spine.serve ++ [rq] } }))))) ∧
    (s.spine.load = none → exec (.sealReadData p body) s = .next (took 0 drop) ∧
      exec (.sealReadRefusal p body) s = .next (took 0 drop)) ∧
    (∀ x, s.spine.load = some x →
      let x2 : SealLoad :=
        { x with got := (x.got.filter fun g => g.1 != bits v 76 52) ++ [(bits v 76 52, (sealBody body).1)] }
      exec (.sealReadData p body) s = .next (took 0
        (if p.toNat ≠ hdrSealPeer x.hdr ∨ bits v 47 0 ≠ hdrSealEpoch x.hdr ∨ half ≠ hdrSealHalf x.hdr then drop
         else if (sealBody body).2 then loadSettle { begin s with spine := { s.spine with load := some x2 } } else begin s)) ∧
      exec (.sealReadRefusal p body) s = .next (took 0
        (if p.toNat ≠ hdrSealPeer x.hdr ∨ bits v 47 0 ≠ hdrSealEpoch x.hdr then drop
         else finish { begin s with spine := { s.spine with load := none } } x.queue x.idx (bits v 55 48) 0 0)))) ∧
  (∀ (p : BitVec 12) (body : Bytes) (s : State),
    let v := leAt body 0 16
    let e := bits v 47 0
    let l := s.shd.got.filter fun g => g.1 == e
    let took (owner : Nat) (t : State) := takenMsg t p.toNat 0x0E owner []
    let drop := count (begin s) C.LP_DROP_TYPE
    (fromPrincipal s p.toNat = false → exec (.shadowCopyCell p body) s = .next (took 0 drop) ∧
      exec (.shadowCopyEnd p body) s = .next (took (storeOwner + 1) drop)) ∧
    (fromPrincipal s p.toNat = true → exec (.shadowCopyCell p body) s = .next (took 0 (if (sealBody body).2 then
      { begin s with shd := { s.shd with got := s.shd.got ++ [(e, bits v 66 48, bits v 88 67, (sealBody body).1)],
                                         cells := put s.shd.cells e (get s.shd.cells e + 1) } }
      else begin s))) ∧
    (fromPrincipal s p.toNat = true →
      let t := l.foldl (fun t g => if (objValid t g.2.1 && decide (g.2.2.1 < objCells (dir t g.2.1))) = true then
        homeWritten (cellWrite t storeOwner e g.2.1 g.2.2.1 0 g.2.2.2) g.2.1 e else t) (begin s)
      exec (.shadowCopyEnd p body) s = .next (took (storeOwner + 1) (if get s.shd.cells e = bits v 95 64 then
        { t with shd := { t.shd with got := t.shd.got.filter fun g => g.1 != e, ready := t.shd.ready ++ [e] } }
        else begin s))))

/-- A received flit is counted, checked, and taken, ignored or refused by its link sequence number. FLIT_RECEIVE on a
link that neither starts nor runs changes nothing; on another it is light-port work and its lane counts what error
correction said. On a running link a flit with a good CRC passes its LACK on; an idle flit does no more, a control
flit acts by its CODE, and one of a data TYPE counts LP_FLIT_RX: the expected LSEQ is taken, an older one ignored, a
later one discarded with a NAK. A flit that cannot be corrected or fails its CRC is discarded. On a link that
starts, only a control flit acts. NAK_RECEIVE replays from the flit named, CREDIT_RETURN gives credits back and lets
queued flits go, CREDIT_RETURN_TIMER returns what was freed. That idle and control flits take no LSEQ is read from
the manual (notes/assumptions/48). (R30, R291, R292, R295) -/
def Obligations.FlitsAreTakenInOrder : Prop :=
  (∀ (l : Fin 32) (b : Bytes) (fec : Fin 3) (s : State),
    let ty := hdrType (leAt b 0 16)
    let body := slice b 16 232
    let bad := fec = 2 ∨ leAt b 252 4 ≠ crc32 (slice b 0 252)
    let lane := s.lp.lane.getD l 0x3F
    let s1 := wakeLight (begin s)
    let s2 := if fec = 1 then count s1 (C.LP_FEC_CORR lane) else if fec = 2 then count s1 (C.LP_FEC_UNCORR lane) else s1
    let s3 := lackIn s2 l (leAt b 250 2)
    let s4 := count s3 C.LP_FLIT_RX
    ((linkOf s l).phase ≠ 1 → (linkOf s l).phase ≠ 2 → exec (.flitReceive l b fec) s = .next (begin s)) ∧
    ((linkOf s l).phase = 1 → exec (.flitReceive l b fec) s = .next
      (if ¬ bad ∧ ty = 1 then controlIn s2 l body else s2)) ∧
    ((linkOf s l).phase = 2 → bad → exec (.flitReceive l b fec) s = .next (discardFlit s2 l)) ∧
    ((linkOf s l).phase = 2 → ¬ bad → exec (.flitReceive l b fec) s = .next (if ty = 0 then s3
      else if ty = 1 then controlIn s3 l body
      else if leAt b 248 2 = (linkOf s l).rx then takeFlit s4 l { hdr := leAt b 0 16, payload := body }
      else if ahead16 (linkOf s l).rx (leAt b 248 2) then s4 else discardFlit s4 l))) ∧
  (∀ (l : Fin 32) (lseq : BitVec 16) (s : State), exec (.nakReceive l lseq) s =
    .next (if linkUp s l = true then replayFrom (count (begin s) (C.LP_LRTY l)) l lseq.toNat else begin s)) ∧
  (∀ (l : Fin 32) (c : BitVec 128) (s : State),
    let credit := (List.range 8).foldl (fun m v => put m v (get m v + bits c.toNat (16 * v + 15) (16 * v))) (linkOf s l).credit
    exec (.creditReturn l c) s = .next (if (linkOf s l).phase ≠ 2 then begin s
      else pumpLink (setLink (begin s) l { linkOf s l with credit := credit }) l)) ∧
  (∀ (l : Fin 32) (s : State), exec (.creditReturnTimer l) s =
    .next (if linkUp s l = true ∧ (linkOf s l).freed ≠ [] then sendCredits (begin s) l else begin s))

/-- Links start with INIT, retrain with their numbers kept, and go down to the other links. LINK_UP starts every link of
the module that is down and sends INIT on it, but a module that has trained below 32 GT/s is failed; INIT_RECEIVE on
a starting link with version 2 or above brings it up with the lower version and its whole receive space granted, and
a lower version takes it down; LINK_INIT_TIMEOUT takes it down. RETRAIN_DONE: a link that retrains on a good lane
runs again with all else kept and replays from its oldest kept flit. LINK_RETRY_TIMEOUT lets a new NAK go, replays
the kept flits and counts it, and after LP_LRTY_MAX without progress replaces the lane. LINK_DOWN stops the link,
sends its streams' flits and the queued version-2 flits on other links, and counts and reports every peer left
unreachable; of a link that is down it changes nothing of the link. (R291, R294, R295, R296, R297, R306) -/
def Obligations.LinksComeUpAndGoDown : Prop :=
  (∀ (k : Fin 9) (s : State), exec (.linkUp k) s = .next (if s.lp.rates.getD k 32 < 32 then moduleFail (begin s) k
    else (linksOn s k).foldl (fun t l => if (linkOf t l).phase = 0 then
      sendInit (putLink (dropHeld t l) l { LinkSt.down with phase := 1 }) l else t) (begin s))) ∧
  (∀ (l : Fin 32) (ver : BitVec 8) (sw : Bool) (fid part : BitVec 16) (s : State),
    let up : LinkSt := { linkOf s l with phase := 2, ver := min 3 ver.toNat, fid := fid.toNat, part := part.toNat, switch := sw,
                                         freed := (List.range 8).foldl (fun m v => put m v (vcCred s v)) [] }
    exec (.initReceive l ver sw fid part) s = .next (if (linkOf s l).phase ≠ 1 then begin s
      else if ver.toNat < 2 then putLink (begin s) l LinkSt.down else pumpAll (sendCredits (putLink (dropHeld (begin s) l) l up) l))) ∧
  (∀ (l : Fin 32) (s : State), exec (.linkInitTimeout l) s =
    .next (if (linkOf s l).phase = 1 then putLink (begin s) l LinkSt.down else begin s)) ∧
  (∀ (l : Fin 32) (s : State),
    let s1 := putLink (begin s) l { linkOf s l with phase := 2 }
    ((linkOf s l).phase ≠ 3 ∨ s.lp.failed.contains (s.lp.lane.getD l 0x3F) = true →
      exec (.retrainDone l) s = .next (begin s)) ∧
    ((linkOf s l).phase = 3 → s.lp.failed.contains (s.lp.lane.getD l 0x3F) = false →
      exec (.retrainDone l) s = .next (nextSwap (match (linkOf s l).retry with
        | [] => pumpAll s1
        | f :: _ => pumpAll (pumpLink (replayFrom (count s1 (C.LP_LRTY l)) l f.1) l))))) ∧
  (∀ (l : Fin 32) (s : State),
    let s1 := setLink (begin s) l { linkOf s l with nak := false }
    exec (.linkRetryTimeout l) s = .next (if (linkOf s l).phase ≠ 2 then begin s else match (linkOf s l).retry with
      | [] => s1
      | f :: _ => if rd s R.LP_LRTY_MAX ≤ (linkOf s l).resends then opticalFail s1 (s1.lp.lane.getD l 0x3F)
        else replayFrom (count (setLink s1 l { linkOf s l with nak := false, resends := (linkOf s l).resends + 1 })
          (C.LP_LRTY l)) l f.1)) ∧
  (∀ (l : Fin 32) (s : State), (linkOf s l).phase = 0 → exec (.linkDown l) s = .next (nextSwap (begin s))) ∧
  (∀ (l : Fin 32) (s : State), (linkOf s l).phase ≠ 0 →
    let gone := (peerIdxs s).filter fun p => peerValid (peerEntry s p) && bit (peerLinks (peerEntry s p)) l && !unreachable s p
    let s1 := putLink (dropHeld (begin s) l) l LinkSt.down
    let s2 := s1.lp.tx.foldl (fun t x => resendStream t x (linkOf s l).txq (· == l.val)) s1
    let s3 := (((linkOf s l).retry.map (·.2)) ++ (linkOf s l).txq).foldl (fun t f =>
      match (peerIdxs t).find? fun p => peerValid (peerEntry t p) && peerProto (peerEntry t p) == 2 &&
          peerFid (peerEntry t p) == hdrDst f.hdr with
      | none => t
      | some p => match chooseLink t p (hdrVc f.hdr) 0 with
        | some k => pumpLink (enqueueFlit t k f) k
        | none => t) s2
    let s4 := pumpAll s3
    exec (.linkDown l) s = .next (nextSwap ((gone.filter (unreachable s4)).foldl (fun t p =>
      match peerIdx (count t C.LP_UNREACH) p with
      | some x => faultReport (count t C.LP_UNREACH) x 0
      | none => count t C.LP_UNREACH) s4)))

/-- Failed lanes and modules move to the spare module, and monitor registers are read in turn. LANE_FAIL: a failed
optical lane that carries no link is only noted; one that carries a link gives it a spare lane or takes it down,
with a record; a failed lane that fails again changes nothing. MODULE_LINK_ERROR and MODULE_NOT_READY_TIMEOUT put
the module out of use: its links move to the spare module, or, while a replacement retrains, stop and move after it.
MONITOR_POLL reads every monitor register of the module; MONITOR_RESPONSE stores an answer that is awaited and
clears the module's time-out bit, and MONITOR_READ_TIMEOUT with reads out sets it. (R53, R54, R66) -/
def Obligations.LanesModulesAndMonitors : Prop :=
  (∀ (ol : Fin 36) (s : State),
    (s.lp.failed.contains ol.val = true → exec (.laneFail ol) s = .next (begin s)) ∧
    (s.lp.failed.contains ol.val = false →
      let s1 := { begin s with lp := { s.lp with failed := s.lp.failed ++ [ol.val] } }
      exec (.laneFail ol) s = .next (match firstBelow 32 fun l => s.lp.lane.getD l 0x3F == ol.val with
        | none => s1
        | some l => spareRec (swapLane s1 l).1 6 ol ((swapLane s1 l).2.getD 0) (swapLane s1 l).2.isNone false))) ∧
  (∀ (k : Fin 9) (s : State) (c : Instr), c = .moduleLinkError k ∨ c = .moduleNotReadyTimeout k →
    let s1 := { begin s with lp := { s.lp with
      failed := s.lp.failed ++ ((List.range 4).map (4 * k.val + ·)).filter fun p => !s.lp.failed.contains p } }
    let s2 := wr s1 R.GEN_DISABLED (setBits (rd s R.GEN_DISABLED) (45 + k) (45 + k) 1)
    (swapRuns s = false ∨ linksOn s k = [] → exec c s = .next (moduleSwap s2 k)) ∧
    (swapRuns s = true → linksOn s k ≠ [] →
      let s3 := (linksOn s2 k).foldl (fun t l =>
        putLink t l { linkOf t l with phase := if (linkOf t l).phase = 2 then 3 else (linkOf t l).phase }) s2
      exec c s = .next { s3 with lp := { s3.lp with swapDue := s3.lp.swapDue ++ [k.val] } })) ∧
  (∀ (k : Fin 9) (s : State), exec (.monitorPoll k) s =
    .next { begin s with
      out := monOffsets.map fun o => Out.sideband k o
      lp := { s.lp with poll := (s.lp.poll.filter fun x => x.1 != k.val) ++ monOffsets.map fun o => (k.val, o) } }) ∧
  (∀ (k : Fin 9) (off : BitVec 12) (v : BitVec 32) (s : State),
    (s.lp.poll.contains (k.val, off.toNat) = false → exec (.monitorResponse k off v) s = .next (begin s)) ∧
    (s.lp.poll.contains (k.val, off.toNat) = true → exec (.monitorResponse k off v) s = .next (wr { begin s with
      lp := { s.lp with poll := s.lp.poll.filter (· != (k.val, off.toNat)), mon := put s.lp.mon (4096 * k + off.toNat) (v.toNat + 1) } }
      R.LP_STAT_MOD_MON_TMO (setBits (rd s R.LP_STAT_MOD_MON_TMO) k k 0)))) ∧
  (∀ (k : Fin 9) (s : State),
    ((s.lp.poll.all fun x => x.1 != k.val) = true → exec (.monitorReadTimeout k) s = .next (begin s)) ∧
    ((s.lp.poll.all fun x => x.1 != k.val) = false → exec (.monitorReadTimeout k) s =
      .next (wr { begin s with lp := { s.lp with poll := s.lp.poll.filter fun x => x.1 != k.val } }
        R.LP_STAT_MOD_MON_TMO (setBits (rd s R.LP_STAT_MOD_MON_TMO) k k 1))))

/-- A receiving stream acknowledges what it accepted, and a sending stream re-sends what is not acknowledged.
E2E_ACK_TIMER: the messages of the stream whose effect is durable are accepted, and with flits accepted since the
last acknowledgement one is sent; it names the last accepted ESEQ and the WINDOW, of which nothing granted is taken
back. E2E_RESEND_TIMEOUT sends everything unacknowledged again on the links now chosen. An acknowledgement entry
ahead of the last one frees the flits up to it, takes the granted WINDOW and lets the waiting flits go; another one
counts LP_ACK_DUP and takes only the WINDOW. (R305, R306) -/
def Obligations.StreamsAcknowledgeAndResend : Prop :=
  (∀ (p : BitVec 12) (vc : Fin 8) (s : State),
    let s1 := settleRxStream (begin s) p.toNat vc
    (dropDurable (begin s) p.toNat (rxOf s p.toNat vc).held = (rxOf s p.toNat vc).held →
      unacked (rxOf s p.toNat vc) < 64 → vc ≠ 3 → s1 = begin s) ∧
    exec (.e2eAckTimer p vc) s = .next (if unacked (rxOf s1 p.toNat vc) = 0 then s1 else sendAck s1 p.toNat vc)) ∧
  (∀ (p vc : Nat) (s : State),
    let r := rxOf s p vc
    let w := max ((r.acked + r.window + 2 ^ 32 - accEnd r) % 2 ^ 32) (grantable s r)
    sendAck s p vc = sendMsg (setRx s { r with acked := accEnd r, window := w }) p 2 0
      (leBytes 16 ((accEnd r + 2 ^ 32 - 1) % 2 ^ 32 + at' w 32 + at' vc 48))) ∧
  (∀ (p : BitVec 12) (vc : Fin 8) (s : State), exec (.e2eResendTimeout p vc) s =
    .next (resendStream (begin s) (txOf s p.toNat vc) [] fun _ => true)) ∧
  (∀ (p : Nat) (s : State) (e : Nat),
    let t := txOf s p (bits e 50 48)
    let fresh := serialGt (bits e 31 0) ((t.ack + 2 ^ 32 - 1) % 2 ^ 32)
    let s1 := if fresh then setTx s { t with
        ack := (bits e 31 0 + 1) % 2 ^ 32, window := bits e 47 32, buf := t.buf.filter fun b => serialGt b.1 (bits e 31 0) }
      else count (setTx s { t with window := bits e 47 32 }) C.LP_ACK_DUP
    ackEntry p s e = pumpStream { s1 with fences := s1.fences.map fun f => { f with streams := f.streams.filter fun x =>
      !(x.1 == p && x.2.1 == bits e 50 48 && !serialGt x.2.2 (bits e 31 0)) } } p (bits e 50 48))

/-- Hive and coded-window requests of the host are refused, admitted or served. HIVE_HOST_REQUEST with an undefined OP
or SIZE, with reserved address bits, or unaligned is answered DESCRIPTOR, as is one to no known device, to one that
speaks version 2, or with the hive disabled; one to a lost device REMOTE_DEAD with poison, one of a member in no job
JOB_TAG_STALE; another takes a context or joins the admission queue, which returns the credits of its beats, or
waits behind it. CODED_WINDOW_READ: a malformed one is answered DESCRIPTOR, a write or atomic RIGHTS, a read beyond
its object or of 1 or 2 bytes DESCRIPTOR; a good read goes to the home agent for the object of an enabled hive and
else is served from the object. HIVE_CFG_EN sets HIVE_CFG.EN only with an own device number and a fit object;
clearing it applies and writes back what is queued. Which port answers a reserved OP is the model's choice
(notes/assumptions/79). (R38, R39, R108, R324, R325, R326, R334, R336, R340) -/
def Obligations.HiveRequestsOfTheHost : Prop :=
  (∀ (r : Req) (op : BitVec 4) (addr : BitVec 58) (size : BitVec 3) (data : Bytes) (be : BitVec 64) (s : State),
    let n := sizeBytes size.toNat
    let off := bits addr.toNat 40 0
    let bad := 5 < op.toNat ∨ 6 < size.toNat ∨ bits addr.toNat 57 47 ≠ 0 ∨ off % n ≠ 0 ∨ (2 ≤ op.toNat ∧ n ≠ 4 ∧ n ≠ 8)
    let refuse (code : Nat) (d : Bytes) : State :=
      refuseReq (begin s) r op.toNat n code (if op.toNat = 0 then d else inLanes off d)
    let own := match ownPeer s with
      | some p => peerHive (peerEntry s p) == 64 + bits addr.toNat 46 41
      | none => false
    let lane := if 32 ≤ n then 0 else off % 32
    let mask := be.toNat / 2 ^ lane % 2 ^ n
    let c (p : Nat) : HiveCtx :=
      { req := { ctx := 0, gen := 0, op := op.toNat, part := op.toNat == 1 && mask != 2 ^ n - 1, size := size.toNat,
                 off := off, mask := mask, data := if op.toNat = 0 then [] else slice data lane n },
        peer := p, own := own, asker := .host r.src.toNat r.tag.toNat, issued := false, time := 0 }
    (bad → exec (.hiveHostRequest r op addr size data be) s = .next (refuse ecDescriptor (List.replicate n 0))) ∧
    (¬ bad → exec (.hiveHostRequest r op addr size data be) s = .next
      (match (if own then ownPeer s else peerOfDev s (bits addr.toNat 46 41)) with
        | none => refuse ecDescriptor (List.replicate n 0)
        | some p => if rdb s R.HIVE_CFG_EN = false then refuse ecDescriptor (List.replicate n 0)
          else if (!own && peerLost s p) = true then refuse ecRemoteDead (poison n)
          else if (!own && peerProto (peerEntry s p) == 2) = true then refuse ecDescriptor (List.replicate n 0)
          else if rd s R.CMB_JOB_JOB_TAG = 0 then refuse 0x08 (List.replicate n 0)
          else hostAdmit (begin s) (c p)))) ∧
  (∀ (s : State) (c : HiveCtx),
    let s1 := { s with hive := { s.hive with admq := s.hive.admq ++ [c] } }
    hostAdmit s c = if s.hive.admq = [] ∧ (freeCtx s).isSome = true then 
        (let t := takeCtx s c ((freeCtx s).getD 0); returnBeats t (twdBeats t c))
      else if 256 ≤ s.hive.admq.length then holdHost s1 c
      else (let t := count s1 C.RAE_ADMIT_WAIT; returnBeats t (twdBeats t c))) ∧
  (∀ (r : Req) (op : BitVec 4) (addr : BitVec 58) (size : BitVec 3) (s : State),
    let n := sizeBytes size.toNat
    let o := bits addr.toNat 56 38
    let off := bits addr.toNat 37 0
    let refuse (code : Nat) : State := refuseReq (begin s) r op.toNat n code (List.replicate n 0)
    let c : HiveCtx :=
      { req := { ctx := 0, gen := 0, op := 0, part := false, size := size.toNat, off := hiveOffset s off, mask := 0, data := [] },
        peer := (ownPeer s).getD 0, own := true, asker := .host r.src.toNat r.tag.toNat, issued := false, time := 0 }
    (5 < op.toNat ∨ 6 < size.toNat ∨ off % n ≠ 0 → exec (.codedWindowRead r op addr size) s = .next (refuse ecDescriptor)) ∧
    (op.toNat ≤ 5 → size.toNat ≤ 6 → off % n = 0 → exec (.codedWindowRead r op addr size) s = .next
      (if op.toNat ≠ 0 then refuse ecRights
       else if size.toNat < 2 ∨ objValid s o = false ∨ objBytes (dir s o) < off + n then refuse ecDescriptor
       else if rdb s R.HIVE_CFG_EN = true ∧ o = rd s R.HIVE_OBJ then hostAdmit (begin s) c
       else windowAccept (begin s) r.tag.toNat addr.toNat size.toNat))) ∧
  (∀ (r : Req) (en : Bool) (s : State),
    let fit := (match ownPeer s with
      | some p => decide (64 ≤ peerHive (peerEntry s p))
      | none => false) && hiveObjOk s
    (s.chip.held = true → exec (.hiveCfgEn r en) s = .next (trsp (begin s) r 0)) ∧
    (s.chip.held = false → exec (.hiveCfgEn r en) s = .next
      (if en = false then trsp (homeFlush (s.hive.home.length + 1) (wr (begin s) R.HIVE_CFG_EN 0)) r 0
       else if fit then trsp (wr (begin s) R.HIVE_CFG_EN 1) r 0 else trsp (begin s) r ecDescriptor)))

/-- The home applies the oldest access of a line, by its operation, and answers it. Each of HIVE_READ, HIVE_WRITE,
HIVE_ADD, HIVE_MIN, HIVE_MAX and HIVE_SWAP of a line serves the oldest queued access of that line when it is of its
operation and the line is not being read: from the buffer, or a write of the whole line straight to memory, it
applies the access, counts HIVE_APPLIED and answers it with status OK and the data it returns; else the line is read
first. Where the oldest is of another operation, or none is queued, no access is served. CELL_READ takes the oldest
queued granule read that need not wait, a live one of a cell that a row is writing left: its cell is read whole
first; then it is answered: as latched, refused and counted beyond the cells, CELL_CHECK for a missing, SUSPECT or
failing cell, else the granule of its view. HOT_LINE_IDLE: a hot line with no queued access leaves the buffer,
written back when dirty. When a line is read before it is written is read from the manual (notes/assumptions/87).
(R305, R329, R330, R331, R332) -/
def Obligations.HiveAccessesApplyInOrder : Prop :=
  (∀ (line : BitVec 35) (s : State) (op : Nat) (c : Instr),
    (op = 0 ∧ c = .hiveRead line) ∨ (op = 1 ∧ c = .hiveWrite line) ∨ (op = 2 ∧ c = .hiveAdd line) ∨
      (op = 3 ∧ c = .hiveMin line) ∨ (op = 4 ∧ c = .hiveMax line) ∨ (op = 5 ∧ c = .hiveSwap line) →
    let l := line.toNat
    let oldest := s.hive.home.find? fun x => x.req.op != 6 && lineOfRec x.req == l
    (oldest = none → exec c s = .next (settleRx (begin s))) ∧
    (∀ h, oldest = some h → h.req.op ≠ op ∨ (fetchOf s l).isSome = true → exec c s = .next (settleRx (begin s))) ∧
    (∀ h, oldest = some h → h.req.op = op → fetchOf s l = none →
      (∀ x, hotOf s l = some x →
        let y := lineAfter h.req x.val
        let x2 : HotLine := { x with val := y.1, dirty := x.dirty || h.req.op != 0 }
        let s1 := count (begin s) C.HIVE_HL_HIT
        let s2 := { s1 with hive := { s1.hive with hot := (s1.hive.hot.filter fun z => z.line != x2.line) ++ [x2] } }
        exec c s = .next (settleRx (homeDone (count s2 C.HIVE_APPLIED) h 0 y.2))) ∧
      (hotOf s l = none → op = 1 → h.req.part = false → sizeBytes h.req.size = 64 → lineBusy s l true = false →
        exec c s = .next (settleRx (homeDone (count
          (lineWrite (begin s) l (lineAfter h.req (lineBytes s l)).1) C.HIVE_APPLIED) h 0 []))) ∧
      (hotOf s l = none → (op ≠ 1 ∨ h.req.part = true ∨ sizeBytes h.req.size ≠ 64 ∨ lineBusy s l true = true) →
        let f : HomeFetch := { line := l, hot := false, out := false, bad := false }
        exec c s = .next (settleRx (kickFetch (setFetch (begin s) f) f))))) ∧
  (∀ (s : State), (s.hive.home.find? fun x => x.req.op == 6 && !cellReadHeld s x && (!x.out || cellReadReady s x)) = none →
    exec .cellRead s = .next (settleRx (takeWaiting (begin s)))) ∧
  (∀ (s : State) (h : HomeReq),
    (s.hive.home.find? fun x => x.req.op == 6 && !cellReadHeld s x && (!x.out || cellReadReady s x)) = some h →
    cellReadReady s h = false →
    let c := bits h.req.off 38 10
    let p := if bit h.req.off 40 then parPlace s c else dataPlace s c
    let mark (x : HomeReq) : HomeReq := if x = h then { x with out := true } else x
    exec .cellRead s = .next (settleRx (takeWaiting (memRequest
      { begin s with hive := { s.hive with home := s.hive.home.map mark } } cellOwner false false p.1 (p.2 * cellSize) cellSize)))) ∧
  (∀ (s : State) (h : HomeReq),
    (s.hive.home.find? fun x => x.req.op == 6 && !cellReadHeld s x && (!x.out || cellReadReady s x)) = some h →
    cellReadReady s h = true →
    let s1 := { begin s with hive := { s.hive with home := s.hive.home.erase h } }
    let par := bit h.req.off 40
    let live := bit h.req.off 39
    let c := bits h.req.off 38 10
    let gran (b : Bytes) : Bytes := slice b (64 * bits h.req.off 9 0) 64
    exec .cellRead s = .next (settleRx (takeWaiting (match h.snap with
      | some b => homeAnswer s1 h 0 b
      | none =>
        if (if par then parCells s1 else dMax s1) ≤ c then homeAnswer (count s1 C.HIVE_OOR) h ecDescriptor []
        else if (if par then parMissing s1 c else dataMissing s1 c) = true then homeAnswer s1 h ecCellCheck []
        else if par = true then
          (if parViewOk s1 live c = true then homeAnswer s1 h 0 (gran (parView s1 live c))
           else homeAnswer (suspectPar s1 c) h ecCellCheck [])
        else if dataViewOk s1 c = true then homeAnswer s1 h 0 (gran (dataView s1 live c))
        else homeAnswer (suspectData s1 c) h ecCellCheck [])))) ∧
  (∀ (line : BitVec 35) (s : State), exec (.hotLineIdle line) s = .next (match hotOf s line.toNat with
    | none => begin s
    | some h => if lineQueued s line.toNat = true then begin s else hotDrop (begin s) h))

/-- Hive records arrive in order, are issued in turn, and their answers finish their contexts. HIVE_REQUEST_ARRIVAL:
requests of the own job and epoch join their stream's waiting requests and are taken while the home can; those of
another job tag or an older epoch are answered JOB_TAG_STALE and counted, and those of a newer epoch are left to
their re-send; what is taken is accepted once the home has taken it and applied its stores. RAE_ISSUE admits, then
gives the next ready context in turn whose request can go to the own home or into a flit to its peer.
HIVE_RESPONSE_RECORD: an answer of a request that is out, of its generation, finishes it; another counts HIVE_LATE,
and the records behind it in its flit are still taken. HIVE_PROGRESS_TIMEOUT: the peer's issued requests end with
REMOTE_DEAD. HIVE_PACK_TIMEOUT sends the flit being packed. How records are packed in a flit is the model's choice
(notes/assumptions/70). (R305, R328, R333, R334, R335, R336, R337) -/
def Obligations.HiveRecordsTravelAndAnswer : Prop :=
  (∀ (p : BitVec 12) (tag : BitVec 24) (memb : BitVec 16) (body : Bytes) (s : State),
    tag.toNat = rd s R.CMB_JOB_JOB_TAG →
    (rd s R.CMB_JOB_MEMB_EPOCH < memb.toNat → exec (.hiveRequestArrival p tag memb body) s = .next (begin s)) ∧
    (rd s R.CMB_JOB_MEMB_EPOCH = memb.toNat → exec (.hiveRequestArrival p tag memb body) s =
      .next (takenMsg (takeWaiting { begin s with hive := { s.hive with
        waitq := s.hive.waitq ++ (takeRecs 30 body).map fun r => { peer := some p.toNat, req := r, snap := none, out := false } } })
        p.toNat 0x0C 0 (requestKeys body)))) ∧
  (∀ (p : BitVec 12) (tag : BitVec 24) (memb : BitVec 16) (body : Bytes) (s : State),
    tag.toNat ≠ rd s R.CMB_JOB_JOB_TAG ∨ memb.toNat < rd s R.CMB_JOB_MEMB_EPOCH →
    let s1 := wr (wr (sendPack (begin s) p.toNat true) R.CMB_JOB_JOB_TAG tag.toNat) R.CMB_JOB_MEMB_EPOCH memb.toNat
    let s2 := sendPack ((takeRecs 30 body).foldl (fun t r => packRec (count t C.HIVE_STALE) p.toNat true (hiveFlow r.off)
      (respBytes r.ctx r.gen 0x08 (respData r 0x08 []))) s1) p.toNat true
    exec (.hiveRequestArrival p tag memb body) s = .next (takenMsg
      (wr (wr s2 R.CMB_JOB_JOB_TAG (rd s R.CMB_JOB_JOB_TAG)) R.CMB_JOB_MEMB_EPOCH (rd s R.CMB_JOB_MEMB_EPOCH))
      p.toNat 0x0C 0 (requestKeys body))) ∧
  (∀ (s : State), (readyCtxs [] (admitCtxs 64 (begin s)).hive.ctxs).filter (canIssue (admitCtxs 64 (begin s))) = [] →
    exec .raeIssue s = .next (admitCtxs 64 (begin s))) ∧
  (∀ (s : State) (c : HiveCtx),
    let s1 := admitCtxs 64 (begin s)
    let turn (x : HiveCtx) : Nat := (x.req.ctx + 4095 - s1.hive.rr) % 4096
    let s2 := { s1 with hive := { s1.hive with
      rr := c.req.ctx
      ctxs := s1.hive.ctxs.map fun x =>
        if x.req.ctx = c.req.ctx then { x with issued := true, time := rd s1 R.TIME_TOD % 2 ^ 32 } else x } }
    ((readyCtxs [] s1.hive.ctxs).filter (canIssue s1)).foldl (fun b x => match b with
      | some y => if turn x < turn y then some x else some y
      | none => some x) none = some c →
    exec .raeIssue s = .next (if c.own = true then
        (match homeTake s2 { peer := none, req := c.req, snap := none, out := false } with
          | some t => count (count t C.RAE_LOCAL) C.RAE_ISSUED
          | none => s1)
      else count (packRec s2 c.peer false (hiveFlow c.req.off) (recBytesOf c.req)) C.RAE_ISSUED)) ∧
  (∀ (p : BitVec 12) (body : Bytes) (s : State), 8 ≤ body.length →
    (s.hive.ctxs.find? fun c => c.req.ctx == bits (leAt body 0 8) 63 52 && c.req.gen == bits (leAt body 0 8) 51 48 &&
      c.peer == p.toNat && c.issued && !c.own) = none →
    let n := get s.hive.late (bits (leAt body 0 8) 63 48)
    exec (.hiveResponseRecord p body) s = .next (if n = 0 then count (begin s) C.HIVE_LATE
      else responsesIn 31 (count (begin s) C.HIVE_LATE) p.toNat (body.drop n))) ∧
  (∀ (p : BitVec 12) (body : Bytes) (s : State) (c : HiveCtx), 8 ≤ body.length →
    (s.hive.ctxs.find? fun c => c.req.ctx == bits (leAt body 0 8) 63 52 && c.req.gen == bits (leAt body 0 8) 51 48 &&
      c.peer == p.toNat && c.issued && !c.own) = some c →
    exec (.hiveResponseRecord p body) s = .next (responsesIn 31
      (settleFences (finishCtx (fenceCtx (begin s) c.req.ctx c.req.gen
        (bits (leAt body 0 8) 47 40 == ecRemoteDead && c.req.op != 0)) c
        (bits (leAt body 0 8) 47 40) (slice body 8 (respLen c.req - 8)))) p.toNat (body.drop (respLen c.req)))) ∧
  (∀ (p : BitVec 12) (s : State), exec (.hiveProgressTimeout p) s = .next (deadPeer (begin s) p.toNat false)) ∧
  (∀ (p : BitVec 12) (resp : Bool) (s : State), exec (.hivePackTimeout p resp) s = .next (sendPack (begin s) p.toNat resp))

/-- The forager, repairs, remap fills and migration go on one step at a time. FORAGER_VISIT ends a pass that has no
position left, stays at a data cell a row is writing, and else visits and passes on. CELL_REPAIR leaves alone a cell
that does not exist, is not suspect or is being written, and one of unknown ledger entry with uncapped changes; else
it starts the read of the capped stripe, waits for it, tries again with other ranks when a rank failed or the check
does not match, and writes the cell and ends. PARITY_REPAIR leaves alone likewise; a sound B slot waits for the next
cap; a read goes as for a data cell. REMAP_FILL of a stack with no clean range due does nothing; with the table full
the stack starts migrating; else the range is read, and when all of it is back and sound it is copied to its target,
its entry written and RMAP_FILL counted. MIGRATION_SLOT without an active migration or while a copy runs does
nothing; with every slot relocated it ends; it waits for a slot that is not in order; it reads the slot for its
copy, or with no target left ends with a unit error. (R389, R391, R392, R396, R399, R401) -/
def Obligations.MaintenanceVisitsAndRepairs : Prop :=
  (∀ (n : Fin 12) (s : State),
    let w := walkFrom s n 5 (rd s (R.SCRB_CUR_REGION n)) (rd s (R.SCRB_CUR_POS n))
    (w = none → exec (.foragerVisit n) s = .next (setCursor (count (begin s) (C.SCRB_PASS n)) n 0 0)) ∧
    (∀ region pos, w = some (region, pos) → exec (.foragerVisit n) s =
      .next (if region = 0 ∧ (s.cod.open_.any fun o => o.d == pos) = true then setCursor (begin s) n region pos
        else setCursor (visitAt (begin s) n region pos) n region (pos + 1)))) ∧
  (∀ (d : BitVec 25) (s : State),
    let unknown := s.hl.lost.contains (false, d.toNat)
    let changed := s.cod.segs.any fun g => g.mine s && g.kind < 3 && g.cell == d.toNat && decide (capped s < g.epoch)
    let alone := rd s R.CMB_DATA_CELLS ≤ d.toNat ∨ lSuspect (ledger s d.toNat) = false ∨ openElsewhere s 99 d.toNat = true ∨
      (unknown = true ∧ changed = true)
    (alone → exec (.cellRepair d) s = .next (begin s)) ∧
    (¬ alone → repairRead s false d.toNat = none →
      exec (.cellRepair d) s = .next (repairStart (begin s) (repairOf s false d.toNat))) ∧
    (¬ alone → ∀ x, repairRead s false d.toNat = some x →
      (x.todo ≠ [] ∨ x.out ≠ 0 → exec (.cellRepair d) s = .next (begin s)) ∧
      (x.todo = [] → x.out = 0 →
        let live := liveOf s d.toNat x.bytes
        (x.bad = true ∨ (unknown = false ∧ crc64 live ≠ lCrc (ledger s d.toNat)) →
          exec (.cellRepair d) s = .next (repairAgain (begin s) (repairOf s false d.toNat) x)) ∧
        (x.bad = false → unknown = true → exec (.cellRepair d) s =
          .next (repairEnd (settleCell (closeWindow (begin s) x) false d.toNat (capped s) x.bytes) false d.toNat)) ∧
        (x.bad = false → unknown = false → crc64 live = lCrc (ledger s d.toNat) → exec (.cellRepair d) s =
          .next (repairEnd (memWrite (closeWindow (begin s) x) hlOwner false (dataPlace s d.toNat).1
            ((dataPlace s d.toNat).2 * cellSize) live) false d.toNat))))) ∧
  (∀ (p : BitVec 25) (s : State),
    let ub := xUndoB (ledgerX s p.toNat)
    let unknown := s.hl.lost.contains (true, p.toNat)
    let bOk := crc64 (bSlot s p.toNat) == bSlotCrc s p.toNat
    let r := repairOf s true p.toNat
    let alone := parCells s ≤ p.toNat ∨ lSuspect (ledgerP s p.toNat) = false ∨ (unknown = true ∧ ub ≠ 0)
    (alone → exec (.parityRepair p) s = .next (begin s)) ∧
    (¬ alone → repairRead s true p.toNat = none → exec (.parityRepair p) s =
      .next (if r.waitCap = 0 ∧ ub ≠ 0 ∧ bOk = true then setRepair (begin s) { r with waitCap := capped s + 1 }
        else if capped s < r.waitCap then begin s else repairStart (begin s) r)) ∧
    (¬ alone → ∀ x, repairRead s true p.toNat = some x →
      (x.todo ≠ [] ∨ x.out ≠ 0 → exec (.parityRepair p) s = .next (begin s)) ∧
      (x.todo = [] → x.out = 0 → x.bad = true → exec (.parityRepair p) s = .next (repairAgain (begin s) r x)) ∧
      (x.todo = [] → x.out = 0 → x.bad = false → unknown = true → exec (.parityRepair p) s =
        .next (repairEnd (settleCell (closeWindow (begin s) x) true p.toNat (capped s) x.bytes) true p.toNat)) ∧
      (x.todo = [] → x.out = 0 → x.bad = false → unknown = false → r.waitCap = 0 → ub = 0 → exec (.parityRepair p) s =
        .next (if crc64 x.bytes = lCrc (ledgerP s p.toNat) then
          repairEnd (memWrite (closeWindow (begin s) x) hlOwner false (parPlace s p.toNat).1
            ((parPlace s p.toNat).2 * cellSize) x.bytes) true p.toNat
          else repairFail (closeWindow (begin s) x) r)))) ∧
  (∀ (n : Fin 12) (s : State),
    let due := s.hl.remapDue.find? fun x => x.1 == n.val
    ((copyOf s (remapOwner n)).isSome = true ∨ due = none → exec (.remapFill n) s = .next (begin s)) ∧
    (∀ range cause, copyOf s (remapOwner n) = none → due = some (n.val, range, cause) →
      (rangeClean s n range = false → exec (.remapFill n) s = .next (begin s)) ∧
      (rangeClean s n range = true → freeRemap s n = none →
        exec (.remapFill n) s = .next (startMigrate (dropDue (begin s) n range) n)) ∧
      (rangeClean s n range = true → (freeRemap s n).isSome = true →
        let s1 := { begin s with hl := { s.hl with copies := s.hl.copies ++
          [{ owner := remapOwner n, stk := n.val, place := range, cause := cause, bad := false }] } }
        exec (.remapFill n) s = .next (memRequest s1 (remapOwner n) false false n (range * 4096) 4096)))) ∧
  (∀ (s : State) (c : MapCopy) (e : Nat), c.owner ≠ relocOwner → copyOf s c.owner = some c →
    (readsAnswered s c.owner = false → settleCopy s c.owner = s) ∧
    (readsAnswered s c.owner = true → c.bad = true → settleCopy s c.owner = retryParked (dropCopy s c.owner)) ∧
    (readsAnswered s c.owner = true → c.bad = false → freeRemap s c.stk = some e →
      let s1 := memWrite (dropCopy s c.owner) hlOwner false c.stk ((broodBase s c.stk + 33) * cellSize + 4096 * e)
        (mread s.hbm (c.stk * 2 ^ 37 + c.place * 4096) 4096)
      settleCopy s c.owner = retryParked (count (setMapEntry (dropDue s1 c.stk c.place) 0 (8 * c.stk + e)
        (at' 1 63 + at' c.cause 61 + c.place)) C.RMAP_FILL))) ∧
  (∀ s : State,
    let st := rd s R.RMAP_MIG_STAT_STK
    let next := (migSlots s st).find? fun x => !relocated s st x
    (rdb s R.RMAP_MIG_STAT_ACTIVE = false ∨ (copyOf s relocOwner).isSome = true →
      exec .migrationSlot s = .next (begin s)) ∧
    (rdb s R.RMAP_MIG_STAT_ACTIVE = true → copyOf s relocOwner = none → next = none →
      exec .migrationSlot s = .next (endMigrate (begin s))) ∧
    (rdb s R.RMAP_MIG_STAT_ACTIVE = true → copyOf s relocOwner = none → ∀ slot, next = some slot →
      (slotReady s (slotUse s st slot) = false → exec .migrationSlot s = .next (begin s)) ∧
      (slotReady s (slotUse s st slot) = true → nextTarget s st = none ∨ freeReloc s = none → exec .migrationSlot s =
        .next (endMigrate (unitError (begin s) 0x0D 0x16 st (rd s R.RMAP_MIG_STAT_REMAIN)))) ∧
      (slotReady s (slotUse s st slot) = true → (nextTarget s st).isSome = true → (freeReloc s).isSome = true →
        let s1 := { begin s with hl := { s.hl with copies := s.hl.copies ++
          [{ owner := relocOwner, stk := st, place := slot, cause := 0, bad := false }] } }
        exec .migrationSlot s = .next (memRequest s1 relocOwner false false st (slot * cellSize) cellSize))))

/-- The health update stores indicators, score and worst stack, and moves the level. HEALTH_UPDATE stores the twelve
indicators, the weighted score and the worst stack, raises the level to ALARM or WATCH at their thresholds but never
lowers it, and counts the milliseconds at each level. A level's dwell expiry lowers it by one only while the score
with the hysteresis is below its threshold. (R408, R409, R410) -/
def Obligations.HealthLevelFollowsTheScore : Prop :=
  (∀ (s : State),
    let s1 := newBucket (begin s)
    let is := indicators s1 (worstStack s1)
    let v := score s1 ((List.range 12).map fun x => (x, is.getD x 0))
    let s2 := (List.range 12).foldl (fun t x => tput t 0x17 0 x (setBits (tget t 0x17 0 x) 47 40 (is.getD x 0))) s1
    let s3 := wr (wr s2 R.HLT_SCORE_SCORE v) R.HLT_SCORE_WORST (worstStack s1)
    let old := rd s3 R.HLT_STAT_LEVEL
    let new := max old (if rd s3 R.HLT_ALARM ≤ v then 2 else if rd s3 R.HLT_WATCH ≤ v then 1 else 0)
    let s4 := if 1 ≤ new then count s3 C.HLT_WATCH_MS else s3
    let s5 := if new = 2 then count s4 C.HLT_ALARM_MS else s4
    exec .healthUpdate s = .next (if new = old then applyActs s5 else setLevel s5 new)) ∧
  (∀ (s : State),
    let l := rd s R.HLT_STAT_LEVEL
    let thr := if l = 2 then rd s R.HLT_ALARM else rd s R.HLT_WATCH
    exec .levelDwellExpiry s = .next (if l ≠ 0 ∧ rd s R.HLT_SCORE_SCORE + rd s R.HLT_HYST < thr then
      setLevel (begin s) (l - 1) else begin s))

/-- Sub-frames, conversions, calibrations and droop trips update the sensor state. The first three sub-frames only
select the next point; the fourth ends the frame, counts it, latches the trims and applies the correction that
waits. The reference conversions are kept, newest first, 64 of each; an open pod is marked and not converted. A
calibration stores the correction for the next frame and CAL_BAD. A droop trip counts on its comparator and begins
the hold when SNS_DROOP_HOLD is nonzero; its end releases it. (R403, R404, R405, R406) -/
def Obligations.SensorsConvertAndCalibrate : Prop :=
  (∀ s : State, s.hl.sub < 3 → exec .sensorSubframe s = .next { begin s with hl := { s.hl with sub := s.hl.sub + 1 } }) ∧
  (∀ s : State, 3 ≤ s.hl.sub → exec .sensorSubframe s =
    .next (let t := latchTrims (count (begin s) C.SNS_FRAMES)
      match t.hl.corr with
      | some c => { t with hl := { t.hl with sub := 0, offs := c.1, gain := c.2, corr := none } }
      | none => { t with hl := { t.hl with sub := 0 } })) ∧
  (∀ (raw : BitVec 16) (opened : Bool) (s : State),
    (∀ k : Fin 32, k = 16 ∨ k = 18 → exec (.sensorConversion k raw opened) s =
      .next { begin s with hl := { s.hl with zeros := (raw.toNat :: s.hl.zeros).take 64 } }) ∧
    (∀ k : Fin 32, k = 17 ∨ k = 19 → exec (.sensorConversion k raw opened) s =
      .next { begin s with hl := { s.hl with gaps := (raw.toNat :: s.hl.gaps).take 64 } }) ∧
    (∀ k : Fin 32, k.val < 16 → exec (.sensorConversion k raw opened) s = .next (supplyConv (begin s) k raw.toNat)) ∧
    (∀ k : Fin 32, 20 ≤ k.val →
      let p := 4 * (k.val - 20) + s.hl.sub
      let s1 := wr (begin s) R.SNS_POD_OPEN (setBits (rd s R.SNS_POD_OPEN) p p (b2n opened))
      exec (.sensorConversion k raw opened) s = .next (if opened then s1 else thermalConv s1 p raw.toNat))) ∧
  (∀ (counts : BitVec 384) (dev : BitVec 16) (s : State),
    let o := (Config.calOffset (meanOf s.hl.zeros) (meanOf s.hl.gaps)).toNat
    let k := (Config.calGain (meanOf s.hl.zeros) (meanOf s.hl.gaps)).toNat
    let bad := decide (8 < (signed 16 o).natAbs) || decide (20000 < (signed 16 k).natAbs)
    let s1 := wr { begin s with hl := { s.hl with corr := some (o, k) } } R.SNS_STAT_CAL_BAD (b2n bad)
    let s2 := if bad then count s1 C.SNS_CAL_FAIL else s1
    exec (.sensorCalibration counts dev) s = .next (noteDeviation
      ((List.range 12).foldl (fun t a => noteAge t a (bits counts.toNat (32 * a + 31) (32 * a))) s2) dev.toNat)) ∧
  (∀ (c : Fin 16) (s : State), exec (.droopTrip c) s = .next (let t := count (begin s) (C.SNS_DROOP_CNT c)
    { t with hl := { t.hl with hold := rd s R.SNS_DROOP_HOLD != 0 } })) ∧
  (∀ s : State, exec .droopHoldEnd s = .next { begin s with hl := { s.hl with hold := false } })

/-- Fast domains wake, ramp, release their isolation, and gate again step by step. DOMAIN_WAKE does nothing while the
fast domains are held in reset, for a slice that stays gated, before stage 2, and for a domain that is awake or
waking; a gated one starts a warm or cold wake, and a ramp-down is turned round. RAMP_STEP with PWR_GOOD and the PLL
locked adds one of eight current steps to a ramp, and the eighth completes it. ISOLATION_RELEASE acts from the sixth
step on: the domain is live, the replacements that waited for its wake take effect, and the sequencer domain returns
the host's credits (when that is, is the model's reading, notes/assumptions/78). DOMAIN_IDLE_GATE begins the
ramp-down of a domain at full duty; RAMP_DOWN_STEP takes one step away, and with none left the clock stops.
ROOT_FILL_EXPIRY counts the filler cycles unless ROOT_FILL_MAX is 0 and gates the root domain. (R249, R453, R454,
R455) -/
def Obligations.DomainsRampUpAndDown : Prop :=
  (∀ (d : Fin 15) (s : State),
    let barred := s.chip.held = true ∨ sliceAbsent s d = true ∨ rd s R.GEN_STAT_STAGE < 2
    (barred ∨ ((domain s d).phase ≠ 0 ∧ (domain s d).phase ≠ 4) → exec (.domainWake d) s = .next (begin s)) ∧
    (¬ barred → (domain s d).phase = 4 →
      exec (.domainWake d) s = .next (setDomain (begin s) d
        { domain s d with phase := if (domain s d).steps = 8 then 3 else 2 })) ∧
    (¬ barred → (domain s d).phase = 0 →
      let k := pllOf d
      let s1 := count (begin s) (if rd s (pllKey k) = 2 then C.PWR_WAKE_WARM else C.PWR_WAKE_COLD)
      exec (.domainWake d) s = .next (setDomain (if rd s (pllKey k) = 0 then setPll s1 k 1 0 else s1) d
        { phase := 1, steps := 0, live := false }))) ∧
  (∀ (d : Fin 15) (s : State),
    let ready := s.chip.pwrGood = true ∧ rd s (pllKey (pllOf d)) = 2 ∧ ((domain s d).phase = 1 ∨ (domain s d).phase = 2)
    (ready → exec (.rampStep d) s = .next (setDomain (begin s) d (if 7 ≤ (domain s d).steps then
      { domain s d with phase := 3, steps := 8 } else { domain s d with phase := 2, steps := (domain s d).steps + 1 }))) ∧
    (¬ ready → exec (.rampStep d) s = .next (begin s))) ∧
  (∀ (d : Fin 15) (s : State),
    let s1 := wakeSpares (setDomain (begin s) d { domain s d with live := true }) d
    exec (.isolationRelease d) s =
    .next (if ((domain s d).phase = 2 ∨ (domain s d).phase = 3) ∧ 6 ≤ (domain s d).steps then
      (if d.val = 0 then grantHost s1 else s1) else begin s)) ∧
  (∀ s : State, grantHost s = if s.host.treq = 0 ∧ s.host.twd = 0 ∧ s.hive.admq.length ≤ 256 then
    emit { s with host := { s.host with treq := 64, twd := 128 } } (.hostCredit 64 128) else s) ∧
  (∀ (d : Fin 15) (s : State), exec (.domainIdleGate d) s = .next (if (domain s d).phase = 3 then
      setDomain (begin s) d { domain s d with phase := 4 } else begin s)) ∧
  (∀ (d : Fin 15) (s : State), exec (.rampDownStep d) s =
    .next (if (domain s d).phase ≠ 4 then begin s
      else if (domain s d).steps ≤ 1 then setDomain (begin s) d { phase := 0, steps := 0, live := false }
      else setDomain (begin s) d { domain s d with steps := (domain s d).steps - 1 })) ∧
  (∀ (cycles : BitVec 32) (s : State),
    let s1 := if rd s R.ROOT_FILL_MAX = 0 then begin s else countN (begin s) C.ROOT_FILL_CYC cycles.toNat
    exec (.rootFillExpiry cycles) s = .next (if (domain s 13).phase = 3 then
      setDomain s1 13 { domain s 13 with phase := 4 } else s1))

/-- PLLs lock, relock after a loss up to CLK_RELOCK_MAX times, fail, and stop when nothing needs them. A lock of a PLL
that is locking or failed makes it LOCKED, and in stage 2 with all three locked stage 3 begins. The loss of a locked
PLL freezes its powered domains and restarts it; a failed attempt is counted as a relock until CLK_RELOCK_MAX, after
which the PLL is FAILED; a retry of a FAILED one counts. A locked PLL none of whose domains is awake stops. The loss
and the return of AON_CLK each move every locked PLL to another reference. (R450, R451, R452, R464) -/
def Obligations.PllsLockAndRelock : Prop :=
  (∀ (k : Fin 3) (s : State), rd s (pllKey k) ≠ 0 → rd s (pllKey k) ≠ 2 → exec (.pllLock k) s =
    .next (let t := setPll (begin s) k 2 0
      if rd t R.GEN_STAT_STAGE = 2 ∧ allLocked t = true then wr t R.GEN_STAT_STAGE 3 else t)) ∧
  (∀ (k : Fin 3) (s : State), (rd s (pllKey k) = 0 ∨ rd s (pllKey k) = 2) → exec (.pllLock k) s = .next (begin s)) ∧
  (∀ (k : Fin 3) (s : State),
    let t := if rd s (pllKey k) = 2 then count (countN (setPll (begin s) k 1 1) C.CLK_FREEZE (drivenBy s k)) C.CLK_RELOCK
      else if rd s R.CLK_RELOCK_MAX ≤ tries s k then setPll (begin s) k 3 (tries s k)
      else count (setPll (begin s) k 1 (tries s k + 1)) C.CLK_RELOCK
    (rd s (pllKey k) = 1 ∨ rd s (pllKey k) = 2 → exec (.pllLockLoss k) s =
      .next (if (List.range 3).all (lockLost t) then raiseFault t 2 else t)) ∧
    (rd s (pllKey k) = 0 ∨ rd s (pllKey k) = 3 → exec (.pllLockLoss k) s = .next (begin s))) ∧
  (∀ (k : Fin 3) (s : State), exec (.pllRetry k) s =
    .next (if rd s (pllKey k) = 3 then count (begin s) C.CLK_RELOCK else begin s)) ∧
  (∀ (k : Fin 3) (s : State), exec (.pllWarmHoldExpiry k) s = .next
    (if rd s (pllKey k) = 2 ∧ ((List.range 15).all fun d => pllOf d != k.val || (domain s d).phase == 0) = true then setPll (begin s) k 0 0 else begin s)) ∧
  (∀ s : State, exec .aonClkLoss s = .next (if rdb s R.CLK_STAT_AON_LOSS then begin s
    else moveReference (wr (wr (begin s) R.CLK_STAT_AON_LOSS 1) R.TIME_STAT_HOLDOVER 1))) ∧
  (∀ s : State, exec .aonClkRestore s = .next (if rdb s R.CLK_STAT_AON_LOSS then
    moveReference (wr (begin s) R.CLK_STAT_AON_LOSS 0) else begin s))

/-- The limiter of R457 to R459; the count of quiet updates is the model's reading, notes/assumptions/63 (R457, R458,
R459) -/
def Obligations.LimiterHoldsThePower : Prop :=
  (∀ est lim d quiet : Nat, 1 ≤ d → d ≤ 16 →
    let n := (nextDuty est lim d quiet).1
    1 ≤ n ∧ n ≤ 16 ∧ n ≤ d + 1 ∧ d ≤ n + 1 ∧ (lim < est → n ≤ d ∧ (1 < d → n < d)) ∧
      (15 * lim < 16 * est → est ≤ lim → n = d)) ∧
  (∀ s : State,
    let est := (Config.powerEst s.free).toNat
    let lim := powerLimit s
    let n := nextDuty est lim (rd s R.PWR_STAT_DUTY) s.chip.quiet
    let d := if rdb s R.PWR_STAT_THERM then min n.1 (max 1 (rd s R.PWR_THERM_DUTY)) else n.1
    let stuck := if rd s R.PWR_STAT_DUTY = 1 ∧ lim < est then s.chip.stuck + 1 else 0
    let s1 := wr (wr { begin s with free := s.free + 1 } R.PWR_EST est) R.PWR_STAT_DUTY d
    let s2 := { s1 with chip := { s.chip with quiet := n.2, stuck := stuck } }
    let s3 := if d < 16 then count s2 C.PWR_LIMITED else s2
    let s4 := wr s3 R.PWR_STAT_CAP_UNMET 1
    let s5 := unitError s4 0 4 est lim
    exec .limiterUpdate s = .next (if stuck < 100 then wr s3 R.PWR_STAT_CAP_UNMET 0
      else if s.chip.unmetAt = 0 ∨ s.chip.unmetAt - 1 + 10 ^ 9 ≤ rd s4 R.TIME_TOD then
        { s5 with chip := { s5.chip with unmetAt := rd s5 R.TIME_TOD + 1 } }
      else s4))

/-- Reset, straps, fuses, power and self-test move the block through its stages. AON_RST_ASSERT returns everything to
reset but the stacks with the log and SCALE copies they hold, the board tier with the epochs its seal store holds,
the NVM, the level of PWR_GOOD, and the model's own command queue and counter of free values. AON_RST_DEASSERT in
stage 0 sets TIME_TOD to 0. CONFIG_SAMPLE takes the straps in stage 0 only. FUSE_LOAD in stage 0 gives stage 1, then
stage 2 with PWR_GOOD high; a parity failure raises FAULT_OUT with cause 1. PWR_GOOD_FALL with a fast domain powered
holds the fast domains in reset with FAULT_OUT cause 4. PWR_GOOD_RISE runs a waiting block reset, begins stage 2, or
goes on with a stage cut short. SELFTEST_DONE in stage 3 with ready ports raises FAULT_OUT for a failed sequencer,
and else puts every replacement in, takes out what fails, reads maps and spine and reaches stage 4. (R35, R63, R456,
R460, R461, R464, R465) -/
def Obligations.BringUpFollowsItsStages : Prop :=
  (∀ s : State, exec .aonRstAssert s = .next { State.reset with
    pending := s.pending, free := s.free, hbm := s.hbm, board := s.board, nvm := s.nvm, cod := storedCod s.cod
    spine := { State.reset.spine with held := s.spine.held }
    chip := { State.reset.chip with pwrGood := s.chip.pwrGood } }) ∧
  (∀ s : State, exec .aonRstDeassert s =
    .next (if rd s R.GEN_STAT_STAGE = 0 then wr (begin s) R.TIME_TOD 0 else begin s)) ∧
  (∀ (sl : BitVec 12) (ti : BitVec 4) (lp : BitVec 9) (a b : Bool) (m : BitVec 11) (s : State),
    let s1 := wr (wr (wr (begin s) R.GEN_STRAP_SLICE_EN sl.toNat) R.GEN_STRAP_TIER_EN ti.toNat) R.GEN_STRAP_LPM_EN lp.toNat
    let s2 := wr (wr (wr s1 R.GEN_STRAP_HFP_W128 (b2n a)) R.GEN_STRAP_MRP_W1024 (b2n b)) R.GEN_STRAP_MFR_ID m.toNat
    exec (.configSample sl ti lp a b m) s = .next (if rd s R.GEN_STAT_STAGE ≠ 0 then begin s
      else if s.chip.ir = 1 then setTap s2 1 (idcode s2) else s2)) ∧
  (∀ (ok : Bool) (s : State),
    let s1 := wr (loadFuses (begin s)) R.GEN_STAT_STAGE 1
    exec (.fuseLoad ok) s = .next (if rd s R.GEN_STAT_STAGE ≠ 0 then begin s
      else if ok = false then raiseFault s1 1
      else if s1.chip.pwrGood then powerUp (wr s1 R.GEN_STAT_STAGE 2) else s1)) ∧
  (∀ s : State,
    let s1 := { begin s with chip := { s.chip with pwrGood := false } }
    exec .pwrGoodFall s = .next (if rd s R.PWR_DOM = 0 then s1 else
      let s2 := wr (resetFast (closeSession s1 selfSrc 3)) R.GEN_STAT_PWR_LOSS 1
      raiseFault { s2 with chip := { s2.chip with held := true } } 4)) ∧
  (∀ s : State,
    let s1 := { begin s with chip := { s.chip with pwrGood := true } }
    let s2 := { s1 with chip := { s1.chip with held := false } }
    exec .pwrGoodRise s = .next (if s.chip.resetWaits then blockReset s1
      else if rd s R.GEN_STAT_STAGE = 1 then (if s.chip.faultOut then s1 else powerUp (wr s1 R.GEN_STAT_STAGE 2))
      else if s.chip.held = true ∧ (rd s R.GEN_STAT_STAGE = 2 ∨ rd s R.GEN_STAT_STAGE = 3) then powerUp s2 else s1)) ∧
  (∀ (seqOk : Bool) (lanes : BitVec 408) (cols : BitVec 516) (s : State),
    let idle := rd s R.GEN_STAT_STAGE ≠ 3 ∨ s.chip.held = true ∨ portsReady s = false
    let s1 := (List.range 12).foldl (fun t n => testLanes t n (bits lanes.toNat (34 * n + 33) (34 * n))) (allSpares (begin s))
    let s2 := (List.range 4).foldl (fun t a => testColumns t a (bits cols.toNat (129 * a + 128) (129 * a))) s1
    let s3 := { s2 with spr := { s2.spr with sliceOut := bits (rd s2 R.GEN_DISABLED) 11 0 } }
    let r := readSpine (reloadMaps (wr s3 R.GEN_STAT_CFG_BAD (b2n (cfgBad s3))))
    (idle → exec (.selftestDone seqOk lanes cols) s = .next (begin s)) ∧
    (¬ idle → exec (.selftestDone seqOk lanes cols) s = .next (if seqOk = false then raiseFault (begin s) 3
      else wr (wr (takeSpine r.1 r.2) R.GEN_CTRL_BLK_RST 0) R.GEN_STAT_STAGE 4)))

/-- CFG_DONE, BLK_RST, LTEST and GEN_DIS_REQ act under the rights and states they need. CFG_DONE of an installer ends
stage 4, and outside it only sets STATE_WR; of an operator it is answered RIGHTS; it is audited. BLK_RST reads 1 at
once and resets the block when PWR_GOOD is high, else waits for it; while it reads 1 a further one is ignored. LTEST
with an uncapped epoch is answered DESCRIPTOR, else it tests every slice in service. An installer's write of either
is audited. GEN_DIS_REQ needs installer rights to disable and maker rights to return a unit; a unit that does not
exist is answered DESCRIPTOR, as is any request before stage 4 (the status is the model's choice,
notes/assumptions/79), and so, outside ABSENT, are a return and the disabling of a slice; each accepted request is
audited. (R461, R464, R472, R477, R520) -/
def Obligations.GenCtrlAndDisabledUnits : Prop :=
  (∀ (r : Req) (s : State),
    let aud (t : State) (st v : Nat) : State :=
      audit t 1 0x10 r.src.toNat (auditRole t r.src.toNat) st (b2n (rdb s R.GEN_CTRL_BLK_RST)) v
    let s1 := if rd s R.GEN_STAT_STAGE = 4 then wr (begin s) R.GEN_STAT_STAGE 5 else pgError (begin s) 0 29 0
    (rightsOf s r.src.toNat &&& 2 = 0 → exec (.cfgDone r) s =
      .next (answered r (aud (pgError (begin s) 0 30 0) ecRights 4, ecRights))) ∧
    (rightsOf s r.src.toNat &&& 2 ≠ 0 → exec (.cfgDone r) s = .next (answered r (aud s1 0 4, 0)))) ∧
  (∀ (r : Req) (s : State),
    let s1 := if rightsOf s r.src.toNat &&& 2 = 0 then begin s
      else audit (begin s) 1 0x10 r.src.toNat (auditRole s r.src.toNat) 0 (b2n (rdb s R.GEN_CTRL_BLK_RST)) 1
    let s2 := wr s1 R.GEN_CTRL_BLK_RST 1
    exec (.blkRst r) s = .next (answered r (if rdb s1 R.GEN_CTRL_BLK_RST then s1
      else if s2.chip.pwrGood then blockReset s2 else { s2 with chip := { s2.chip with resetWaits := true } }, 0))) ∧
  (∀ (r : Req) (bad : BitVec 408) (s : State),
    let y : State × Nat := if anyUncapped s then (pgError (begin s) 0 29 0, ecDescriptor)
      else (((List.range 12).filter (sliceIn s)).foldl
        (fun t n => testLanes t n (bits bad.toNat (34 * n + 33) (34 * n))) (begin s), 0)
    exec (.ltest r bad) s = .next (answered r (if rightsOf s r.src.toNat &&& 2 = 0 then y.1
      else audit y.1 1 0x10 r.src.toNat (auditRole y.1 r.src.toNat) y.2 (b2n (rdb s R.GEN_CTRL_BLK_RST)) 2, y.2))) ∧
  (∀ (r : Req) (v : BitVec 32) (s : State),
    let kind := bits v.toNat 31 28
    let idx := bits v.toNat 27 16
    let s1 := if bits v.toNat 15 1 ≠ 0 then pgError (begin s) 0 31 0 else begin s
    let aud (t : State) (stat : Nat) : State × Nat :=
      (audit t 1 0x60 r.src.toNat (auditRole t r.src.toNat) stat 0 v.toNat, stat)
    let barred := rightsOf s1 r.src.toNat &&& 6 = 0 ∨ (bit v.toNat 0 = true ∧ rightsOf s1 r.src.toNat &&& 4 = 0)
    (barred → exec (.genDisReq r v) s = .next (answered r (refuseRights s1 0 0x60 r.src.toNat true 0 v.toNat))) ∧
    (¬ barred → unitsOf kind ≤ idx → exec (.genDisReq r v) s = .next (answered r (aud s1 ecDescriptor))) ∧
    (¬ barred → idx < unitsOf kind → rd s1 R.GEN_STAT_STAGE < 4 ∨ isAbsent s = false ∧ (bit v.toNat 0 = true ∨ kind = 4) →
      exec (.genDisReq r v) s = .next (answered r (aud (pgError s1 0 29 0) ecDescriptor))) ∧
    (¬ barred → idx < unitsOf kind → 4 ≤ rd s1 R.GEN_STAT_STAGE → bit v.toNat 0 = true → isAbsent s = true →
      exec (.genDisReq r v) s = .next (answered r (aud (putBack s1 kind idx) 0))) ∧
    (¬ barred → idx < unitsOf kind → 4 ≤ rd s1 R.GEN_STAT_STAGE → bit v.toNat 0 = false → kind ≠ 4 ∨ isAbsent s = true →
      exec (.genDisReq r v) s = .next (answered r (aud (takeOut s1 kind idx) 0))))

/-- SRAM and always-on parity errors set their causes and reach what they damage. SRAM_ECC_ERROR: a corrected word of a
page with error logic sets its cause, and a word corrected again within one second gives the row a move; an
uncorrectable one sets its cause and makes the member declare itself (job state), loses a line of the hot-line
buffer (cache), fails the running command of its queue (working buffer) or loses a flit that comes again (link
buffer). A page without error logic is left alone. AON_PARITY_ERROR makes the member declare itself and raises
FAULT_OUT with cause 1. PG_ERR_INJ on a page that does not exist is answered DESCRIPTOR; reserved bits that are set
are noted; without maker rights it is answered RIGHTS; else it is audited and its bits act as such errors. The class
of an injected error is the model's choice (notes/assumptions/64). (R64, R474, R488, R505, R569) -/
def Obligations.SramAndParityErrors : Prop :=
  (∀ (page : BitVec 6) (word : BitVec 32) (unc : Bool) (cls : Fin 4) (q : Fin 16) (s : State),
    let s1 := pgError (begin s) page.toNat 27 0
    (injPage page.toNat = false → exec (.sramEccError page word unc cls q) s = .next (begin s)) ∧
    (injPage page.toNat = true → exec (.sramEccError page word false cls q) s =
      .next (sramCorrected (begin s) page.toNat word.toNat)) ∧
    (injPage page.toNat = true → exec (.sramEccError page word true 0 q) s = .next (sendDeclareSelf s1)) ∧
    (injPage page.toNat = true → exec (.sramEccError page word true 1 q) s =
      .next (if page.toNat = 0x13 then hotLost s1 word.toNat else s1)) ∧
    (injPage page.toNat = true → exec (.sramEccError page word true 2 q) s = .next (queueUseFails s1 q)) ∧
    (injPage page.toNat = true → exec (.sramEccError page word true 3 q) s = .next s1)) ∧
  (∀ (s : State) (page word : Nat),
    let s1 := pgError s page 28 0
    let same := fun (x : Nat × Nat × Nat) => x.1 == page && x.2.1 == word
    let again := s1.hl.sram.any fun x => same x && decide (rd s1 R.TIME_TOD < x.2.2 + 10 ^ 9)
    let rest := s1.hl.sram.filter fun x => !same x
    let s2 := { s1 with hl := { s1.hl with sram := rest } }
    let s3 := { s2 with spr := { s2.spr with rowDue := s2.spr.rowDue ++ [page] } }
    sramCorrected s page word = if again then spareRec s3 0 page 0 false true
      else { s1 with hl := { s1.hl with sram := rest ++ [(page, word, rd s1 R.TIME_TOD)] } }) ∧
  (∀ s : State, exec .aonParityError s = .next (raiseFault (sendDeclareSelf (begin s)) 1)) ∧
  (∀ (r : Req) (page : BitVec 6) (v : BitVec 32) (s : State),
    let s1 := noteReserved (begin s) page.toNat (bits v.toNat 26 0 != 0)
    let s2 := audit s1 1 (4096 * page.toNat + 0x2C) r.src.toNat (auditRole s1 r.src.toNat) 0 0 v.toNat
    let s3 := if bit v.toNat 28 then sramCorrected s2 page.toNat 0 else s2
    (pageExists page.toNat = false → exec (.pgErrInj r page v) s = .next (answered r (begin s, ecDescriptor))) ∧
    (pageExists page.toNat = true → rightsOf s1 r.src.toNat &&& 4 = 0 → exec (.pgErrInj r page v) s =
      .next (answered r (refuseRights s1 page.toNat (4096 * page.toNat + 0x2C) r.src.toNat true 0 v.toNat))) ∧
    (pageExists page.toNat = true → rightsOf s1 r.src.toNat &&& 4 ≠ 0 → exec (.pgErrInj r page v) s =
      .next (answered r (if injPage page.toNat = false then s2
        else if bit v.toNat 27 = false then s3
        else if injClass page.toNat ≠ 2 then sramLost s3 page.toNat 0 (injClass page.toNat) 0
        else match injQueue s3 page.toNat with
          | some q => sramLost s3 page.toNat 0 2 q
          | none => pgError s3 page.toNat 27 0, 0))))

/-- TIME_OFFSET, the strobe and the SNAP commands act at the next edge. A TIME_OFFSET write joins the sum that the next
edge adds and clears HOLDOVER. A STROBE write that finds STROBE 0 sets it and gives the cause. SNAP_NOW of a queue
whose SNAP of the next edge has started gives its cause and waits for the strobe; SNAP_AT_TIME takes the free timer,
marks it late when its time has come, and waits while ARM is 1 or another holds it; both do nothing else. When the
operand says so the edge comes before the next command. TIMED_STROBE is an edge. An edge advances TIME_TOD by 40 ns
and TIME_RATE, acts on the strobe causes, and then adds the TIME_OFFSET sum; a negative sum sets BACK. (R442, R443,
R444, R445, R525) -/
def Obligations.TimeAndStrobe : Prop :=
  (∀ (r : Req) (v : BitVec 64) (edge : Bool) (s : State),
    let s1 := wr { begin s with chip := { s.chip with step := (s.chip.step + v.toNat) % 2 ^ 64, stepOn := true } }
      R.TIME_STAT_HOLDOVER 0
    exec (.timeOffset r v edge) s = .next (if edge then aonEdge (trsp s1 r 0) else trsp s1 r 0)) ∧
  (∀ (r : Req) (edge : Bool) (s : State),
    let s1 := if rdb s R.SNP_CTRL_STROBE then begin s else
      { wr (begin s) R.SNP_CTRL_STROBE 1 with chip := { s.chip with causes := s.chip.causes ||| 1 } }
    exec (.snpStrobe r edge) s = .next (if edge then aonEdge (trsp s1 r 0) else trsp s1 r 0)) ∧
  (∀ (q : Fin 16) (edge : Bool) (s : State), ((activeRun s q 0x0D 0).all fun r => r.phase == .running) = true →
    exec (.snapNow q edge) s = .next (if edge then aonEdge (begin s) else begin s)) ∧
  (∀ (q : Fin 16) (edge : Bool) (s : State) (r : Run), activeRun s q 0x0D 0 = some r → r.phase ≠ .running →
    let s1 := keepRunning (begin s) q r.idx [1]
    let s2 := { s1 with chip := { s1.chip with
      causes := s1.chip.causes ||| 8, snaps := s1.chip.snaps ++ [(q.val, r.idx)] } }
    exec (.snapNow q edge) s = .next (if edge then aonEdge s2 else s2)) ∧
  (∀ (q : Fin 16) (s : State), ((activeRun s q 0x0D 1).all fun r => r.phase == .running || rdb s R.SNP_CTRL_ARM || s.chip.timer.isSome) = true →
    exec (.snapAtTime q) s = .next (begin s)) ∧
  (∀ (q : Fin 16) (s : State) (r : Run), activeRun s q 0x0D 1 = some r → r.phase ≠ .running →
    rdb s R.SNP_CTRL_ARM = false → s.chip.timer = none →
    let s1 := keepRunning (begin s) q r.idx [1]
    let timer : SnapTimer :=
      { queue := q, idx := r.idx, time := opd r.raw 63 0, late := decide (opd r.raw 63 0 ≤ rd s R.TIME_TOD) }
    exec (.snapAtTime q) s = .next { s1 with chip := { s1.chip with timer := some timer } }) ∧
  (∀ s : State, exec .timedStrobe s = .next (aonEdge (begin s))) ∧
  (∀ s : State,
    let v := (rd s R.TIME_TOD * 2 ^ 32 + s.chip.frac + unsigned 97 (40 * 2 ^ 32 + signed 32 (rd s R.TIME_RATE))) % 2 ^ 96
    let s1 := lockEdge (edgeStrobe (wr { s with chip := { s.chip with frac := v % 2 ^ 32 } } R.TIME_TOD (v / 2 ^ 32)) (v / 2 ^ 32))
    (s1.chip.stepOn = false → aonEdge s = s1) ∧
    (s1.chip.stepOn = true →
      let s2 := wr (if 2 ^ 63 ≤ s1.chip.step then wr s1 R.TIME_STAT_BACK 1 else s1) R.TIME_TOD
        ((v / 2 ^ 32 + s1.chip.step) % 2 ^ 64)
      aonEdge s = { s2 with chip := { s2.chip with step := 0, stepOn := false } }))

/-- Changes of the inputs give events, are suppressed when too fast, and stop when stuck. THERM_IN_EVENT,
BRD_ALERT_EVENT, SNAP_IN_EDGE: a level that is the one already seen has no effect. A change of a stuck input only
changes its level, and a falling SNAP_IN only what was told. One too soon after the last event, or while OVERRATE is
set, sets OVERRATE and counts PIN_OVR_CNT, with a record the first time; any other is one event. PIN_OVERRATE_CLEAR
tells one event where the level differs from the one told, and does nothing for an input without OVERRATE. PIN_STUCK
of an asserted input marks it with a record, and PIN_STUCK_CLEAR of a de-asserted stuck one clears the mark. (R467,
R468, R469) -/
def Obligations.InputsAreConditioned : Prop :=
  (∀ (i : Fin 3) (level : Bool) (s : State),
    let c (b : Bool) : Instr := if i = 0 then .thermInEvent b else if i = 1 then .brdAlertEvent b else .snapInEdge b false
    let s1 := setPin (begin s) R.PIN_STAT_LEVEL i level
    let fast := bit (rd s1 R.PIN_STAT_OVERRATE) i = true
    let soon := (pinOf s i).last ≠ 0 ∧ rd s1 R.TIME_TOD < (pinOf s i).last - 1 + 1000 * rd s1 R.PIN_RATE
    let s2 := count (setPin s1 R.PIN_STAT_OVERRATE i true) (C.PIN_OVR_CNT i)
    (bit (rd s R.PIN_STAT_LEVEL) i = level → exec (c level) s = .next (begin s)) ∧
    (bit (rd s R.PIN_STAT_LEVEL) i ≠ level →
      (bit (rd s1 R.PIN_STAT_STUCK) i = true → exec (c level) s = .next (notePin s1 i)) ∧
      (bit (rd s1 R.PIN_STAT_STUCK) i = false → i = 2 → level = false → exec (c level) s =
        .next (notePin { s1 with chip := { s1.chip with pins := s1.chip.pins.set 2 { pinOf s i with told := false } } } i)) ∧
      (bit (rd s1 R.PIN_STAT_STUCK) i = false → i ≠ 2 ∨ level = true →
        (¬ fast → ¬ soon → exec (c level) s = .next (notePin (pinEvent s1 i level) i)) ∧
        (¬ fast → soon → exec (c level) s = .next (notePin (pinRec s2 i) i)) ∧
        (fast → exec (c level) s = .next (notePin s2 i))))) ∧
  (∀ (asserted : Bool) (s : State), exec (.snapInEdge asserted true) s = .next (aonEdge (pinChange (begin s) 2 asserted))) ∧
  (∀ (pin : Fin 3) (s : State), bit (rd s R.PIN_STAT_OVERRATE) pin = false →
    exec (.pinOverrateClear pin) s = .next (begin s)) ∧
  (∀ (pin : Fin 3) (s : State), bit (rd s R.PIN_STAT_OVERRATE) pin = true →
    let s1 := setPin (begin s) R.PIN_STAT_OVERRATE pin false
    let level := bit (rd s1 R.PIN_STAT_LEVEL) pin
    exec (.pinOverrateClear pin) s = .next (notePin (if level ≠ (pinOf s1 pin).told ∧
      bit (rd s1 R.PIN_STAT_STUCK) pin = false ∧ (pin ≠ 2 ∨ level = true) then pinEvent s1 pin level else s1) pin)) ∧
  (∀ (pin : Fin 3) (s : State), exec (.pinStuck pin) s =
    .next (if bit (rd s R.PIN_STAT_LEVEL) pin = true ∧ bit (rd s R.PIN_STAT_STUCK) pin = false then
      notePin (pinRec (setPin (begin s) R.PIN_STAT_STUCK pin true) pin) pin else begin s)) ∧
  (∀ (pin : Fin 3) (s : State), exec (.pinStuckClear pin) s =
    .next (if bit (rd s R.PIN_STAT_LEVEL) pin = false ∧ bit (rd s R.PIN_STAT_STUCK) pin = true then
      notePin (setPin (begin s) R.PIN_STAT_STUCK pin false) pin else begin s))

/-- A doorbell ahead of the producer index and within the ring becomes the producer index; an equal one is ignored; any
other is rejected. For a queue whose QUE_SIZE lies in 6 to 16: a value ahead of the doorbell in force by less than
2^31 and at most QUE_RET + 2^QUE_SIZE (modulo 2^32) becomes the producer index and clears DB_BAD; the value in force
changes nothing; every other value leaves the producer index, sets DB_BAD, counts in QUE_DB_BAD and posts a
unit-error event. With QUE_SIZE outside 6 to 16 every value is rejected so. A later valid doorbell replaces the
index of an earlier one. A valid one of an enabled queue wakes the sequencer domain when it is gated. The write is
answered OK, and otherwise nothing changes but, for a rejected value, the counter and the event ring. (R133, R134) -/
def Obligations.DoorbellsMoveTheProducerIndex : Prop :=
  ∀ (r : Req) (q : Fin 16) (v : BitVec 32) (s : State), s.chip.held = false →
    let x := qOf s q
    let rejected := unitError (count (setQ (begin s) q { x with dbBad := true }) (C.QUE_DB_BAD q)) ecDescriptor 6 q (v.toNat + at' x.db 32)
    (x.size < 6 ∨ 16 < x.size → exec (.queDb r q v) s = .next (trsp rejected r 0)) ∧
    (6 ≤ x.size → x.size ≤ 16 →
      let ahead := (v.toNat + 2 ^ 32 - x.db) % 2 ^ 32
      let used := (v.toNat + 2 ^ 32 - x.ret) % 2 ^ 32
      (v.toNat = x.db → exec (.queDb r q v) s = .next (trsp (begin s) r 0)) ∧
      (0 < ahead → ahead < 2 ^ 31 → used ≤ 2 ^ x.size →
        let s1 := setQ (begin s) q { x with db := v.toNat, dbBad := false }
        exec (.queDb r q v) s = .next (trsp (if x.en then wakeDomain s1 0 else s1) r 0)) ∧
      (v.toNat ≠ x.db → ahead = 0 ∨ 2 ^ 31 ≤ ahead ∨ 2 ^ x.size < used →
        exec (.queDb r q v) s = .next (trsp rejected r 0)))

/-- ABORT, the queue entry submission and the forerunner aliases take effect. ABORT on a queue that already reads 1
changes nothing; otherwise it sets the bit unless retire index and doorbell are equal, cancels every unstarted
command and reads the enqueued rest. A queue entry submission with the QUE window selecting table 1 drops the staged
words and replaces base, size, tenant and enable when the rules of R527 allow it, else answers DESCRIPTOR with the
entry unchanged. KX2C_DB acts as the doorbell while KX2C_CFG.EN is 1 and otherwise only sets STATE_WR; so does
KX2C_FLUSH, which does nothing more while it reads 1 or when no page is dirty, and otherwise sets it, joins a
running IMAGE FLUSH and writes every dirty page back. While the fast domains are held in reset, a write of any
register outside the always-on domain is answered OK and has no effect. (R63, R134, R135, R514, R527, R539) -/
def Obligations.QueueControlAndAliases : Prop :=
  (∀ (r : Req) (q : Fin 16) (s : State), s.chip.held = false →
    (rdb s (R.QUE_CTRL_ABORT q) = true → exec (.queAbort r q) s = .next (trsp (begin s) r 0)) ∧
    (rdb s (R.QUE_CTRL_ABORT q) = false →
      let x := qOf s q
      let s1 := if x.ret = x.db then begin s else wr (begin s) (R.QUE_CTRL_ABORT q) 1
      let x2 : Queue := { x with cmds := x.cmds.map fun c =>
        if c.phase = .unstarted then { c with phase := .done, err := ecDescriptor, cancelled := true } else c }
      (x.head = x.db → exec (.queAbort r q) s =
        .next (trsp (setQ (countN s1 C.SEQ_CMD_CANCEL (unstarted x)) q x2) r 0)) ∧
      (x.head ≠ x.db →
        let s2 := setQ (countN s1 C.SEQ_CMD_CANCEL (unstarted x)) q { x2 with abortTo := some x.db }
        exec (.queAbort r q) s = .next (trsp (if canFetch (qOf s2 q) then fetchQ s2 q else s2) r 0)))) ∧
  (∀ (r : Req) (data : BitVec 64) (wide : Bool) (s : State) (q : Nat), s.chip.held = false → selected s 6 = some (1, q) →
    let new := submitted (begin s) r.src.toNat 6 (queueEntry (begin s) q) data.toNat wide
    let s1 := noteReserved (dropStaged (begin s) r.src.toNat 6) 6
      (bits new 71 64 != 0 || bits new 75 73 != 0 || bits new 79 78 != 0 || bits new 95 85 != 0 || bits new 223 195 != 0 ||
        bits new 255 228 != 0)
    exec (.queEntrySubmit r data wide) s = .next (match submitQueue s1 q new with
      | some t => trsp t r 0
      | none => trsp s1 r ecDescriptor)) ∧
  (∀ (r : Req) (q : Fin 8) (v : BitVec 32) (s : State), s.chip.held = false →
    (rdb s R.KX2C_CFG_EN = false → exec (.kx2cDb r q v) s = .next (trsp (pgError (begin s) 0x1D 29 0) r 0)) ∧
    (rdb s R.KX2C_CFG_EN = true → exec (.kx2cDb r q v) s = exec (.queDb r ⟨q.val, by omega⟩ v) s)) ∧
  (∀ (r : Req) (s : State), s.chip.held = false →
    (rdb s R.KX2C_CFG_EN = false → exec (.kx2cFlush r) s = .next (trsp (pgError (begin s) 0x1D 29 0) r 0)) ∧
    (rdb s R.KX2C_CFG_EN = true → rdb s R.KX2C_FLUSH = true ∨ dirtyCaches (begin s) 0 = [] →
      exec (.kx2cFlush r) s = .next (trsp (begin s) r 0)) ∧
    (rdb s R.KX2C_CFG_EN = true → rdb s R.KX2C_FLUSH = false → dirtyCaches (begin s) 0 ≠ [] →
      let is := dirtyCaches (begin s) 0
      let s1 := flushAll (joinFlushes (wr (begin s) R.KX2C_FLUSH 1) is) is
      exec (.kx2cFlush r) s = .next (trsp (settleKx { s1 with chip := { s1.chip with flush := is } }) r 0))) ∧
  (∀ (r : Req) (q : Fin 16) (k : Fin 8) (v : BitVec 32) (data : BitVec 64) (wide : Bool) (s : State), s.chip.held = true →
    let done : Host.Outcome State Fault Refusal := .next (trsp (begin s) r 0)
    exec (.queDb r q v) s = done ∧ exec (.queAbort r q) s = done ∧ exec (.queEntrySubmit r data wide) s = done ∧
    exec (.evtConsWrite r v) s = done ∧ exec (.directorySubmit r data wide) s = done ∧
    exec (.peerEntryWrite r data wide) s = done ∧ exec (.groupSubmit r data wide) s = done ∧
    exec (.kx2cDb r k v) s = done ∧ exec (.kx2cFlush r) s = done ∧ exec (.hiveCfgEn r wide) s = done)

/-- A write of EVT_CONS from the value in force up to EVT_PROD is accepted, any other is ignored and counted. A value
that lies from EVT_CONS up to EVT_PROD, by serial-number arithmetic, becomes EVT_CONS; the flags of consumed records
go and the interrupt line follows. Any other value leaves EVT_CONS and EVT_PROD as they are and adds one to
EVT_CONS_BAD, saturating; no other counter and no register changes. The write is answered OK. (R528) -/
def Obligations.EventConsumptionIsJudged : Prop :=
  ∀ (r : Req) (v : BitVec 32) (s : State), s.chip.held = false → NMap.wf s.regs = true →
    let cons := rd s R.EVT_CONS
    let prod := rd s R.EVT_PROD
    ((v.toNat + 2 ^ 32 - cons) % 2 ^ 32 ≤ (prod + 2 ^ 32 - cons) % 2 ^ 32 →
      let s1 := wr (begin s) R.EVT_CONS v.toNat
      let left := s.ev.flagged.filter fun i => decide ((i + 2 ^ 32 - v.toNat) % 2 ^ 32 < (prod + 2 ^ 32 - v.toNat) % 2 ^ 32)
      ∃ t, exec (.evtConsWrite r v) s = .next t ∧ rd t R.EVT_CONS = v.toNat ∧ rd t R.EVT_PROD = prod ∧
        t = trsp (updateIrq { s1 with ev := { s1.ev with flagged := left } }) r 0) ∧
    ((prod + 2 ^ 32 - cons) % 2 ^ 32 < (v.toNat + 2 ^ 32 - cons) % 2 ^ 32 →
      exec (.evtConsWrite r v) s = .next (trsp { begin s with
        cnt := put s.cnt C.EVT_CONS_BAD (min cntMax (get s.cnt C.EVT_CONS_BAD + 1)) } r 0))

/-- Directory, peer, group and remap entries are replaced when their checks pass and otherwise stay as they are. A
directory submission drops the staged words, keeps HOME_EPOCH, counts itself, and either takes effect with OK or
sets DIR_REFUSED and WHY, counts the refusal and answers DESCRIPTOR. A peer entry written without installer rights
is refused for rights unless it changes nothing; with them it is judged by R301. A group entry is stored when its
index is below 4,096, the group is not in use and its membership is well formed, and otherwise refused with
DESCRIPTOR. A remap entry of table 0 needs installer rights, bring-up stage 4 or later (its status before is the
model's choice, notes/assumptions/79) and the ABSENT state; a valid one must name a private cell and a range no
other entry of its stack names. The relocation table is read only, and an index outside the tables is answered
DESCRIPTOR. (R101, R301, R309, R400, R514, R555) -/
def Obligations.EntrySubmissionsAreJudged : Prop :=
  (∀ (r : Req) (data : BitVec 64) (wide : Bool) (s : State) (o : Nat), s.chip.held = false → selected s 0xA = some (0, o) →
    let cur := entryValue (begin s) 0xA 0 o
    let new := setBits (submitted (begin s) r.src.toNat 0xA cur data.toNat wide) 255 240 (oHomeEpoch cur)
    let s1 := noteReserved (count (dropStaged (begin s) r.src.toNat 0xA) C.OBJ_DIR_SUBMIT) 0xA !entryReserved new
    ((dirEffect s1 o cur new).2 = 0 → exec (.directorySubmit r data wide) s = .next (trsp (dirEffect s1 o cur new).1 r 0)) ∧
    ((dirEffect s1 o cur new).2 ≠ 0 → exec (.directorySubmit r data wide) s = .next (trsp
      (wr (wr (count (dirEffect s1 o cur new).1 C.OBJ_DIR_REFUSE) R.OBJ_STAT_DIR_REFUSED 1) R.OBJ_STAT_WHY (dirEffect s1 o cur new).2)
      r ecDescriptor))) ∧
  (∀ (r : Req) (data : BitVec 64) (wide : Bool) (s : State) (i : Nat), s.chip.held = false → selected s 0x10 = some (0, i) →
    let cur := entryValue (begin s) 0x10 0 i
    let v := submitted (begin s) r.src.toNat 0x10 cur data.toNat wide
    let s1 := noteReserved (dropStaged (begin s) r.src.toNat 0x10) 0x10 (bits v 127 110 != 0 || bits v 99 96 != 0)
    let new := setBits (bits v 109 0) 99 96 0
    (rightsOf s1 r.src.toNat &&& 2 ≠ 0 → exec (.peerEntryWrite r data wide) s =
      .next (answered r (peerWrite s1 r.src.toNat i cur new))) ∧
    (rightsOf s1 r.src.toNat &&& 2 = 0 → new = cur → exec (.peerEntryWrite r data wide) s = .next (trsp s1 r 0)) ∧
    (rightsOf s1 r.src.toNat &&& 2 = 0 → new ≠ cur → exec (.peerEntryWrite r data wide) s =
      .next (answered r (refuseRights s1 0x10 0x10F00 r.src.toNat true cur new)))) ∧
  (∀ (r : Req) (data : BitVec 64) (wide : Bool) (s : State), s.chip.held = false →
    let sel := rd s R.COL_GRP_IDX
    let g := selIndex sel
    let new := submitted (begin s) r.src.toNat 0x12 (group s g) data.toNat wide
    let s0 := dropStaged (begin s) r.src.toNat 0x12
    let s1 := if bits new 62 51 ≠ 0 ∨ bits new 31 28 ≠ 0 ∨ bits new 15 13 ≠ 0 then pgError s0 0x12 31 0 else s0
    let bad := grValid new = true ∧ (grN new < 2 ∨ 4096 < grN new ∨ grN new ≤ grMe new)
    (selTable sel ≠ 0 ∨ 4096 ≤ g → exec (.groupSubmit r data wide) s = .next (trsp s0 r ecDescriptor)) ∧
    (selTable sel = 0 → g < 4096 → groupInUse s1 g = true ∨ bad → exec (.groupSubmit r data wide) s =
      .next (trsp s1 r ecDescriptor)) ∧
    (selTable sel = 0 → g < 4096 → groupInUse s1 g = false → ¬ bad → exec (.groupSubmit r data wide) s =
      .next (trsp (tput s1 0x12 0 g (at' (grTag new) 64 + at' (b2n (grValid new)) 63 + at' (grList new) 32 + at' (grMe new) 16 +
        grN new)) r 0))) ∧
  (∀ (r : Req) (data : BitVec 64) (wide : Bool) (s : State),
    let sel := rd s R.RMAP_TWIN_SEL
    let x := selIndex sel
    let cur := tget s 0x16 0 x
    let v := submitted (begin s) r.src.toNat 0x16 cur data.toNat wide
    let new := v % 2 ^ 25 + at' (bits v 63 61) 61
    let s0 := dropStaged (begin s) r.src.toNat 0x16
    let s1 := if bits v 60 25 ≠ 0 then pgError s0 0x16 31 0 else s0
    let done (t : State) (st : Nat) : State := audit t 1 0x16F00 r.src.toNat (auditRole t r.src.toNat) st cur new
    let twice := (List.range 8).any fun e => 8 * (x / 8) + e != x && bit (tget s1 0x16 0 (8 * (x / 8) + e)) 63 &&
      bits (tget s1 0x16 0 (8 * (x / 8) + e)) 24 0 == bits new 24 0
    selTable sel = 0 → x < 96 →
      (hasRole s1 r.src 2 = false → new = cur → exec (.remapEntrySubmit r data wide) s = .next (trsp s1 r 0)) ∧
      (hasRole s1 r.src 2 = false → new ≠ cur → exec (.remapEntrySubmit r data wide) s =
        .next (answered r (refuseRights s1 0x16 0x16F00 r.src.toNat true cur new))) ∧
      (hasRole s1 r.src 2 = true → isAbsent s1 = false ∨ rd s1 R.GEN_STAT_STAGE < 4 → exec (.remapEntrySubmit r data wide) s =
        .next (trsp (done (pgError s1 0x16 29 0) ecDescriptor) r ecDescriptor)) ∧
      (hasRole s1 r.src 2 = true → isAbsent s1 = true → 4 ≤ rd s1 R.GEN_STAT_STAGE → bit new 63 = true →
        isPrivate s1 (x / 8) (bits new 24 0 * 4096 / cellSize) = false ∨ twice = true →
        exec (.remapEntrySubmit r data wide) s = .next (trsp (done s1 ecDescriptor) r ecDescriptor)) ∧
      (hasRole s1 r.src 2 = true → isAbsent s1 = true → 4 ≤ rd s1 R.GEN_STAT_STAGE →
        bit new 63 = false ∨ isPrivate s1 (x / 8) (bits new 24 0 * 4096 / cellSize) = true ∧ twice = false →
        exec (.remapEntrySubmit r data wide) s = .next (trsp (done (setMapEntry s1 0 x new) 0) r 0))) ∧
  (∀ (r : Req) (data : BitVec 64) (wide : Bool) (s : State),
    let sel := rd s R.RMAP_TWIN_SEL
    let s0 := dropStaged (begin s) r.src.toNat 0x16
    let v := submitted (begin s) r.src.toNat 0x16 (tget s 0x16 1 (selIndex sel)) data.toNat wide
    (selTable sel = 1 → selIndex sel < 262144 → exec (.remapEntrySubmit r data wide) s =
      .next (trsp (noteReserved s0 0x16 (readOnlyBad 0x16 1 v)) r 0)) ∧
    ((selTable sel = 0 ∧ 96 ≤ selIndex sel) ∨ (selTable sel = 1 ∧ 262144 ≤ selIndex sel) ∨ 2 ≤ selTable sel →
      exec (.remapEntrySubmit r data wide) s = .next (trsp s0 r ecDescriptor)))

/-- Sessions open by challenge and response, close, lapse and lock out; key commits and the test port are judged by
them. A REQ for installer or maker with no session, challenge or lockout adds one to ROLE_CNT, draws the challenge
from the entropy source (free values) and sets PENDING for its source; a failed entropy test refuses it and sets
ENT_BAD; during a lockout it is refused with RIGHTS. A matching response of that source opens the session and clears
the failure run; a mismatch, and a response with no challenge of its source pending, count in ROLE_FAIL_CNT. CLOSE
acts for the owning source alone; an idle session closes with cause 1; the challenge lapses; the lockout ends. A key
commit needs installer rights, bring-up stage 4 or later (its status before is the model's choice,
notes/assumptions/79), the ABSENT state and no ARMED or ACTIVE store under the slot. Instructions other than BYPASS
and IDCODE select BYPASS unless a maker session is open. The entries and answers of refused attempts are the model's
choices (notes/assumptions/59, 60). (R65, R483, R484, R485, R486, R489, R490) -/
def Obligations.SessionsOpenAndClose : Prop :=
  (∀ (r : Req) (role : BitVec 2) (s : State), NMap.wf s.regs = true →
    let s1 := wr (begin s) R.ROLE_CTRL_ROLE role.toNat
    let no (code : Nat) : State := trsp (roleFail (lapse s1) r.src.toNat role.toNat code) r code
    (rdb s R.ROLE_STAT_LOCKED = true → exec (.roleReq r role) s = .next (no ecRights)) ∧
    (rdb s R.ROLE_STAT_LOCKED = false → role.toNat = 0 ∨ role.toNat = 3 ∨ rdb s R.ROLE_STAT_OPEN = true ∨
      rdb s R.ROLE_STAT_PENDING = true → exec (.roleReq r role) s = .next (no ecDescriptor)) ∧
    (rdb s R.ROLE_STAT_LOCKED = false → role.toNat = 1 ∨ role.toNat = 2 → rdb s R.ROLE_STAT_OPEN = false →
      rdb s R.ROLE_STAT_PENDING = false →
      ∃ t, exec (.roleReq r role) s = .next t ∧
        (Config.entropyOk s.free = false → t = trsp (roleFail
          (wr { s1 with free := s.free + 1 } R.ROLE_STAT_ENT_BAD 1) r.src.toNat role.toNat ecDescriptor) r ecDescriptor) ∧
        (Config.entropyOk s.free = true → rd t R.ROLE_STAT_PENDING = 1 ∧
          rd t R.ROLE_STAT_SRC = r.src.toNat ∧ rd t R.ROLE_CNT = (rd s R.ROLE_CNT + 1) % 2 ^ 32 ∧ t.ses.asked = role.toNat ∧
          rd t R.ROLE_STAT_ENT_BAD = 0 ∧ t.free = s.free + 1 ∧
          ∀ k, k < 4 → rd t (R.ROLE_CHAL k) = bits (Config.entropy s.free).toNat (32 * k + 31) (32 * k)))) ∧
  (∀ (r : Req) (word7 : BitVec 32) (s : State), NMap.wf s.regs = true →
    let resp := ((List.range 7).flatMap fun k => leBytes 4 (wideWord (begin s) r.src.toNat (0x1060 + 4 * k) 0)) ++ leBytes 4 word7.toNat
    let s1 := dropWide (begin s) r.src.toNat 0x1060
    (rdb s R.ROLE_STAT_PENDING = true → rd s R.ROLE_STAT_SRC = r.src.toNat →
      ∃ t, exec (.roleResponse r word7) s = .next t ∧ rd t R.ROLE_STAT_PENDING = 0 ∧
        (resp = roleExpected s1 → rd t R.ROLE_STAT_OPEN = 1 ∧ rd t R.ROLE_STAT_ROLE = s.ses.asked ∧
          t.ses.fails = 0 ∧ t.ses.lockLen = 1) ∧
        (resp ≠ roleExpected s1 → t.ses.fails = s.ses.fails + 1 ∧
          (3 ≤ s.ses.fails → rd t R.ROLE_STAT_LOCKED = 1 ∧ rd t R.ROLE_LOCK_LEFT = s.ses.lockLen ∧
            t.ses.lockLen = min 1024 (2 * s.ses.lockLen)))) ∧
    (rdb s R.ROLE_STAT_PENDING = false ∨ rd s R.ROLE_STAT_SRC ≠ r.src.toNat → exec (.roleResponse r word7) s =
      .next (trsp (roleFail (count s1 C.ROLE_FAIL_CNT) r.src.toNat 0 0) r 0))) ∧
  (∀ (r : Req) (s : State),
    (rd s R.ROLE_STAT_SRC = r.src.toNat → exec (.roleClose r) s = .next (trsp (closeSession (begin s) r.src.toNat 0) r 0)) ∧
    (rd s R.ROLE_STAT_SRC ≠ r.src.toNat → exec (.roleClose r) s = .next (trsp (begin s) r 0))) ∧
  (∀ s : State, NMap.wf s.regs = true →
    (∃ t, exec .sessionIdle s = .next t ∧ rd t R.ROLE_STAT_OPEN = 0 ∧
      (rdb s R.ROLE_STAT_OPEN = true → rd t R.ROLE_STAT_ROLE = 0 ∧ rd t R.AUD_SEQ = (rd s R.AUD_SEQ + 1) % 2 ^ 32) ∧
      (rdb s R.ROLE_STAT_OPEN = false → t = begin s)) ∧
    (∃ t, exec .challengeLapse s = .next t ∧ rd t R.ROLE_STAT_PENDING = 0 ∧ t.cnt = s.cnt) ∧
    (∃ t, exec .lockoutExpiry s = .next t ∧ rd t R.ROLE_STAT_LOCKED = 0 ∧ rd t R.ROLE_LOCK_LEFT = 0 ∧ t.ses.fails = s.ses.fails)) ∧
  (∀ (r : Req) (slot : Fin 4) (word7 : BitVec 32) (s : State), s.chip.held = false →
    let addr := 0x8080 + 32 * slot.val
    let cur := rd s (R.TBL_IKEY slot)
    let new := ((List.range 7).map fun k => at' (wideWord (begin s) r.src.toNat (addr + 4 * k) (bits cur (32 * k + 31) (32 * k)))
      (32 * k)).sum + at' word7.toNat 224
    let s1 := dropWide (begin s) r.src.toNat addr
    let used := bankUses s1 0 slot [3, 4] || bankUses s1 1 slot [3, 4]
    let entry (t : State) (st : Nat) : State := audit t 1 addr r.src.toNat (auditRole t r.src.toNat) st cur new
    (rightsOf s1 r.src.toNat &&& 2 = 0 → new ≠ cur → exec (.tblIkeyCommit r slot word7) s =
      .next (answered r (refuseRights s1 8 addr r.src.toNat true cur new))) ∧
    (rightsOf s1 r.src.toNat &&& 2 ≠ 0 → isAbsent s1 = false ∨ used = true ∨ rd s1 R.GEN_STAT_STAGE < 4 →
      exec (.tblIkeyCommit r slot word7) s =
      .next (trsp (entry (pgError s1 8 29 0) ecDescriptor) r ecDescriptor)) ∧
    (rightsOf s1 r.src.toNat &&& 2 ≠ 0 → isAbsent s1 = true → used = false → 4 ≤ rd s1 R.GEN_STAT_STAGE →
      exec (.tblIkeyCommit r slot word7) s =
      .next (trsp (keyChanged (entry (wr s1 (R.TBL_IKEY slot) new) 0) slot) r 0))) ∧
  (∀ (code : BitVec 8) (s : State),
    (code.toNat = 1 → exec (.tapInstruction code) s = .next (setTap (begin s) 1 (idcode (begin s)))) ∧
    (code.toNat = 255 ∨ code.toNat ≠ 1 ∧ makerOpen s = false → exec (.tapInstruction code) s = .next (setTap (begin s) 0xFF 0)) ∧
    (code.toNat ≠ 1 → code.toNat ≠ 255 → makerOpen s = true → exec (.tapInstruction code) s =
      .next (audit (setTap { begin s with free := s.free + 1 } code.toNat (Config.tapData s.free).toNat) 7 0 selfSrc 2 0 0 code.toNat)))

/-- A register request acts by its OP, page and offset, and a digest expectation is judged at once when its entry is
valid. REGISTER_WRITE with window 3, an OP above 1, a SIZE other than 4 or 8 bytes, an address beyond the window or
unaligned is answered DESCRIPTOR (which port answers a reserved OP is the model's choice, notes/assumptions/79). OP
0 reads two words or one, or the window as latched; on a page that does not exist it is answered DESCRIPTOR, as is a
write. A write of a held page is answered OK and has no effect; counters are not written; a window write stages or
submits. A word of a wide register is staged or commits; the low half of a 64-bit register is staged by its source,
and the high half commits both; a register that acts, acts; a plain one is written field by field; 8 bytes write one
register of 64 bits, or two words, lower first, with the worse status. DIG_EXP_EPOCH stores the epoch and arms the
expectation with the value then in DIG_EXP_VALUE; with no valid entry of it the expectation waits, and with one it
is judged at once, DIG_EXP_EPOCH returns to 0, and a difference counts as a mismatch unless the entry is FAST or
TAINT (the two exceptions are the model's reading, notes/assumptions/71). (R38, R39, R40, R436, R499, R501, R506,
R509, R510, R511, R514) -/
def Obligations.RegisterWritesAct : Prop :=
  (∀ (r : Req) (win3 : Bool) (op : BitVec 4) (addr : BitVec 58) (size : BitVec 3) (data : BitVec 64) (s : State),
    let n := sizeBytes size.toNat
    let bad := win3 = true ∨ 1 < op.toNat ∨ (size.toNat ≠ 2 ∧ size.toNat ≠ 3) ∨ 2 ^ 18 ≤ addr.toNat ∨ addr.toNat % n ≠ 0
    let page := addr.toNat / 4096
    let off := addr.toNat % 4096
    let src := r.src.toNat
    let out := exec (.registerWrite r ⟨win3, op, addr⟩ size data) s
    (bad → out = .next (refuseReq (begin s) r op.toNat n ecDescriptor (List.replicate n 0))) ∧
    (¬ bad → op.toNat = 0 →
      (pageExists page = false → out = .next (trd (begin s) r ecDescriptor (List.replicate n 0))) ∧
      (pageExists page = true → off < 0xF00 → out = .next (trd (begin s) r 0 (leBytes 4 (readWord (begin s) src page off) ++
        (if size.toNat = 3 then leBytes 4 (readWord (begin s) src page (off + 4)) else [])))) ∧
      (pageExists page = true → 0xF00 ≤ off →
        let s1 := if off = 0xF00 then setLatch (begin s) src page (windowBytes (begin s) page) else begin s
        out = .next (trd s1 r 0 (slice ((latchOf s1 src page).getD (windowBytes s1 page)) (off - 0xF00) n)))) ∧
    (¬ bad → op.toNat = 1 →
      let held := s.chip.held = true ∧ (pageRow page).aon = false
      let word := bits data.toNat 31 0
      (pageExists page = false → out = .next (trsp (begin s) r ecDescriptor)) ∧
      (pageExists page = true → held → out = .next (trsp (begin s) r 0)) ∧
      (pageExists page = true → ¬ held → 0xF00 ≤ off → out = .next (answered r
        (windowWrite (begin s) r page off (if size.toNat = 3 then data.toNat else word) (size.toNat == 3)))) ∧
      (pageExists page = true → ¬ held → 0x100 ≤ off → off < 0xF00 → out = .next (trsp (noteReserved (begin s) page
        (decide ((pageRow page).counters ≤ ((if off < 0x800 then off else off - 0x700) - 0x100) / 8) &&
          (if size.toNat = 3 then data.toNat else word) != 0)) r 0)) ∧
      (pageExists page = true → ¬ held → off < 0x100 → size.toNat = 2 →
        let wideReg := (page = 1 ∧ 0x60 ≤ off ∧ off < 0x80) ∨ (page = 8 ∧ 0x80 ≤ off)
        (wideReg → out = .next (answered r (wideWrite (begin s) src page off word))) ∧
        (¬ wideReg → regWidth page off = 64 → out = .next (trsp (stageLow (begin s) src (4096 * page + off) word) r 0)) ∧
        (¬ wideReg → regWidth page off ≠ 64 → off % 8 = 4 → regWidth page (off - 4) = 64 →
          out = .next (answered r (commitHigh (begin s) src page (off - 4) word))) ∧
        (¬ wideReg → regWidth page off ≠ 64 → off % 8 ≠ 4 ∨ regWidth page (off - 4) ≠ 64 →
          let s1 := noteReserved (begin s) page (reservedBits page off word != 0)
          out = .next (answered r ((actRegister s1 src page off word).getD (writeFields s1 src page off word))))) ∧
      (pageExists page = true → ¬ held → off < 0x100 → size.toNat = 3 → regWidth page off = 64 →
        let s1 := noteReserved (begin s) page (reservedBits page off data.toNat != 0)
        out = .next (answered r ((actRegister s1 src page off data.toNat).getD (writeFields s1 src page off data.toNat)))) ∧
      (pageExists page = true → ¬ held → off < 0x100 → size.toNat = 3 → regWidth page off ≠ 64 →
        let x := writeWord (begin s) src page off word
        let y := writeWord x.1 src page (off + 4) (bits data.toNat 63 32)
        out = .next (answered r (y.1, max x.2 y.2))))) ∧
  (∀ (r : Req) (e : BitVec 48) (s : State), s.chip.held = true → exec (.digExpEpoch r e) s = .next (trsp (begin s) r 0)) ∧
  (∀ (r : Req) (e : BitVec 48) (s : State), s.chip.held = false → NMap.wf s.regs = true →
    let h := hist s e.toNat
    (e.toNat = 0 ∨ hiValid h = false ∨ hiEpoch h ≠ e.toNat → ∃ t, exec (.digExpEpoch r e) s = .next t ∧
      rd t R.DIG_EXP_EPOCH = bits e.toNat 47 0 ∧ t.tab = s.tab ∧ t.cnt = s.cnt) ∧
    (e.toNat ≠ 0 → hiValid h = true → hiEpoch h = e.toNat →
      let s1 := wr (begin s) R.DIG_EXP_EPOCH e.toNat
      let s2 := wr { s1 with cod := { s.cod with expect := rd s R.DIG_EXP_VALUE } } R.DIG_EXP_EPOCH 0
      exec (.digExpEpoch r e) s = .next (trsp (if hiFast h || hiTaint h || hiDigest h == rd s R.DIG_EXP_VALUE then s2
        else digMismatch s2 e.toNat 0x3FFF) r 0)))

/-- A step runs the command at the front of the queue on the state with the rest of the queue. For every command and
state, the step of the state with the command at the front of its queue is exec of that command on the state with
the rest of the queue. With an empty queue one AON_CLK edge passes, which is the model's choice
(notes/assumptions/1). (R443) -/
def Obligations.StepRunsTheFrontCommand : Prop :=
  (∀ (c : Instr) (rest : List Instr) (s : State),
    step { s with pending := c :: rest } = exec c { s with pending := rest }) ∧
  (∀ s : State, s.pending = [] → step s = .next (idleEdge s))

/-- The reset state meets the invariant and holds the reset values the field tables give. State.reset is in canonical
form with no counter above its range, no command waiting and nothing stored; the member is ABSENT, the block in
stage 0, every domain gated, every queue disabled and empty; the port weights and the health indicators hold their
defaults. That unlisted memory reads zero and that the table of waiting commands is empty are the model's choices
(notes/assumptions/2, 3). (R61, R308, R408, R515, R550, R556) -/
def Obligations.ResetStateMeetsTheInvariant : Prop :=
  State.reset.Inv ∧ State.reset.pending = [] ∧ State.reset.hbm = [] ∧ State.reset.board = [] ∧ State.reset.nvm = [] ∧
  State.reset.cnt = [] ∧ isAbsent State.reset = true ∧ rd State.reset R.GEN_STAT_STAGE = 0 ∧ rd State.reset R.PWR_DOM = 0 ∧
  (∀ d, d < 15 → domain State.reset d = Domain.off) ∧ (∀ q, q < 16 → qOf State.reset q = Queue.empty) ∧
  [rd State.reset R.LP_VCW_VC1, rd State.reset R.LP_VCW_VC2, rd State.reset R.LP_VCW_VC3, rd State.reset R.LP_VCW_VC4,
    rd State.reset R.LP_VCW_VC5, rd State.reset R.LP_VCW_VC6, rd State.reset R.LP_VCW_VC7] = [40, 24, 64, 64, 32, 32, 8] ∧
  (∀ x, x < 12 → bits (tget State.reset 0x17 0 x) 39 32 = [96, 32, 32, 48, 128, 128, 64, 32, 16, 64, 160, 160].getD x 0) ∧
  (∀ l, l < 32 → bits (tget State.reset 0x10 1 l) 69 64 = 4)

/-- From every state that meets the invariant, every step answers a next state that meets it, and consumes one command.
The invariant: the maps of registers, counters, shadows, table entries and tallies and the three memories are each
in their one canonical form (keys strictly rising, no entry at the value an unlisted one has), and no counter or
shadow exceeds 2^64 - 1. From every such state, whatever command is at the front and whatever its operands, the step
answers a next state (no command of the table faults or is refused) that meets the invariant and whose queue is the
rest of the queue. (R511) -/
def Obligations.EveryStepAnswersAndKeepsTheInvariant : Prop :=
  ∀ s : State, s.Inv → ∃ t, step s = .next t ∧ t.Inv ∧ t.pending = s.pending.tail

/-- No command but a reset lowers a live counter. For every command other than the block reset, the end of a per-slice
reset, the two PWR_GOOD edges, the AON reset and a register write (which may be the block reset), for every state
with counters in range and every counter, the counter after is at least the counter before and at most 2^64 - 1. So
a counter saturates and never wraps, and returns to zero only at a reset. (R511, R515) -/
def Obligations.CountersOnlyGrow : Prop :=
  ∀ (c : Instr) (s t : State), s.Inv → exec c s = .next t →
    (match c with
      | .blkRst _ | .sliceResetDone _ | .pwrGoodRise | .pwrGoodFall | .aonRstAssert | .registerWrite _ _ _ _ => False
      | _ => True) →
    ∀ k, get s.cnt k ≤ get t.cnt k ∧ get t.cnt k ≤ cntMax
end

