-- ==== Sys2Proof/Laws/Ops.lean ====
section
/-! SUPPORT. What the shared operations over sparse maps, memories, registers and counters can do: reads after writes, and the
canonical forms they keep, and what an answer of the host port changes. -/

namespace Sys2Proof.Machine

/-! ## Sparse maps -/

/-- A map is canonical with every key above a bound. -/
def NMap.above (b : Nat) : NMap → Prop
  | [] => True
  | (k, v) :: t => b ≤ k ∧ v ≠ 0 ∧ NMap.above (k + 1) t

theorem NMap.above_mono {b c : Nat} {m : NMap} (h : NMap.above b m) (hc : c ≤ b) : NMap.above c m := by
  cases m with
  | nil => trivial
  | cons e t => exact ⟨hc.trans h.1, h.2⟩

theorem NMap.above_of_wf : ∀ {m : NMap}, NMap.wf m = true → NMap.above 0 m := by
  have key : ∀ (t : NMap) (a v : Nat), NMap.wf ((a, v) :: t) = true → v ≠ 0 ∧ NMap.above (a + 1) t := by
    intro t
    induction t with
    | nil => intro a v h; exact ⟨by simpa [NMap.wf] using h, trivial⟩
    | cons e t ih =>
      intro a v h
      simp only [NMap.wf, Bool.and_eq_true, bne_iff_ne, decide_eq_true_eq] at h
      have := ih e.1 e.2 h.2
      exact ⟨h.1.1, h.1.2, this.1, this.2⟩
  intro m h
  cases m with
  | nil => trivial
  | cons e t => exact ⟨Nat.zero_le _, (key t e.1 e.2 h).1, (key t e.1 e.2 h).2⟩

theorem NMap.wf_of_above : ∀ {m : NMap} {b : Nat}, NMap.above b m → NMap.wf m = true := by
  intro m
  induction m with
  | nil => intros; rfl
  | cons e t ih =>
    intro b h
    cases t with
    | nil => simpa [NMap.wf] using h.2.1
    | cons e' t =>
      simp only [NMap.wf, Bool.and_eq_true, bne_iff_ne, decide_eq_true_eq]
      exact ⟨⟨h.2.1, h.2.2.1⟩, ih h.2.2⟩

theorem put_above {m : NMap} {b k v : Nat} (h : NMap.above b m) (hk : b ≤ k) : NMap.above b (put m k v) := by
  induction m generalizing b with
  | nil => by_cases hv : v = 0 <;> simp [put, hv, NMap.above, hk]
  | cons e t ih =>
    obtain ⟨a, w⟩ := e
    obtain ⟨ha, hw, ht⟩ := h
    by_cases hka : k < a
    · by_cases hv : v = 0
      · simp only [put, hka, hv, if_true]; exact ⟨ha, hw, ht⟩
      · simp only [put, hka, hv, if_true, if_false]; exact ⟨hk, hv, hka, hw, ht⟩
    · by_cases he : k = a
      · subst he
        by_cases hv : v = 0
        · simp only [put, hv, Nat.lt_irrefl, if_true, if_false]
          exact NMap.above_mono ht (by omega)
        · simp only [put, hv, Nat.lt_irrefl, if_true, if_false]; exact ⟨ha, hv, ht⟩
      · simp only [put, hka, he, if_false]; exact ⟨ha, hw, ih ht (by omega)⟩

/-- Writing a key keeps the canonical form. -/
theorem put_wf {m : NMap} (h : NMap.wf m = true) (k v : Nat) : NMap.wf (put m k v) = true :=
  NMap.wf_of_above (put_above (NMap.above_of_wf h) (Nat.zero_le k))

theorem get_above {m : NMap} {b k : Nat} (h : NMap.above b m) (hk : k < b) : get m k = 0 := by
  induction m generalizing b with
  | nil => rfl
  | cons e t ih =>
    have : e.1 ≠ k := by have := h.1; omega
    simp only [get, this, if_false]
    exact ih h.2.2 (by have := h.1; omega)

/-- Another key reads as before. -/
theorem get_put_ne (m : NMap) {k j : Nat} (v : Nat) (h : j ≠ k) : get (put m k v) j = get m j := by
  induction m with
  | nil => by_cases hv : v = 0 <;> simp [put, hv, get, h.symm]
  | cons e t ih =>
    obtain ⟨a, w⟩ := e
    by_cases hka : k < a
    · by_cases hv : v = 0 <;> simp [put, hka, hv, get, h.symm]
    · by_cases he : k = a
      · subst he; by_cases hv : v = 0 <;> simp [put, hv, get, h.symm]
      · simp only [put, hka, he, if_false, get, ih]

/-- A nonzero value is read back from the key it was written to. -/
theorem get_put_pos (m : NMap) (k : Nat) {v : Nat} (hv : v ≠ 0) : get (put m k v) k = v := by
  induction m with
  | nil => simp [put, hv, get]
  | cons e t ih =>
    obtain ⟨a, w⟩ := e
    by_cases hka : k < a
    · simp [put, hka, hv, get]
    · by_cases he : k = a
      · subst he; simp [put, hv, get]
      · simp only [put, hka, he, if_false, get, Ne.symm he, ih]

theorem get_put_above {m : NMap} {b : Nat} (h : NMap.above b m) (k v : Nat) : get (put m k v) k = v := by
  by_cases hv : v = 0
  · subst hv
    induction m generalizing b with
    | nil => simp [put, get]
    | cons e t ih =>
      obtain ⟨a, w⟩ := e
      by_cases hka : k < a
      · simp only [put, hka, if_true, get, show ¬ a = k by omega, if_false]; exact get_above h.2.2 (by omega)
      · by_cases he : k = a
        · subst he; simp only [put, Nat.lt_irrefl, if_true, if_false]; exact get_above h.2.2 (by omega)
        · simp only [put, hka, he, if_false, get, Ne.symm he]; exact ih h.2.2
  · exact get_put_pos m k hv

/-- In a canonical map the value is read back from the key it was written to. -/
theorem get_put_self {m : NMap} (h : NMap.wf m = true) (k v : Nat) : get (put m k v) k = v :=
  get_put_above (NMap.above_of_wf h) k v

/-! ## Stored bytes -/

/-- A memory is canonical with every address above a bound. -/
def Memory.above (b : Nat) : Mem → Prop
  | [] => True
  | (k, v) :: t => b ≤ k ∧ v ≠ 0 ∧ Memory.above (k + 1) t

theorem Memory.above_mono {b c : Nat} {m : Mem} (h : Memory.above b m) (hc : c ≤ b) : Memory.above c m := by
  cases m with
  | nil => trivial
  | cons e t => exact ⟨hc.trans h.1, h.2⟩

theorem Memory.above_of_wf : ∀ {m : Mem}, Memory.wf m = true → Memory.above 0 m := by
  have key : ∀ (t : Mem) (a : Nat) (v : Byte), Memory.wf ((a, v) :: t) = true → v ≠ 0 ∧ Memory.above (a + 1) t := by
    intro t
    induction t with
    | nil => intro a v h; exact ⟨by simpa [Memory.wf] using h, trivial⟩
    | cons e t ih =>
      intro a v h
      simp only [Memory.wf, Bool.and_eq_true, bne_iff_ne, decide_eq_true_eq] at h
      have := ih e.1 e.2 h.2
      exact ⟨h.1.1, h.1.2, this.1, this.2⟩
  intro m h
  cases m with
  | nil => trivial
  | cons e t => exact ⟨Nat.zero_le _, (key t e.1 e.2 h).1, (key t e.1 e.2 h).2⟩

theorem Memory.wf_of_above : ∀ {m : Mem} {b : Nat}, Memory.above b m → Memory.wf m = true := by
  intro m
  induction m with
  | nil => intros; rfl
  | cons e t ih =>
    intro b h
    cases t with
    | nil => simpa [Memory.wf] using h.2.1
    | cons e' t =>
      simp only [Memory.wf, Bool.and_eq_true, bne_iff_ne, decide_eq_true_eq]
      exact ⟨⟨h.2.1, h.2.2.1⟩, ih h.2.2⟩

theorem mput_above {m : Mem} {b k : Nat} {v : Byte} (h : Memory.above b m) (hk : b ≤ k) : Memory.above b (mput m k v) := by
  induction m generalizing b with
  | nil => by_cases hv : v = 0 <;> [simp [mput, hv, Memory.above]; simp [mput, show ¬ v = 0#8 from hv, Memory.above, hk]]
  | cons e t ih =>
    obtain ⟨a, w⟩ := e
    obtain ⟨ha, hw, ht⟩ := h
    by_cases hka : k < a
    · by_cases hv : v = 0
      · simp only [mput, hka, hv, if_true]; exact ⟨ha, hw, ht⟩
      · simp only [mput, hka, hv, if_true, if_false]; exact ⟨hk, hv, hka, hw, ht⟩
    · by_cases he : k = a
      · subst he
        by_cases hv : v = 0
        · simp only [mput, hv, Nat.lt_irrefl, if_true, if_false]
          exact Memory.above_mono ht (by omega)
        · simp only [mput, hv, Nat.lt_irrefl, if_true, if_false]; exact ⟨ha, hv, ht⟩
      · simp only [mput, hka, he, if_false]; exact ⟨ha, hw, ih ht (by omega)⟩

/-- Writing a byte keeps the canonical form. -/
theorem mput_wf {m : Mem} (h : Memory.wf m = true) (k : Nat) (v : Byte) : Memory.wf (mput m k v) = true :=
  Memory.wf_of_above (mput_above (Memory.above_of_wf h) (Nat.zero_le k))

/-- Writing bytes keeps the canonical form. -/
theorem mwrite_wf {m : Mem} (h : Memory.wf m = true) (a : Nat) (b : Bytes) : Memory.wf (mwrite m a b) = true := by
  induction b generalizing m a with
  | nil => exact h
  | cons x t ih => exact ih (mput_wf h a x) (a + 1)

theorem mget_above {m : Mem} {b k : Nat} (h : Memory.above b m) (hk : k < b) : mget m k = 0 := by
  induction m generalizing b with
  | nil => rfl
  | cons e t ih =>
    have : e.1 ≠ k := by have := h.1; omega
    simp only [mget, this, if_false]
    exact ih h.2.2 (by have := h.1; omega)

/-- Another address reads as before. -/
theorem mget_mput_ne (m : Mem) {k j : Nat} (v : Byte) (h : j ≠ k) : mget (mput m k v) j = mget m j := by
  induction m with
  | nil => by_cases hv : v = 0 <;> [simp [mput, hv, mget]; simp [mput, show ¬ v = 0#8 from hv, mget, h.symm]]
  | cons e t ih =>
    obtain ⟨a, w⟩ := e
    by_cases hka : k < a
    · by_cases hv : v = 0 <;> [simp [mput, hka, hv, mget]; simp [mput, hka, show ¬ v = 0#8 from hv, mget, h.symm]]
    · by_cases he : k = a
      · subst he; by_cases hv : v = 0 <;> [simp [mput, hv, mget, h.symm]; simp [mput, show ¬ v = 0#8 from hv, mget, h.symm]]
      · simp only [mput, hka, he, if_false, mget, ih]

theorem mget_mput_above {m : Mem} {b : Nat} (h : Memory.above b m) (k : Nat) (v : Byte) : mget (mput m k v) k = v := by
  induction m generalizing b with
  | nil => by_cases hv : v = 0 <;> [simp [mput, mget, hv]; simp [mput, mget, show ¬ v = 0#8 from hv]]
  | cons e t ih =>
    obtain ⟨a, w⟩ := e
    by_cases hka : k < a
    · by_cases hv : v = 0
      · simp only [mput, hka, hv, if_true, mget, show ¬ a = k by omega, if_false]; exact mget_above h.2.2 (by omega)
      · simp [mput, hka, show ¬ v = 0#8 from hv, mget]
    · by_cases he : k = a
      · subst he
        by_cases hv : v = 0
        · simp only [mput, Nat.lt_irrefl, hv, if_true, if_false]; exact mget_above h.2.2 (by omega)
        · simp [mput, show ¬ v = 0#8 from hv, mget]
      · simp only [mput, hka, he, if_false, mget, Ne.symm he]; exact ih h.2.2

/-- In a canonical memory a byte is read back from the address it was written to. -/
theorem mget_mput_self {m : Mem} (h : Memory.wf m = true) (k : Nat) (v : Byte) : mget (mput m k v) k = v :=
  mget_mput_above (Memory.above_of_wf h) k v

/-- An address outside the bytes written reads as before. -/
theorem mget_mwrite_out (m : Mem) {a j : Nat} (b : Bytes) (h : j < a ∨ a + b.length ≤ j) :
    mget (mwrite m a b) j = mget m j := by
  induction b generalizing m a with
  | nil => rfl
  | cons x t ih =>
    simp only [List.length_cons] at h
    have h1 := ih (mput m a x) (a := a + 1) (by omega)
    rw [mwrite, h1, mget_mput_ne _ _ (by omega)]

/-- Bytes written are read back. -/
theorem mread_mwrite {m : Mem} (h : Memory.wf m = true) (a : Nat) (b : Bytes) : mread (mwrite m a b) a b.length = b := by
  induction b generalizing m a with
  | nil => rfl
  | cons x t ih =>
    simp only [List.length_cons, mread, mwrite]
    rw [ih (mput_wf h a x), mget_mwrite_out _ _ (by omega), mget_mput_self h]

/-! ## Registers and counters -/

theorem rd_wr_ne (s : State) {k j : Nat} (v : Nat) (h : j ≠ k) : rd (wr s k v) j = rd s j := get_put_ne s.regs v h

theorem rd_wr_pos (s : State) (k : Nat) {v : Nat} (hv : v ≠ 0) : rd (wr s k v) k = v := get_put_pos s.regs k hv

theorem rd_wr_self {s : State} (h : NMap.wf s.regs = true) (k v : Nat) : rd (wr s k v) k = v := get_put_self h k v

theorem wr_regs_wf {s : State} (h : NMap.wf s.regs = true) (k v : Nat) : NMap.wf (wr s k v).regs = true := put_wf h k v

theorem tget_tput_ne (s : State) {p t x p' t' x' : Nat} (v : Nat) (h : tkey p' t' x' ≠ tkey p t x) :
    tget (tput s p t x v) p' t' x' = tget s p' t' x' := get_put_ne s.tab v h

theorem tget_tput_self {s : State} (h : NMap.wf s.tab = true) (p t x v : Nat) : tget (tput s p t x v) p t x = v :=
  get_put_self h _ v

/-- A counter that counts by n saturates (R511). -/
theorem countN_get_self {s : State} (hw : NMap.wf s.cnt = true) (k n : Nat) :
    get (countN s k n).cnt k = min cntMax (get s.cnt k + n) := get_put_self hw _ _

/-- No other counter moves. -/
theorem countN_get_ne (s : State) {k j : Nat} (n : Nat) (h : j ≠ k) : get (countN s k n).cnt j = get s.cnt j :=
  get_put_ne _ _ h

/-- No counter falls when one counts, and all stay in range. -/
theorem countN_grows {s : State} (hw : NMap.wf s.cnt = true) (hb : NMap.bounded s.cnt) (k n j : Nat) :
    get s.cnt j ≤ get (countN s k n).cnt j ∧ get (countN s k n).cnt j ≤ cntMax := by
  by_cases hj : j = k
  · subst hj
    have h : get (countN s j n).cnt j = min cntMax (get s.cnt j + n) := get_put_self hw _ _
    have := hb j
    rw [h]; omega
  · have h : get (countN s k n).cnt j = get s.cnt j := get_put_ne _ _ hj
    exact ⟨h.ge, h ▸ hb j⟩

/-! ## Answers of the host port: all they do is to the outputs -/

theorem returnBeats_eq (s : State) (n : Nat) : returnBeats s n = { s with out := s.out ++ [.hostCredit 1 n] } := rfl

theorem trsp_eq (s : State) (r : Req) (stat : Nat) :
    trsp s r stat = { s with out := s.out ++ [.hostCredit 1 1] ++ [.trsp r.tag.toNat stat] } := rfl

theorem trd_eq (s : State) (r : Req) (stat : Nat) (data : Bytes) :
    trd s r stat data = { s with out := s.out ++ [.hostCredit 1 0] ++ [.trd r.tag.toNat stat data] } := rfl

/-- A request refused as it arrives gives its credits back and is answered, on the port of its kind. -/
theorem refuseReq_eq (s : State) (r : Req) (op n stat : Nat) (data : Bytes) :
    refuseReq s r op n stat data = { s with out := s.out ++ [.hostCredit 1 (opBeats s op n)] ++
      [if op = 1 ∨ 5 < op then .trsp r.tag.toNat stat else .trd r.tag.toNat stat data] } := by
  unfold refuseReq
  split <;> rfl

/-- What the loss of the hive object's contents changes: bytes of the stacks, and the count of free values (R339). -/
theorem hiveLost_frame (s : State) :
    ∃ m n, hiveLost s = { s with hbm := m, free := n } := by
  unfold hiveLost
  split
  · exact ⟨s.hbm, s.free, rfl⟩
  · exact ⟨_, _, rfl⟩

end Sys2Proof.Machine
end

