-- ==== Sys2Proof/Laws/State.lean ====
section
/-! SUPPORT. The fields of the state after each of the small updates. -/

namespace Sys2Proof.Machine

/-! ## begin -/

@[simp] theorem begin_pending (s : State) : (begin s).pending = s.pending := rfl
@[simp] theorem begin_free (s : State) : (begin s).free = s.free := rfl
@[simp] theorem begin_regs (s : State) : (begin s).regs = s.regs := rfl
@[simp] theorem begin_cnt (s : State) : (begin s).cnt = s.cnt := rfl
@[simp] theorem begin_shadow (s : State) : (begin s).shadow = s.shadow := rfl
@[simp] theorem begin_tab (s : State) : (begin s).tab = s.tab := rfl
@[simp] theorem begin_acc (s : State) : (begin s).acc = s.acc := rfl
@[simp] theorem begin_ses (s : State) : (begin s).ses = s.ses := rfl
@[simp] theorem begin_ev (s : State) : (begin s).ev = s.ev := rfl
@[simp] theorem begin_queues (s : State) : (begin s).queues = s.queues := rfl
@[simp] theorem begin_seq (s : State) : (begin s).seq = s.seq := rfl
@[simp] theorem begin_tallyVal (s : State) : (begin s).tallyVal = s.tallyVal := rfl
@[simp] theorem begin_tallyCode (s : State) : (begin s).tallyCode = s.tallyCode := rfl
@[simp] theorem begin_host (s : State) : (begin s).host = s.host := rfl
@[simp] theorem begin_lp (s : State) : (begin s).lp = s.lp := rfl
@[simp] theorem begin_hbm (s : State) : (begin s).hbm = s.hbm := rfl
@[simp] theorem begin_board (s : State) : (begin s).board = s.board := rfl
@[simp] theorem begin_nvm (s : State) : (begin s).nvm = s.nvm := rfl
@[simp] theorem begin_mrp (s : State) : (begin s).mrp = s.mrp := rfl
@[simp] theorem begin_tier (s : State) : (begin s).tier = s.tier := rfl
@[simp] theorem begin_dirHeld (s : State) : (begin s).dirHeld = s.dirHeld := rfl
@[simp] theorem begin_streams (s : State) : (begin s).streams = s.streams := rfl
@[simp] theorem begin_pool (s : State) : (begin s).pool = s.pool := rfl
@[simp] theorem begin_sch (s : State) : (begin s).sch = s.sch := rfl
@[simp] theorem begin_intk (s : State) : (begin s).intk = s.intk := rfl
@[simp] theorem begin_rp (s : State) : (begin s).rp = s.rp := rfl
@[simp] theorem begin_cod (s : State) : (begin s).cod = s.cod := rfl
@[simp] theorem begin_comb (s : State) : (begin s).comb = s.comb := rfl
@[simp] theorem begin_spine (s : State) : (begin s).spine = s.spine := rfl
@[simp] theorem begin_shd (s : State) : (begin s).shd = s.shd := rfl
@[simp] theorem begin_rbd (s : State) : (begin s).rbd = s.rbd := rfl
@[simp] theorem begin_hive (s : State) : (begin s).hive = s.hive := rfl
@[simp] theorem begin_fences (s : State) : (begin s).fences = s.fences := rfl
@[simp] theorem begin_col (s : State) : (begin s).col = s.col := rfl
@[simp] theorem begin_spr (s : State) : (begin s).spr = s.spr := rfl
@[simp] theorem begin_hl (s : State) : (begin s).hl = s.hl := rfl
@[simp] theorem begin_chip (s : State) : (begin s).chip = s.chip := rfl

/-! ## wr -/

@[simp] theorem wr_pending (s : State) (k v : Nat) : (wr s k v).pending = s.pending := rfl
@[simp] theorem wr_out (s : State) (k v : Nat) : (wr s k v).out = s.out := rfl
@[simp] theorem wr_free (s : State) (k v : Nat) : (wr s k v).free = s.free := rfl
@[simp] theorem wr_cnt (s : State) (k v : Nat) : (wr s k v).cnt = s.cnt := rfl
@[simp] theorem wr_shadow (s : State) (k v : Nat) : (wr s k v).shadow = s.shadow := rfl
@[simp] theorem wr_tab (s : State) (k v : Nat) : (wr s k v).tab = s.tab := rfl
@[simp] theorem wr_acc (s : State) (k v : Nat) : (wr s k v).acc = s.acc := rfl
@[simp] theorem wr_ses (s : State) (k v : Nat) : (wr s k v).ses = s.ses := rfl
@[simp] theorem wr_ev (s : State) (k v : Nat) : (wr s k v).ev = s.ev := rfl
@[simp] theorem wr_queues (s : State) (k v : Nat) : (wr s k v).queues = s.queues := rfl
@[simp] theorem wr_seq (s : State) (k v : Nat) : (wr s k v).seq = s.seq := rfl
@[simp] theorem wr_tallyVal (s : State) (k v : Nat) : (wr s k v).tallyVal = s.tallyVal := rfl
@[simp] theorem wr_tallyCode (s : State) (k v : Nat) : (wr s k v).tallyCode = s.tallyCode := rfl
@[simp] theorem wr_host (s : State) (k v : Nat) : (wr s k v).host = s.host := rfl
@[simp] theorem wr_lp (s : State) (k v : Nat) : (wr s k v).lp = s.lp := rfl
@[simp] theorem wr_hbm (s : State) (k v : Nat) : (wr s k v).hbm = s.hbm := rfl
@[simp] theorem wr_board (s : State) (k v : Nat) : (wr s k v).board = s.board := rfl
@[simp] theorem wr_nvm (s : State) (k v : Nat) : (wr s k v).nvm = s.nvm := rfl
@[simp] theorem wr_mrp (s : State) (k v : Nat) : (wr s k v).mrp = s.mrp := rfl
@[simp] theorem wr_tier (s : State) (k v : Nat) : (wr s k v).tier = s.tier := rfl
@[simp] theorem wr_dirHeld (s : State) (k v : Nat) : (wr s k v).dirHeld = s.dirHeld := rfl
@[simp] theorem wr_streams (s : State) (k v : Nat) : (wr s k v).streams = s.streams := rfl
@[simp] theorem wr_pool (s : State) (k v : Nat) : (wr s k v).pool = s.pool := rfl
@[simp] theorem wr_sch (s : State) (k v : Nat) : (wr s k v).sch = s.sch := rfl
@[simp] theorem wr_intk (s : State) (k v : Nat) : (wr s k v).intk = s.intk := rfl
@[simp] theorem wr_rp (s : State) (k v : Nat) : (wr s k v).rp = s.rp := rfl
@[simp] theorem wr_cod (s : State) (k v : Nat) : (wr s k v).cod = s.cod := rfl
@[simp] theorem wr_comb (s : State) (k v : Nat) : (wr s k v).comb = s.comb := rfl
@[simp] theorem wr_spine (s : State) (k v : Nat) : (wr s k v).spine = s.spine := rfl
@[simp] theorem wr_shd (s : State) (k v : Nat) : (wr s k v).shd = s.shd := rfl
@[simp] theorem wr_rbd (s : State) (k v : Nat) : (wr s k v).rbd = s.rbd := rfl
@[simp] theorem wr_hive (s : State) (k v : Nat) : (wr s k v).hive = s.hive := rfl
@[simp] theorem wr_fences (s : State) (k v : Nat) : (wr s k v).fences = s.fences := rfl
@[simp] theorem wr_col (s : State) (k v : Nat) : (wr s k v).col = s.col := rfl
@[simp] theorem wr_spr (s : State) (k v : Nat) : (wr s k v).spr = s.spr := rfl
@[simp] theorem wr_hl (s : State) (k v : Nat) : (wr s k v).hl = s.hl := rfl
@[simp] theorem wr_chip (s : State) (k v : Nat) : (wr s k v).chip = s.chip := rfl

/-! ## tput -/

@[simp] theorem tput_pending (s : State) (p t x v : Nat) : (tput s p t x v).pending = s.pending := rfl
@[simp] theorem tput_out (s : State) (p t x v : Nat) : (tput s p t x v).out = s.out := rfl
@[simp] theorem tput_free (s : State) (p t x v : Nat) : (tput s p t x v).free = s.free := rfl
@[simp] theorem tput_regs (s : State) (p t x v : Nat) : (tput s p t x v).regs = s.regs := rfl
@[simp] theorem tput_cnt (s : State) (p t x v : Nat) : (tput s p t x v).cnt = s.cnt := rfl
@[simp] theorem tput_shadow (s : State) (p t x v : Nat) : (tput s p t x v).shadow = s.shadow := rfl
@[simp] theorem tput_acc (s : State) (p t x v : Nat) : (tput s p t x v).acc = s.acc := rfl
@[simp] theorem tput_ses (s : State) (p t x v : Nat) : (tput s p t x v).ses = s.ses := rfl
@[simp] theorem tput_ev (s : State) (p t x v : Nat) : (tput s p t x v).ev = s.ev := rfl
@[simp] theorem tput_queues (s : State) (p t x v : Nat) : (tput s p t x v).queues = s.queues := rfl
@[simp] theorem tput_seq (s : State) (p t x v : Nat) : (tput s p t x v).seq = s.seq := rfl
@[simp] theorem tput_tallyVal (s : State) (p t x v : Nat) : (tput s p t x v).tallyVal = s.tallyVal := rfl
@[simp] theorem tput_tallyCode (s : State) (p t x v : Nat) : (tput s p t x v).tallyCode = s.tallyCode := rfl
@[simp] theorem tput_host (s : State) (p t x v : Nat) : (tput s p t x v).host = s.host := rfl
@[simp] theorem tput_lp (s : State) (p t x v : Nat) : (tput s p t x v).lp = s.lp := rfl
@[simp] theorem tput_hbm (s : State) (p t x v : Nat) : (tput s p t x v).hbm = s.hbm := rfl
@[simp] theorem tput_board (s : State) (p t x v : Nat) : (tput s p t x v).board = s.board := rfl
@[simp] theorem tput_nvm (s : State) (p t x v : Nat) : (tput s p t x v).nvm = s.nvm := rfl
@[simp] theorem tput_mrp (s : State) (p t x v : Nat) : (tput s p t x v).mrp = s.mrp := rfl
@[simp] theorem tput_tier (s : State) (p t x v : Nat) : (tput s p t x v).tier = s.tier := rfl
@[simp] theorem tput_dirHeld (s : State) (p t x v : Nat) : (tput s p t x v).dirHeld = s.dirHeld := rfl
@[simp] theorem tput_streams (s : State) (p t x v : Nat) : (tput s p t x v).streams = s.streams := rfl
@[simp] theorem tput_pool (s : State) (p t x v : Nat) : (tput s p t x v).pool = s.pool := rfl
@[simp] theorem tput_sch (s : State) (p t x v : Nat) : (tput s p t x v).sch = s.sch := rfl
@[simp] theorem tput_intk (s : State) (p t x v : Nat) : (tput s p t x v).intk = s.intk := rfl
@[simp] theorem tput_rp (s : State) (p t x v : Nat) : (tput s p t x v).rp = s.rp := rfl
@[simp] theorem tput_cod (s : State) (p t x v : Nat) : (tput s p t x v).cod = s.cod := rfl
@[simp] theorem tput_comb (s : State) (p t x v : Nat) : (tput s p t x v).comb = s.comb := rfl
@[simp] theorem tput_spine (s : State) (p t x v : Nat) : (tput s p t x v).spine = s.spine := rfl
@[simp] theorem tput_shd (s : State) (p t x v : Nat) : (tput s p t x v).shd = s.shd := rfl
@[simp] theorem tput_rbd (s : State) (p t x v : Nat) : (tput s p t x v).rbd = s.rbd := rfl
@[simp] theorem tput_hive (s : State) (p t x v : Nat) : (tput s p t x v).hive = s.hive := rfl
@[simp] theorem tput_fences (s : State) (p t x v : Nat) : (tput s p t x v).fences = s.fences := rfl
@[simp] theorem tput_col (s : State) (p t x v : Nat) : (tput s p t x v).col = s.col := rfl
@[simp] theorem tput_spr (s : State) (p t x v : Nat) : (tput s p t x v).spr = s.spr := rfl
@[simp] theorem tput_hl (s : State) (p t x v : Nat) : (tput s p t x v).hl = s.hl := rfl
@[simp] theorem tput_chip (s : State) (p t x v : Nat) : (tput s p t x v).chip = s.chip := rfl

/-! ## countN -/

@[simp] theorem countN_pending (s : State) (k n : Nat) : (countN s k n).pending = s.pending := rfl
@[simp] theorem countN_out (s : State) (k n : Nat) : (countN s k n).out = s.out := rfl
@[simp] theorem countN_free (s : State) (k n : Nat) : (countN s k n).free = s.free := rfl
@[simp] theorem countN_regs (s : State) (k n : Nat) : (countN s k n).regs = s.regs := rfl
@[simp] theorem countN_shadow (s : State) (k n : Nat) : (countN s k n).shadow = s.shadow := rfl
@[simp] theorem countN_tab (s : State) (k n : Nat) : (countN s k n).tab = s.tab := rfl
@[simp] theorem countN_acc (s : State) (k n : Nat) : (countN s k n).acc = s.acc := rfl
@[simp] theorem countN_ses (s : State) (k n : Nat) : (countN s k n).ses = s.ses := rfl
@[simp] theorem countN_ev (s : State) (k n : Nat) : (countN s k n).ev = s.ev := rfl
@[simp] theorem countN_queues (s : State) (k n : Nat) : (countN s k n).queues = s.queues := rfl
@[simp] theorem countN_seq (s : State) (k n : Nat) : (countN s k n).seq = s.seq := rfl
@[simp] theorem countN_tallyVal (s : State) (k n : Nat) : (countN s k n).tallyVal = s.tallyVal := rfl
@[simp] theorem countN_tallyCode (s : State) (k n : Nat) : (countN s k n).tallyCode = s.tallyCode := rfl
@[simp] theorem countN_host (s : State) (k n : Nat) : (countN s k n).host = s.host := rfl
@[simp] theorem countN_lp (s : State) (k n : Nat) : (countN s k n).lp = s.lp := rfl
@[simp] theorem countN_hbm (s : State) (k n : Nat) : (countN s k n).hbm = s.hbm := rfl
@[simp] theorem countN_board (s : State) (k n : Nat) : (countN s k n).board = s.board := rfl
@[simp] theorem countN_nvm (s : State) (k n : Nat) : (countN s k n).nvm = s.nvm := rfl
@[simp] theorem countN_mrp (s : State) (k n : Nat) : (countN s k n).mrp = s.mrp := rfl
@[simp] theorem countN_tier (s : State) (k n : Nat) : (countN s k n).tier = s.tier := rfl
@[simp] theorem countN_dirHeld (s : State) (k n : Nat) : (countN s k n).dirHeld = s.dirHeld := rfl
@[simp] theorem countN_streams (s : State) (k n : Nat) : (countN s k n).streams = s.streams := rfl
@[simp] theorem countN_pool (s : State) (k n : Nat) : (countN s k n).pool = s.pool := rfl
@[simp] theorem countN_sch (s : State) (k n : Nat) : (countN s k n).sch = s.sch := rfl
@[simp] theorem countN_intk (s : State) (k n : Nat) : (countN s k n).intk = s.intk := rfl
@[simp] theorem countN_rp (s : State) (k n : Nat) : (countN s k n).rp = s.rp := rfl
@[simp] theorem countN_cod (s : State) (k n : Nat) : (countN s k n).cod = s.cod := rfl
@[simp] theorem countN_comb (s : State) (k n : Nat) : (countN s k n).comb = s.comb := rfl
@[simp] theorem countN_spine (s : State) (k n : Nat) : (countN s k n).spine = s.spine := rfl
@[simp] theorem countN_shd (s : State) (k n : Nat) : (countN s k n).shd = s.shd := rfl
@[simp] theorem countN_rbd (s : State) (k n : Nat) : (countN s k n).rbd = s.rbd := rfl
@[simp] theorem countN_hive (s : State) (k n : Nat) : (countN s k n).hive = s.hive := rfl
@[simp] theorem countN_fences (s : State) (k n : Nat) : (countN s k n).fences = s.fences := rfl
@[simp] theorem countN_col (s : State) (k n : Nat) : (countN s k n).col = s.col := rfl
@[simp] theorem countN_spr (s : State) (k n : Nat) : (countN s k n).spr = s.spr := rfl
@[simp] theorem countN_hl (s : State) (k n : Nat) : (countN s k n).hl = s.hl := rfl
@[simp] theorem countN_chip (s : State) (k n : Nat) : (countN s k n).chip = s.chip := rfl

/-! ## count -/

@[simp] theorem count_pending (s : State) (k : Nat) : (count s k).pending = s.pending := rfl
@[simp] theorem count_out (s : State) (k : Nat) : (count s k).out = s.out := rfl
@[simp] theorem count_free (s : State) (k : Nat) : (count s k).free = s.free := rfl
@[simp] theorem count_regs (s : State) (k : Nat) : (count s k).regs = s.regs := rfl
@[simp] theorem count_shadow (s : State) (k : Nat) : (count s k).shadow = s.shadow := rfl
@[simp] theorem count_tab (s : State) (k : Nat) : (count s k).tab = s.tab := rfl
@[simp] theorem count_acc (s : State) (k : Nat) : (count s k).acc = s.acc := rfl
@[simp] theorem count_ses (s : State) (k : Nat) : (count s k).ses = s.ses := rfl
@[simp] theorem count_ev (s : State) (k : Nat) : (count s k).ev = s.ev := rfl
@[simp] theorem count_queues (s : State) (k : Nat) : (count s k).queues = s.queues := rfl
@[simp] theorem count_seq (s : State) (k : Nat) : (count s k).seq = s.seq := rfl
@[simp] theorem count_tallyVal (s : State) (k : Nat) : (count s k).tallyVal = s.tallyVal := rfl
@[simp] theorem count_tallyCode (s : State) (k : Nat) : (count s k).tallyCode = s.tallyCode := rfl
@[simp] theorem count_host (s : State) (k : Nat) : (count s k).host = s.host := rfl
@[simp] theorem count_lp (s : State) (k : Nat) : (count s k).lp = s.lp := rfl
@[simp] theorem count_hbm (s : State) (k : Nat) : (count s k).hbm = s.hbm := rfl
@[simp] theorem count_board (s : State) (k : Nat) : (count s k).board = s.board := rfl
@[simp] theorem count_nvm (s : State) (k : Nat) : (count s k).nvm = s.nvm := rfl
@[simp] theorem count_mrp (s : State) (k : Nat) : (count s k).mrp = s.mrp := rfl
@[simp] theorem count_tier (s : State) (k : Nat) : (count s k).tier = s.tier := rfl
@[simp] theorem count_dirHeld (s : State) (k : Nat) : (count s k).dirHeld = s.dirHeld := rfl
@[simp] theorem count_streams (s : State) (k : Nat) : (count s k).streams = s.streams := rfl
@[simp] theorem count_pool (s : State) (k : Nat) : (count s k).pool = s.pool := rfl
@[simp] theorem count_sch (s : State) (k : Nat) : (count s k).sch = s.sch := rfl
@[simp] theorem count_intk (s : State) (k : Nat) : (count s k).intk = s.intk := rfl
@[simp] theorem count_rp (s : State) (k : Nat) : (count s k).rp = s.rp := rfl
@[simp] theorem count_cod (s : State) (k : Nat) : (count s k).cod = s.cod := rfl
@[simp] theorem count_comb (s : State) (k : Nat) : (count s k).comb = s.comb := rfl
@[simp] theorem count_spine (s : State) (k : Nat) : (count s k).spine = s.spine := rfl
@[simp] theorem count_shd (s : State) (k : Nat) : (count s k).shd = s.shd := rfl
@[simp] theorem count_rbd (s : State) (k : Nat) : (count s k).rbd = s.rbd := rfl
@[simp] theorem count_hive (s : State) (k : Nat) : (count s k).hive = s.hive := rfl
@[simp] theorem count_fences (s : State) (k : Nat) : (count s k).fences = s.fences := rfl
@[simp] theorem count_col (s : State) (k : Nat) : (count s k).col = s.col := rfl
@[simp] theorem count_spr (s : State) (k : Nat) : (count s k).spr = s.spr := rfl
@[simp] theorem count_hl (s : State) (k : Nat) : (count s k).hl = s.hl := rfl
@[simp] theorem count_chip (s : State) (k : Nat) : (count s k).chip = s.chip := rfl

/-! ## emit -/

@[simp] theorem emit_pending (s : State) (o : Out) : (emit s o).pending = s.pending := rfl
@[simp] theorem emit_free (s : State) (o : Out) : (emit s o).free = s.free := rfl
@[simp] theorem emit_regs (s : State) (o : Out) : (emit s o).regs = s.regs := rfl
@[simp] theorem emit_cnt (s : State) (o : Out) : (emit s o).cnt = s.cnt := rfl
@[simp] theorem emit_shadow (s : State) (o : Out) : (emit s o).shadow = s.shadow := rfl
@[simp] theorem emit_tab (s : State) (o : Out) : (emit s o).tab = s.tab := rfl
@[simp] theorem emit_acc (s : State) (o : Out) : (emit s o).acc = s.acc := rfl
@[simp] theorem emit_ses (s : State) (o : Out) : (emit s o).ses = s.ses := rfl
@[simp] theorem emit_ev (s : State) (o : Out) : (emit s o).ev = s.ev := rfl
@[simp] theorem emit_queues (s : State) (o : Out) : (emit s o).queues = s.queues := rfl
@[simp] theorem emit_seq (s : State) (o : Out) : (emit s o).seq = s.seq := rfl
@[simp] theorem emit_tallyVal (s : State) (o : Out) : (emit s o).tallyVal = s.tallyVal := rfl
@[simp] theorem emit_tallyCode (s : State) (o : Out) : (emit s o).tallyCode = s.tallyCode := rfl
@[simp] theorem emit_host (s : State) (o : Out) : (emit s o).host = s.host := rfl
@[simp] theorem emit_lp (s : State) (o : Out) : (emit s o).lp = s.lp := rfl
@[simp] theorem emit_hbm (s : State) (o : Out) : (emit s o).hbm = s.hbm := rfl
@[simp] theorem emit_board (s : State) (o : Out) : (emit s o).board = s.board := rfl
@[simp] theorem emit_nvm (s : State) (o : Out) : (emit s o).nvm = s.nvm := rfl
@[simp] theorem emit_mrp (s : State) (o : Out) : (emit s o).mrp = s.mrp := rfl
@[simp] theorem emit_tier (s : State) (o : Out) : (emit s o).tier = s.tier := rfl
@[simp] theorem emit_dirHeld (s : State) (o : Out) : (emit s o).dirHeld = s.dirHeld := rfl
@[simp] theorem emit_streams (s : State) (o : Out) : (emit s o).streams = s.streams := rfl
@[simp] theorem emit_pool (s : State) (o : Out) : (emit s o).pool = s.pool := rfl
@[simp] theorem emit_sch (s : State) (o : Out) : (emit s o).sch = s.sch := rfl
@[simp] theorem emit_intk (s : State) (o : Out) : (emit s o).intk = s.intk := rfl
@[simp] theorem emit_rp (s : State) (o : Out) : (emit s o).rp = s.rp := rfl
@[simp] theorem emit_cod (s : State) (o : Out) : (emit s o).cod = s.cod := rfl
@[simp] theorem emit_comb (s : State) (o : Out) : (emit s o).comb = s.comb := rfl
@[simp] theorem emit_spine (s : State) (o : Out) : (emit s o).spine = s.spine := rfl
@[simp] theorem emit_shd (s : State) (o : Out) : (emit s o).shd = s.shd := rfl
@[simp] theorem emit_rbd (s : State) (o : Out) : (emit s o).rbd = s.rbd := rfl
@[simp] theorem emit_hive (s : State) (o : Out) : (emit s o).hive = s.hive := rfl
@[simp] theorem emit_fences (s : State) (o : Out) : (emit s o).fences = s.fences := rfl
@[simp] theorem emit_col (s : State) (o : Out) : (emit s o).col = s.col := rfl
@[simp] theorem emit_spr (s : State) (o : Out) : (emit s o).spr = s.spr := rfl
@[simp] theorem emit_hl (s : State) (o : Out) : (emit s o).hl = s.hl := rfl
@[simp] theorem emit_chip (s : State) (o : Out) : (emit s o).chip = s.chip := rfl

/-! ## setSes -/

@[simp] theorem setSes_pending (s : State) (x : Session) : (setSes s x).pending = s.pending := rfl
@[simp] theorem setSes_out (s : State) (x : Session) : (setSes s x).out = s.out := rfl
@[simp] theorem setSes_free (s : State) (x : Session) : (setSes s x).free = s.free := rfl
@[simp] theorem setSes_regs (s : State) (x : Session) : (setSes s x).regs = s.regs := rfl
@[simp] theorem setSes_cnt (s : State) (x : Session) : (setSes s x).cnt = s.cnt := rfl
@[simp] theorem setSes_shadow (s : State) (x : Session) : (setSes s x).shadow = s.shadow := rfl
@[simp] theorem setSes_tab (s : State) (x : Session) : (setSes s x).tab = s.tab := rfl
@[simp] theorem setSes_acc (s : State) (x : Session) : (setSes s x).acc = s.acc := rfl
@[simp] theorem setSes_ev (s : State) (x : Session) : (setSes s x).ev = s.ev := rfl
@[simp] theorem setSes_queues (s : State) (x : Session) : (setSes s x).queues = s.queues := rfl
@[simp] theorem setSes_seq (s : State) (x : Session) : (setSes s x).seq = s.seq := rfl
@[simp] theorem setSes_tallyVal (s : State) (x : Session) : (setSes s x).tallyVal = s.tallyVal := rfl
@[simp] theorem setSes_tallyCode (s : State) (x : Session) : (setSes s x).tallyCode = s.tallyCode := rfl
@[simp] theorem setSes_host (s : State) (x : Session) : (setSes s x).host = s.host := rfl
@[simp] theorem setSes_lp (s : State) (x : Session) : (setSes s x).lp = s.lp := rfl
@[simp] theorem setSes_hbm (s : State) (x : Session) : (setSes s x).hbm = s.hbm := rfl
@[simp] theorem setSes_board (s : State) (x : Session) : (setSes s x).board = s.board := rfl
@[simp] theorem setSes_nvm (s : State) (x : Session) : (setSes s x).nvm = s.nvm := rfl
@[simp] theorem setSes_mrp (s : State) (x : Session) : (setSes s x).mrp = s.mrp := rfl
@[simp] theorem setSes_tier (s : State) (x : Session) : (setSes s x).tier = s.tier := rfl
@[simp] theorem setSes_dirHeld (s : State) (x : Session) : (setSes s x).dirHeld = s.dirHeld := rfl
@[simp] theorem setSes_streams (s : State) (x : Session) : (setSes s x).streams = s.streams := rfl
@[simp] theorem setSes_pool (s : State) (x : Session) : (setSes s x).pool = s.pool := rfl
@[simp] theorem setSes_sch (s : State) (x : Session) : (setSes s x).sch = s.sch := rfl
@[simp] theorem setSes_intk (s : State) (x : Session) : (setSes s x).intk = s.intk := rfl
@[simp] theorem setSes_rp (s : State) (x : Session) : (setSes s x).rp = s.rp := rfl
@[simp] theorem setSes_cod (s : State) (x : Session) : (setSes s x).cod = s.cod := rfl
@[simp] theorem setSes_comb (s : State) (x : Session) : (setSes s x).comb = s.comb := rfl
@[simp] theorem setSes_spine (s : State) (x : Session) : (setSes s x).spine = s.spine := rfl
@[simp] theorem setSes_shd (s : State) (x : Session) : (setSes s x).shd = s.shd := rfl
@[simp] theorem setSes_rbd (s : State) (x : Session) : (setSes s x).rbd = s.rbd := rfl
@[simp] theorem setSes_hive (s : State) (x : Session) : (setSes s x).hive = s.hive := rfl
@[simp] theorem setSes_fences (s : State) (x : Session) : (setSes s x).fences = s.fences := rfl
@[simp] theorem setSes_col (s : State) (x : Session) : (setSes s x).col = s.col := rfl
@[simp] theorem setSes_spr (s : State) (x : Session) : (setSes s x).spr = s.spr := rfl
@[simp] theorem setSes_hl (s : State) (x : Session) : (setSes s x).hl = s.hl := rfl
@[simp] theorem setSes_chip (s : State) (x : Session) : (setSes s x).chip = s.chip := rfl

/-! ## setChip -/

@[simp] theorem setChip_pending (s : State) (x : Chip) : (setChip s x).pending = s.pending := rfl
@[simp] theorem setChip_out (s : State) (x : Chip) : (setChip s x).out = s.out := rfl
@[simp] theorem setChip_free (s : State) (x : Chip) : (setChip s x).free = s.free := rfl
@[simp] theorem setChip_regs (s : State) (x : Chip) : (setChip s x).regs = s.regs := rfl
@[simp] theorem setChip_cnt (s : State) (x : Chip) : (setChip s x).cnt = s.cnt := rfl
@[simp] theorem setChip_shadow (s : State) (x : Chip) : (setChip s x).shadow = s.shadow := rfl
@[simp] theorem setChip_tab (s : State) (x : Chip) : (setChip s x).tab = s.tab := rfl
@[simp] theorem setChip_acc (s : State) (x : Chip) : (setChip s x).acc = s.acc := rfl
@[simp] theorem setChip_ses (s : State) (x : Chip) : (setChip s x).ses = s.ses := rfl
@[simp] theorem setChip_ev (s : State) (x : Chip) : (setChip s x).ev = s.ev := rfl
@[simp] theorem setChip_queues (s : State) (x : Chip) : (setChip s x).queues = s.queues := rfl
@[simp] theorem setChip_seq (s : State) (x : Chip) : (setChip s x).seq = s.seq := rfl
@[simp] theorem setChip_tallyVal (s : State) (x : Chip) : (setChip s x).tallyVal = s.tallyVal := rfl
@[simp] theorem setChip_tallyCode (s : State) (x : Chip) : (setChip s x).tallyCode = s.tallyCode := rfl
@[simp] theorem setChip_host (s : State) (x : Chip) : (setChip s x).host = s.host := rfl
@[simp] theorem setChip_lp (s : State) (x : Chip) : (setChip s x).lp = s.lp := rfl
@[simp] theorem setChip_hbm (s : State) (x : Chip) : (setChip s x).hbm = s.hbm := rfl
@[simp] theorem setChip_board (s : State) (x : Chip) : (setChip s x).board = s.board := rfl
@[simp] theorem setChip_nvm (s : State) (x : Chip) : (setChip s x).nvm = s.nvm := rfl
@[simp] theorem setChip_mrp (s : State) (x : Chip) : (setChip s x).mrp = s.mrp := rfl
@[simp] theorem setChip_tier (s : State) (x : Chip) : (setChip s x).tier = s.tier := rfl
@[simp] theorem setChip_dirHeld (s : State) (x : Chip) : (setChip s x).dirHeld = s.dirHeld := rfl
@[simp] theorem setChip_streams (s : State) (x : Chip) : (setChip s x).streams = s.streams := rfl
@[simp] theorem setChip_pool (s : State) (x : Chip) : (setChip s x).pool = s.pool := rfl
@[simp] theorem setChip_sch (s : State) (x : Chip) : (setChip s x).sch = s.sch := rfl
@[simp] theorem setChip_intk (s : State) (x : Chip) : (setChip s x).intk = s.intk := rfl
@[simp] theorem setChip_rp (s : State) (x : Chip) : (setChip s x).rp = s.rp := rfl
@[simp] theorem setChip_cod (s : State) (x : Chip) : (setChip s x).cod = s.cod := rfl
@[simp] theorem setChip_comb (s : State) (x : Chip) : (setChip s x).comb = s.comb := rfl
@[simp] theorem setChip_spine (s : State) (x : Chip) : (setChip s x).spine = s.spine := rfl
@[simp] theorem setChip_shd (s : State) (x : Chip) : (setChip s x).shd = s.shd := rfl
@[simp] theorem setChip_rbd (s : State) (x : Chip) : (setChip s x).rbd = s.rbd := rfl
@[simp] theorem setChip_hive (s : State) (x : Chip) : (setChip s x).hive = s.hive := rfl
@[simp] theorem setChip_fences (s : State) (x : Chip) : (setChip s x).fences = s.fences := rfl
@[simp] theorem setChip_col (s : State) (x : Chip) : (setChip s x).col = s.col := rfl
@[simp] theorem setChip_spr (s : State) (x : Chip) : (setChip s x).spr = s.spr := rfl
@[simp] theorem setChip_hl (s : State) (x : Chip) : (setChip s x).hl = s.hl := rfl

@[simp] theorem begin_out (s : State) : (begin s).out = [] := rfl
@[simp] theorem emit_out (s : State) (o : Out) : (emit s o).out = s.out ++ [o] := rfl
@[simp] theorem setSes_ses (s : State) (x : Session) : (setSes s x).ses = x := rfl
@[simp] theorem setChip_chip (s : State) (x : Chip) : (setChip s x).chip = x := rfl
@[simp] theorem rd_begin (s : State) (k : Nat) : rd (begin s) k = rd s k := rfl
@[simp] theorem rd_emit (s : State) (o : Out) (k : Nat) : rd (emit s o) k = rd s k := rfl
@[simp] theorem rd_tput (s : State) (p t x v k : Nat) : rd (tput s p t x v) k = rd s k := rfl
@[simp] theorem rd_countN (s : State) (k n j : Nat) : rd (countN s k n) j = rd s j := rfl
@[simp] theorem rd_count (s : State) (k j : Nat) : rd (count s k) j = rd s j := rfl
@[simp] theorem tget_wr (s : State) (k v p t x : Nat) : tget (wr s k v) p t x = tget s p t x := rfl
@[simp] theorem tget_countN (s : State) (k n p t x : Nat) : tget (countN s k n) p t x = tget s p t x := rfl

end Sys2Proof.Machine
end

