-- ==== Sys2Proof/WellFormed.lean ====
section
/-! DEFINITION. The well-formed commands: operands of free length have a length the port they come by allows. -/

namespace Sys2Proof

/-- The data of an initiator read: one of the request sizes, 32 to 256 bytes (R44). -/
def readOk (data : Bytes) : Bool := [32, 64, 128, 256].contains data.length

/-- The data of a hive window request: at most 64 bytes (R38). -/
def laneOk (data : Bytes) : Bool := decide (data.length ≤ 64)

/-- A flit is 256 bytes (R288). -/
def flitOk (b : Bytes) : Bool := b.length == 256

/-- Hive records of one flit: 1 to 232 bytes of payload (R288, R328). -/
def packOk (body : Bytes) : Bool := body != [] && decide (body.length ≤ 232)

/-- A message has at least one byte (R289). -/
def messageOk (body : Bytes) : Bool := body != []

/-- The data of a 4-byte register write has 32 bits (R499). -/
def wordOk (wide : Bool) (data : BitVec 64) : Bool := wide || decide (data.toNat < 2 ^ 32)

/-- The well-formed commands. -/
def Instr.wf (i : Instr) : Bool :=
  match i with
  | .queueFetchData _ _ data | .initiatorReadData _ _ data => readOk data
  | .queEntrySubmit _ data wide | .directorySubmit _ data wide | .peerEntryWrite _ data wide |
    .groupSubmit _ data wide | .remapEntrySubmit _ data wide => wordOk wide data
  | .registerWrite _ _ size data => wordOk (size != 2) data
  | .hiveHostRequest _ _ _ _ data _ => laneOk data
  | .hiveRequestArrival _ _ _ body | .hiveResponseRecord _ body => packOk body
  | .flitReceive _ b _ => flitOk b
  | .e2eAckReceive _ body | .startMsg _ _ _ body | .startAck _ body | .goMsg _ _ body | .lostMsg _ body |
    .rbDone _ body | .rbAnn body | .rsReport _ body | .rsDecide body | .rbReq _ body | .rbStale body | .rebuilt body |
    .waggle _ body | .faultReport _ body | .capReport _ body | .capAnnounce _ body | .descMsg body | .openMsg body |
    .abortMsg body | .reduceScatterChunk _ body | .gatherChunk _ body | .broadcastChunk _ body |
    .parityScatterChunk _ body | .rebuildChunk _ body | .deltaSegment _ body | .scaleSegment _ body |
    .drainAck _ body | .sealImageCell _ body | .sealReadRequest _ body | .sealReadData _ body |
    .sealReadRefusal _ body | .shadowCopyCell _ body | .shadowCopyEnd _ body => messageOk body
  | .nop .. | .stepRun .. | .stepLoad .. | .stepUcode .. | .collReduceScatter .. | .collAllGather .. |
    .collBroadcast .. | .collParityScatter .. | .collRebuildChain .. | .move .. | .imageFill .. | .imageDrop .. |
    .imageFlush .. | .imageStream .. | .imageStop .. | .cap .. | .seal .. | .rebuild .. | .restore .. | .rollback .. |
    .join .. | .leaveDrain .. | .leaveImmediate .. | .fence .. | .snapNow .. | .snapAtTime .. | .replay .. |
    .root .. | .drawRaw .. | .drawUniform .. | .tallyAdd .. | .tallySet .. | .tallyClearErr .. | .queueFetch |
    .commandStart .. | .commandRetire .. | .eventPost | .eventRecordAck .. | .irqHoldoffExpiry |
    .initiatorWriteResponse .. | .queDb .. | .queAbort .. | .evtConsWrite .. | .roleReq .. | .roleResponse .. |
    .roleClose .. | .blkRst .. | .ltest .. | .cfgDone .. | .genDisReq .. | .cmbDeclare .. | .timeOffset .. |
    .snpStrobe .. | .tblIkeyCommit .. | .digExpEpoch .. | .hiveCfgEn .. | .kx2cDb .. | .kx2cFlush .. | .pgErrInj .. |
    .codedWindowRead .. | .raeIssue | .hiveRead .. | .hiveWrite .. | .hiveAdd .. | .hiveMin .. | .hiveMax .. |
    .hiveSwap .. | .cellRead | .hiveProgressTimeout .. | .hivePackTimeout .. | .hotLineIdle .. | .nakReceive .. |
    .creditReturn .. | .creditReturnTimer .. | .initReceive .. | .linkUp .. | .linkInitTimeout .. |
    .linkRetryTimeout .. | .laneFail .. | .moduleLinkError .. | .moduleNotReadyTimeout .. | .retrainDone .. |
    .linkDown .. | .monitorPoll .. | .monitorResponse .. | .monitorReadTimeout .. | .e2eAckTimer .. |
    .e2eResendTimeout .. | .fenceTimeout .. | .joinSubtreeTimeout | .lostDeclare .. | .leftMsg .. | .declareSelf .. |
    .teardownRelease | .rollbackReportTimeout | .restoreReportTimeout | .rebuildRequestIssue | .mseqFloor |
    .waggleSend | .waggleSilence .. | .capReportReady .. | .capTimeout .. | .spineRecordWrite | .colTimeout .. |
    .drainSend .. | .drainAckTimer .. | .drainResendTimeout .. | .v2DrainAck .. | .uReserveTake | .stepRowEnter .. |
    .mapRow .. | .reduceLine .. | .reduceAll .. | .logReservation .. | .stat .. | .apply .. | .accDense .. |
    .accList .. | .intakeDrain .. | .commit .. | .mrpReadData .. | .mrpWriteResponse .. | .mrpReady .. |
    .mrpPortTimeout .. | .sliceResetDone .. | .tierReadData .. | .tierWriteCompletion .. | .tierTimeout .. |
    .tierLoadRecovery .. | .streamVisitFill .. | .foragerVisit .. | .cellRepair .. | .parityRepair .. |
    .remapFill .. | .migrationSlot | .sramEccError .. | .healthUpdate | .levelDwellExpiry | .sensorSubframe |
    .sensorConversion .. | .sensorCalibration .. | .droopTrip .. | .droopHoldEnd | .limiterUpdate | .domainWake .. |
    .rampStep .. | .domainIdleGate .. | .rampDownStep .. | .rootFillExpiry .. | .pllLock .. | .pllWarmHoldExpiry .. |
    .pllLockLoss .. | .pllRetry .. | .aonClkLoss | .aonClkRestore | .aonRstAssert | .aonRstDeassert |
    .configSample .. | .fuseLoad .. | .pwrGoodFall | .pwrGoodRise | .selftestDone .. | .xspiDiscovery .. |
    .thermInEvent .. | .brdAlertEvent .. | .snapInEdge .. | .pinOverrateClear .. | .pinStuck .. | .pinStuckClear .. |
    .timedStrobe | .tapInstruction .. | .challengeLapse | .lockoutExpiry | .sessionIdle | .capWaitTimeout .. |
    .aonParityError | .portCreditReturn .. | .isolationRelease .. | .xspiResetRelease => true

end Sys2Proof
end

