-- ==== Sys2Proof/Tests/Slice0.lean ====
section
/-! SUPPORT. Small tests: ill-formed commands are refused by the checks, the manual's worked examples come out as it gives them, and
each statement's hypotheses are met: wit_<Name> lists, clause by clause, the hypotheses of Obligations.<Name> at a concrete state and
operands. -/

set_option Elab.async false

namespace Sys2Proof.Tests

open Sys2Proof.Machine

/-! ## Well-formedness -/

theorem test_wf_read_short : (Instr.queueFetchData 0 0 [1, 2]).wf = false := by decide
theorem test_wf_read_ok : (Instr.queueFetchData 0 0 (List.replicate 64 0)).wf = true := by decide
theorem test_wf_lane_long : (Instr.hiveHostRequest ⟨0, 0⟩ 0 0 0 (List.replicate 65 0) 0).wf = false := by decide
theorem test_wf_pack_empty : (Instr.hiveResponseRecord 0 []).wf = false := by decide
set_option maxRecDepth 4000 in
theorem test_wf_pack_long : (Instr.hiveResponseRecord 0 (List.replicate 233 0)).wf = false := by decide
theorem test_wf_flit_short : (Instr.flitReceive 0 [] 0).wf = false := by decide
theorem test_wf_message_empty : (Instr.rbAnn []).wf = false := by decide
theorem test_wf_word_wide : (Instr.registerWrite ⟨0, 0⟩ ⟨false, 1, 0⟩ 2 (2 ^ 32)).wf = false := by decide
theorem test_wf_word_ok : (Instr.registerWrite ⟨0, 0⟩ ⟨false, 1, 0⟩ 2 5).wf = true := by decide

set_option maxRecDepth 100000

/-! ## The manual's worked examples -/

/-- R86, worked example: case 1 rounds up with this word. -/
theorem test_stochastic_up :
    (stochRound { neg := false, m := 2 ^ 25 + 3, e := -25 } 0x6A3F19C4).v = 0x3F800001 := by decide +kernel
/-- R86, worked example: case 2 keeps big. -/
theorem test_stochastic_keep :
    (stochRound { neg := false, m := 2 ^ 47 + 2 ^ 23 + 1, e := -47 } 0x6A3F19C4).v = 0x3F800000 := by decide +kernel
/-- R92, worked example: the canonical tree, and the fold in arrival order. -/
theorem test_pinned_order :
    treeSum [some 0x4B800000, some 0x3F800000, some 0x3F800000, some 0x3F800000] = some 0x4B800001 ∧
      [some 0x3F800000, some 0x3F800000, some 0x3F800000].foldl node (some 0x4B800000) = some 0x4B800000 := by decide +kernel
/-- R254: the coefficients of the (12, 2) comb. -/
theorem test_coefficients :
    (List.range 10).map (coef 2 0) = [0x8E, 0xF4, 0x47, 0xA7, 0x7A, 0xBA, 0xAD, 0x9D, 0xDD, 0x98] ∧
      (List.range 10).map (coef 2 1) = [0xF4, 0x8E, 0xA7, 0x47, 0xBA, 0x7A, 0x9D, 0xAD, 0x98, 0xDD] := by decide +kernel
/-- The worked example of R256: data cell 2 of rank 3 in a (6, 2) comb lies in stripe 4 at position 3. -/
theorem test_stripe :
    dataStripe 6 2 false 3 2 = 4 ∧ dataPos 6 2 false 3 4 = 3 ∧ parHolders 6 2 false 4 = [4, 5] := by decide +kernel
/-- The worked example of R253: parity 0 and 1 of the bytes of one stripe. -/
theorem test_parity :
    ([0x1D, 0x4C, 0xB4, 0x6A].zipIdx.foldl (fun p x => p ^^^ gfMul (coef 2 0 x.2) x.1) 0) = 0x8B ∧
      ([0x1D, 0x4C, 0xB4, 0x6A].zipIdx.foldl (fun p x => p ^^^ gfMul (coef 2 1 x.2) x.1) 0) = 0x9D := by decide +kernel
/-- The directory entry of the worked example "placing one master" (R101, R107). -/
def masterE : Nat := 0x900041A3 + at' 0x2000 32 + at' 0x34007000 64 + at' 0x12000 96 + at' 0x05000007 128 + at' 0x41A4 160
/-- Its fields, its cells, and the place of element (1000, 5000). -/
theorem test_placing :
    oValid masterE = true ∧ oClass masterE = clsUnique ∧ oRows masterE = 8192 ∧ oCols masterE = 28672 ∧ oSeed masterE = 7 ∧
      objCells masterE = 14336 ∧ elemPlace masterE 1000 5000 = (1607, 53280) := by decide +kernel
/-- The worked example of R327: an offset of the exported space over twelve stacks. -/
theorem test_hive_place :
    hivePlace (wr (tput State.reset 0xA 0 5 (5 + at' 1 31 + at' 0xFFF 224)) R.HIVE_OBJ 5) 0x100005A40 = (65533, 5 * 4096 + 0xA40) := by
  decide +kernel
/-- The worked example of R408: indicators and score of a WATCH level. -/
theorem test_score :
    indVal State.reset 0 38 = 121 ∧ indVal State.reset 3 3200 = 81 ∧ indVal State.reset 4 1 = 63 ∧ indVal State.reset 6 5 = 159 ∧
      score State.reset [(0, 121), (3, 81), (4, 63), (6, 159)] = 132 := by decide +kernel
/-- The worked example "encoding a STEP" (R136, R138): opcode, epoch and start row of the words it gives. -/
theorem test_step_words :
    let raw := 0x0000123400111501 + at' 0x0200000100000ABC 64 + at' 0x0006000281000000 128 + at' 0x100000000000002B 256
    opcodeOf raw = 1 ∧ subopOf raw = 0 ∧ opd raw 47 0 = 0x100000ABC ∧ opd raw 61 48 = 0x200 := by decide +kernel
/-- The worked example "a stray write" (R502, R505): access 1 sets RSVD_WR of the QUE page and is answered OK, its port credits going back (R37). -/
theorem test_stray_write :
    (match exec (.registerWrite ⟨0x107, 3⟩ ⟨false, 1, 0x6018⟩ 2 1) State.reset with
      | .next t => (bit (rd t (pgErrRaw 6)) 31, t.out)
      | _ => (false, [])) = (true, [.hostCredit 1 1, .trsp 3 0]) := by decide +kernel
/-- Access 2: page 0x1E is reserved, and the read is answered DESCRIPTOR with zero data (R501). -/
theorem test_reserved_page :
    (match exec (.registerWrite ⟨0x107, 3⟩ ⟨false, 0, 0x1E000⟩ 2 0) State.reset with
      | .next t => t.out
      | _ => []) = [.hostCredit 1 0, .trd 3 0x11 [0, 0, 0, 0]] := by decide +kernel
/-- The worked example "opening queue 2" (R133, R527): the doorbell of an open queue with three commands. -/
theorem test_open_queue :
    (match exec (.queEntrySubmit ⟨7, 3⟩ 0 false) { wr (wr State.reset R.EVT_SIZE 7) (selKey 6) 0x10000002 with
        acc := { State.reset.acc with win := [(7, 6, 1, 0x80), (7, 6, 2, 0x000A1100)] } } with
      | .next t => ((qOf t 2).base, (qOf t 2).size, (qOf t 2).tenant, (qOf t 2).en, t.out)
      | _ => (0, 0, 0, false, [])) = (0x8000000000, 10, 1, true, [.hostCredit 1 1, .trsp 3 0]) := by decide +kernel

/-! ## States that meet the hypotheses -/

/-- A command image: opcode, SUBOP, operands. -/
def cmd (op sub o : Nat) : Nat := op + sub * 2 ^ 24 + o * 2 ^ 64
/-- A command at index 3 of its queue. -/
def runOf (raw : Nat) (p : Phase) : Run := { Run.none with raw := raw, idx := 3, phase := p }
/-- Queue 0 holds one command. -/
def withRun (r : Run) (s : State) : State := setQ s 0 { qOf s 0 with cmds := [r] }
/-- A directory entry: class, format, rows, columns, home, stacks, tier. -/
def objE (cls fmt rows cols home stk tier : Nat) : Nat :=
  at' stk 224 + at' home 96 + at' cols 64 + at' tier 57 + at' rows 32 + at' 1 31 + at' cls 28 + at' fmt 24
/-- Object 5 with an entry. -/
def withObj (e : Nat) (s : State) : State := tput s 0xA 0 5 (e + 5)
/-- A member entry: peer, rank, comb, role, state. -/
def memE (peer rank comb role st : Nat) : Nat := at' peer 100 + at' rank 96 + at' comb 80 + at' role 78 + at' st 72
/-- A peer entry: protocol, hive device, fabric id, links. -/
def peerE (proto hive fid links : Nat) : Nat := at' 1 109 + at' proto 107 + at' hive 100 + at' fid 32 + links
/-- A link that runs. -/
def upLink : LinkSt := { LinkSt.down with phase := 2 }
/-- Slice 0 present with a stack of 1 GiB. -/
def hbmS : State := wr (wr (wr State.reset R.GEN_STRAP_SLICE_EN 1) (R.SLC_STAT_READY 0) 1) (R.SLC_CAP 0) 1
/-- An ACTIVE member at position 0 of a comb of three ranks with one parity rank, at capped epoch 6 of job 9. -/
def jobS : State :=
  let s := { State.reset with comb := { State.reset.comb with listN := 3 }, lp := { State.reset.lp with
    links := [upLink, upLink] ++ State.reset.lp.links.drop 2 } }
  let s := tput (tput (tput s 0x0E 0 0 (memE 0 0 0 0 2)) 0x0E 0 1 (memE 1 1 0 0 2)) 0x0E 0 2 (memE 2 2 0 0 2)
  let s := tput (tput (tput s 0x10 0 0 (peerE 3 64 16 0)) 0x10 0 1 (peerE 3 65 17 1)) 0x10 0 2 (peerE 3 66 18 2)
  let s := wr (wr (wr s R.LP_FID 16) R.CMB_JOB_JOB_TAG 9) R.CMB_RANK_STATE 2
  wr (wr (wr (wr (wr s R.GEN_STAT_STAGE 5) R.CMB_GEOM_N 3) R.CMB_GEOM_M 1) R.CMB_GEOM_S 6) R.CMB_CAPPED 6
/-- Queue 0 enabled. -/
def enQ (s : State) : State := setQ s 0 { qOf s 0 with en := true }

namespace W01

def nopR : Run := runOf (cmd 0 0 0) .started
def addR : Run := runOf (cmd 0x11 0 (5 + 7 * 2 ^ 64)) .started
def setR : Run := runOf (cmd 0x11 1 (5 + 7 * 2 ^ 64)) .started
def clrR : Run := runOf (cmd 0x11 2 5) .started
def drawR (n : Nat) : Run := { runOf (cmd 0x10 0 (5 + n * 2 ^ 82 + 9 * 2 ^ 98)) .started with aux := [1, 77] }
def seedS (n : Nat) : State := withObj (objE clsScale fmtByte 1 32 0 1 0) (withRun (drawR n) State.reset)
def ringQ (n : Nat) : State := setQ State.reset 2 { qOf State.reset 2 with base := 1, size := 6, en := true, db := n }
def fetch4 : HostRead := { tag := 4, addr := 4096, size := 256, off := 0, queue := 18, idx := 0, issued := true }
def fetchedS : State := setQ { State.reset with host := { State.reset.host with reads :=
  [{ tag := 4, addr := 4096, size := 256, off := 0, queue := 18, idx := 0, issued := true }] } } 2
  { qOf State.reset 2 with base := 1, size := 6, en := true, db := 1, fetching := some (0, 1) }
def ustR (raw : Nat) : Run := runOf raw .unstarted
def failS : State := { withRun (ustR (2 ^ 12)) State.reset with tallyCode := [(0, 0x11)] }
def waitCmd : Nat := 2 ^ 12 + 1 * 2 ^ (64 * 4 + 8)
def doneR (posted : Nat) : Run := { runOf (2 ^ 8 + 2 ^ 10 + 4 * 2 ^ 16) .done with posted := posted }
def evR : EvRec := { kind := 1, status := 0, cancelled := false, irq := true, flags := 0, queue := 0, cmdId := 8, merged := 0,
                     source := 0, info0 := 0, info1 := 0, time := 5, compl := some (0, 3) }
def evS : State := { wr State.reset R.EVT_SIZE 7 with ev := { State.reset.ev with buf := [evR] } }
def evS2 (g2 : Nat) : State := { wr (wr (withRun (doneR 1) State.reset) R.EVT_SIZE 7) R.GEN_STRAP_HFP_W128 g2 with
  ev := { State.reset.ev with writing := some (evR, 0) },
  host := { State.reset.host with writes := [{ tag := 1, addr := 0, data := [], be := 0, queue := 16, idx := 0, issued := true }] } }
def stepR : Run := runOf (cmd 1 0 (1 + 1 * 2 ^ 112)) .started
def replR (n : Nat) : Run := runOf (cmd 0xE 0 (1 + n * 2 ^ 112)) .started
def ldR (sub : Nat) : Run := runOf (cmd 1 sub 9) .started
def replS (n : Nat) : State := setThread (withRun (replR n) State.reset) 0 { Thread.idle with busy := true, queue := 0, idx := 3 }
/-- Thread 0 at row 0 of a table of one row; entered or not. -/
def rowS (row : Nat) (entered : Bool) : State :=
  setThread (setBank State.reset 0 { Store.empty with state := 4, rows := [row] }) 0
    { Thread.idle with busy := true, bound := true, entered := entered, binds := [⟨5, 0, 1⟩] }
/-- A row over the one element of object 5, twice or once, where no range is marked. -/
def mapRow (n : Nat) : Nat := 2 * 2 ^ 100 + 2 ^ 24 + 2 ^ 16 + 2 ^ 14 + n * 2 ^ 104 + 16 * 2 ^ 76
def mapS (n : Nat) : State := withObj (objE clsScratch fmtS32 1 1 0 1 0)
  (setThread (setBank State.reset 0 { Store.empty with state := 4, rows := [mapRow n], chains := [2 ^ 255] }) 0
    { Thread.idle with busy := true, bound := true, entered := true, binds := [⟨5, 0, 1⟩] })

/-- A row of the intake that its operands do not fit; a row whose slice is disabled. -/
def unitS (uop : Nat) : State := withObj (objE clsScratch fmtS32 1 1 0 1 0)
  (setThread (setBank State.reset 0 { Store.empty with state := 4, rows := [3 * 2 ^ 24 + uop * 2 ^ 16 + 2 ^ 14 + 2 ^ 104], chains := [2 ^ 255] }) 0
    { Thread.idle with busy := true, bound := true, entered := true, binds := [⟨5, 0, 1⟩] })
def intS : State := unitS 2
def commS : State := unitS 4

theorem wit_NopAndTallyTakeEffect :
    (activeRun (withRun nopR State.reset) 0 0 0 = some nopR) ∧
    (activeRun (withRun addR State.reset) 0 17 0 = some addR) ∧
    (activeRun (withRun setR State.reset) 0 17 1 = some setR) ∧
    (activeRun (withRun clrR State.reset) 0 17 2 = some clrR) := by and_intros <;> decide +kernel
theorem wit_DrawWritesItsWords :
    (activeRun (seedS 0) 0 16 (b2n false) = some (drawR 0) ∧
        (drawR 0).phase = Phase.started ∧
          (opd (drawR 0).raw 97 82 = 0 ∨ (seedObjs (seedS 0)).contains (opd (drawR 0).raw 18 0) = false)) ∧
    (activeRun (seedS 3) 0 16 (b2n false) = some (drawR 3) ∧
        (drawR 3).phase = Phase.started ∧
          opd (drawR 3).raw 97 82 ≠ 0 ∧ (seedObjs (seedS 3)).contains (opd (drawR 3).raw 18 0) = true) := by and_intros <;> decide +kernel
theorem wit_QueueFetchTakesCommands :
    (List.find? (fun k => canFetch (qOf (ringQ 3) (((ringQ 3).seq.rr + k) % 16))) (List.range 16) = some 2 ∧
        2 = ((ringQ 3).seq.rr + 2) % 16) ∧
    (List.find? (fun r => r.issued && r.tag == 4 && decide (16 ≤ r.queue)) fetchedS.host.reads = some fetch4 ∧
        fetch4.queue = 16 + 2 ∧
          (qOf fetchedS 2).fetching = some (0, 1) ∧
            (qOf fetchedS 2).abortTo = none ∧
              ∀ (i : Nat), i < 1 → opcodeOf (leAt (List.replicate 256 0) (64 * ((0 + i) % 4)) 64) ≠ 5) := by and_intros <;> decide +kernel
theorem wit_CommandStartJudges :
    (oldestUnstarted (qOf failS 0) = some (ustR (2 ^ 12)) ∧ (qOf failS 0).en = false) ∧
    (oldestUnstarted (qOf (enQ failS) 0) = some (ustR (2 ^ 12)) ∧
        (qOf (enQ failS) 0).en = true ∧ judge (enQ failS) 0 (ustR (2 ^ 12)) = Verdict.cancel 17) ∧
    (oldestUnstarted (qOf (enQ (withRun (ustR 255) State.reset)) 0) = some (ustR 255) ∧
        (qOf (enQ (withRun (ustR 255) State.reset)) 0).en = true ∧
          judge (enQ (withRun (ustR 255) State.reset)) 0 (ustR 255) = Verdict.fail ecDescriptor) ∧
    (oldestUnstarted (qOf (enQ (withRun (ustR (cmd 0 0 0)) State.reset)) 0) = some (ustR (cmd 0 0 0)) ∧
        (qOf (enQ (withRun (ustR (cmd 0 0 0)) State.reset)) 0).en = true ∧
          judge (enQ (withRun (ustR (cmd 0 0 0)) State.reset)) 0 (ustR (cmd 0 0 0)) = Verdict.start ∧
            (namedEpoch (ustR (cmd 0 0 0)).raw = none ∨ opcodeOf (ustR (cmd 0 0 0)).raw = 6) ∧
              ([0, 2, 6, 7, 8, 10, 11, 12, 13, 17].contains (opcodeOf (ustR (cmd 0 0 0)).raw) = true ∨
                opcodeOf (ustR (cmd 0 0 0)).raw = 4 ∧ subopOf (ustR (cmd 0 0 0)).raw ≠ 3)) ∧
    (oldestUnstarted (qOf (enQ (withRun (ustR (cmd 1 1 0)) State.reset)) 0) = some (ustR (cmd 1 1 0)) ∧
        (qOf (enQ (withRun (ustR (cmd 1 1 0)) State.reset)) 0).en = true ∧
          judge (enQ (withRun (ustR (cmd 1 1 0)) State.reset)) 0 (ustR (cmd 1 1 0)) = Verdict.start ∧
            (namedEpoch (ustR (cmd 1 1 0)).raw = none ∨ opcodeOf (ustR (cmd 1 1 0)).raw = 6) ∧
              opcodeOf (ustR (cmd 1 1 0)).raw = 1) ∧
    (oldestUnstarted (qOf (enQ (withRun (ustR (cmd 14 0 0)) State.reset)) 0) = some (ustR (cmd 14 0 0)) ∧
        (qOf (enQ (withRun (ustR (cmd 14 0 0)) State.reset)) 0).en = true ∧
          judge (enQ (withRun (ustR (cmd 14 0 0)) State.reset)) 0 (ustR (cmd 14 0 0)) = Verdict.start ∧
            (namedEpoch (ustR (cmd 14 0 0)).raw = none ∨ opcodeOf (ustR (cmd 14 0 0)).raw = 6) ∧
              opcodeOf (ustR (cmd 14 0 0)).raw = 14) ∧
    (oldestUnstarted (qOf (enQ (withRun (ustR (cmd 9 0 (6 + 2 ^ 48))) jobS)) 0) = some (ustR (cmd 9 0 (6 + 2 ^ 48))) ∧
        (qOf (enQ (withRun (ustR (cmd 9 0 (6 + 2 ^ 48))) jobS)) 0).en = true ∧
          judge (enQ (withRun (ustR (cmd 9 0 (6 + 2 ^ 48))) jobS)) 0 (ustR (cmd 9 0 (6 + 2 ^ 48))) = Verdict.start ∧
            (namedEpoch (ustR (cmd 9 0 (6 + 2 ^ 48))).raw = none ∨ opcodeOf (ustR (cmd 9 0 (6 + 2 ^ 48))).raw = 6) ∧
              opcodeOf (ustR (cmd 9 0 (6 + 2 ^ 48))).raw = 9) ∧
    (oldestUnstarted (qOf (enQ (withRun (ustR (cmd 16 0 0)) State.reset)) 0) = some (ustR (cmd 16 0 0)) ∧
        (qOf (enQ (withRun (ustR (cmd 16 0 0)) State.reset)) 0).en = true ∧
          judge (enQ (withRun (ustR (cmd 16 0 0)) State.reset)) 0 (ustR (cmd 16 0 0)) = Verdict.start ∧
            (namedEpoch (ustR (cmd 16 0 0)).raw = none ∨ opcodeOf (ustR (cmd 16 0 0)).raw = 6) ∧
              opcodeOf (ustR (cmd 16 0 0)).raw = 16) ∧
    (oldestUnstarted (qOf (enQ (withRun (ustR (cmd 2 1 7)) jobS)) 0) = some (ustR (cmd 2 1 7)) ∧
        (qOf (enQ (withRun (ustR (cmd 2 1 7)) jobS)) 0).en = true ∧
          judge (enQ (withRun (ustR (cmd 2 1 7)) jobS)) 0 (ustR (cmd 2 1 7)) = Verdict.start ∧
            namedEpoch (ustR (cmd 2 1 7)).raw = some 7 ∧
              capped (enQ (withRun (ustR (cmd 2 1 7)) jobS)) < 7 ∧
                opcodeOf (ustR (cmd 2 1 7)).raw ≠ 6 ∧ opcodeOf (ustR (cmd 2 1 7)).raw = 2) ∧
    (oldestUnstarted (qOf (enQ (withRun (ustR (cmd 5 0 7)) jobS)) 0) = some (ustR (cmd 5 0 7)) ∧
        (qOf (enQ (withRun (ustR (cmd 5 0 7)) jobS)) 0).en = true ∧
          judge (enQ (withRun (ustR (cmd 5 0 7)) jobS)) 0 (ustR (cmd 5 0 7)) = Verdict.start ∧
            namedEpoch (ustR (cmd 5 0 7)).raw = some 7 ∧
              capped (enQ (withRun (ustR (cmd 5 0 7)) jobS)) < 7 ∧
                opcodeOf (ustR (cmd 5 0 7)).raw ≠ 6 ∧ opcodeOf (ustR (cmd 5 0 7)).raw = 5) ∧
    (oldestUnstarted (qOf (enQ (withRun (ustR (cmd 15 0 7)) jobS)) 0) = some (ustR (cmd 15 0 7)) ∧
        (qOf (enQ (withRun (ustR (cmd 15 0 7)) jobS)) 0).en = true ∧
          judge (enQ (withRun (ustR (cmd 15 0 7)) jobS)) 0 (ustR (cmd 15 0 7)) = Verdict.start ∧
            namedEpoch (ustR (cmd 15 0 7)).raw = some 7 ∧
              capped (enQ (withRun (ustR (cmd 15 0 7)) jobS)) < 7 ∧
                opcodeOf (ustR (cmd 15 0 7)).raw ≠ 6 ∧ opcodeOf (ustR (cmd 15 0 7)).raw = 15) := by and_intros <;> decide +kernel
theorem wit_RetireInOrderWithRecordAndSignal :
    ((qOf (withRun (doneR 0) State.reset) 0).cmds = [doneR 0] ∧
        (doneR 0).phase = Phase.done ∧ needsRecord (doneR 0) = true ∧ (doneR 0).posted = 0) ∧
    ((qOf (withRun (doneR 2) State.reset) 0).cmds = [doneR 2] ∧
        (doneR 2).phase = Phase.done ∧ (needsRecord (doneR 2) = false ∨ (doneR 2).posted = 2)) := by and_intros <;> decide +kernel
theorem wit_EventRecordsReachTheRing :
    (evS.ev.writing = none ∧ evS.ev.buf = [evR] ∧ ringFree evS ≠ 0) ∧
    ((evS2 0).ev.writing = some (evR, 0) ∧ ((evS2 0).host.writes.any fun w => w.queue == 16 && w.issued) = true ∧ 1 ≠ 0) ∧
    ((evS2 1).ev.writing = some (evR, 0) ∧
        ((evS2 1).host.writes.any fun w => w.queue == 16 && w.issued) = true ∧
          0 = 0 ∧ rdb (evS2 1) R.GEN_STRAP_HFP_W128 = true ∧ 0 = 0) ∧
    ((evS2 0).ev.writing = some (evR, 0) ∧
        ((evS2 0).host.writes.any fun w => w.queue == 16 && w.issued) = true ∧
          0 = 0 ∧ (rdb (evS2 0) R.GEN_STRAP_HFP_W128 = false ∨ 0 ≠ 0)) := by and_intros <;> decide +kernel
theorem wit_StepFetchesItsBindings :
    (stepR.phase = Phase.started ∧ activeRun (withRun stepR State.reset) 0 1 0 = some stepR) ∧
    ((replR 1).phase = Phase.started ∧
        activeRun (replS 1) 0 14 0 = some (replR 1) ∧
          threadOf (replS 1) 0 (replR 1).idx = some 0 ∧ isAbsent (replS 1) = true ∧ opd (replR 1).raw 127 112 ≠ 0) ∧
    ((replR 0).phase = Phase.started ∧
        activeRun (replS 0) 0 14 0 = some (replR 0) ∧
          threadOf (replS 0) 0 (replR 0).idx = some 0 ∧ (isAbsent (replS 0) = false ∨ opd (replR 0).raw 127 112 = 0)) ∧
    ((ldR 1).phase = Phase.started ∧ activeRun (withRun (ldR 1) State.reset) 0 1 1 = some (ldR 1)) ∧
    ((ldR 2).phase = Phase.started ∧ activeRun (withRun (ldR 2) State.reset) 0 1 2 = some (ldR 2)) := by and_intros <;> decide +kernel
theorem wit_RowsEnterAndIterate :
    ((thread (rowS (2 ^ 14) false) 0).busy = true ∧
        (thread (rowS (2 ^ 14) false) 0).bound = true ∧
          (thread (rowS (2 ^ 14) false) 0).ended = false ∧
            (thread (rowS (2 ^ 14) false) 0).entered = false ∧
              slotsBound (curRow (rowS (2 ^ 14) false) (thread (rowS (2 ^ 14) false) 0))
                    (thread (rowS (2 ^ 14) false) 0).binds.length =
                  true ∧
                rwRep (curRow (rowS (2 ^ 14) false) (thread (rowS (2 ^ 14) false) 0)) = false ∧
                  rowWait (rowS (2 ^ 14) false) (thread (rowS (2 ^ 14) false) 0)
                        (curRow (rowS (2 ^ 14) false) (thread (rowS (2 ^ 14) false) 0)) =
                      (0, true) ∧
                    rwUnit (curRow (rowS (2 ^ 14) false) (thread (rowS (2 ^ 14) false) 0)) = 0) ∧
    ((thread (rowS (2 ^ 24 + 2 ^ 16) false) 0).busy = true ∧
        (thread (rowS (2 ^ 24 + 2 ^ 16) false) 0).bound = true ∧
          (thread (rowS (2 ^ 24 + 2 ^ 16) false) 0).ended = false ∧
            (thread (rowS (2 ^ 24 + 2 ^ 16) false) 0).entered = false ∧
              slotsBound (curRow (rowS (2 ^ 24 + 2 ^ 16) false) (thread (rowS (2 ^ 24 + 2 ^ 16) false) 0))
                    (thread (rowS (2 ^ 24 + 2 ^ 16) false) 0).binds.length =
                  true ∧
                rwRep (curRow (rowS (2 ^ 24 + 2 ^ 16) false) (thread (rowS (2 ^ 24 + 2 ^ 16) false) 0)) = false ∧
                  rowWait (rowS (2 ^ 24 + 2 ^ 16) false) (thread (rowS (2 ^ 24 + 2 ^ 16) false) 0)
                        (curRow (rowS (2 ^ 24 + 2 ^ 16) false) (thread (rowS (2 ^ 24 + 2 ^ 16) false) 0)) =
                      (0, true) ∧
                    rwUnit (curRow (rowS (2 ^ 24 + 2 ^ 16) false) (thread (rowS (2 ^ 24 + 2 ^ 16) false) 0)) = 1 ∧
                      scratchBusy (rowS (2 ^ 24 + 2 ^ 16) false) 0 = false) ∧
    ((thread (rowS (2 * 2 ^ 24 + 2 ^ 16) false) 0).busy = true ∧
        (thread (rowS (2 * 2 ^ 24 + 2 ^ 16) false) 0).bound = true ∧
          (thread (rowS (2 * 2 ^ 24 + 2 ^ 16) false) 0).ended = false ∧
            (thread (rowS (2 * 2 ^ 24 + 2 ^ 16) false) 0).entered = false ∧
              slotsBound (curRow (rowS (2 * 2 ^ 24 + 2 ^ 16) false) (thread (rowS (2 * 2 ^ 24 + 2 ^ 16) false) 0))
                    (thread (rowS (2 * 2 ^ 24 + 2 ^ 16) false) 0).binds.length =
                  true ∧
                rwRep (curRow (rowS (2 * 2 ^ 24 + 2 ^ 16) false) (thread (rowS (2 * 2 ^ 24 + 2 ^ 16) false) 0)) = false ∧
                  rowWait (rowS (2 * 2 ^ 24 + 2 ^ 16) false) (thread (rowS (2 * 2 ^ 24 + 2 ^ 16) false) 0)
                        (curRow (rowS (2 * 2 ^ 24 + 2 ^ 16) false) (thread (rowS (2 * 2 ^ 24 + 2 ^ 16) false) 0)) =
                      (0, true) ∧
                    rwUnit (curRow (rowS (2 * 2 ^ 24 + 2 ^ 16) false) (thread (rowS (2 * 2 ^ 24 + 2 ^ 16) false) 0)) = 2) ∧
    ((thread (rowS (3 * 2 ^ 24 + 3 * 2 ^ 16) false) 0).busy = true ∧
        (thread (rowS (3 * 2 ^ 24 + 3 * 2 ^ 16) false) 0).bound = true ∧
          (thread (rowS (3 * 2 ^ 24 + 3 * 2 ^ 16) false) 0).ended = false ∧
            (thread (rowS (3 * 2 ^ 24 + 3 * 2 ^ 16) false) 0).entered = false ∧
              slotsBound (curRow (rowS (3 * 2 ^ 24 + 3 * 2 ^ 16) false) (thread (rowS (3 * 2 ^ 24 + 3 * 2 ^ 16) false) 0))
                    (thread (rowS (3 * 2 ^ 24 + 3 * 2 ^ 16) false) 0).binds.length =
                  true ∧
                rwRep (curRow (rowS (3 * 2 ^ 24 + 3 * 2 ^ 16) false) (thread (rowS (3 * 2 ^ 24 + 3 * 2 ^ 16) false) 0)) =
                    false ∧
                  rowWait (rowS (3 * 2 ^ 24 + 3 * 2 ^ 16) false) (thread (rowS (3 * 2 ^ 24 + 3 * 2 ^ 16) false) 0)
                        (curRow (rowS (3 * 2 ^ 24 + 3 * 2 ^ 16) false) (thread (rowS (3 * 2 ^ 24 + 3 * 2 ^ 16) false) 0)) =
                      (0, true) ∧
                    rwUnit
                          (curRow (rowS (3 * 2 ^ 24 + 3 * 2 ^ 16) false)
                            (thread (rowS (3 * 2 ^ 24 + 3 * 2 ^ 16) false) 0)) =
                        3 ∧
                      intakeStart (begin (rowS (3 * 2 ^ 24 + 3 * 2 ^ 16) false)) 0 =
                        (begin (rowS (3 * 2 ^ 24 + 3 * 2 ^ 16) false), IterEnd.done)) ∧
    ((1 = 1 ∧
            (1 = 1 ∧ Instr.mapRow 0 = Instr.mapRow 0 ∨
                1 = 2 ∧ Instr.mapRow 0 = Instr.reduceLine 0 ∨
                  1 = 3 ∧ Instr.mapRow 0 = Instr.reduceAll 0 ∨ Instr.mapRow 0 = Instr.logReservation 0) ∧
              iterate (begin (mapS 2)) 0 0 = iterate (begin (mapS 2)) 0 (thread (mapS 2) 0).iter ∨
          1 = 2 ∧
              (1 = 1 ∧ Instr.mapRow 0 = Instr.stat 0 none ∨
                  1 = 2 ∧ Instr.mapRow 0 = Instr.apply 0 none ∨ Instr.mapRow 0 = Instr.logReservation 0) ∧
                iterate (begin (mapS 2)) 0 0 = rootRow (begin (mapS 2)) 0 (thread (mapS 2) 0).iter ∨
            1 = 3 ∧
              (1 = 1 ∧
                  (Instr.mapRow 0 = Instr.accDense 0 ∨ Instr.mapRow 0 = Instr.logReservation 0) ∧
                    iterate (begin (mapS 2)) 0 0 = accDense (begin (mapS 2)) 0 (thread (mapS 2) 0).iter ∨
                1 = 2 ∧
                    (Instr.mapRow 0 = Instr.accList 0 ∨ Instr.mapRow 0 = Instr.logReservation 0) ∧
                      iterate (begin (mapS 2)) 0 0 = accList (begin (mapS 2)) 0 ∨
                  1 = 3 ∧
                      (Instr.mapRow 0 = Instr.intakeDrain 0 ∨ Instr.mapRow 0 = Instr.logReservation 0) ∧
                        iterate (begin (mapS 2)) 0 0 = drainRowOp (begin (mapS 2)) 0 ∨
                    1 = 4 ∧
                      (Instr.mapRow 0 = Instr.commit 0 ∨ Instr.mapRow 0 = Instr.logReservation 0) ∧
                        iterate (begin (mapS 2)) 0 0 = commitOp (begin (mapS 2)) 0)) ∧
        (thread (mapS 2) 0).busy = true ∧
          (thread (mapS 2) 0).entered = true ∧
            (thread (mapS 2) 0).ended = false ∧
              rwUnit (curRow (mapS 2) (thread (mapS 2) 0)) = 1 ∧
                rwUop (curRow (mapS 2) (thread (mapS 2) 0)) = 1 ∧
                  (iterate (begin (mapS 2)) 0 0).snd = IterEnd.done ∧
                    (thread (iterate (begin (mapS 2)) 0 0).fst 0).iter + 1 <
                      rwLoop
                        (curRow
                          (setThread (iterate (begin (mapS 2)) 0 0).fst 0
                            (have __src := thread (iterate (begin (mapS 2)) 0 0).fst 0;
                            { busy := __src.busy, queue := __src.queue, idx := __src.idx, cmdId := __src.cmdId,
                              epoch := __src.epoch, bank := __src.bank, row := __src.row, visits := __src.visits,
                              entered := __src.entered, iter := (thread (iterate (begin (mapS 2)) 0 0).fst 0).iter + 1,
                              passes := __src.passes, binds := __src.binds, bound := __src.bound, tally0 := __src.tally0,
                              ended := __src.ended, failed := __src.failed, cancelled := __src.cancelled,
                              replay := __src.replay, leaves := __src.leaves, sigs := __src.sigs, prior := __src.prior,
                              got := false }))
                          (thread (iterate (begin (mapS 2)) 0 0).fst 0))) ∧
    ((1 = 1 ∧
            (1 = 1 ∧ Instr.mapRow 0 = Instr.mapRow 0 ∨
                1 = 2 ∧ Instr.mapRow 0 = Instr.reduceLine 0 ∨
                  1 = 3 ∧ Instr.mapRow 0 = Instr.reduceAll 0 ∨ Instr.mapRow 0 = Instr.logReservation 0) ∧
              iterate (begin (mapS 1)) 0 0 = iterate (begin (mapS 1)) 0 (thread (mapS 1) 0).iter ∨
          1 = 2 ∧
              (1 = 1 ∧ Instr.mapRow 0 = Instr.stat 0 none ∨
                  1 = 2 ∧ Instr.mapRow 0 = Instr.apply 0 none ∨ Instr.mapRow 0 = Instr.logReservation 0) ∧
                iterate (begin (mapS 1)) 0 0 = rootRow (begin (mapS 1)) 0 (thread (mapS 1) 0).iter ∨
            1 = 3 ∧
              (1 = 1 ∧
                  (Instr.mapRow 0 = Instr.accDense 0 ∨ Instr.mapRow 0 = Instr.logReservation 0) ∧
                    iterate (begin (mapS 1)) 0 0 = accDense (begin (mapS 1)) 0 (thread (mapS 1) 0).iter ∨
                1 = 2 ∧
                    (Instr.mapRow 0 = Instr.accList 0 ∨ Instr.mapRow 0 = Instr.logReservation 0) ∧
                      iterate (begin (mapS 1)) 0 0 = accList (begin (mapS 1)) 0 ∨
                  1 = 3 ∧
                      (Instr.mapRow 0 = Instr.intakeDrain 0 ∨ Instr.mapRow 0 = Instr.logReservation 0) ∧
                        iterate (begin (mapS 1)) 0 0 = drainRowOp (begin (mapS 1)) 0 ∨
                    1 = 4 ∧
                      (Instr.mapRow 0 = Instr.commit 0 ∨ Instr.mapRow 0 = Instr.logReservation 0) ∧
                        iterate (begin (mapS 1)) 0 0 = commitOp (begin (mapS 1)) 0)) ∧
        (thread (mapS 1) 0).busy = true ∧
          (thread (mapS 1) 0).entered = true ∧
            (thread (mapS 1) 0).ended = false ∧
              rwUnit (curRow (mapS 1) (thread (mapS 1) 0)) = 1 ∧
                rwUop (curRow (mapS 1) (thread (mapS 1) 0)) = 1 ∧
                  (iterate (begin (mapS 1)) 0 0).snd = IterEnd.done ∧
                    rwLoop
                        (curRow
                          (setThread (iterate (begin (mapS 1)) 0 0).fst 0
                            (have __src := thread (iterate (begin (mapS 1)) 0 0).fst 0;
                            { busy := __src.busy, queue := __src.queue, idx := __src.idx, cmdId := __src.cmdId,
                              epoch := __src.epoch, bank := __src.bank, row := __src.row, visits := __src.visits,
                              entered := __src.entered, iter := (thread (iterate (begin (mapS 1)) 0 0).fst 0).iter + 1,
                              passes := __src.passes, binds := __src.binds, bound := __src.bound, tally0 := __src.tally0,
                              ended := __src.ended, failed := __src.failed, cancelled := __src.cancelled,
                              replay := __src.replay, leaves := __src.leaves, sigs := __src.sigs, prior := __src.prior,
                              got := false }))
                          (thread (iterate (begin (mapS 1)) 0 0).fst 0)) ≤
                      (thread (iterate (begin (mapS 1)) 0 0).fst 0).iter + 1) ∧
    ((3 = 1 ∧
            (2 = 1 ∧ Instr.accList 0 = Instr.mapRow 0 ∨
                2 = 2 ∧ Instr.accList 0 = Instr.reduceLine 0 ∨
                  2 = 3 ∧ Instr.accList 0 = Instr.reduceAll 0 ∨ Instr.accList 0 = Instr.logReservation 0) ∧
              accList (begin intS) 0 = iterate (begin intS) 0 (thread intS 0).iter ∨
          3 = 2 ∧
              (2 = 1 ∧ Instr.accList 0 = Instr.stat 0 none ∨
                  2 = 2 ∧ Instr.accList 0 = Instr.apply 0 none ∨ Instr.accList 0 = Instr.logReservation 0) ∧
                accList (begin intS) 0 = rootRow (begin intS) 0 (thread intS 0).iter ∨
            3 = 3 ∧
              (2 = 1 ∧
                  (Instr.accList 0 = Instr.accDense 0 ∨ Instr.accList 0 = Instr.logReservation 0) ∧
                    accList (begin intS) 0 = accDense (begin intS) 0 (thread intS 0).iter ∨
                2 = 2 ∧
                    (Instr.accList 0 = Instr.accList 0 ∨ Instr.accList 0 = Instr.logReservation 0) ∧
                      accList (begin intS) 0 = accList (begin intS) 0 ∨
                  2 = 3 ∧
                      (Instr.accList 0 = Instr.intakeDrain 0 ∨ Instr.accList 0 = Instr.logReservation 0) ∧
                        accList (begin intS) 0 = drainRowOp (begin intS) 0 ∨
                    2 = 4 ∧
                      (Instr.accList 0 = Instr.commit 0 ∨ Instr.accList 0 = Instr.logReservation 0) ∧
                        accList (begin intS) 0 = commitOp (begin intS) 0)) ∧
        (thread intS 0).busy = true ∧
          (thread intS 0).entered = true ∧
            (thread intS 0).ended = false ∧
              rwUnit (curRow intS (thread intS 0)) = 3 ∧
                rwUop (curRow intS (thread intS 0)) = 2 ∧ (accList (begin intS) 0).snd = IterEnd.wait) ∧
    ((3 = 1 ∧
            (4 = 1 ∧ Instr.commit 0 = Instr.mapRow 0 ∨
                4 = 2 ∧ Instr.commit 0 = Instr.reduceLine 0 ∨
                  4 = 3 ∧ Instr.commit 0 = Instr.reduceAll 0 ∨ Instr.commit 0 = Instr.logReservation 0) ∧
              commitOp (begin commS) 0 = iterate (begin commS) 0 (thread commS 0).iter ∨
          3 = 2 ∧
              (4 = 1 ∧ Instr.commit 0 = Instr.stat 0 none ∨
                  4 = 2 ∧ Instr.commit 0 = Instr.apply 0 none ∨ Instr.commit 0 = Instr.logReservation 0) ∧
                commitOp (begin commS) 0 = rootRow (begin commS) 0 (thread commS 0).iter ∨
            3 = 3 ∧
              (4 = 1 ∧
                  (Instr.commit 0 = Instr.accDense 0 ∨ Instr.commit 0 = Instr.logReservation 0) ∧
                    commitOp (begin commS) 0 = accDense (begin commS) 0 (thread commS 0).iter ∨
                4 = 2 ∧
                    (Instr.commit 0 = Instr.accList 0 ∨ Instr.commit 0 = Instr.logReservation 0) ∧
                      commitOp (begin commS) 0 = accList (begin commS) 0 ∨
                  4 = 3 ∧
                      (Instr.commit 0 = Instr.intakeDrain 0 ∨ Instr.commit 0 = Instr.logReservation 0) ∧
                        commitOp (begin commS) 0 = drainRowOp (begin commS) 0 ∨
                    4 = 4 ∧
                      (Instr.commit 0 = Instr.commit 0 ∨ Instr.commit 0 = Instr.logReservation 0) ∧
                        commitOp (begin commS) 0 = commitOp (begin commS) 0)) ∧
        (thread commS 0).busy = true ∧
          (thread commS 0).entered = true ∧
            (thread commS 0).ended = false ∧
              rwUnit (curRow commS (thread commS 0)) = 3 ∧
                rwUop (curRow commS (thread commS 0)) = 4 ∧ (commitOp (begin commS) 0).snd = IterEnd.fail ecDescriptor) := by and_intros <;> decide +kernel

end W01

namespace W02

def moveR (p : Phase) (i : Nat) : Run := { runOf (cmd 3 0 (5 + 1 * 2 ^ 21 + 9 * 2 ^ 33)) p with aux := [1, i, 0, 0] }
def scr : Nat := objE clsScratch fmtS32 1 1 0 1 0
def moveS (cls : Nat) (p : Phase) : State := tput (withObj (objE cls fmtS32 1 1 0 1 0) (withRun (moveR p 0) hbmS)) 0xA 1 0
  (moveEntry 0 0 1 0 9 1 0 0 0 5)
def imgR (sub o : Nat) : Run := runOf (cmd 4 sub o) .started
def imgObj : Nat := scr + 2 ^ 21
def fillS (o : Nat) (pool : Nat) : State := wr (wr (withObj imgObj (withRun (imgR 0 o) hbmS)) R.TIER_POOL_SLOTS pool) R.CMB_STKMASK 1
def fullS : State := tput (fillS (5 + 2 ^ 42) 1) 0xA 2 9 (at' 1 104 + at' 1 110 + at' 1 19 + 5)
def dropS0 (compat dirty : Nat) : State := tput (withObj scr (withRun (imgR 1 3) State.reset)) 0xA 2 3
    (at' compat 105 + at' dirty 103 + at' 1 110 + at' 1 19 + 5)

def dropS (compat dirty : Nat) : State :=
  let s := dropS0 compat dirty
  { s with pool := { s.pool with dirty := if dirty = 0 then [] else [(3, 1)] } }
def flushS (cls : Nat) : State := withObj (objE cls fmtS32 1 1 0 1 0) (withRun (imgR 2 5) State.reset)
def progR : Run := { imgR 3 5 with aux := [5, 1] }
def prog : Stream :=
  { obj := 5, layers := 1, depth := 2, rev := false, relTally := 3, rdyTally := 4, slotObj := 6, slotCells := 1, rel0 := 0, rdy0 := 0,
    started := 0, signalled := 0, tenant := 0, descs := [[⟨5, 0, 1⟩]], refill := [] }
def stopS (p : Option Stream) : State := setStream (withRun (imgR 4 2) State.reset) 2 p
def memR (w : Bool) (n : Nat) : MemReq := { tag := 3, gran := 8, src := 8, n := n, write := w, prio := false, owner := 22, issued := true, old := [] }
def memS (w : Bool) : State := setMrp State.reset 0 { mrpOf State.reset 0 with reqs := [memR w 2] }
def outS (k : Nat) : State := wr (wr State.reset (R.SLC_STAT_OUT 2) 1) R.GEN_SLC_RST_MAX k
def tierR (w : Bool) : TierReq := { tag := 3, addr := 8, write := w, owner := 22, issued := true }
def tierS (w : Bool) : State := setTier State.reset 1 { tierOf State.reset 1 with reqs := [tierR w] }
def tierT (w : Bool) : State := setTier (begin (tierS w)) 1 { tierOf (begin (tierS w)) 1 with reqs := [] }
def hread (tag off : Nat) : HostRead := { tag := tag, addr := 64, size := 64, off := off, queue := 0, idx := 3, issued := true }
def ldR : Run := { runOf (cmd 1 1 9) .running with aux := [10] }
def hostS (rs : List HostRead) : State := { withRun ldR State.reset with host := { State.reset.host with reads := rs } }
def hwrite : HostWrite := { tag := 5, addr := 64, data := [], be := 0, queue := 0, idx := 3, issued := true }
def hostW : State := { withRun (runOf (cmd 0x10 0 0) .running) State.reset with host := { State.reset.host with writes := [hwrite] } }

theorem wit_MoveTakesAnEntryAndCopies :
    (moveOk State.reset (moveR Phase.started 0).raw = false) ∧
    (moveOk (withObj scr hbmS) (moveR Phase.started 0).raw = true ∧
        (firstBelow 64 fun i => !bit (moveAt (withObj scr hbmS) i) 19) = some 0) ∧
    (activeRun (moveS clsScratch Phase.running) 0 3 0 = some (moveR Phase.running 0) ∧
        (moveR Phase.running 0).phase = Phase.running) ∧
    (activeRun (moveS clsUnique Phase.started) 0 3 0 = some (moveR Phase.started 0) ∧
        (moveR Phase.started 0).phase = Phase.started ∧
          oClass
              (dir (moveS clsUnique Phase.started)
                (mvObj (moveAt (moveS clsUnique Phase.started) ((moveR Phase.started 0).aux.getD 1 0)))) =
            clsUnique) ∧
    (activeRun (moveS clsScratch Phase.started) 0 3 0 = some (moveR Phase.started 0) ∧
        (moveR Phase.started 0).phase = Phase.started ∧
          oClass
              (dir (moveS clsScratch Phase.started)
                (mvObj (moveAt (moveS clsScratch Phase.started) ((moveR Phase.started 0).aux.getD 1 0)))) ≠
            clsUnique) := by and_intros <;> decide +kernel
theorem wit_ImageCommandsWork :
    (activeRun (fillS 5 0) 0 4 0 = some (imgR 0 5) ∧
        (imgR 0 5).phase = Phase.started ∧
          (imageableRange (fillS 5 0) (opd (imgR 0 5).raw 18 0) (opd (imgR 0 5).raw 41 20) (opd (imgR 0 5).raw 60 42) =
              false ∨
            fillTooBig (fillS 5 0) (qOf (fillS 5 0) 0).tenant (opd (imgR 0 5).raw 60 42) = true)) ∧
    (activeRun fullS 0 4 0 = some (imgR 0 (5 + 2 ^ 42)) ∧
        (imgR 0 (5 + 2 ^ 42)).phase = Phase.started ∧
          imageableRange fullS (opd (imgR 0 (5 + 2 ^ 42)).raw 18 0) (opd (imgR 0 (5 + 2 ^ 42)).raw 41 20)
                (opd (imgR 0 (5 + 2 ^ 42)).raw 60 42) =
              true ∧
            fillTooBig fullS (qOf fullS 0).tenant (opd (imgR 0 (5 + 2 ^ 42)).raw 60 42) = false ∧
              makeRoom (qOf fullS 0).tenant (opd (imgR 0 (5 + 2 ^ 42)).raw 60 42) 16385 (begin fullS) = (begin fullS, none)) ∧
    (activeRun (fillS (5 + 2 ^ 42) 1) 0 4 0 = some (imgR 0 (5 + 2 ^ 42)) ∧
        (imgR 0 (5 + 2 ^ 42)).phase = Phase.started ∧
          imageableRange (fillS (5 + 2 ^ 42) 1) (opd (imgR 0 (5 + 2 ^ 42)).raw 18 0) (opd (imgR 0 (5 + 2 ^ 42)).raw 41 20)
                (opd (imgR 0 (5 + 2 ^ 42)).raw 60 42) =
              true ∧
            fillTooBig (fillS (5 + 2 ^ 42) 1) (qOf (fillS (5 + 2 ^ 42) 1) 0).tenant (opd (imgR 0 (5 + 2 ^ 42)).raw 60 42) =
                false ∧
              makeRoom (qOf (fillS (5 + 2 ^ 42) 1) 0).tenant (opd (imgR 0 (5 + 2 ^ 42)).raw 60 42) 16385
                    (begin (fillS (5 + 2 ^ 42) 1)) =
                  (begin (fillS (5 + 2 ^ 42) 1), some (0, 0)) ∧
                freeImage (begin (fillS (5 + 2 ^ 42) 1)) = some 0) ∧
    (activeRun (withRun (imgR 1 3) State.reset) 0 4 1 = some (imgR 1 3) ∧
        (imgR 1 3).phase = Phase.started ∧
          (imValid (image (withRun (imgR 1 3) State.reset) (opd (imgR 1 3).raw 13 0)) = false ∨
            imStream (image (withRun (imgR 1 3) State.reset) (opd (imgR 1 3).raw 13 0)) = true ∨
              imFilling (image (withRun (imgR 1 3) State.reset) (opd (imgR 1 3).raw 13 0)) = true)) ∧
    (activeRun (dropS 0 0) 0 4 1 = some (imgR 1 3) ∧
        (imgR 1 3).phase = Phase.started ∧
          imValid (image (dropS 0 0) (opd (imgR 1 3).raw 13 0)) = true ∧
            imStream (image (dropS 0 0) (opd (imgR 1 3).raw 13 0)) = false ∧
              imFilling (image (dropS 0 0) (opd (imgR 1 3).raw 13 0)) = false ∧
                (imCompat (image (dropS 0 0) (opd (imgR 1 3).raw 13 0)) = false ∨
                  imDirty (image (dropS 0 0) (opd (imgR 1 3).raw 13 0)) = false)) ∧
    (activeRun (dropS 1 1) 0 4 1 = some (imgR 1 3) ∧
        (imgR 1 3).phase = Phase.started ∧
          imValid (image (dropS 1 1) (opd (imgR 1 3).raw 13 0)) = true ∧
            imStream (image (dropS 1 1) (opd (imgR 1 3).raw 13 0)) = false ∧
              imFilling (image (dropS 1 1) (opd (imgR 1 3).raw 13 0)) = false ∧
                imCompat (image (dropS 1 1) (opd (imgR 1 3).raw 13 0)) = true ∧
                  imDirty (image (dropS 1 1) (opd (imgR 1 3).raw 13 0)) = true) ∧
    (activeRun (flushS clsScratch) 0 4 2 = some (imgR 2 5) ∧
        (imgR 2 5).phase = Phase.started ∧
          (objValid (flushS clsScratch) (opd (imgR 2 5).raw 18 0) = false ∨
            oClass (dir (flushS clsScratch) (opd (imgR 2 5).raw 18 0)) ≠ clsCompat)) ∧
    (activeRun (flushS clsCompat) 0 4 2 = some (imgR 2 5) ∧
        (imgR 2 5).phase = Phase.started ∧
          objValid (flushS clsCompat) (opd (imgR 2 5).raw 18 0) = true ∧
            oClass (dir (flushS clsCompat) (opd (imgR 2 5).raw 18 0)) = clsCompat) ∧
    (activeRun (withRun progR State.reset) 0 4 3 = some progR ∧
        readProgram (withRun progR State.reset) (opd progR.raw 18 0) (qOf (withRun progR State.reset) 0).tenant = none) ∧
    (activeRun (stopS none) 0 4 4 = some (imgR 4 2) ∧ (stopS none).streams.getD (opd (imgR 4 2).raw 1 0) none = none) ∧
    (activeRun (stopS (some prog)) 0 4 4 = some (imgR 4 2) ∧
        (stopS (some prog)).streams.getD (opd (imgR 4 2).raw 1 0) none = some prog) := by and_intros <;> decide +kernel
theorem wit_StreamVisitFillsInOrder :
    ((stopS none).streams.getD 2 none = none) ∧
    ((stopS (some prog)).streams.getD 2 none = some prog) := by and_intros <;> decide +kernel
theorem wit_MemoryPortAnswersSettle :
    (memAnswered (begin (memS false)) 0 3 false =
        some
          (memR false 2,
            setMrp (begin (memS false)) 0
              (let __src := mrpOf (begin (memS false)) 0;
              { rrq := __src.rrq, wrq := __src.wrq, wd := __src.wd, reqs := [] }))) ∧
    (memAnswered (begin (memS true)) 0 3 true =
        some
          (memR true 2,
            setMrp (begin (memS true)) 0
              (let __src := mrpOf (begin (memS true)) 0;
              { rrq := __src.rrq, wrq := __src.wrq, wd := __src.wd, reqs := [] }))) ∧
    (List.filter (fun x => x.issued) (mrpOf State.reset 0).reqs = []) ∧
    (List.filter (fun x => x.issued) (mrpOf (memS false) 0).reqs ≠ []) := by and_intros <;> decide +kernel
theorem wit_SliceResetClearsAndReturns :
    (rdb State.reset (R.SLC_STAT_OUT 2) = false) ∧
    (rdb (outS 2) (R.SLC_STAT_OUT 2) = true) := by and_intros <;> decide +kernel
theorem wit_TierAnswersSettle :
    (tierAnswered (begin (tierS false)) 1 3 false = some (tierR false, tierT false)) ∧
    (tierAnswered (begin (tierS true)) 1 3 true = some (tierR true, tierT true)) := by and_intros <;> decide +kernel
theorem wit_HostTransfersComplete :
    (List.find? (fun r => r.issued && r.tag == 5 && decide (r.queue < 16)) (hostS [hread 5 0, hread 6 64]).host.reads =
          some (hread 5 0) ∧
        findRun
              (pumpHost
                (setHost (begin (hostS [hread 5 0, hread 6 64]))
                  (have __src := (hostS [hread 5 0, hread 6 64]).host;
                  { treq := __src.treq, twd := __src.twd, areq := __src.areq, awd := __src.awd,
                    reads := List.filter (fun y => !(y.issued && y.tag == 5)) (hostS [hread 5 0, hread 6 64]).host.reads,
                    writes := __src.writes,
                    got :=
                      (hostS [hread 5 0, hread 6 64]).host.got ++
                        [((hread 5 0).queue, (hread 5 0).idx, (hread 5 0).off,
                            slice (List.replicate 64 1) 0 (hread 5 0).size)] })))
              (hread 5 0).queue (hread 5 0).idx =
            some ldR ∧
          ldR.phase ≠ Phase.done ∧
            readsBack
                (pumpHost
                  (setHost (begin (hostS [hread 5 0, hread 6 64]))
                    (have __src := (hostS [hread 5 0, hread 6 64]).host;
                    { treq := __src.treq, twd := __src.twd, areq := __src.areq, awd := __src.awd,
                      reads := List.filter (fun y => !(y.issued && y.tag == 5)) (hostS [hread 5 0, hread 6 64]).host.reads,
                      writes := __src.writes,
                      got :=
                        (hostS [hread 5 0, hread 6 64]).host.got ++
                          [((hread 5 0).queue, (hread 5 0).idx, (hread 5 0).off,
                              slice (List.replicate 64 1) 0 (hread 5 0).size)] })))
                (hread 5 0).queue (hread 5 0).idx =
              false) ∧
    (List.find? (fun r => r.issued && r.tag == 5 && decide (r.queue < 16)) (hostS [hread 5 0]).host.reads =
          some (hread 5 0) ∧
        findRun
              (pumpHost
                (setHost (begin (hostS [hread 5 0]))
                  (have __src := (hostS [hread 5 0]).host;
                  { treq := __src.treq, twd := __src.twd, areq := __src.areq, awd := __src.awd,
                    reads := List.filter (fun y => !(y.issued && y.tag == 5)) (hostS [hread 5 0]).host.reads,
                    writes := __src.writes,
                    got :=
                      (hostS [hread 5 0]).host.got ++
                        [((hread 5 0).queue, (hread 5 0).idx, (hread 5 0).off,
                            slice (List.replicate 64 1) 0 (hread 5 0).size)] })))
              (hread 5 0).queue (hread 5 0).idx =
            some ldR ∧
          ldR.phase ≠ Phase.done ∧
            readsBack
                (pumpHost
                  (setHost (begin (hostS [hread 5 0]))
                    (have __src := (hostS [hread 5 0]).host;
                    { treq := __src.treq, twd := __src.twd, areq := __src.areq, awd := __src.awd,
                      reads := List.filter (fun y => !(y.issued && y.tag == 5)) (hostS [hread 5 0]).host.reads,
                      writes := __src.writes,
                      got :=
                        (hostS [hread 5 0]).host.got ++
                          [((hread 5 0).queue, (hread 5 0).idx, (hread 5 0).off,
                              slice (List.replicate 64 1) 0 (hread 5 0).size)] })))
                (hread 5 0).queue (hread 5 0).idx =
              true) ∧
    (List.find? (fun r => r.issued && r.tag == 5 && decide (r.queue < 16)) (hostS [hread 5 0]).host.reads =
          some (hread 5 0) ∧
        1 ≠ 0 ∧
          findRun
                (pumpHost
                  (setHost (begin (hostS [hread 5 0]))
                    (have __src := (hostS [hread 5 0]).host;
                    { treq := __src.treq, twd := __src.twd, areq := __src.areq, awd := __src.awd,
                      reads := List.filter (fun y => !(y.issued && y.tag == 5)) (hostS [hread 5 0]).host.reads,
                      writes := __src.writes, got := __src.got })))
                (hread 5 0).queue (hread 5 0).idx =
              some ldR ∧
            ldR.phase ≠ Phase.done) ∧
    (List.find? (fun w => w.issued && w.tag == 5 && w.queue != 16) hostW.host.writes = some hwrite ∧ 1 ≠ 0) ∧
    (List.find? (fun w => w.issued && w.tag == 5 && w.queue != 16) hostW.host.writes = some hwrite ∧ 0 = 0) := by and_intros <;> decide +kernel

end W02

namespace W03

/-- Group 1: three members, this one first, its list in object 20; a COLL that names it. -/
def collR (sub o : Nat) (p : Phase) : Run := runOf (cmd 2 sub (7 + at' 1 48 + at' fmtByte 60 + at' 65536 146 + o)) p
def collS (sub o : Nat) (p : Phase) : State :=
  let s := withRun (collR sub o p) jobS
  let s := tput s 0x12 0 1 (at' 4 96 + at' 77 64 + at' 1 63 + at' 20 32 + 3)
  tput s 0xA 0 20 (objE clsScratch fmtByte 1 64 0 1 0)
def coll0 (_sub : Nat) (opened : Bool) : Coll :=
  { queue := 0, idx := 3, grp := 1, gtag := 77, seq := 3, digest := 5, opened := opened, kids := [], told := false, acks := [],
    staged := [], ends := [], formed := [], owner := 2 ^ 19, next := 0, reading := false, lost := false, win := 4 }
def openS (sub : Nat) (opened : Bool) : State :=
  let s := collS sub 0 .running
  { s with col := { s.col with run := [coll0 sub opened] } }
def ctlMsg (kind gtag seq : Nat) : Bytes := leBytes 32 (at' 1 160 + at' 5 128 + at' seq 96 + at' gtag 64 + at' 1 16 + at' 9 8 + kind)
def chunkB (good : Bool) : Bytes := chunkMsg 77 3 0 (if good then [1, 2] else [1]) ++ if good then [] else [0]
def k3 (sub : Nat) (b : Bytes) : Instr := if sub = 0 then .reduceScatterChunk 0 b else if sub = 1 then .gatherChunk 0 b
  else if sub = 2 then .broadcastChunk 0 b else .parityScatterChunk 0 b
def fenceR (p : Phase) : Run := runOf (cmd 0xC 0 7) p
def fenceS (p : Phase) : State := setTier (withRun (fenceR p) jobS) 1 { tierOf State.reset 1 with
  reqs := [{ tag := 3, addr := 8, write := true, owner := 22, issued := true }] }
def fence0 : Fence := { queue := 0, idx := 3, streams := [(1, 2, 0)], ctxs := [], watch := [], tiers := [], queued := [] }
def fencedS : State := { fenceS .running with fences := [fence0] }
def rootR (p : Phase) (aux : List Nat) : Run := { runOf (cmd 0xF 0 (7 + 5 * 2 ^ 48 + 6 * 2 ^ 67 + 1 * 2 ^ 88)) p with aux := aux }
def rootS (p : Phase) (aux : List Nat) (w : Bool) : State := setMrp (withRun (rootR p aux) jobS) 0
  { mrpOf State.reset 0 with reqs := if w then [{ tag := 3, gran := 8, src := 8, n := 1, write := true, prio := false, owner := rootOwner, issued := true, old := [] }] else [] }
/-- One block of 128 by 128: cell 0 SUSPECT with no rank left to repair it. -/
def pset11 : List Host.Cell := [(1026, 1), (1027, 1)]
def rootF : State :=
  let s := wr (wr (wr (rootS .running [6] false) R.GEN_STRAP_SLICE_EN 1) (R.SLC_STAT_READY 0) 1) (R.SLC_CAP 0) 1
  let o := at' 4 89 + objE clsUnique fmtS32 256 128 0 1 0
  let s := tput (tput s 0xA 0 5 (o + 5)) 0xA 0 6 (o + 6)
  { wr s R.CMB_COMB_STATE 3 with sch := { s.sch with sets := [⟨7, true, pset11⟩] } }
def rootF2 : State := wr (setLedger rootF 0 (at' 1 67)) R.CMB_DATA_CELLS 8
def capR (p : Phase) : Run := runOf (cmd 5 0 7) p
def capS (p : Phase) : State := withRun (capR p) jobS
def repB (e : Nat) : Bytes := leBytes 32 (at' 0x3FFF 96 + at' 1 64 + at' 1 56 + e)
def ownS : State := setEpoch (capS .running) { Epoch.new 7 with own := 1, phase := 1 }
def seg0 (kind : Nat) : Seg :=
  { slice := 0, off := 0, units := [0], len := 1, epoch := 7, kind := kind, cell := 0, seq := 0, attempt := 0, nrec := 0, rank := 0, own := true, queue := 16 }
def segS (gs : List Seg) : State := { jobS with cod := { jobS.cod with segs := gs } }
def segS2 : State := writeUnits (segS [seg0 3]) 0 [0] (leBytes 64 (at' (segCrc (List.replicate 64 0)) 224))
def segS9 : State := segS [{ seg0 1 with epoch := 9 }]
def segB : Bytes := List.replicate 8 0 ++ List.replicate 64 0
def dAck (only : Nat) : Bytes := leBytes 32 (at' only 144 + at' 8 96 + at' 0 64 + 7)
def out0 : DrainOut := { src := 0, slice := 0, epoch := 7, attempt := 0, next := 0, sent := [(1, 2), (2, 2)], acked := [], tries := [] }
def outSt : State := { jobS with cod := { jobS.cod with outs := [out0] } }
def in0 : DrainIn := { peer := 1, rank := 1, slice := 0, epoch := 7, attempt := 0, next := 2, told := 0, waits := [] }
def inS : State := { jobS with cod := { jobS.cod with ins := [in0] } }
def v2s : V2Seg := { holder := 1, src := 0, epoch := 7, slice := 0, seq := 0, first := 0, n := 2 }
def v2S : State := { outSt with cod := { outSt.cod with v2segs := [v2s] } }

theorem wit_CollectivesStart :
    ((0 = 0 ∧ Instr.collReduceScatter 0 = Instr.collReduceScatter 0 ∨
          0 = 1 ∧ Instr.collReduceScatter 0 = Instr.collAllGather 0 ∨
            0 = 2 ∧ Instr.collReduceScatter 0 = Instr.collBroadcast 0 ∨
              0 = 3 ∧ Instr.collReduceScatter 0 = Instr.collParityScatter 0 ∨
                0 = 4 ∧ Instr.collReduceScatter 0 = Instr.collRebuildChain 0) ∧
        activeRun (collS 0 0 Phase.started) 0 2 0 = some (collR 0 0 Phase.started) ∧
          (collR 0 0 Phase.started).phase ≠ Phase.running) ∧
    ((1 = 0 ∧ Instr.collAllGather 0 = Instr.collReduceScatter 0 ∨
          1 = 1 ∧ Instr.collAllGather 0 = Instr.collAllGather 0 ∨
            1 = 2 ∧ Instr.collAllGather 0 = Instr.collBroadcast 0 ∨
              1 = 3 ∧ Instr.collAllGather 0 = Instr.collParityScatter 0 ∨
                1 = 4 ∧ Instr.collAllGather 0 = Instr.collRebuildChain 0) ∧
        activeRun (collS 1 0 Phase.started) 0 2 1 = some (collR 1 0 Phase.started) ∧
          (collR 1 0 Phase.started).phase ≠ Phase.running) ∧
    ((2 = 0 ∧ Instr.collBroadcast 0 = Instr.collReduceScatter 0 ∨
          2 = 1 ∧ Instr.collBroadcast 0 = Instr.collAllGather 0 ∨
            2 = 2 ∧ Instr.collBroadcast 0 = Instr.collBroadcast 0 ∨
              2 = 3 ∧ Instr.collBroadcast 0 = Instr.collParityScatter 0 ∨
                2 = 4 ∧ Instr.collBroadcast 0 = Instr.collRebuildChain 0) ∧
        activeRun (collS 2 0 Phase.started) 0 2 2 = some (collR 2 0 Phase.started) ∧
          (collR 2 0 Phase.started).phase ≠ Phase.running) ∧
    ((3 = 0 ∧ Instr.collParityScatter 0 = Instr.collReduceScatter 0 ∨
          3 = 1 ∧ Instr.collParityScatter 0 = Instr.collAllGather 0 ∨
            3 = 2 ∧ Instr.collParityScatter 0 = Instr.collBroadcast 0 ∨
              3 = 3 ∧ Instr.collParityScatter 0 = Instr.collParityScatter 0 ∨
                3 = 4 ∧ Instr.collParityScatter 0 = Instr.collRebuildChain 0) ∧
        activeRun (collS 3 0 Phase.started) 0 2 3 = some (collR 3 0 Phase.started) ∧
          (collR 3 0 Phase.started).phase ≠ Phase.running) ∧
    ((4 = 0 ∧ Instr.collRebuildChain 0 = Instr.collReduceScatter 0 ∨
          4 = 1 ∧ Instr.collRebuildChain 0 = Instr.collAllGather 0 ∨
            4 = 2 ∧ Instr.collRebuildChain 0 = Instr.collBroadcast 0 ∨
              4 = 3 ∧ Instr.collRebuildChain 0 = Instr.collParityScatter 0 ∨
                4 = 4 ∧ Instr.collRebuildChain 0 = Instr.collRebuildChain 0) ∧
        activeRun (collS 4 0 Phase.started) 0 2 4 = some (collR 4 0 Phase.started) ∧
          (collR 4 0 Phase.started).phase ≠ Phase.running) ∧
    ((4 = 0 ∧ Instr.collRebuildChain 0 = Instr.collReduceScatter 0 ∨
          4 = 1 ∧ Instr.collRebuildChain 0 = Instr.collAllGather 0 ∨
            4 = 2 ∧ Instr.collRebuildChain 0 = Instr.collBroadcast 0 ∨
              4 = 3 ∧ Instr.collRebuildChain 0 = Instr.collParityScatter 0 ∨
                4 = 4 ∧ Instr.collRebuildChain 0 = Instr.collRebuildChain 0) ∧
        activeRun (collS 4 0 Phase.running) 0 2 4 = some (collR 4 0 Phase.running) ∧
          (collR 4 0 Phase.running).phase = Phase.running) := by and_intros <;> decide +kernel
theorem wit_CollectiveMessagesAct :
    (groupOfTag State.reset (leAt (ctlMsg 1 77 3) 8 4) = none) ∧
    (groupOfTag (openS 4 false) (leAt (ctlMsg 1 77 3) 8 4) = some 1 ∧
        collOf (openS 4 false) (leAt (ctlMsg 1 77 3) 8 4) (leAt (ctlMsg 1 77 3) 12 4) = some (coll0 4 false) ∧
          leAt (ctlMsg 1 77 3) 0 1 = 1) ∧
    (groupOfTag (openS 4 false) (leAt (ctlMsg 2 77 3) 8 4) = some 1 ∧
        collOf (openS 4 false) (leAt (ctlMsg 2 77 3) 8 4) (leAt (ctlMsg 2 77 3) 12 4) = some (coll0 4 false) ∧
          leAt (ctlMsg 2 77 3) 0 1 = 2) ∧
    (groupOfTag (openS 4 false) (leAt (ctlMsg 3 77 3) 8 4) = some 1 ∧
        collOf (openS 4 false) (leAt (ctlMsg 3 77 3) 8 4) (leAt (ctlMsg 3 77 3) 12 4) = some (coll0 4 false) ∧
          leAt (ctlMsg 3 77 3) 0 1 = 3) ∧
    (groupOfTag (openS 4 false) (leAt (ctlMsg 1 77 4) 8 4) = some 1 ∧
        collOf (openS 4 false) (leAt (ctlMsg 1 77 4) 8 4) (leAt (ctlMsg 1 77 4) 12 4) = none ∧
          leAt (ctlMsg 1 77 4) 0 1 = 1 ∧ serialGt (grSeq (group (openS 4 false) 1)) (leAt (ctlMsg 1 77 4) 12 4) = false) ∧
    (groupOfTag (openS 4 false) (leAt (ctlMsg 3 77 4) 8 4) = some 1 ∧
        collOf (openS 4 false) (leAt (ctlMsg 3 77 4) 8 4) (leAt (ctlMsg 3 77 4) 12 4) = none ∧
          leAt (ctlMsg 3 77 4) 0 1 = 3 ∧
            serialGt (grSeq (group (openS 4 false) 1)) (leAt (ctlMsg 3 77 4) 12 4) = false ∧
              abortedAs (openS 4 false) (leAt (ctlMsg 3 77 4) 8 4) (leAt (ctlMsg 3 77 4) 12 4) = none) ∧
    (collOf (openS 4 false) 77 3 = some (coll0 4 false)) ∧
    (collOf (openS 4 false) 77 4 = none) := by and_intros <;> decide +kernel
theorem wit_CollectiveChunksAreUsed :
    (collOf (openS 0 true) (leAt (chunkB true) 0 4) (leAt (chunkB true) 4 4) = some (coll0 0 true) ∧
        grIdxOf (openS 0 true) (group (openS 0 true) (coll0 0 true).grp) 0 = some 0 ∧
          (chunkBody (chunkB true)).snd = true ∧ (coll0 0 true).opened = true ∧ (opOf (openS 0 true) (coll0 0 true)).sub = 0) ∧
    (collOf (openS 1 true) (leAt (chunkB true) 0 4) (leAt (chunkB true) 4 4) = some (coll0 1 true) ∧
        grIdxOf (openS 1 true) (group (openS 1 true) (coll0 1 true).grp) 0 = some 0 ∧
          (chunkBody (chunkB true)).snd = true ∧ (coll0 1 true).opened = true ∧ (opOf (openS 1 true) (coll0 1 true)).sub = 1) ∧
    (collOf (openS 2 true) (leAt (chunkB true) 0 4) (leAt (chunkB true) 4 4) = some (coll0 2 true) ∧
        grIdxOf (openS 2 true) (group (openS 2 true) (coll0 2 true).grp) 0 = some 0 ∧
          (chunkBody (chunkB true)).snd = true ∧ (coll0 2 true).opened = true ∧ (opOf (openS 2 true) (coll0 2 true)).sub = 2) ∧
    (collOf (openS 3 true) (leAt (chunkB true) 0 4) (leAt (chunkB true) 4 4) = some (coll0 3 true) ∧
        grIdxOf (openS 3 true) (group (openS 3 true) (coll0 3 true).grp) 0 = some 0 ∧
          (chunkBody (chunkB true)).snd = true ∧ (coll0 3 true).opened = true ∧ (opOf (openS 3 true) (coll0 3 true)).sub = 3) ∧
    ((0 = 0 ∧ 10 = 10 ∧ Instr.reduceScatterChunk 0 (chunkB true) = Instr.reduceScatterChunk 0 (chunkB true) ∨
          0 = 1 ∧ 10 = 11 ∧ Instr.reduceScatterChunk 0 (chunkB true) = Instr.gatherChunk 0 (chunkB true) ∨
            0 = 2 ∧ 10 = 11 ∧ Instr.reduceScatterChunk 0 (chunkB true) = Instr.broadcastChunk 0 (chunkB true) ∨
              0 = 3 ∧ 10 = 9 ∧ Instr.reduceScatterChunk 0 (chunkB true) = Instr.parityScatterChunk 0 (chunkB true)) ∧
        collOf State.reset (leAt (chunkB true) 0 4) (leAt (chunkB true) 4 4) = none) ∧
    ((2 = 0 ∧ 11 = 10 ∧ Instr.broadcastChunk 0 (chunkB true) = Instr.reduceScatterChunk 0 (chunkB true) ∨
          2 = 1 ∧ 11 = 11 ∧ Instr.broadcastChunk 0 (chunkB true) = Instr.gatherChunk 0 (chunkB true) ∨
            2 = 2 ∧ 11 = 11 ∧ Instr.broadcastChunk 0 (chunkB true) = Instr.broadcastChunk 0 (chunkB true) ∨
              2 = 3 ∧ 11 = 9 ∧ Instr.broadcastChunk 0 (chunkB true) = Instr.parityScatterChunk 0 (chunkB true)) ∧
        collOf (openS 1 true) (leAt (chunkB true) 0 4) (leAt (chunkB true) 4 4) = some (coll0 1 true) ∧
          ((opOf (openS 1 true) (coll0 1 true)).sub ≠ 2 ∨
            grIdxOf (openS 1 true) (group (openS 1 true) (coll0 1 true).grp) 0 = none)) ∧
    ((1 = 0 ∧ 11 = 10 ∧ Instr.gatherChunk 0 (chunkB false) = Instr.reduceScatterChunk 0 (chunkB false) ∨
          1 = 1 ∧ 11 = 11 ∧ Instr.gatherChunk 0 (chunkB false) = Instr.gatherChunk 0 (chunkB false) ∨
            1 = 2 ∧ 11 = 11 ∧ Instr.gatherChunk 0 (chunkB false) = Instr.broadcastChunk 0 (chunkB false) ∨
              1 = 3 ∧ 11 = 9 ∧ Instr.gatherChunk 0 (chunkB false) = Instr.parityScatterChunk 0 (chunkB false)) ∧
        collOf (openS 1 true) (leAt (chunkB false) 0 4) (leAt (chunkB false) 4 4) = some (coll0 1 true) ∧
          (opOf (openS 1 true) (coll0 1 true)).sub = 1 ∧
            grIdxOf (openS 1 true) (group (openS 1 true) (coll0 1 true).grp) 0 = some 0 ∧
              (chunkBody (chunkB false)).snd = false) ∧
    ((0 = 0 ∧ 10 = 10 ∧ Instr.reduceScatterChunk 0 (chunkB true) = Instr.reduceScatterChunk 0 (chunkB true) ∨
          0 = 1 ∧ 10 = 11 ∧ Instr.reduceScatterChunk 0 (chunkB true) = Instr.gatherChunk 0 (chunkB true) ∨
            0 = 2 ∧ 10 = 11 ∧ Instr.reduceScatterChunk 0 (chunkB true) = Instr.broadcastChunk 0 (chunkB true) ∨
              0 = 3 ∧ 10 = 9 ∧ Instr.reduceScatterChunk 0 (chunkB true) = Instr.parityScatterChunk 0 (chunkB true)) ∧
        collOf (openS 0 false) (leAt (chunkB true) 0 4) (leAt (chunkB true) 4 4) = some (coll0 0 false) ∧
          (opOf (openS 0 false) (coll0 0 false)).sub = 0 ∧
            grIdxOf (openS 0 false) (group (openS 0 false) (coll0 0 false).grp) 0 = some 0 ∧
              (chunkBody (chunkB true)).snd = true ∧ (coll0 0 false).opened = false) ∧
    ((1 = 0 ∧ 11 = 10 ∧ Instr.gatherChunk 0 (chunkB true) = Instr.reduceScatterChunk 0 (chunkB true) ∨
          1 = 1 ∧ 11 = 11 ∧ Instr.gatherChunk 0 (chunkB true) = Instr.gatherChunk 0 (chunkB true) ∨
            1 = 2 ∧ 11 = 11 ∧ Instr.gatherChunk 0 (chunkB true) = Instr.broadcastChunk 0 (chunkB true) ∨
              1 = 3 ∧ 11 = 9 ∧ Instr.gatherChunk 0 (chunkB true) = Instr.parityScatterChunk 0 (chunkB true)) ∧
        collOf (openS 1 true) (leAt (chunkB true) 0 4) (leAt (chunkB true) 4 4) = some (coll0 1 true) ∧
          (opOf (openS 1 true) (coll0 1 true)).sub = 1 ∧
            grIdxOf (openS 1 true) (group (openS 1 true) (coll0 1 true).grp) 0 = some 0 ∧
              (chunkBody (chunkB true)).snd = true ∧ (coll0 1 true).opened = true) ∧
    ((2 = 0 ∧ 11 = 10 ∧ Instr.broadcastChunk 0 (chunkB true) = Instr.reduceScatterChunk 0 (chunkB true) ∨
          2 = 1 ∧ 11 = 11 ∧ Instr.broadcastChunk 0 (chunkB true) = Instr.gatherChunk 0 (chunkB true) ∨
            2 = 2 ∧ 11 = 11 ∧ Instr.broadcastChunk 0 (chunkB true) = Instr.broadcastChunk 0 (chunkB true) ∨
              2 = 3 ∧ 11 = 9 ∧ Instr.broadcastChunk 0 (chunkB true) = Instr.parityScatterChunk 0 (chunkB true)) ∧
        collOf (openS 2 true) (leAt (chunkB true) 0 4) (leAt (chunkB true) 4 4) = some (coll0 2 true) ∧
          (opOf (openS 2 true) (coll0 2 true)).sub = 2 ∧
            grIdxOf (openS 2 true) (group (openS 2 true) (coll0 2 true).grp) 0 = some 0 ∧
              (chunkBody (chunkB true)).snd = true ∧ (coll0 2 true).opened = true) ∧
    ((3 = 0 ∧ 9 = 10 ∧ Instr.parityScatterChunk 0 (chunkB true) = Instr.reduceScatterChunk 0 (chunkB true) ∨
          3 = 1 ∧ 9 = 11 ∧ Instr.parityScatterChunk 0 (chunkB true) = Instr.gatherChunk 0 (chunkB true) ∨
            3 = 2 ∧ 9 = 11 ∧ Instr.parityScatterChunk 0 (chunkB true) = Instr.broadcastChunk 0 (chunkB true) ∨
              3 = 3 ∧ 9 = 9 ∧ Instr.parityScatterChunk 0 (chunkB true) = Instr.parityScatterChunk 0 (chunkB true)) ∧
        collOf (openS 3 true) (leAt (chunkB true) 0 4) (leAt (chunkB true) 4 4) = some (coll0 3 true) ∧
          (opOf (openS 3 true) (coll0 3 true)).sub = 3 ∧
            grIdxOf (openS 3 true) (group (openS 3 true) (coll0 3 true).grp) 0 = some 0 ∧
              (chunkBody (chunkB true)).snd = true ∧ (coll0 3 true).opened = true) := by and_intros <;> decide +kernel
theorem wit_FencesWaitForWhatTheyCover :
    (activeRun (fenceS Phase.started) 0 12 0 = some (fenceR Phase.started) ∧ (fenceR Phase.started).phase ≠ Phase.running) ∧
    (activeRun (fenceS Phase.running) 0 12 0 = some (fenceR Phase.running) ∧ (fenceR Phase.running).phase = Phase.running) ∧
    (List.find? (fun f => f.queue == 0) fencedS.fences = some fence0) ∧
    (List.find? (fun f => f.queue == 0) (fenceS Phase.running).fences = none) := by and_intros <;> decide +kernel
theorem wit_RootRunsItsRange :
    (activeRun (rootS Phase.started [] false) 0 15 0 = some (rootR Phase.started []) ∧
        (rootR Phase.started []).phase = Phase.started ∧
          rootOk (rootS Phase.started [] false) (rootR Phase.started []).raw false = false) ∧
    (activeRun (wr (rootS Phase.running [6] true) (R.SLC_STAT_OUT 0) 1) 0 15 0 = some (rootR Phase.running [6]) ∧
        ((rootR Phase.running [6]).phase = Phase.started ∧
              rootOk (wr (rootS Phase.running [6] true) (R.SLC_STAT_OUT 0) 1) (rootR Phase.running [6]).raw false = true ∨
            (rootR Phase.running [6]).phase = Phase.running) ∧
          rootOut (wr (rootS Phase.running [6] true) (R.SLC_STAT_OUT 0) 1) = true) ∧
    (activeRun (rootS Phase.running [6, 2] false) 0 15 0 = some (rootR Phase.running [6, 2]) ∧
        ((rootR Phase.running [6, 2]).phase = Phase.started ∧
              rootOk (rootS Phase.running [6, 2] false) (rootR Phase.running [6, 2]).raw false = true ∨
            (rootR Phase.running [6, 2]).phase = Phase.running) ∧
          rootOut (rootS Phase.running [6, 2] false) = false ∧
            (rootGo (rootR Phase.running [6, 2]).raw false
                      (List.drop
                        (if ((rootR Phase.running [6, 2]).phase == Phase.started) = true then
                            { k := 0, got := false, worst := 0, place := 0, above := 0,
                              warn := rd (rootS Phase.running [6, 2] false) R.ROOT_RESID_WARN }
                          else RootPos.ofAux (rootR Phase.running [6, 2]).aux).k
                        (rootStats
                          (if ((rootR Phase.running [6, 2]).phase == Phase.started) = true then
                            rootForm (wakeDomain (begin (rootS Phase.running [6, 2] false)) 13)
                              (rootR Phase.running [6, 2]).raw false
                          else begin (rootS Phase.running [6, 2] false))
                          (rootR Phase.running [6, 2]).raw false))
                      (if ((rootR Phase.running [6, 2]).phase == Phase.started) = true then
                        { k := 0, got := false, worst := 0, place := 0, above := 0,
                          warn := rd (rootS Phase.running [6, 2] false) R.ROOT_RESID_WARN }
                      else RootPos.ofAux (rootR Phase.running [6, 2]).aux)
                      (if ((rootR Phase.running [6, 2]).phase == Phase.started) = true then
                        rootForm (wakeDomain (begin (rootS Phase.running [6, 2] false)) 13) (rootR Phase.running [6, 2]).raw
                          false
                      else begin (rootS Phase.running [6, 2] false))).snd.snd =
                IterEnd.done ∧
              writesAcked
                  (rootGo (rootR Phase.running [6, 2]).raw false
                      (List.drop
                        (if ((rootR Phase.running [6, 2]).phase == Phase.started) = true then
                            { k := 0, got := false, worst := 0, place := 0, above := 0,
                              warn := rd (rootS Phase.running [6, 2] false) R.ROOT_RESID_WARN }
                          else RootPos.ofAux (rootR Phase.running [6, 2]).aux).k
                        (rootStats
                          (if ((rootR Phase.running [6, 2]).phase == Phase.started) = true then
                            rootForm (wakeDomain (begin (rootS Phase.running [6, 2] false)) 13)
                              (rootR Phase.running [6, 2]).raw false
                          else begin (rootS Phase.running [6, 2] false))
                          (rootR Phase.running [6, 2]).raw false))
                      (if ((rootR Phase.running [6, 2]).phase == Phase.started) = true then
                        { k := 0, got := false, worst := 0, place := 0, above := 0,
                          warn := rd (rootS Phase.running [6, 2] false) R.ROOT_RESID_WARN }
                      else RootPos.ofAux (rootR Phase.running [6, 2]).aux)
                      (if ((rootR Phase.running [6, 2]).phase == Phase.started) = true then
                        rootForm (wakeDomain (begin (rootS Phase.running [6, 2] false)) 13) (rootR Phase.running [6, 2]).raw
                          false
                      else begin (rootS Phase.running [6, 2] false))).fst
                  rootOwner =
                true) ∧
    (activeRun (rootS Phase.running [6, 2] true) 0 15 0 = some (rootR Phase.running [6, 2]) ∧
        ((rootR Phase.running [6, 2]).phase = Phase.started ∧
              rootOk (rootS Phase.running [6, 2] true) (rootR Phase.running [6, 2]).raw false = true ∨
            (rootR Phase.running [6, 2]).phase = Phase.running) ∧
          rootOut (rootS Phase.running [6, 2] true) = false ∧
            ((rootGo (rootR Phase.running [6, 2]).raw false
                        (List.drop
                          (if ((rootR Phase.running [6, 2]).phase == Phase.started) = true then
                              { k := 0, got := false, worst := 0, place := 0, above := 0,
                                warn := rd (rootS Phase.running [6, 2] true) R.ROOT_RESID_WARN }
                            else RootPos.ofAux (rootR Phase.running [6, 2]).aux).k
                          (rootStats
                            (if ((rootR Phase.running [6, 2]).phase == Phase.started) = true then
                              rootForm (wakeDomain (begin (rootS Phase.running [6, 2] true)) 13)
                                (rootR Phase.running [6, 2]).raw false
                            else begin (rootS Phase.running [6, 2] true))
                            (rootR Phase.running [6, 2]).raw false))
                        (if ((rootR Phase.running [6, 2]).phase == Phase.started) = true then
                          { k := 0, got := false, worst := 0, place := 0, above := 0,
                            warn := rd (rootS Phase.running [6, 2] true) R.ROOT_RESID_WARN }
                        else RootPos.ofAux (rootR Phase.running [6, 2]).aux)
                        (if ((rootR Phase.running [6, 2]).phase == Phase.started) = true then
                          rootForm (wakeDomain (begin (rootS Phase.running [6, 2] true)) 13)
                            (rootR Phase.running [6, 2]).raw false
                        else begin (rootS Phase.running [6, 2] true))).snd.snd =
                  IterEnd.done ∧
                writesAcked
                    (rootGo (rootR Phase.running [6, 2]).raw false
                        (List.drop
                          (if ((rootR Phase.running [6, 2]).phase == Phase.started) = true then
                              { k := 0, got := false, worst := 0, place := 0, above := 0,
                                warn := rd (rootS Phase.running [6, 2] true) R.ROOT_RESID_WARN }
                            else RootPos.ofAux (rootR Phase.running [6, 2]).aux).k
                          (rootStats
                            (if ((rootR Phase.running [6, 2]).phase == Phase.started) = true then
                              rootForm (wakeDomain (begin (rootS Phase.running [6, 2] true)) 13)
                                (rootR Phase.running [6, 2]).raw false
                            else begin (rootS Phase.running [6, 2] true))
                            (rootR Phase.running [6, 2]).raw false))
                        (if ((rootR Phase.running [6, 2]).phase == Phase.started) = true then
                          { k := 0, got := false, worst := 0, place := 0, above := 0,
                            warn := rd (rootS Phase.running [6, 2] true) R.ROOT_RESID_WARN }
                        else RootPos.ofAux (rootR Phase.running [6, 2]).aux)
                        (if ((rootR Phase.running [6, 2]).phase == Phase.started) = true then
                          rootForm (wakeDomain (begin (rootS Phase.running [6, 2] true)) 13)
                            (rootR Phase.running [6, 2]).raw false
                        else begin (rootS Phase.running [6, 2] true))).fst
                    rootOwner =
                  false ∨
              (rootGo (rootR Phase.running [6, 2]).raw false
                      (List.drop
                        (if ((rootR Phase.running [6, 2]).phase == Phase.started) = true then
                            { k := 0, got := false, worst := 0, place := 0, above := 0,
                              warn := rd (rootS Phase.running [6, 2] true) R.ROOT_RESID_WARN }
                          else RootPos.ofAux (rootR Phase.running [6, 2]).aux).k
                        (rootStats
                          (if ((rootR Phase.running [6, 2]).phase == Phase.started) = true then
                            rootForm (wakeDomain (begin (rootS Phase.running [6, 2] true)) 13)
                              (rootR Phase.running [6, 2]).raw false
                          else begin (rootS Phase.running [6, 2] true))
                          (rootR Phase.running [6, 2]).raw false))
                      (if ((rootR Phase.running [6, 2]).phase == Phase.started) = true then
                        { k := 0, got := false, worst := 0, place := 0, above := 0,
                          warn := rd (rootS Phase.running [6, 2] true) R.ROOT_RESID_WARN }
                      else RootPos.ofAux (rootR Phase.running [6, 2]).aux)
                      (if ((rootR Phase.running [6, 2]).phase == Phase.started) = true then
                        rootForm (wakeDomain (begin (rootS Phase.running [6, 2] true)) 13) (rootR Phase.running [6, 2]).raw
                          false
                      else begin (rootS Phase.running [6, 2] true))).snd.snd =
                IterEnd.wait)) := by and_intros <;> decide +kernel
theorem wit_CapCommandAndReports :
    (activeRun (capS Phase.started) 0 5 0 = some (capR Phase.started) ∧ (capR Phase.started).phase ≠ Phase.running) ∧
    (activeRun (capS Phase.running) 0 5 0 = some (capR Phase.running) ∧ (capR Phase.running).phase = Phase.running) ∧
    (peerIdx (capS Phase.running) 1 = some 1 ∧
        canCap (capS Phase.running) = true ∧
          capped (capS Phase.running) < bits (leAt (repB 7) 0 32) 47 0 ∧
            bits (leAt (repB 7) 0 32) 47 0 ≤ capped (capS Phase.running) + 2 ∧
              bits (leAt (repB 7) 0 32) 55 48 = attemptOf (capS Phase.running) (bits (leAt (repB 7) 0 32) 47 0)) ∧
    (peerIdx (capS Phase.running) 1 = some 1 ∧
        (canCap (capS Phase.running) = false ∨
          bits (leAt (repB 6) 0 32) 47 0 ≤ capped (capS Phase.running) ∨
            capped (capS Phase.running) + 2 < bits (leAt (repB 6) 0 32) 47 0 ∨
              bits (leAt (repB 6) 0 32) 55 48 ≠ attemptOf (capS Phase.running) (bits (leAt (repB 6) 0 32) 47 0))) ∧
    (peerIdx (capS Phase.running) 9 = none) ∧
    ((epochOf ownS 7).own = 1 ∧ (capSum ownS (epochOf ownS 7)).allIn = false ∧ capped ownS < 7 ∧ canCap ownS = true) ∧
    (peerIdx (capS Phase.running) 1 = some 1 ∧ canCap (capS Phase.running) = true) := by and_intros <;> decide +kernel
theorem wit_DrainSendsAndAcknowledges :
    (List.find? (fun g => List.filter (fun h => decide (g.epoch ≤ grantFrom segS2 h.fst)) (dueHolders segS2 g) != [])
            (List.filter (fun g => g.own && segStream g == 12 && decide (capped segS2 < g.epoch) && !segBad segS2 g)
              segS2.cod.segs) =
          some (seg0 3) ∧
        segOk (segBytes segS2 (seg0 3)) = true) ∧
    (List.find?
            (fun g =>
              List.filter (fun h => decide (g.epoch ≤ grantFrom (segS [seg0 3]) h.fst)) (dueHolders (segS [seg0 3]) g) !=
                [])
            (List.filter
              (fun g =>
                g.own && segStream g == 12 && decide (capped (segS [seg0 3]) < g.epoch) && !segBad (segS [seg0 3]) g)
              (segS [seg0 3]).cod.segs) =
          some (seg0 3) ∧
        segOk (segBytes (segS [seg0 3]) (seg0 3)) = false) ∧
    (List.find? (fun g => List.filter (fun h => decide (g.epoch ≤ grantFrom segS9 h.fst)) (dueHolders segS9 g) != [])
          (List.filter (fun g => g.own && segStream g == 0 && decide (capped segS9 < g.epoch) && !segBad segS9 g)
            segS9.cod.segs) =
        none) ∧
    (peerHolder outSt 1 = some 1 ∧ bit (leAt (dAck 1) 0 32) 144 = true) ∧
    (peerHolder outSt 1 = some 1 ∧
        bit (leAt (dAck 0) 0 32) 144 = false ∧
          outSt.cod.outs = [out0] ∧
            out0.slice = bits (leAt (dAck 0) 0 32) 51 48 ∧
              out0.epoch = bits (leAt (dAck 0) 0 32) 47 0 ∧
                out0.attempt = bits (leAt (dAck 0) 0 32) 63 56 ∧
                  out0.attempt = attemptOf outSt out0.epoch ∧
                    Machine.get out0.acked 1 < bits (leAt (dAck 0) 0 32) 95 64 + 1 ∧
                      bits (leAt (dAck 0) 0 32) 95 64 + 1 ≤ Machine.get out0.sent 1) ∧
    (List.find?
          (fun i =>
            i.rank == 1 && i.slice == 0 && i.epoch == 7 && i.attempt == attemptOf jobS 7 &&
              decide (i.told < durable jobS i))
          jobS.cod.ins =
        none) ∧
    (List.find?
          (fun i =>
            i.rank == 1 && i.slice == 0 && i.epoch == 7 && i.attempt == attemptOf inS 7 && decide (i.told < durable inS i))
          inS.cod.ins =
        some in0) ∧
    (List.filter (fun r => decide (Machine.get (outOf jobS 0 0 7).acked r < Machine.get (outOf jobS 0 0 7).sent r))
          (List.range 16 ++ mirrorHolders jobS) =
        []) ∧
    (List.filter (fun r => decide (Machine.get (outOf outSt 0 0 7).acked r < Machine.get (outOf outSt 0 0 7).sent r))
          (List.range 16 ++ mirrorHolders outSt) ≠
        []) ∧
    (peerRank v2S 1 = some 1) := by and_intros <;> decide +kernel

end W03

namespace W04

def joinR (p : Phase) : Run := runOf (cmd 0xA 0 (9 + at' 7 40 + at' 3 86)) p
def joinS (p : Phase) : State := withRun (joinR p) jobS
def startB (digest : Nat) : Bytes := leBytes 16 (at' digest 48)
def begunS (going : Bool) : State := { jobS with comb := { jobS.comb with started := true, going := going } }
def ackB (code : Nat) : Bytes := leBytes 16 (at' 1 48 + at' code 16)
def waitS : State := wr jobS R.CMB_RANK_STATE 1
def req0 : Req := { src := 0, tag := 5 }
def toldS : State := { wr jobS R.TIME_TOD (10 ^ 12) with comb := { jobS.comb with told := [(1, 10 ^ 12 + 1)] } }
def leavingS : State := { jobS with comb := { jobS.comb with leave := some (0, 3, false) } }
def seenS : State := { jobS with comb := { jobS.comb with lostSeen := [2] } }
def leaveR (tag : Nat) : Run := runOf (cmd 0xB 0 tag) .started
def leaveR1 (tag : Nat) : Run := runOf (cmd 0xB 1 tag) .started
def leaveS (r : Run) : State := withRun r jobS
def leftS : State := { leaveS (leaveR 9) with comb := { jobS.comb with leave := some (0, 3, false) } }
def downS (l : Option (Nat × Nat × Bool)) : State := { wr jobS R.CMB_RANK_STATE 8 with comb := { jobS.comb with leave := l } }
def rbR (p : Phase) : Run := runOf (cmd 9 0 (6 + 5 * 2 ^ 48)) p
def rb0 (undone : Bool) : RbRun := { queue := 0, idx := 3, target := 6, reason := 5, newest := 8, undone := undone, told := false }
def rbS (p : Phase) (u : Bool) : State := { withRun (rbR p) jobS with comb := { jobS.comb with rb := some (rb0 u) } }
def rbB : Bytes := leBytes 16 (at' 6 80 + at' 1 48)
def futureR : Run := runOf (cmd 9 0 (7 + 5 * 2 ^ 48)) .unstarted
def wagB (e st : Nat) : Bytes := leBytes 22 (at' st 48 + e)

theorem wit_JoinAndStartOverTheTree :
    (activeRun (joinS Phase.started) 0 10 0 = some (joinR Phase.started)) ∧
    (activeRun (joinS Phase.running) 0 10 0 = some (joinR Phase.running)) ∧
    (activeRun (wr (joinS Phase.started) R.CMB_RANK_STATE 8) 0 10 0 = some (joinR Phase.started)) ∧
    (peerIdx (begunS false) 1 = some 1 ∧
        (begunS false).comb.started = true ∧
          (childrenOf (begunS false) (ownIdx (begunS false))).contains 1 = true ∧ bits (leAt (ackB 9) 0 16) 23 16 ≠ 0) ∧
    (peerIdx (begunS false) 1 = some 1 ∧
        (begunS false).comb.started = true ∧
          (childrenOf (begunS false) (ownIdx (begunS false))).contains 1 = true ∧ bits (leAt (ackB 0) 0 16) 23 16 = 0) ∧
    (jobS.comb.started = false ∨ peerIdx jobS 1 = none) ∧
    (memberState jobS ≠ 1 ∨ jobS.comb.going = true ∨ 9 ≠ rd jobS R.CMB_JOB_JOB_TAG ∨ 0 ≠ rd jobS R.CMB_JOB_MEMB_EPOCH) ∧
    (memberState waitS = 1 ∧ waitS.comb.going = false ∧ 9 = rd waitS R.CMB_JOB_JOB_TAG ∧ 0 = rd waitS R.CMB_JOB_MEMB_EPOCH) ∧
    (jobS.comb.started = false ∨ jobS.comb.going = true ∨ jobS.comb.acked = true) ∧
    ((begunS false).comb.started = true ∧ (begunS false).comb.going = false ∧ (begunS false).comb.acked = false) := by and_intros <;> decide +kernel
theorem wit_LossesAreDeclaredAndLearned :
    (jobS.chip.held = false) ∧
    (((memRole (member toldS 1) = 0 ∨ memRole (member toldS 1) = 1) ∧ memComb (member toldS 1) = ownComb toldS) ∧
        1 < toldS.comb.listN ∧
          (Machine.get toldS.comb.told 1 ≠ 0 ∧
              rd toldS R.TIME_TOD + 1 ≤ Machine.get toldS.comb.told 1 + 100000 * rd toldS R.CMB_LOST_TMO) ∧
            Machine.get toldS.comb.heard 1 + 100000 * rd toldS R.CMB_LOST_TMO ≤ rd toldS R.TIME_TOD + 1) ∧
    (¬(((memRole (member toldS 2) = 0 ∨ memRole (member toldS 2) = 1) ∧ memComb (member toldS 2) = ownComb toldS) ∧
          2 < toldS.comb.listN ∧
            (Machine.get toldS.comb.told 2 ≠ 0 ∧
                rd toldS R.TIME_TOD + 1 ≤ Machine.get toldS.comb.told 2 + 100000 * rd toldS R.CMB_LOST_TMO) ∧
              Machine.get toldS.comb.heard 2 + 100000 * rd toldS R.CMB_LOST_TMO ≤ rd toldS R.TIME_TOD + 1)) ∧
    (peerIdx jobS 1 = some 1) ∧
    (peerIdx jobS 9 = none) ∧
    (memberState State.reset = 0) ∧
    (peerIdx leavingS 1 = some 1 ∧ memberState leavingS ≠ 0 ∧ (leavingS.comb.leave ≠ none ∨ memberState leavingS = 8)) ∧
    (peerIdx jobS 1 = some 1 ∧ jobS.comb.leave = none ∧ memberState jobS ≠ 8 ∧ memberState jobS ≠ 0) ∧
    (jobS.comb.listN ≤ bits (leAt (leBytes 16 (at' 3 34)) 0 16) 47 34 ∨
        jobS.comb.lostSeen.contains (bits (leAt (leBytes 16 (at' 3 34)) 0 16) 47 34) = true) ∧
    (seenS.comb.listN ≤ bits (leAt (leBytes 16 (at' 2 34)) 0 16) 47 34 ∨
        seenS.comb.lostSeen.contains (bits (leAt (leBytes 16 (at' 2 34)) 0 16) 47 34) = true) ∧
    (bits (leAt (leBytes 16 (at' 2 34)) 0 16) 47 34 < jobS.comb.listN ∧
        jobS.comb.lostSeen.contains (bits (leAt (leBytes 16 (at' 2 34)) 0 16) 47 34) = false) ∧
    (2 < jobS.comb.listN ∧ memState (member jobS 2) ≠ 7) := by and_intros <;> decide +kernel
theorem wit_LeaveTearsDownAndReleases :
    ((0 = 0 ∧ Instr.leaveDrain 0 = Instr.leaveDrain 0 ∨ 0 = 1 ∧ Instr.leaveDrain 0 = Instr.leaveImmediate 0) ∧
        activeRun leftS 0 11 0 = some (leaveR 9) ∧ leftS.comb.leave = some (0, 3, false)) ∧
    ((0 = 0 ∧ Instr.leaveDrain 0 = Instr.leaveDrain 0 ∨ 0 = 1 ∧ Instr.leaveDrain 0 = Instr.leaveImmediate 0) ∧
        activeRun (leaveS (leaveR 8)) 0 11 0 = some (leaveR 8) ∧
          (leaveS (leaveR 8)).comb.leave = none ∧
            ([1, 2, 3, 4, 6].contains (memberState (leaveS (leaveR 8))) = false ∨
              opd (leaveR 8).raw 23 0 ≠ rd (leaveS (leaveR 8)) R.CMB_JOB_JOB_TAG)) ∧
    ((0 = 0 ∧ Instr.leaveDrain 0 = Instr.leaveDrain 0 ∨ 0 = 1 ∧ Instr.leaveDrain 0 = Instr.leaveImmediate 0) ∧
        activeRun (leaveS (leaveR 9)) 0 11 0 = some (leaveR 9) ∧
          (leaveS (leaveR 9)).comb.leave = none ∧
            [1, 2, 3, 4, 6].contains (memberState (leaveS (leaveR 9))) = true ∧
              opd (leaveR 9).raw 23 0 = rd (leaveS (leaveR 9)) R.CMB_JOB_JOB_TAG) ∧
    ((1 = 0 ∧ Instr.leaveImmediate 0 = Instr.leaveDrain 0 ∨ 1 = 1 ∧ Instr.leaveImmediate 0 = Instr.leaveImmediate 0) ∧
        activeRun (leaveS (leaveR1 9)) 0 11 1 = some (leaveR1 9) ∧
          (leaveS (leaveR1 9)).comb.leave = none ∧
            [1, 2, 3, 4, 6].contains (memberState (leaveS (leaveR1 9))) = true ∧
              opd (leaveR1 9).raw 23 0 = rd (leaveS (leaveR1 9)) R.CMB_JOB_JOB_TAG) ∧
    (memberState jobS ≠ 8) ∧
    (memberState (downS none) = 8 ∧ (downS none).comb.leave = none) ∧
    (memberState (downS (some (0, 3, true))) = 8 ∧ (downS (some (0, 3, true))).comb.leave = some (0, 3, true)) := by and_intros <;> decide +kernel
theorem wit_RollbackCancelsUndoesAndAgrees :
    (activeRun (withRun (rbR Phase.started) jobS) 0 9 0 = some (rbR Phase.started)) ∧
    (activeRun (rbS Phase.running false) 0 9 0 = some (rbR Phase.running)) ∧
    (peerIdx jobS 9 = none) ∧
    (peerIdx (rbS Phase.running true) 1 = some 1) ∧
    ((rbS Phase.running true).comb.rb = some (rb0 true) ∧
        (rb0 true).undone = true ∧ bits (leAt rbB 0 16) 127 80 = (rb0 true).target) ∧
    (∀ (r : RbRun), jobS.comb.rb = some r → r.undone = false ∨ bits (leAt (startB 0) 0 16) 127 80 ≠ r.target) ∧
    (jobS.comb.rb = none) ∧
    ((rbS Phase.running true).comb.rb = some (rb0 true)) ∧
    ((qOf (enQ (withRun futureR jobS)) 0).en = true ∧
        oldestUnstarted (qOf (enQ (withRun futureR jobS)) 0) = some futureR ∧
          (opcodeOf futureR.raw = 9 ∨ opcodeOf futureR.raw = 6) ∧
            capped (enQ (withRun futureR jobS)) < opd futureR.raw 47 0 ∧
              judge (enQ (withRun futureR jobS)) 0 futureR = Verdict.wait) := by and_intros <;> decide +kernel
theorem wit_WagglesAndReports :
    (peerIdx (tput jobS 14 0 1 (memE 1 1 0 0 7)) 1 = some 1 ∧
        (memComb (member (tput jobS 14 0 1 (memE 1 1 0 0 7)) 1) ≠ ownComb (tput jobS 14 0 1 (memE 1 1 0 0 7)) ∨
          memState (member (tput jobS 14 0 1 (memE 1 1 0 0 7)) 1) = 7)) ∧
    (peerIdx jobS 1 = some 1 ∧ memComb (member jobS 1) = ownComb jobS ∧ memState (member jobS 1) ≠ 7) ∧
    (peerIdx jobS 9 = none) ∧
    (peerIdx jobS 1 = some 1) := by and_intros <;> decide +kernel

end W04

namespace W05

def rebR (sp : Nat) (p : Phase) : Run := runOf (cmd 7 0 (1 + sp * 16)) p
def rebS (sp : Nat) (p : Phase) : State := withRun (rebR sp p) jobS
def lostS (sp : Nat) : State := tput (rebS sp .started) 0x0E 0 1 (memE 1 1 0 0 7)
/-- Position 2 a STANDBY, rank 1 LOST. -/
def standS : State := tput (lostS 2) 0x0E 0 2 (memE 2 2 0 1 3)
/-- This block itself a STANDBY. -/
def selfS : State := wr (tput (lostS 0) 0x0E 0 0 (memE 0 0 0 1 3)) R.CMB_RANK_STATE 3
def badReq : Run := rebR 9 .started
def devS : State := { jobS with rbd := { jobS.rbd with cmd := some (0, 3), rank := 0 } }
def devR : Rebuild := { devS.rbd with next := 6 }
def rqB (n x : Nat) : Bytes := leBytes 16 (at' x 80 + at' n 48) ++ leBytes 4 0 ++ leBytes 4 4
def askS : State := { devS with rbd := { devS.rbd with out := [(4, 0, 2, 6)] } }
def coll4 : Coll :=
  { queue := 0, idx := 3, grp := 1, gtag := 77, seq := 3, digest := 5, opened := true, kids := [], told := false, acks := [],
    staged := [], ends := [], formed := [], owner := 2 ^ 19, next := 0, reading := false, lost := false, win := 4 }
def coll4S : State := { jobS with col := { jobS.col with run := [coll4] } }
def rbGt : Nat := 9 * 256 + 0xE0
def reqsS : State := { jobS with comb := { jobS.comb with reqs := [⟨1, 4, 0, 2, 6, 0⟩] } }
def resR (src : Nat) (p : Phase) : Run := runOf (cmd 8 0 (6 + src * 2 ^ 48)) p
def resS (src : Nat) (p : Phase) : State :=
  let s := withRun (resR src p) jobS
  { s with comb := { s.comb with needRestore := true } }
/-- A spine with one record of 256 bytes that names a seal image of an epoch and a peer. -/
def hdr0 (e p : Nat) : Nat := at' 0x4B335350 0 + at' 256 416 + at' 1 384 + at' e 304 + at' p 356 + at' 1 374
def hdr1 (e p : Nat) : Nat := hdr0 e p + at' (crc64 (leBytes 64 (hdr0 e p) ++ List.replicate 192 0)) 448
def nvmS (e p : Nat) : State :=
  { wr (wr (resS 1 .started) R.SPN_SLOTS 1) R.SPN_STAT_NVM_BAD 0 with nvm := mwrite [] 0 (leBytes 64 (hdr1 e p)) }
def repB (bits : Nat) : Bytes := leBytes 16 (at' 6 80 + at' bits 48 + at' 1 34) ++ leBytes 6 7
def rs0 (src round : Nat) : RsRun :=
  { queue := 0, idx := 3, epoch := 6, source := src, round := round, fresh := false, target := 0, split := 0, told := 0 }
def rsS (src round : Nat) : State := { resS 0 .running with comb := { jobS.comb with rs := some (rs0 src round) } }
def sealR (e : Nat) : Run := runOf (cmd 6 0 e) .started
def sealS (e : Nat) : State := wr (withRun (sealR e) jobS) R.SPN_SEAL_PEER 1
def run0 : SealRun := { queue := 0, idx := 3, epoch := 6, half := 0, peer := 1, cells := 0, next := 0, ahead := [], reading := [], crcs := [], late := [], phase := 3 }
def sealing (staged : Option (Nat × Nat × Nat)) : State :=
  { sealS 6 with spine := { jobS.spine with run := some run0, staged := staged } }
def runB : SealRun := { run0 with peer := 0xFFF }
def sealingB : State := setTier { sealS 6 with spine := { jobS.spine with run := some runB, staged := some (1, 256, 4) } } 1
  { tierOf State.reset 1 with reqs := [{ tag := 3, addr := 8, write := true, owner := spineOwner, issued := true }] }
def cellB (hdr : Nat) (good : Bool) : Bytes := leBytes 16 hdr ++ (if good then List.replicate 65536 0 else []) ++
  (if good then leBytes 4 (crc32 (List.replicate 65536 0)) else [])
def storeS : State := { wr (wr jobS R.SPN_SEALIN_FROM 1) R.SPN_SEALIN_CELLS 8 with spine := { jobS.spine with held := [(0, 6)] } }
def load0 : SealLoad := { queue := 0, idx := 3, hdr := hdr1 6 1, slot := 0, got := [], bad := [] }
def loadS : State := { nvmS 6 1 with spine := { jobS.spine with load := some load0 } }
def shadS : State := tput jobS 0x0E 0 0 (memE 0 1 0 3 4)

theorem wit_RebuildStartsOrWaits :
    (activeRun (rebS 4095 Phase.running) 0 7 0 = some (rebR 4095 Phase.running) ∧
        (rebR 4095 Phase.running).phase = Phase.running) ∧
    (activeRun (tput (rebS 4095 Phase.started) 14 0 1 (memE 1 5 0 0 7)) 0 7 0 = some (rebR 4095 Phase.started) ∧
        (rebR 4095 Phase.started).phase ≠ Phase.running ∧
          ((uncapped (tput (rebS 4095 Phase.started) 14 0 1 (memE 1 5 0 0 7))).any
                (isOpen (tput (rebS 4095 Phase.started) 14 0 1 (memE 1 5 0 0 7))) =
              true ∨
            rankIdx (tput (rebS 4095 Phase.started) 14 0 1 (memE 1 5 0 0 7)) (opd (rebR 4095 Phase.started).raw 3 0) = none)) ∧
    (activeRun (lostS 4095) 0 7 0 = some (rebR 4095 Phase.started) ∧
        (rebR 4095 Phase.started).phase ≠ Phase.running ∧
          (uncapped (lostS 4095)).any (isOpen (lostS 4095)) = false ∧
            opd (rebR 4095 Phase.started).raw 15 4 = 4095 ∧
              rankIdx (lostS 4095) (opd (rebR 4095 Phase.started).raw 3 0) = some 1) ∧
    (activeRun (rebS 4095 Phase.started) 0 7 0 = some (rebR 4095 Phase.started) ∧
        (rebR 4095 Phase.started).phase ≠ Phase.running ∧
          (uncapped (rebS 4095 Phase.started)).any (isOpen (rebS 4095 Phase.started)) = false ∧
            opd (rebR 4095 Phase.started).raw 15 4 = 4095 ∧
              rankIdx (rebS 4095 Phase.started) (opd (rebR 4095 Phase.started).raw 3 0) = some 1) ∧
    (activeRun selfS 0 7 0 = some (rebR 0 Phase.started) ∧
        (rebR 0 Phase.started).phase ≠ Phase.running ∧
          (uncapped selfS).any (isOpen selfS) = false ∧
            opd (rebR 0 Phase.started).raw 15 4 ≠ 4095 ∧
              peerIdx selfS (opd (rebR 0 Phase.started).raw 15 4) = some 0 ∧
                deviceKind selfS (opd (rebR 0 Phase.started).raw 3 0) 0 ≠ 0 ∧
                  (rankIdx selfS (opd (rebR 0 Phase.started).raw 3 0)).isSome = true ∧
                    0 =
                      ownIdx
                        (takeRank (begin selfS) (opd (rebR 0 Phase.started).raw 3 0) 0
                          (deviceKind selfS (opd (rebR 0 Phase.started).raw 3 0) 0))) ∧
    (activeRun standS 0 7 0 = some (rebR 2 Phase.started) ∧
        (rebR 2 Phase.started).phase ≠ Phase.running ∧
          (uncapped standS).any (isOpen standS) = false ∧
            opd (rebR 2 Phase.started).raw 15 4 ≠ 4095 ∧
              peerIdx standS (opd (rebR 2 Phase.started).raw 15 4) = some 2 ∧
                deviceKind standS (opd (rebR 2 Phase.started).raw 3 0) 2 ≠ 0 ∧
                  (rankIdx standS (opd (rebR 2 Phase.started).raw 3 0)).isSome = true ∧
                    2 ≠
                      ownIdx
                        (takeRank (begin standS) (opd (rebR 2 Phase.started).raw 3 0) 2
                          (deviceKind standS (opd (rebR 2 Phase.started).raw 3 0) 2))) ∧
    (activeRun (rebS 9 Phase.started) 0 7 0 = some badReq ∧
        badReq.phase ≠ Phase.running ∧
          (uncapped (rebS 9 Phase.started)).any (isOpen (rebS 9 Phase.started)) = false ∧
            opd badReq.raw 15 4 ≠ 4095 ∧
              ∀ (y : Nat),
                peerIdx (rebS 9 Phase.started) (opd badReq.raw 15 4) = some y →
                  deviceKind (rebS 9 Phase.started) (opd badReq.raw 3 0) y = 0) := by and_intros <;> decide +kernel
theorem wit_RebuildRequestsAndChunks :
    (jobS.rbd.cmd = none ∨
        rd jobS R.CMB_RB_WIN - stripesOut jobS = 0 ∨ (nextRange jobS (rd jobS R.CMB_RB_WIN - stripesOut jobS)).fst = none) ∧
    (devS.rbd.cmd.isSome = true ∧
        rd devS R.CMB_RB_WIN - stripesOut devS ≠ 0 ∧
          nextRange devS (rd devS R.CMB_RB_WIN - stripesOut devS) =
            (some (0, (nextRange devS 64).fst.get!.snd), (nextRange devS 64).snd)) ∧
    (bits (leAt (rqB 0 6) 0 16) 71 48 = 0 ∨ 64 < bits (leAt (rqB 0 6) 0 16) 71 48 ∨ memRole (member jobS (ownIdx jobS)) ≠ 0) ∧
    (memRole (member jobS (ownIdx jobS)) = 0 ∧ 0 < bits (leAt (rqB 2 6) 0 16) 71 48 ∧ bits (leAt (rqB 2 6) 0 16) 71 48 ≤ 64) ∧
    (memRole (member (tput jobS 14 0 1 (memE 1 1 0 0 6)) (ownIdx (tput jobS 14 0 1 (memE 1 1 0 0 6)))) = 0 ∧
        0 < bits (leAt (rqB 2 6) 0 16) 71 48 ∧ bits (leAt (rqB 2 6) 0 16) 71 48 ≤ 64) ∧
    (memRole (member (tput jobS 14 0 1 (memE 1 1 0 0 6)) (ownIdx (tput jobS 14 0 1 (memE 1 1 0 0 6)))) = 0 ∧
        0 < bits (leAt (rqB 2 7) 0 16) 71 48 ∧ bits (leAt (rqB 2 7) 0 16) 71 48 ≤ 64) ∧
    (collOf coll4S (leAt (chunkMsg 77 3 0 [1]) 0 4) (leAt (chunkMsg 77 3 0 [1]) 4 4) = some coll4) ∧
    (collOf jobS (leAt (chunkMsg 77 3 0 [1]) 0 4) (leAt (chunkMsg 77 3 0 [1]) 4 4) = none ∧
        (leAt (chunkMsg 77 3 0 [1]) 0 4 / 256 ≠ rd jobS R.CMB_JOB_JOB_TAG ∨
          bits (leAt (chunkMsg 77 3 0 [1]) 0 4) 7 4 ≠ 14 ∨ isAbsent jobS = true)) ∧
    (collOf askS (leAt (chunkMsg rbGt 4 0 [1]) 0 4) (leAt (chunkMsg rbGt 4 0 [1]) 4 4) = none ∧
        leAt (chunkMsg rbGt 4 0 [1]) 0 4 / 256 = rd askS R.CMB_JOB_JOB_TAG ∧
          bits (leAt (chunkMsg rbGt 4 0 [1]) 0 4) 7 4 = 14 ∧ isAbsent askS = false) ∧
    (collOf jobS (leAt (chunkMsg rbGt 4 0 [1]) 0 4) (leAt (chunkMsg rbGt 4 0 [1]) 4 4) = none ∧
        leAt (chunkMsg rbGt 4 0 [1]) 0 4 / 256 = rd jobS R.CMB_JOB_JOB_TAG ∧
          bits (leAt (chunkMsg rbGt 4 0 [1]) 0 4) 7 4 = 14 ∧ isAbsent jobS = false) ∧
    (collOf reqsS (leAt (chunkMsg rbGt 4 0 [1]) 0 4) (leAt (chunkMsg rbGt 4 0 [1]) 4 4) = none ∧
        leAt (chunkMsg rbGt 4 0 [1]) 0 4 / 256 = rd reqsS R.CMB_JOB_JOB_TAG ∧
          bits (leAt (chunkMsg rbGt 4 0 [1]) 0 4) 7 4 = 14 ∧ isAbsent reqsS = false) := by and_intros <;> decide +kernel
theorem wit_RestoreRunsItsRounds_1 :
    (activeRun (resS 0 Phase.running) 0 8 0 = some (resR 0 Phase.running) ∧ (resR 0 Phase.running).phase = Phase.running) ∧
    (activeRun (withRun (resR 0 Phase.started) jobS) 0 8 0 = some (resR 0 Phase.started) ∧
        (resR 0 Phase.started).phase ≠ Phase.running ∧
          ((withRun (resR 0 Phase.started) jobS).comb.needRestore = false ∨
            (withRun (resR 0 Phase.started) jobS).comb.rs.isSome = true ∨
              (withRun (resR 0 Phase.started) jobS).spine.load.isSome = true)) ∧
    (activeRun (resS 0 Phase.started) 0 8 0 = some (resR 0 Phase.started) ∧
        (resR 0 Phase.started).phase ≠ Phase.running ∧
          (resS 0 Phase.started).comb.needRestore = true ∧
            (resS 0 Phase.started).comb.rs = none ∧
              (resS 0 Phase.started).spine.load = none ∧ opd (resR 0 Phase.started).raw 48 48 ≠ 1) ∧
    (activeRun (resS 1 Phase.started) 0 8 0 = some (resR 1 Phase.started) ∧
        (resR 1 Phase.started).phase ≠ Phase.running ∧
          (resS 1 Phase.started).comb.needRestore = true ∧
            (resS 1 Phase.started).comb.rs = none ∧
              (resS 1 Phase.started).spine.load = none ∧
                opd (resR 1 Phase.started).raw 48 48 = 1 ∧ (readSpine (begin (resS 1 Phase.started))).snd = none) ∧
    (activeRun (nvmS 5 1) 0 8 0 = some (resR 1 Phase.started) ∧
        (resR 1 Phase.started).phase ≠ Phase.running ∧
          (nvmS 5 1).comb.needRestore = true ∧
            (nvmS 5 1).comb.rs = none ∧
              (nvmS 5 1).spine.load = none ∧
                opd (resR 1 Phase.started).raw 48 48 = 1 ∧
                  (readSpine (begin (nvmS 5 1))).snd = some (hdr1 5 1, 0) ∧
                    (hdrSealValid (hdr1 5 1) = false ∨ hdrSealEpoch (hdr1 5 1) ≠ opd (resR 1 Phase.started).raw 47 0)) ∧
    (activeRun (nvmS 6 1) 0 8 0 = some (resR 1 Phase.started) ∧
        (resR 1 Phase.started).phase ≠ Phase.running ∧
          (nvmS 6 1).comb.needRestore = true ∧
            (nvmS 6 1).comb.rs = none ∧
              (nvmS 6 1).spine.load = none ∧
                opd (resR 1 Phase.started).raw 48 48 = 1 ∧
                  (readSpine (begin (nvmS 6 1))).snd = some (hdr1 6 1, 0) ∧
                    hdrSealValid (hdr1 6 1) = true ∧ hdrSealEpoch (hdr1 6 1) = opd (resR 1 Phase.started).raw 47 0) ∧
    (activeRun (nvmS 6 9) 0 8 0 = some (resR 1 Phase.started) ∧
        (resR 1 Phase.started).phase ≠ Phase.running ∧
          (nvmS 6 9).comb.needRestore = true ∧
            (nvmS 6 9).comb.rs = none ∧
              (nvmS 6 9).spine.load = none ∧
                opd (resR 1 Phase.started).raw 48 48 = 1 ∧
                  (readSpine (begin (nvmS 6 9))).snd = some (hdr1 6 9, 0) ∧
                    hdrSealValid (hdr1 6 9) = true ∧ hdrSealEpoch (hdr1 6 9) = opd (resR 1 Phase.started).raw 47 0) ∧
    (peerIdx jobS 9 = none) ∧
    (peerIdx jobS 1 = some 1 ∧ bit (bits (leAt (repB 3) 0 16) 79 48) 1 = true) ∧
    (peerIdx jobS 1 = some 1 ∧ bit (bits (leAt (repB 1) 0 16) 79 48) 1 = false) ∧
    (jobS.comb.rs = none) ∧
    ((rsS 0 1).comb.rs = some (rs0 0 1) ∧ ((rs0 0 1).source ≠ 0 ∨ bits (leAt (repB 3) 0 16) 49 48 = 3)) := by and_intros <;> decide +kernel
theorem wit_RestoreRunsItsRounds_2 :
    ((rsS 0 1).comb.rs = some (rs0 0 1) ∧ (rs0 0 1).source = 0 ∧ bits (leAt (repB 0) 0 16) 49 48 = 0) ∧
    ((rsS 0 2).comb.rs = some (rs0 0 2) ∧ (rs0 0 2).source = 0 ∧ bits (leAt (repB 1) 0 16) 49 48 = 1) ∧
    ((rsS 0 2).comb.rs = some (rs0 0 2) ∧ (rs0 0 2).source = 0 ∧ bits (leAt (repB 2) 0 16) 49 48 = 2) ∧
    ((rsS 0 1).comb.rs = some (rs0 0 1)) ∧
    ((rsS 0 2).comb.rs = some (rs0 0 2)) := by and_intros <;> decide +kernel
theorem wit_SealCopiesAndRecords :
    (activeRun (sealS 5) 0 6 0 = some (sealR 5) ∧
        (sealS 5).spine.run = none ∧ (opd (sealR 5).raw 47 0 ≠ capped (sealS 5) ∨ sealDestOk (sealS 5) = false)) ∧
    (activeRun (sealS 6) 0 6 0 = some (sealR 6) ∧
        (sealS 6).spine.run = none ∧ opd (sealR 6).raw 47 0 = capped (sealS 6) ∧ sealDestOk (sealS 6) = true) ∧
    (activeRun (sealing none) 0 6 0 = some (sealR 6) ∧ (sealing none).spine.run = some run0) ∧
    (jobS.spine.staged = none) ∧
    ((sealing (some (0, 256, 4))).spine.staged = some (0, 256, 4) ∧ (0 ≠ 1 ∨ (sealing (some (0, 256, 4))).spine.run = none)) ∧
    (sealingB.spine.staged = some (1, 256, 4) ∧ 1 = 1 ∧ sealingB.spine.run = some runB ∧ sealDurable sealingB runB = false) ∧
    ((sealing (some (1, 256, 4))).spine.staged = some (1, 256, 4) ∧
        1 = 1 ∧ (sealing (some (1, 256, 4))).spine.run = some run0 ∧ sealDurable (sealing (some (1, 256, 4))) run0 = true) := by and_intros <;> decide +kernel
theorem wit_SealStoreAndShadowMessages :
    (2 ≠ rd storeS R.SPN_SEALIN_FROM ∨
        rd storeS R.SPN_SEALIN_CELLS ≤ bits (leAt (cellB 6 false) 0 16) 76 52 ∨ sealKind (cellB 6 false) ≠ 0) ∧
    (1 = rd storeS R.SPN_SEALIN_FROM ∧
        bits (leAt (cellB 6 false) 0 16) 76 52 < rd storeS R.SPN_SEALIN_CELLS ∧ sealKind (cellB 6 false) = 0) ∧
    (2 ≠ rd storeS R.SPN_SEALIN_FROM) ∧
    (1 = rd storeS R.SPN_SEALIN_FROM ∧
        (storeS.spine.held.contains (bits (leAt (cellB 7 false) 0 16) 48 48, bits (leAt (cellB 7 false) 0 16) 47 0) =
            false ∨
          bits (leAt (cellB 7 false) 0 16) 103 80 = 0 ∨
            rd storeS R.SPN_SEALIN_CELLS < bits (leAt (cellB 7 false) 0 16) 76 52 + bits (leAt (cellB 7 false) 0 16) 103 80)) ∧
    (1 = rd storeS R.SPN_SEALIN_FROM ∧
        storeS.spine.held.contains
              (bits (leAt (cellB (6 + at' 8 80) false) 0 16) 48 48, bits (leAt (cellB (6 + at' 8 80) false) 0 16) 47 0) =
            true ∧
          bits (leAt (cellB (6 + at' 8 80) false) 0 16) 103 80 ≠ 0 ∧
            bits (leAt (cellB (6 + at' 8 80) false) 0 16) 76 52 + bits (leAt (cellB (6 + at' 8 80) false) 0 16) 103 80 ≤
              rd storeS R.SPN_SEALIN_CELLS) ∧
    (jobS.spine.load = none) ∧
    (loadS.spine.load = some load0) ∧
    (fromPrincipal jobS 1 = false) ∧
    (fromPrincipal shadS 1 = true) := by and_intros <;> decide +kernel

end W05

namespace W06

def flitOf (type : Nat) (payload : Bytes) : Flit :=
  { hdr := flitHdr 16 17 9 0 0 payload.length type ((vcOfType type).getD 0) true true, payload := payload }
def fb (type lseq : Nat) : Bytes := flitBytes (flitOf type [4, 5]) lseq 0
def badB : Bytes := List.replicate 255 1
def startS : State := setLink jobS 0 { LinkSt.down with phase := 1 }
def slowS : State := { jobS with lp := { jobS.lp with rates := [16] } }
def sent : LinkSt := { upLink with phase := 3, retry := [(4, flitOf 3 [1])] }
def lateS (n : Nat) : State := wr (setLink jobS 0 { sent with phase := 2, resends := n }) R.LP_LRTY_MAX 4
def downS : State := setLink (setTx jobS { TxStream.new 1 0 with next := 1, buf := [(0, 0, flitOf 3 [1], 0)] }) 0
  { upLink with retry := [(0, flitOf 3 [1])], txq := [flitOf 3 [2]] }
def failS : State := { jobS with lp := { jobS.lp with failed := [3] } }
def swapS : State := setLink jobS 20 { upLink with phase := 3 }
def pollS : State := { jobS with lp := { jobS.lp with poll := [(2, 16), (2, 20)] } }
def rx0 : RxStream := { peer := 1, vc := 5, tag := 9, memb := 0, next := 4, early := [], acked := 0, window := 16, part := [], held := [] }
def req0 : Req := { src := 3, tag := 5 }
def hiveS : State := wr (withObj (objE clsScratch fmtByte 1 65536 0 1 0) hbmS) R.HIVE_OBJ 5
def onS : State :=
  let s := wr (wr hiveS R.HIVE_CFG_EN 1) R.CMB_JOB_JOB_TAG 9
  wr (tput (tput s 0x10 0 0 (peerE 3 64 16 0)) 0x10 0 1 (peerE 3 65 17 1)) R.LP_FID 16
def v2S : State := tput onS 0x10 0 1 (peerE 2 65 17 1)
def rec0 (op part size : Nat) : HiveRec :=
  { ctx := 2, gen := 0, op := op, part := part != 0, size := size, off := 0, mask := 0, data := List.replicate (sizeBytes size) 1 }
def ctx0 (op : Nat) : HiveCtx := { req := rec0 op 0 3, peer := 1, own := false, asker := .host 3 5, issued := true, time := 0 }
def heldS : State := { onS with chip := { onS.chip with held := true } }
def homeS (op part size : Nat) : State :=
  { onS with hive := { onS.hive with home := [{ peer := some 1, req := rec0 op part size, snap := none, out := false }] } }
def home0 (op part size : Nat) : HomeReq := { peer := some 1, req := rec0 op part size, snap := none, out := false }
def hotS (op part size : Nat) : State :=
  let s := homeS op part size
  { s with hive := { s.hive with hot := [{ line := 0, val := List.replicate 64 7, dirty := false }] } }
def fetchS (op : Nat) : State :=
  let s := homeS op 0 3
  { s with hive := { s.hive with fetch := [{ line := 0, hot := true, out := false, bad := false }] } }
def hot0 : HotLine := { line := 0, val := List.replicate 64 7, dirty := false }
def crec (off : Nat) : HomeReq := { peer := some 1, req := { rec0 6 0 6 with off := off }, snap := none, out := false }
def crS (off : Nat) : State := { wr hbmS R.CMB_DATA_CELLS 4 with hive := { hbmS.hive with home := [crec off] } }
def crG (off : Nat) : State := wr (wr (wr (crS off) R.CMB_GEOM_N 3) R.CMB_GEOM_M 1) R.CMB_GEOM_S 6
def idleS : State := { onS with hive := { onS.hive with hot := [{ hot0 with dirty := true }] } }
def ctxN (own : Bool) : HiveCtx := { ctx0 1 with issued := false, own := own }
def issueS (own : Bool) : State := { onS with hive := { onS.hive with ctxs := [ctxN own] } }
def outS : State := { onS with hive := { onS.hive with ctxs := [ctx0 1] } }
def ansB (gen : Nat) : Bytes := leBytes 8 (at' 2 52 + at' gen 48)

theorem wit_FlitsAreTakenInOrder :
    ((linkOf jobS 2).phase ≠ 1 ∧ (linkOf jobS 2).phase ≠ 2) ∧
    ((linkOf startS 0).phase = 1) ∧
    ((linkOf jobS 0).phase = 2 ∧ (1 = 2 ∨ leAt badB 252 4 ≠ crc32 (slice badB 0 252))) ∧
    ((linkOf jobS 0).phase = 2 ∧ (2 = 2 ∨ leAt (fb 0 0) 252 4 ≠ crc32 (slice (fb 0 0) 0 252))) ∧
    ((linkOf jobS 0).phase = 2 ∧ ¬(0 = 2 ∨ leAt (fb 0 0) 252 4 ≠ crc32 (slice (fb 0 0) 0 252))) ∧
    ((linkOf jobS 0).phase = 2 ∧ ¬(1 = 2 ∨ leAt (fb 1 0) 252 4 ≠ crc32 (slice (fb 1 0) 0 252))) ∧
    ((linkOf jobS 0).phase = 2 ∧ ¬(0 = 2 ∨ leAt (fb 3 0) 252 4 ≠ crc32 (slice (fb 3 0) 0 252))) ∧
    ((linkOf jobS 0).phase = 2 ∧ ¬(0 = 2 ∨ leAt (fb 3 7) 252 4 ≠ crc32 (slice (fb 3 7) 0 252))) ∧
    ((linkOf jobS 0).phase = 2 ∧ ¬(0 = 2 ∨ leAt (fb 3 65535) 252 4 ≠ crc32 (slice (fb 3 65535) 0 252))) := by and_intros <;> decide +kernel
theorem wit_LinksComeUpAndGoDown :
    ((linkOf startS 0).phase ≠ 3 ∨ startS.lp.failed.contains (startS.lp.lane.getD 0 63) = true) ∧
    ((linkOf (setLink jobS 0 sent) 0).phase = 3 ∧
        (setLink jobS 0 sent).lp.failed.contains ((setLink jobS 0 sent).lp.lane.getD 0 63) = false) ∧
    ((linkOf jobS 4).phase = 0) ∧
    ((linkOf downS 0).phase ≠ 0) ∧
    ((linkOf downS 1).phase ≠ 0) := by and_intros <;> decide +kernel
theorem wit_LanesModulesAndMonitors :
    (failS.lp.failed.contains 3 = true) ∧
    (failS.lp.failed.contains 1 = false) ∧
    ((Instr.moduleLinkError 1 = Instr.moduleLinkError 1 ∨ Instr.moduleLinkError 1 = Instr.moduleNotReadyTimeout 1) ∧
        (swapRuns jobS = false ∨ linksOn jobS 1 = [])) ∧
    ((Instr.moduleNotReadyTimeout 0 = Instr.moduleLinkError 0 ∨
          Instr.moduleNotReadyTimeout 0 = Instr.moduleNotReadyTimeout 0) ∧
        (swapRuns jobS = false ∨ linksOn jobS 0 = [])) ∧
    ((Instr.moduleNotReadyTimeout 0 = Instr.moduleLinkError 0 ∨
          Instr.moduleNotReadyTimeout 0 = Instr.moduleNotReadyTimeout 0) ∧
        swapRuns swapS = true ∧ linksOn swapS 0 ≠ []) ∧
    (pollS.lp.poll.contains (0, 16) = false) ∧
    (pollS.lp.poll.contains (2, 16) = true) ∧
    ((pollS.lp.poll.all fun x => x.fst != 0) = true) ∧
    ((pollS.lp.poll.all fun x => x.fst != 2) = false) := by and_intros <;> decide +kernel
theorem wit_StreamsAcknowledgeAndResend :
    dropDurable (begin (setRx jobS rx0)) 1 (rxOf (setRx jobS rx0) 1 5).held = (rxOf (setRx jobS rx0) 1 5).held ∧
      unacked (rxOf (setRx jobS rx0) 1 5) < 64 ∧ 5 ≠ 3 := by decide +kernel
theorem wit_HiveRequestsOfTheHost_1 :
    (5 < 9 ∨ 6 < 3 ∨ bits 0 57 47 ≠ 0 ∨ bits 0 40 0 % sizeBytes 3 ≠ 0 ∨ 2 ≤ 9 ∧ sizeBytes 3 ≠ 4 ∧ sizeBytes 3 ≠ 8) ∧
    (5 < 2 ∨ 6 < 5 ∨ bits 0 57 47 ≠ 0 ∨ bits 0 40 0 % sizeBytes 5 ≠ 0 ∨ 2 ≤ 2 ∧ sizeBytes 5 ≠ 4 ∧ sizeBytes 5 ≠ 8) ∧
    (¬(5 < 2 ∨ 6 < 3 ∨ bits 8 57 47 ≠ 0 ∨ bits 8 40 0 % sizeBytes 3 ≠ 0 ∨ 2 ≤ 2 ∧ sizeBytes 3 ≠ 4 ∧ sizeBytes 3 ≠ 8)) ∧
    (¬(5 < 1 ∨
          6 < 3 ∨
            bits 2199023255560 57 47 ≠ 0 ∨
              bits 2199023255560 40 0 % sizeBytes 3 ≠ 0 ∨ 2 ≤ 1 ∧ sizeBytes 3 ≠ 4 ∧ sizeBytes 3 ≠ 8)) ∧
    (¬(5 < 1 ∨
          6 < 3 ∨
            bits 10995116277768 57 47 ≠ 0 ∨
              bits 10995116277768 40 0 % sizeBytes 3 ≠ 0 ∨ 2 ≤ 1 ∧ sizeBytes 3 ≠ 4 ∧ sizeBytes 3 ≠ 8)) ∧
    (¬(5 < 0 ∨ 6 < 3 ∨ bits 8 57 47 ≠ 0 ∨ bits 8 40 0 % sizeBytes 3 ≠ 0 ∨ 2 ≤ 0 ∧ sizeBytes 3 ≠ 4 ∧ sizeBytes 3 ≠ 8)) ∧
    (5 < 0 ∨ 6 < 3 ∨ bits 1 37 0 % sizeBytes 3 ≠ 0) ∧
    (0 ≤ 5 ∧ 3 ≤ 6 ∧ bits 1374389534720 37 0 % sizeBytes 3 = 0) ∧
    (1 ≤ 5 ∧ 3 ≤ 6 ∧ bits 1374389534720 37 0 % sizeBytes 3 = 0) ∧
    (0 ≤ 5 ∧ 3 ≤ 6 ∧ bits 1099511627776 37 0 % sizeBytes 3 = 0) ∧
    (heldS.chip.held = true) ∧
    (onS.chip.held = false) := by and_intros <;> decide +kernel
theorem wit_HiveRequestsOfTheHost_2 :
    hiveS.chip.held = false := by decide +kernel
theorem wit_HiveAccessesApplyInOrder_1 :
    ((0 = 0 ∧ Instr.hiveRead 0 = Instr.hiveRead 0 ∨
          0 = 1 ∧ Instr.hiveRead 0 = Instr.hiveWrite 0 ∨
            0 = 2 ∧ Instr.hiveRead 0 = Instr.hiveAdd 0 ∨
              0 = 3 ∧ Instr.hiveRead 0 = Instr.hiveMin 0 ∨
                0 = 4 ∧ Instr.hiveRead 0 = Instr.hiveMax 0 ∨ 0 = 5 ∧ Instr.hiveRead 0 = Instr.hiveSwap 0) ∧
        List.find? (fun x => x.req.op != 6 && lineOfRec x.req == 0) onS.hive.home = none) ∧
    ((0 = 0 ∧ Instr.hiveRead 0 = Instr.hiveRead 0 ∨
          0 = 1 ∧ Instr.hiveRead 0 = Instr.hiveWrite 0 ∨
            0 = 2 ∧ Instr.hiveRead 0 = Instr.hiveAdd 0 ∨
              0 = 3 ∧ Instr.hiveRead 0 = Instr.hiveMin 0 ∨
                0 = 4 ∧ Instr.hiveRead 0 = Instr.hiveMax 0 ∨ 0 = 5 ∧ Instr.hiveRead 0 = Instr.hiveSwap 0) ∧
        List.find? (fun x => x.req.op != 6 && lineOfRec x.req == 0) (homeS 1 0 3).hive.home = some (home0 1 0 3) ∧
          ((home0 1 0 3).req.op ≠ 0 ∨ (fetchOf (homeS 1 0 3) 0).isSome = true)) ∧
    ((0 = 0 ∧ Instr.hiveRead 0 = Instr.hiveRead 0 ∨
          0 = 1 ∧ Instr.hiveRead 0 = Instr.hiveWrite 0 ∨
            0 = 2 ∧ Instr.hiveRead 0 = Instr.hiveAdd 0 ∨
              0 = 3 ∧ Instr.hiveRead 0 = Instr.hiveMin 0 ∨
                0 = 4 ∧ Instr.hiveRead 0 = Instr.hiveMax 0 ∨ 0 = 5 ∧ Instr.hiveRead 0 = Instr.hiveSwap 0) ∧
        List.find? (fun x => x.req.op != 6 && lineOfRec x.req == 0) (fetchS 0).hive.home = some (home0 0 0 3) ∧
          ((home0 0 0 3).req.op ≠ 0 ∨ (fetchOf (fetchS 0) 0).isSome = true)) ∧
    ((0 = 0 ∧ Instr.hiveRead 0 = Instr.hiveRead 0 ∨
          0 = 1 ∧ Instr.hiveRead 0 = Instr.hiveWrite 0 ∨
            0 = 2 ∧ Instr.hiveRead 0 = Instr.hiveAdd 0 ∨
              0 = 3 ∧ Instr.hiveRead 0 = Instr.hiveMin 0 ∨
                0 = 4 ∧ Instr.hiveRead 0 = Instr.hiveMax 0 ∨ 0 = 5 ∧ Instr.hiveRead 0 = Instr.hiveSwap 0) ∧
        List.find? (fun x => x.req.op != 6 && lineOfRec x.req == 0) (hotS 0 0 3).hive.home = some (home0 0 0 3) ∧
          (home0 0 0 3).req.op = 0 ∧ fetchOf (hotS 0 0 3) 0 = none ∧ hotOf (hotS 0 0 3) 0 = some hot0) ∧
    ((1 = 0 ∧ Instr.hiveWrite 0 = Instr.hiveRead 0 ∨
          1 = 1 ∧ Instr.hiveWrite 0 = Instr.hiveWrite 0 ∨
            1 = 2 ∧ Instr.hiveWrite 0 = Instr.hiveAdd 0 ∨
              1 = 3 ∧ Instr.hiveWrite 0 = Instr.hiveMin 0 ∨
                1 = 4 ∧ Instr.hiveWrite 0 = Instr.hiveMax 0 ∨ 1 = 5 ∧ Instr.hiveWrite 0 = Instr.hiveSwap 0) ∧
        List.find? (fun x => x.req.op != 6 && lineOfRec x.req == 0) (hotS 1 1 3).hive.home = some (home0 1 1 3) ∧
          (home0 1 1 3).req.op = 1 ∧ fetchOf (hotS 1 1 3) 0 = none ∧ hotOf (hotS 1 1 3) 0 = some hot0) ∧
    ((2 = 0 ∧ Instr.hiveAdd 0 = Instr.hiveRead 0 ∨
          2 = 1 ∧ Instr.hiveAdd 0 = Instr.hiveWrite 0 ∨
            2 = 2 ∧ Instr.hiveAdd 0 = Instr.hiveAdd 0 ∨
              2 = 3 ∧ Instr.hiveAdd 0 = Instr.hiveMin 0 ∨
                2 = 4 ∧ Instr.hiveAdd 0 = Instr.hiveMax 0 ∨ 2 = 5 ∧ Instr.hiveAdd 0 = Instr.hiveSwap 0) ∧
        List.find? (fun x => x.req.op != 6 && lineOfRec x.req == 0) (hotS 2 0 3).hive.home = some (home0 2 0 3) ∧
          (home0 2 0 3).req.op = 2 ∧ fetchOf (hotS 2 0 3) 0 = none ∧ hotOf (hotS 2 0 3) 0 = some hot0) ∧
    ((3 = 0 ∧ Instr.hiveMin 0 = Instr.hiveRead 0 ∨
          3 = 1 ∧ Instr.hiveMin 0 = Instr.hiveWrite 0 ∨
            3 = 2 ∧ Instr.hiveMin 0 = Instr.hiveAdd 0 ∨
              3 = 3 ∧ Instr.hiveMin 0 = Instr.hiveMin 0 ∨
                3 = 4 ∧ Instr.hiveMin 0 = Instr.hiveMax 0 ∨ 3 = 5 ∧ Instr.hiveMin 0 = Instr.hiveSwap 0) ∧
        List.find? (fun x => x.req.op != 6 && lineOfRec x.req == 0) (hotS 3 0 2).hive.home = some (home0 3 0 2) ∧
          (home0 3 0 2).req.op = 3 ∧ fetchOf (hotS 3 0 2) 0 = none ∧ hotOf (hotS 3 0 2) 0 = some hot0) ∧
    ((4 = 0 ∧ Instr.hiveMax 0 = Instr.hiveRead 0 ∨
          4 = 1 ∧ Instr.hiveMax 0 = Instr.hiveWrite 0 ∨
            4 = 2 ∧ Instr.hiveMax 0 = Instr.hiveAdd 0 ∨
              4 = 3 ∧ Instr.hiveMax 0 = Instr.hiveMin 0 ∨
                4 = 4 ∧ Instr.hiveMax 0 = Instr.hiveMax 0 ∨ 4 = 5 ∧ Instr.hiveMax 0 = Instr.hiveSwap 0) ∧
        List.find? (fun x => x.req.op != 6 && lineOfRec x.req == 0) (hotS 4 0 3).hive.home = some (home0 4 0 3) ∧
          (home0 4 0 3).req.op = 4 ∧ fetchOf (hotS 4 0 3) 0 = none ∧ hotOf (hotS 4 0 3) 0 = some hot0) ∧
    ((5 = 0 ∧ Instr.hiveSwap 0 = Instr.hiveRead 0 ∨
          5 = 1 ∧ Instr.hiveSwap 0 = Instr.hiveWrite 0 ∨
            5 = 2 ∧ Instr.hiveSwap 0 = Instr.hiveAdd 0 ∨
              5 = 3 ∧ Instr.hiveSwap 0 = Instr.hiveMin 0 ∨
                5 = 4 ∧ Instr.hiveSwap 0 = Instr.hiveMax 0 ∨ 5 = 5 ∧ Instr.hiveSwap 0 = Instr.hiveSwap 0) ∧
        List.find? (fun x => x.req.op != 6 && lineOfRec x.req == 0) (hotS 5 0 3).hive.home = some (home0 5 0 3) ∧
          (home0 5 0 3).req.op = 5 ∧ fetchOf (hotS 5 0 3) 0 = none ∧ hotOf (hotS 5 0 3) 0 = some hot0) ∧
    ((1 = 0 ∧ Instr.hiveWrite 0 = Instr.hiveRead 0 ∨
          1 = 1 ∧ Instr.hiveWrite 0 = Instr.hiveWrite 0 ∨
            1 = 2 ∧ Instr.hiveWrite 0 = Instr.hiveAdd 0 ∨
              1 = 3 ∧ Instr.hiveWrite 0 = Instr.hiveMin 0 ∨
                1 = 4 ∧ Instr.hiveWrite 0 = Instr.hiveMax 0 ∨ 1 = 5 ∧ Instr.hiveWrite 0 = Instr.hiveSwap 0) ∧
        List.find? (fun x => x.req.op != 6 && lineOfRec x.req == 0) (homeS 1 0 6).hive.home = some (home0 1 0 6) ∧
          (home0 1 0 6).req.op = 1 ∧
            fetchOf (homeS 1 0 6) 0 = none ∧
              hotOf (homeS 1 0 6) 0 = none ∧
                1 = 1 ∧
                  (home0 1 0 6).req.part = false ∧
                    sizeBytes (home0 1 0 6).req.size = 64 ∧ lineBusy (homeS 1 0 6) 0 true = false) ∧
    ((1 = 0 ∧ Instr.hiveWrite 0 = Instr.hiveRead 0 ∨
          1 = 1 ∧ Instr.hiveWrite 0 = Instr.hiveWrite 0 ∨
            1 = 2 ∧ Instr.hiveWrite 0 = Instr.hiveAdd 0 ∨
              1 = 3 ∧ Instr.hiveWrite 0 = Instr.hiveMin 0 ∨
                1 = 4 ∧ Instr.hiveWrite 0 = Instr.hiveMax 0 ∨ 1 = 5 ∧ Instr.hiveWrite 0 = Instr.hiveSwap 0) ∧
        List.find? (fun x => x.req.op != 6 && lineOfRec x.req == 0) (homeS 1 1 6).hive.home = some (home0 1 1 6) ∧
          (home0 1 1 6).req.op = 1 ∧
            fetchOf (homeS 1 1 6) 0 = none ∧
              hotOf (homeS 1 1 6) 0 = none ∧
                (1 ≠ 1 ∨
                  (home0 1 1 6).req.part = true ∨
                    sizeBytes (home0 1 1 6).req.size ≠ 64 ∨ lineBusy (homeS 1 1 6) 0 true = true)) ∧
    ((0 = 0 ∧ Instr.hiveRead 0 = Instr.hiveRead 0 ∨
          0 = 1 ∧ Instr.hiveRead 0 = Instr.hiveWrite 0 ∨
            0 = 2 ∧ Instr.hiveRead 0 = Instr.hiveAdd 0 ∨
              0 = 3 ∧ Instr.hiveRead 0 = Instr.hiveMin 0 ∨
                0 = 4 ∧ Instr.hiveRead 0 = Instr.hiveMax 0 ∨ 0 = 5 ∧ Instr.hiveRead 0 = Instr.hiveSwap 0) ∧
        List.find? (fun x => x.req.op != 6 && lineOfRec x.req == 0) (homeS 0 0 6).hive.home = some (home0 0 0 6) ∧
          (home0 0 0 6).req.op = 0 ∧
            fetchOf (homeS 0 0 6) 0 = none ∧
              hotOf (homeS 0 0 6) 0 = none ∧
                (0 ≠ 1 ∨
                  (home0 0 0 6).req.part = true ∨
                    sizeBytes (home0 0 0 6).req.size ≠ 64 ∨ lineBusy (homeS 0 0 6) 0 true = true)) := by and_intros <;> decide +kernel
theorem wit_HiveAccessesApplyInOrder_2 :
    ((2 = 0 ∧ Instr.hiveAdd 0 = Instr.hiveRead 0 ∨
          2 = 1 ∧ Instr.hiveAdd 0 = Instr.hiveWrite 0 ∨
            2 = 2 ∧ Instr.hiveAdd 0 = Instr.hiveAdd 0 ∨
              2 = 3 ∧ Instr.hiveAdd 0 = Instr.hiveMin 0 ∨
                2 = 4 ∧ Instr.hiveAdd 0 = Instr.hiveMax 0 ∨ 2 = 5 ∧ Instr.hiveAdd 0 = Instr.hiveSwap 0) ∧
        List.find? (fun x => x.req.op != 6 && lineOfRec x.req == 0) (homeS 2 0 3).hive.home = some (home0 2 0 3) ∧
          (home0 2 0 3).req.op = 2 ∧
            fetchOf (homeS 2 0 3) 0 = none ∧
              hotOf (homeS 2 0 3) 0 = none ∧
                (2 ≠ 1 ∨
                  (home0 2 0 3).req.part = true ∨
                    sizeBytes (home0 2 0 3).req.size ≠ 64 ∨ lineBusy (homeS 2 0 3) 0 true = true)) ∧
    (List.find? (fun x => x.req.op == 6 && !cellReadHeld onS x && (!x.out || cellReadReady onS x)) onS.hive.home = none) ∧
    (List.find? (fun x => x.req.op == 6 && !cellReadHeld (crG 0) x && (!x.out || cellReadReady (crG 0) x))
            (crG 0).hive.home =
          some (crec 0) ∧
        cellReadReady (crG 0) (crec 0) = false) ∧
    (List.find?
            (fun x => x.req.op == 6 && !cellReadHeld (crS (9 * 1024)) x && (!x.out || cellReadReady (crS (9 * 1024)) x))
            (crS (9 * 1024)).hive.home =
          some (crec (9 * 1024)) ∧
        cellReadReady (crS (9 * 1024)) (crec (9 * 1024)) = true) := by and_intros <;> decide +kernel
theorem wit_HiveRecordsTravelAndAnswer :
    (9 = rd onS R.CMB_JOB_JOB_TAG ∧ rd onS R.CMB_JOB_MEMB_EPOCH < 1) ∧
    (9 = rd onS R.CMB_JOB_JOB_TAG ∧ rd onS R.CMB_JOB_MEMB_EPOCH = 0) ∧
    (8 ≠ rd onS R.CMB_JOB_JOB_TAG ∨ 0 < rd onS R.CMB_JOB_MEMB_EPOCH) ∧
    (List.filter (canIssue (admitCtxs 64 (begin onS))) (readyCtxs [] (admitCtxs 64 (begin onS)).hive.ctxs) = []) ∧
    (List.foldl
          (fun b x =>
            match b with
            | some y =>
              if
                  (x.req.ctx + 4095 - (admitCtxs 64 (begin (issueS false))).hive.rr) % 4096 <
                    (y.req.ctx + 4095 - (admitCtxs 64 (begin (issueS false))).hive.rr) % 4096 then
                some x
              else some y
            | none => some x)
          none
          (List.filter (canIssue (admitCtxs 64 (begin (issueS false))))
            (readyCtxs [] (admitCtxs 64 (begin (issueS false))).hive.ctxs)) =
        some (ctxN false)) ∧
    (List.foldl
          (fun b x =>
            match b with
            | some y =>
              if
                  (x.req.ctx + 4095 - (admitCtxs 64 (begin (issueS true))).hive.rr) % 4096 <
                    (y.req.ctx + 4095 - (admitCtxs 64 (begin (issueS true))).hive.rr) % 4096 then
                some x
              else some y
            | none => some x)
          none
          (List.filter (canIssue (admitCtxs 64 (begin (issueS true))))
            (readyCtxs [] (admitCtxs 64 (begin (issueS true))).hive.ctxs)) =
        some (ctxN true)) ∧
    (8 ≤ List.length (ansB 3) ∧
        List.find?
            (fun c =>
              c.req.ctx == bits (leAt (ansB 3) 0 8) 63 52 && c.req.gen == bits (leAt (ansB 3) 0 8) 51 48 && c.peer == 1 &&
                  c.issued &&
                !c.own)
            outS.hive.ctxs =
          none) ∧
    (8 ≤ List.length (ansB 0) ∧
        List.find?
            (fun c =>
              c.req.ctx == bits (leAt (ansB 0) 0 8) 63 52 && c.req.gen == bits (leAt (ansB 0) 0 8) 51 48 && c.peer == 1 &&
                  c.issued &&
                !c.own)
            outS.hive.ctxs =
          some (ctx0 1)) := by and_intros <;> decide +kernel

end W06

namespace W07

def rq (n : BitVec 16) : Req := { src := n, tag := 5 }
def memS : State := wr (wr (wr (wr (wr (wr (wr jobS R.GEN_STRAP_SLICE_EN 1) (R.SLC_STAT_READY 0) 1) (R.SLC_CAP 0) 1) R.CMB_DATA_CELLS 4) R.CMB_STKMASK 1) R.CMB_PAR_BASE 64) R.CMB_LEDGER_BASE 128
def open0 : OpenCell := { thread := 0, visit := 0, d := 0, slice := 0, epoch := 7, kind := 0, reserved := 0, recs := [], units := [] }
def openMem : State := { memS with cod := { memS.cod with open_ := [open0] } }
def susS : State := suspectData memS 1
def deg1 (par : Bool) (out : Nat) (bad : Bool) : DegRead := { id := 1, use := .repair par 1, bytes := [1, 2], todo := [], out := out, bad := bad, badPeers := [2], rank := 0, stripe := 0, live := false, grans := [0], except := [] }
def readS (out : Nat) (bad : Bool) : State := { susS with hive := { susS.hive with degs := [deg1 false out bad] } }
def lostRd : State := { readS 0 false with hl := { susS.hl with lost := [(false, 1)] } }
def goodRd : State := setLedger (readS 0 false) 1 (setBits (ledger (readS 0 false) 1) 63 0 (crc64 [1, 2]))
def susP : State := suspectPar memS 1
def readP (out : Nat) (bad : Bool) : State := { susP with hive := { susP.hive with degs := [deg1 true out bad] } }
def lostP : State := { readP 0 false with hl := { susP.hl with lost := [(true, 1)] } }
def dueS : State := { memS with hl := { memS.hl with remapDue := [(0, 5, 2)] } }
def susDue : State := { susS with hl := { susS.hl with remapDue := [(0, 16, 2)] } }
def fullS : State := (List.range 8).foldl (fun s e => tput s 0x16 0 e (at' 1 63 + 100 + e)) dueS
def cp (bad : Bool) : MapCopy := { owner := 100, stk := 0, place := 5, cause := 2, bad := bad }
def copyS (bad : Bool) : State := { dueS with hl := { dueS.hl with copies := [cp bad] } }
def waitCp : State := memRequest (copyS false) 100 false false 0 20480 64
def migS (c : Nat) : State := wr (wr (wr (wr { hbmS with comb := jobS.comb } R.RMAP_MIG_STAT_ACTIVE 1) R.CMB_DATA_CELLS c) R.CMB_STKMASK (b2n (c ≠ 0))) R.CMB_DATA_BASE 40
def twoS : State := wr (wr (wr memS R.GEN_STRAP_SLICE_EN 3) (R.SLC_STAT_READY 1) 1) (R.SLC_CAP 1) 1
def subS : State := { memS with hl := { memS.hl with sub := 3, corr := some (1, 2) } }
def dom (d ph st : Nat) : State := setDomain memS d { phase := ph, steps := st, live := false }
def upS (d ph st : Nat) : State := wr (wr { dom d ph st with chip := { (dom d ph st).chip with pwrGood := true } } R.CLK_STAT_PLL_SQ 2) R.CLK_STAT_PLL_SLC 2
def pllS (a b c : Nat) : State := wr (wr (wr memS R.CLK_STAT_PLL_SQ a) R.CLK_STAT_PLL_SLC b) R.CLK_STAT_PLL_LPH c
def triesS : State := { pllS 1 1 3 with chip := { memS.chip with tries := [30000, 1, 0] } }
def heldS : State := { wr State.reset R.GEN_STAT_STAGE 3 with chip := { State.reset.chip with held := true } }
def instS (role : Nat) : State := wr (wr memS R.ROLE_STAT_OPEN 1) R.ROLE_STAT_ROLE role
def absI (role : Nat) : State := wr (instS role) R.CMB_RANK_STATE 0
def snapR (sub : Nat) (p : Phase) : Run := runOf (cmd 0x0D sub 77) p
def offS : State := { memS with chip := { memS.chip with step := 2 ^ 64 - 100, stepOn := true } }
def pinS (i last : Nat) (lv ovr stk : Bool) : State :=
  let s := { wr memS R.PIN_RATE 5 with chip := { memS.chip with pins := memS.chip.pins.set i { told := lv, last := last } } }
  setPin (setPin (setPin s R.PIN_STAT_LEVEL i lv) R.PIN_STAT_OVERRATE i ovr) R.PIN_STAT_STUCK i stk

theorem wit_MaintenanceVisitsAndRepairs_1 :
    (walkFrom State.reset 1 5 (rd State.reset (R.SCRB_CUR_REGION 1)) (rd State.reset (R.SCRB_CUR_POS 1)) = none) ∧
    (walkFrom memS 0 5 (rd memS (R.SCRB_CUR_REGION 0)) (rd memS (R.SCRB_CUR_POS 0)) = some (0, 0)) ∧
    (walkFrom openMem 0 5 (rd openMem (R.SCRB_CUR_REGION 0)) (rd openMem (R.SCRB_CUR_POS 0)) = some (0, 0)) ∧
    (rd memS R.CMB_DATA_CELLS ≤ 1 ∨
        lSuspect (ledger memS 1) = false ∨
          openElsewhere memS 99 1 = true ∨
            memS.hl.lost.contains (false, 1) = true ∧
              (memS.cod.segs.any fun g =>
                  g.mine memS && decide (g.kind < 3) && g.cell == 1 && decide (capped memS < g.epoch)) =
                true) ∧
    (rd memS R.CMB_DATA_CELLS ≤ 4 ∨
        lSuspect (ledger memS 4) = false ∨
          openElsewhere memS 99 4 = true ∨
            memS.hl.lost.contains (false, 4) = true ∧
              (memS.cod.segs.any fun g =>
                  g.mine memS && decide (g.kind < 3) && g.cell == 4 && decide (capped memS < g.epoch)) =
                true) ∧
    (¬(rd susS R.CMB_DATA_CELLS ≤ 1 ∨
            lSuspect (ledger susS 1) = false ∨
              openElsewhere susS 99 1 = true ∨
                susS.hl.lost.contains (false, 1) = true ∧
                  (susS.cod.segs.any fun g =>
                      g.mine susS && decide (g.kind < 3) && g.cell == 1 && decide (capped susS < g.epoch)) =
                    true) ∧
        repairRead susS false 1 = none) ∧
    (¬(rd (readS 3 false) R.CMB_DATA_CELLS ≤ 1 ∨
            lSuspect (ledger (readS 3 false) 1) = false ∨
              openElsewhere (readS 3 false) 99 1 = true ∨
                (readS 3 false).hl.lost.contains (false, 1) = true ∧
                  ((readS 3 false).cod.segs.any fun g =>
                      g.mine (readS 3 false) && decide (g.kind < 3) && g.cell == 1 &&
                        decide (capped (readS 3 false) < g.epoch)) =
                    true) ∧
        repairRead (readS 3 false) false 1 = some (deg1 false 3 false) ∧
          ((deg1 false 3 false).todo ≠ [] ∨ (deg1 false 3 false).out ≠ 0)) ∧
    (¬(rd (readS 0 true) R.CMB_DATA_CELLS ≤ 1 ∨
            lSuspect (ledger (readS 0 true) 1) = false ∨
              openElsewhere (readS 0 true) 99 1 = true ∨
                (readS 0 true).hl.lost.contains (false, 1) = true ∧
                  ((readS 0 true).cod.segs.any fun g =>
                      g.mine (readS 0 true) && decide (g.kind < 3) && g.cell == 1 &&
                        decide (capped (readS 0 true) < g.epoch)) =
                    true) ∧
        repairRead (readS 0 true) false 1 = some (deg1 false 0 true) ∧
          (deg1 false 0 true).todo = [] ∧
            (deg1 false 0 true).out = 0 ∧
              ((deg1 false 0 true).bad = true ∨
                (readS 0 true).hl.lost.contains (false, 1) = false ∧
                  crc64 (liveOf (readS 0 true) 1 (deg1 false 0 true).bytes) ≠ lCrc (ledger (readS 0 true) 1))) ∧
    (¬(rd (readS 0 false) R.CMB_DATA_CELLS ≤ 1 ∨
            lSuspect (ledger (readS 0 false) 1) = false ∨
              openElsewhere (readS 0 false) 99 1 = true ∨
                (readS 0 false).hl.lost.contains (false, 1) = true ∧
                  ((readS 0 false).cod.segs.any fun g =>
                      g.mine (readS 0 false) && decide (g.kind < 3) && g.cell == 1 &&
                        decide (capped (readS 0 false) < g.epoch)) =
                    true) ∧
        repairRead (readS 0 false) false 1 = some (deg1 false 0 false) ∧
          (deg1 false 0 false).todo = [] ∧
            (deg1 false 0 false).out = 0 ∧
              ((deg1 false 0 false).bad = true ∨
                (readS 0 false).hl.lost.contains (false, 1) = false ∧
                  crc64 (liveOf (readS 0 false) 1 (deg1 false 0 false).bytes) ≠ lCrc (ledger (readS 0 false) 1))) ∧
    (¬(rd lostRd R.CMB_DATA_CELLS ≤ 1 ∨
            lSuspect (ledger lostRd 1) = false ∨
              openElsewhere lostRd 99 1 = true ∨
                lostRd.hl.lost.contains (false, 1) = true ∧
                  (lostRd.cod.segs.any fun g =>
                      g.mine lostRd && decide (g.kind < 3) && g.cell == 1 && decide (capped lostRd < g.epoch)) =
                    true) ∧
        repairRead lostRd false 1 = some (deg1 false 0 false) ∧
          (deg1 false 0 false).todo = [] ∧
            (deg1 false 0 false).out = 0 ∧ (deg1 false 0 false).bad = false ∧ lostRd.hl.lost.contains (false, 1) = true) ∧
    (¬(rd goodRd R.CMB_DATA_CELLS ≤ 1 ∨
            lSuspect (ledger goodRd 1) = false ∨
              openElsewhere goodRd 99 1 = true ∨
                goodRd.hl.lost.contains (false, 1) = true ∧
                  (goodRd.cod.segs.any fun g =>
                      g.mine goodRd && decide (g.kind < 3) && g.cell == 1 && decide (capped goodRd < g.epoch)) =
                    true) ∧
        repairRead goodRd false 1 = some (deg1 false 0 false) ∧
          (deg1 false 0 false).todo = [] ∧
            (deg1 false 0 false).out = 0 ∧
              (deg1 false 0 false).bad = false ∧
                goodRd.hl.lost.contains (false, 1) = false ∧
                  crc64 (liveOf goodRd 1 (deg1 false 0 false).bytes) = lCrc (ledger goodRd 1)) ∧
    (parCells memS ≤ 1 ∨
        lSuspect (ledgerP memS 1) = false ∨ memS.hl.lost.contains (true, 1) = true ∧ xUndoB (ledgerX memS 1) ≠ 0) := by and_intros <;> decide +kernel
theorem wit_MaintenanceVisitsAndRepairs_2 :
    (¬(parCells susP ≤ 1 ∨
            lSuspect (ledgerP susP 1) = false ∨ susP.hl.lost.contains (true, 1) = true ∧ xUndoB (ledgerX susP 1) ≠ 0) ∧
        repairRead susP true 1 = none) ∧
    (¬(parCells (readP 3 false) ≤ 1 ∨
            lSuspect (ledgerP (readP 3 false) 1) = false ∨
              (readP 3 false).hl.lost.contains (true, 1) = true ∧ xUndoB (ledgerX (readP 3 false) 1) ≠ 0) ∧
        repairRead (readP 3 false) true 1 = some (deg1 true 3 false) ∧
          ((deg1 true 3 false).todo ≠ [] ∨ (deg1 true 3 false).out ≠ 0)) ∧
    (¬(parCells (readP 0 true) ≤ 1 ∨
            lSuspect (ledgerP (readP 0 true) 1) = false ∨
              (readP 0 true).hl.lost.contains (true, 1) = true ∧ xUndoB (ledgerX (readP 0 true) 1) ≠ 0) ∧
        repairRead (readP 0 true) true 1 = some (deg1 true 0 true) ∧
          (deg1 true 0 true).todo = [] ∧ (deg1 true 0 true).out = 0 ∧ (deg1 true 0 true).bad = true) ∧
    (¬(parCells lostP ≤ 1 ∨
            lSuspect (ledgerP lostP 1) = false ∨ lostP.hl.lost.contains (true, 1) = true ∧ xUndoB (ledgerX lostP 1) ≠ 0) ∧
        repairRead lostP true 1 = some (deg1 true 0 false) ∧
          (deg1 true 0 false).todo = [] ∧
            (deg1 true 0 false).out = 0 ∧ (deg1 true 0 false).bad = false ∧ lostP.hl.lost.contains (true, 1) = true) ∧
    (¬(parCells (readP 0 false) ≤ 1 ∨
            lSuspect (ledgerP (readP 0 false) 1) = false ∨
              (readP 0 false).hl.lost.contains (true, 1) = true ∧ xUndoB (ledgerX (readP 0 false) 1) ≠ 0) ∧
        repairRead (readP 0 false) true 1 = some (deg1 true 0 false) ∧
          (deg1 true 0 false).todo = [] ∧
            (deg1 true 0 false).out = 0 ∧
              (deg1 true 0 false).bad = false ∧
                (readP 0 false).hl.lost.contains (true, 1) = false ∧
                  (repairOf (readP 0 false) true 1).waitCap = 0 ∧ xUndoB (ledgerX (readP 0 false) 1) = 0) ∧
    ((copyOf memS (remapOwner 0)).isSome = true ∨ List.find? (fun x => x.fst == 0) memS.hl.remapDue = none) ∧
    (copyOf susDue (remapOwner 0) = none ∧
        List.find? (fun x => x.fst == 0) susDue.hl.remapDue = some (0, 16, 2) ∧ rangeClean susDue 0 16 = false) ∧
    (copyOf fullS (remapOwner 0) = none ∧
        List.find? (fun x => x.fst == 0) fullS.hl.remapDue = some (0, 5, 2) ∧
          rangeClean fullS 0 5 = true ∧ freeRemap fullS 0 = none) ∧
    (copyOf dueS (remapOwner 0) = none ∧
        List.find? (fun x => x.fst == 0) dueS.hl.remapDue = some (0, 5, 2) ∧
          rangeClean dueS 0 5 = true ∧ (freeRemap dueS 0).isSome = true) ∧
    ((cp false).owner ≠ relocOwner ∧
        copyOf waitCp (cp false).owner = some (cp false) ∧ readsAnswered waitCp (cp false).owner = false) ∧
    ((cp true).owner ≠ relocOwner ∧
        copyOf (copyS true) (cp true).owner = some (cp true) ∧
          readsAnswered (copyS true) (cp true).owner = true ∧ (cp true).bad = true) ∧
    ((cp false).owner ≠ relocOwner ∧
        copyOf (copyS false) (cp false).owner = some (cp false) ∧
          readsAnswered (copyS false) (cp false).owner = true ∧
            (cp false).bad = false ∧ freeRemap (copyS false) (cp false).stk = some 0) := by and_intros <;> decide +kernel
theorem wit_MaintenanceVisitsAndRepairs_3 :
    (rdb memS R.RMAP_MIG_STAT_ACTIVE = false ∨ (copyOf memS relocOwner).isSome = true) ∧
    (rdb (migS 0) R.RMAP_MIG_STAT_ACTIVE = true ∧
        copyOf (migS 0) relocOwner = none ∧
          List.find? (fun x => !relocated (migS 0) (rd (migS 0) R.RMAP_MIG_STAT_STK) x)
              (migSlots (migS 0) (rd (migS 0) R.RMAP_MIG_STAT_STK)) =
            none) ∧
    (rdb (wr memS R.RMAP_MIG_STAT_ACTIVE 1) R.RMAP_MIG_STAT_ACTIVE = true ∧
        copyOf (wr memS R.RMAP_MIG_STAT_ACTIVE 1) relocOwner = none ∧
          List.find?
                (fun x =>
                  !relocated (wr memS R.RMAP_MIG_STAT_ACTIVE 1) (rd (wr memS R.RMAP_MIG_STAT_ACTIVE 1) R.RMAP_MIG_STAT_STK)
                      x)
                (migSlots (wr memS R.RMAP_MIG_STAT_ACTIVE 1) (rd (wr memS R.RMAP_MIG_STAT_ACTIVE 1) R.RMAP_MIG_STAT_STK)) =
              some 128 ∧
            slotReady (wr memS R.RMAP_MIG_STAT_ACTIVE 1)
                  (slotUse (wr memS R.RMAP_MIG_STAT_ACTIVE 1) (rd (wr memS R.RMAP_MIG_STAT_ACTIVE 1) R.RMAP_MIG_STAT_STK)
                    128) =
                true ∧
              (nextTarget (wr memS R.RMAP_MIG_STAT_ACTIVE 1) (rd (wr memS R.RMAP_MIG_STAT_ACTIVE 1) R.RMAP_MIG_STAT_STK) =
                  none ∨
                freeReloc (wr memS R.RMAP_MIG_STAT_ACTIVE 1) = none)) ∧
    (rdb (wr twoS R.RMAP_MIG_STAT_ACTIVE 1) R.RMAP_MIG_STAT_ACTIVE = true ∧
        copyOf (wr twoS R.RMAP_MIG_STAT_ACTIVE 1) relocOwner = none ∧
          List.find?
                (fun x =>
                  !relocated (wr twoS R.RMAP_MIG_STAT_ACTIVE 1) (rd (wr twoS R.RMAP_MIG_STAT_ACTIVE 1) R.RMAP_MIG_STAT_STK)
                      x)
                (migSlots (wr twoS R.RMAP_MIG_STAT_ACTIVE 1) (rd (wr twoS R.RMAP_MIG_STAT_ACTIVE 1) R.RMAP_MIG_STAT_STK)) =
              some 128 ∧
            slotReady (wr twoS R.RMAP_MIG_STAT_ACTIVE 1)
                  (slotUse (wr twoS R.RMAP_MIG_STAT_ACTIVE 1) (rd (wr twoS R.RMAP_MIG_STAT_ACTIVE 1) R.RMAP_MIG_STAT_STK)
                    128) =
                true ∧
              (nextTarget (wr twoS R.RMAP_MIG_STAT_ACTIVE 1)
                      (rd (wr twoS R.RMAP_MIG_STAT_ACTIVE 1) R.RMAP_MIG_STAT_STK)).isSome =
                  true ∧
                (freeReloc (wr twoS R.RMAP_MIG_STAT_ACTIVE 1)).isSome = true) := by and_intros <;> decide +kernel
theorem wit_SensorsConvertAndCalibrate :
    (memS.hl.sub < 3) ∧
    (3 ≤ subS.hl.sub) ∧
    (16 = 16 ∨ 16 = 18) ∧
    (18 = 16 ∨ 18 = 18) ∧
    (17 = 17 ∨ 17 = 19) ∧
    (19 = 17 ∨ 19 = 19) ∧
    (15 < 16) ∧
    (20 ≤ 20) ∧
    (20 ≤ 31) := by and_intros <;> decide +kernel
theorem wit_DomainsRampUpAndDown :
    ((State.reset.chip.held = true ∨ sliceAbsent State.reset 0 = true ∨ rd State.reset R.GEN_STAT_STAGE < 2) ∨
        (domain State.reset 0).phase ≠ 0 ∧ (domain State.reset 0).phase ≠ 4) ∧
    ((memS.chip.held = true ∨ sliceAbsent memS 2 = true ∨ rd memS R.GEN_STAT_STAGE < 2) ∨
        (domain memS 2).phase ≠ 0 ∧ (domain memS 2).phase ≠ 4) ∧
    (((dom 0 3 8).chip.held = true ∨ sliceAbsent (dom 0 3 8) 0 = true ∨ rd (dom 0 3 8) R.GEN_STAT_STAGE < 2) ∨
        (domain (dom 0 3 8) 0).phase ≠ 0 ∧ (domain (dom 0 3 8) 0).phase ≠ 4) ∧
    (¬((dom 14 4 3).chip.held = true ∨ sliceAbsent (dom 14 4 3) 14 = true ∨ rd (dom 14 4 3) R.GEN_STAT_STAGE < 2) ∧
        (domain (dom 14 4 3) 14).phase = 4) ∧
    (¬(memS.chip.held = true ∨ sliceAbsent memS 1 = true ∨ rd memS R.GEN_STAT_STAGE < 2) ∧ (domain memS 1).phase = 0) ∧
    ((upS 0 2 7).chip.pwrGood = true ∧
        rd (upS 0 2 7) (pllKey (pllOf 0)) = 2 ∧ ((domain (upS 0 2 7) 0).phase = 1 ∨ (domain (upS 0 2 7) 0).phase = 2)) ∧
    ((upS 1 1 0).chip.pwrGood = true ∧
        rd (upS 1 1 0) (pllKey (pllOf 1)) = 2 ∧ ((domain (upS 1 1 0) 1).phase = 1 ∨ (domain (upS 1 1 0) 1).phase = 2)) ∧
    (¬(memS.chip.pwrGood = true ∧ rd memS (pllKey (pllOf 0)) = 2 ∧ ((domain memS 0).phase = 1 ∨ (domain memS 0).phase = 2))) := by and_intros <;> decide +kernel
theorem wit_PllsLockAndRelock :
    (rd (wr (pllS 1 2 2) R.GEN_STAT_STAGE 2) (pllKey 0) ≠ 0 ∧ rd (wr (pllS 1 2 2) R.GEN_STAT_STAGE 2) (pllKey 0) ≠ 2) ∧
    (rd (pllS 1 2 3) (pllKey 2) ≠ 0 ∧ rd (pllS 1 2 3) (pllKey 2) ≠ 2) ∧
    (rd (pllS 1 2 3) (pllKey 1) = 0 ∨ rd (pllS 1 2 3) (pllKey 1) = 2) ∧
    (rd (pllS 1 0 3) (pllKey 1) = 0 ∨ rd (pllS 1 0 3) (pllKey 1) = 2) ∧
    (rd (pllS 2 1 3) (pllKey 0) = 1 ∨ rd (pllS 2 1 3) (pllKey 0) = 2) ∧
    (rd (pllS 2 1 3) (pllKey 1) = 1 ∨ rd (pllS 2 1 3) (pllKey 1) = 2) ∧
    (rd triesS (pllKey 0) = 1 ∨ rd triesS (pllKey 0) = 2) ∧
    (rd (pllS 0 1 3) (pllKey 0) = 0 ∨ rd (pllS 0 1 3) (pllKey 0) = 3) := by and_intros <;> decide +kernel
theorem wit_LimiterHoldsThePower :
    1 ≤ 5 ∧ 5 ≤ 16 := by decide +kernel
theorem wit_BringUpFollowsItsStages :
    (rd State.reset R.GEN_STAT_STAGE ≠ 3 ∨ State.reset.chip.held = true ∨ portsReady State.reset = false) ∧
    (¬(rd (wr State.reset R.GEN_STAT_STAGE 3) R.GEN_STAT_STAGE ≠ 3 ∨
          (wr State.reset R.GEN_STAT_STAGE 3).chip.held = true ∨ portsReady (wr State.reset R.GEN_STAT_STAGE 3) = false)) := by and_intros <;> decide +kernel
theorem wit_GenCtrlAndDisabledUnits :
    (rightsOf memS 1 &&& 2 = 0) ∧
    (rightsOf (instS 1) 0 &&& 2 ≠ 0) ∧
    (rightsOf (wr (instS 1) R.GEN_STAT_STAGE 4) 0 &&& 2 ≠ 0) ∧
    (rightsOf (if bits 268435456 15 1 ≠ 0 then pgError (begin memS) 0 31 0 else begin memS) 1 &&& 6 = 0 ∨
        bit 268435456 0 = true ∧
          rightsOf (if bits 268435456 15 1 ≠ 0 then pgError (begin memS) 0 31 0 else begin memS) 1 &&& 4 = 0) ∧
    (¬(rightsOf (if bits 1879048194 15 1 ≠ 0 then pgError (begin (instS 1)) 0 31 0 else begin (instS 1)) 0 &&& 6 = 0 ∨
            bit 1879048194 0 = true ∧
              rightsOf (if bits 1879048194 15 1 ≠ 0 then pgError (begin (instS 1)) 0 31 0 else begin (instS 1)) 0 &&& 4 =
                0) ∧
        unitsOf (bits 1879048194 31 28) ≤ bits 1879048194 27 16) ∧
    (¬(rightsOf (if bits 1073741824 15 1 ≠ 0 then pgError (begin (instS 1)) 0 31 0 else begin (instS 1)) 0 &&& 6 = 0 ∨
            bit 1073741824 0 = true ∧
              rightsOf (if bits 1073741824 15 1 ≠ 0 then pgError (begin (instS 1)) 0 31 0 else begin (instS 1)) 0 &&& 4 =
                0) ∧
        bits 1073741824 27 16 < unitsOf (bits 1073741824 31 28) ∧
          (rd (if bits 1073741824 15 1 ≠ 0 then pgError (begin (instS 1)) 0 31 0 else begin (instS 1)) R.GEN_STAT_STAGE <
              4 ∨
            isAbsent (instS 1) = false ∧ (bit 1073741824 0 = true ∨ bits 1073741824 31 28 = 4))) ∧
    (¬(rightsOf (if bits 1073807361 15 1 ≠ 0 then pgError (begin (absI 2)) 0 31 0 else begin (absI 2)) 0 &&& 6 = 0 ∨
            bit 1073807361 0 = true ∧
              rightsOf (if bits 1073807361 15 1 ≠ 0 then pgError (begin (absI 2)) 0 31 0 else begin (absI 2)) 0 &&& 4 = 0) ∧
        bits 1073807361 27 16 < unitsOf (bits 1073807361 31 28) ∧
          4 ≤ rd (if bits 1073807361 15 1 ≠ 0 then pgError (begin (absI 2)) 0 31 0 else begin (absI 2)) R.GEN_STAT_STAGE ∧
            bit 1073807361 0 = true ∧ isAbsent (absI 2) = true) ∧
    (¬(rightsOf (if bits 1073807360 15 1 ≠ 0 then pgError (begin (absI 1)) 0 31 0 else begin (absI 1)) 0 &&& 6 = 0 ∨
            bit 1073807360 0 = true ∧
              rightsOf (if bits 1073807360 15 1 ≠ 0 then pgError (begin (absI 1)) 0 31 0 else begin (absI 1)) 0 &&& 4 = 0) ∧
        bits 1073807360 27 16 < unitsOf (bits 1073807360 31 28) ∧
          4 ≤ rd (if bits 1073807360 15 1 ≠ 0 then pgError (begin (absI 1)) 0 31 0 else begin (absI 1)) R.GEN_STAT_STAGE ∧
            bit 1073807360 0 = false ∧ (bits 1073807360 31 28 ≠ 4 ∨ isAbsent (absI 1) = true)) ∧
    (¬(rightsOf (if bits 268500992 15 1 ≠ 0 then pgError (begin (instS 1)) 0 31 0 else begin (instS 1)) 0 &&& 6 = 0 ∨
            bit 268500992 0 = true ∧
              rightsOf (if bits 268500992 15 1 ≠ 0 then pgError (begin (instS 1)) 0 31 0 else begin (instS 1)) 0 &&& 4 =
                0) ∧
        bits 268500992 27 16 < unitsOf (bits 268500992 31 28) ∧
          4 ≤ rd (if bits 268500992 15 1 ≠ 0 then pgError (begin (instS 1)) 0 31 0 else begin (instS 1)) R.GEN_STAT_STAGE ∧
            bit 268500992 0 = false ∧ (bits 268500992 31 28 ≠ 4 ∨ isAbsent (instS 1) = true)) := by and_intros <;> decide +kernel
theorem wit_SramAndParityErrors :
    (injPage 1 = false) ∧
    (injPage 19 = true) ∧
    (pageExists 63 = false) ∧
    (pageExists 19 = true ∧ rightsOf (noteReserved (begin memS) 19 (bits 0 26 0 != 0)) 0 &&& 4 = 0) ∧
    (pageExists 19 = true ∧ rightsOf (noteReserved (begin (instS 2)) 19 (bits 402653185 26 0 != 0)) 0 &&& 4 ≠ 0) ∧
    (pageExists 11 = true ∧
        rightsOf (noteReserved (begin (withRun (runOf (cmd 4 0 0) Phase.running) (instS 2))) 11 (bits 134217728 26 0 != 0))
              0 &&&
            4 ≠
          0) ∧
    (pageExists 13 = true ∧ rightsOf (noteReserved (begin (instS 2)) 13 (bits 134217728 26 0 != 0)) 0 &&& 4 ≠ 0) := by and_intros <;> decide +kernel
theorem wit_TimeAndStrobe :
    (Option.all (fun r => r.phase == Phase.running) (activeRun memS 0 13 0) = true) ∧
    (Option.all (fun r => r.phase == Phase.running) (activeRun (withRun (snapR 0 Phase.running) memS) 0 13 0) = true) ∧
    (activeRun (withRun (snapR 0 Phase.started) memS) 0 13 0 = some (snapR 0 Phase.started) ∧
        (snapR 0 Phase.started).phase ≠ Phase.running) ∧
    (Option.all
          (fun r =>
            r.phase == Phase.running || rdb (wr (withRun (snapR 1 Phase.started) memS) R.SNP_CTRL_ARM 1) R.SNP_CTRL_ARM ||
              (wr (withRun (snapR 1 Phase.started) memS) R.SNP_CTRL_ARM 1).chip.timer.isSome)
          (activeRun (wr (withRun (snapR 1 Phase.started) memS) R.SNP_CTRL_ARM 1) 0 13 1) =
        true) ∧
    (activeRun (withRun (snapR 1 Phase.started) memS) 0 13 1 = some (snapR 1 Phase.started) ∧
        (snapR 1 Phase.started).phase ≠ Phase.running ∧
          rdb (withRun (snapR 1 Phase.started) memS) R.SNP_CTRL_ARM = false ∧
            (withRun (snapR 1 Phase.started) memS).chip.timer = none) ∧
    ((lockEdge
              (edgeStrobe
                (wr
                  { pending := memS.pending, out := memS.out, free := memS.free, regs := memS.regs, cnt := memS.cnt,
                    shadow := memS.shadow, tab := memS.tab, acc := memS.acc, ses := memS.ses, ev := memS.ev,
                    queues := memS.queues, seq := memS.seq, tallyVal := memS.tallyVal, tallyCode := memS.tallyCode,
                    host := memS.host, lp := memS.lp, hbm := memS.hbm, board := memS.board, nvm := memS.nvm,
                    mrp := memS.mrp, tier := memS.tier, dirHeld := memS.dirHeld, streams := memS.streams, pool := memS.pool,
                    sch := memS.sch, intk := memS.intk, rp := memS.rp, cod := memS.cod, comb := memS.comb,
                    spine := memS.spine, shd := memS.shd, rbd := memS.rbd, hive := memS.hive, fences := memS.fences,
                    col := memS.col, spr := memS.spr, hl := memS.hl,
                    chip :=
                      have __src := memS.chip;
                      { doms := __src.doms, tries := __src.tries, pwrGood := __src.pwrGood, held := __src.held,
                        resetWaits := __src.resetWaits, wakeOut := __src.wakeOut, faultOut := __src.faultOut,
                        quiet := __src.quiet, stuck := __src.stuck, unmetAt := __src.unmetAt,
                        frac :=
                          (rd memS R.TIME_TOD * 2 ^ 32 + memS.chip.frac +
                                unsigned 97 (40 * 2 ^ 32 + signed 32 (rd memS R.TIME_RATE))) %
                              2 ^ 96 %
                            2 ^ 32,
                        step := __src.step, stepOn := __src.stepOn, causes := __src.causes, deferred := __src.deferred,
                        armLate := __src.armLate, snaps := __src.snaps, timer := __src.timer, pins := __src.pins,
                        ir := __src.ir, tdo := __src.tdo, flush := __src.flush, cold := __src.cold } }
                  R.TIME_TOD
                  ((rd memS R.TIME_TOD * 2 ^ 32 + memS.chip.frac +
                        unsigned 97 (40 * 2 ^ 32 + signed 32 (rd memS R.TIME_RATE))) %
                      2 ^ 96 /
                    2 ^ 32))
                ((rd memS R.TIME_TOD * 2 ^ 32 + memS.chip.frac +
                      unsigned 97 (40 * 2 ^ 32 + signed 32 (rd memS R.TIME_RATE))) %
                    2 ^ 96 /
                  2 ^ 32))).chip.stepOn =
        false) ∧
    ((lockEdge
              (edgeStrobe
                (wr
                  { pending := offS.pending, out := offS.out, free := offS.free, regs := offS.regs, cnt := offS.cnt,
                    shadow := offS.shadow, tab := offS.tab, acc := offS.acc, ses := offS.ses, ev := offS.ev,
                    queues := offS.queues, seq := offS.seq, tallyVal := offS.tallyVal, tallyCode := offS.tallyCode,
                    host := offS.host, lp := offS.lp, hbm := offS.hbm, board := offS.board, nvm := offS.nvm,
                    mrp := offS.mrp, tier := offS.tier, dirHeld := offS.dirHeld, streams := offS.streams, pool := offS.pool,
                    sch := offS.sch, intk := offS.intk, rp := offS.rp, cod := offS.cod, comb := offS.comb,
                    spine := offS.spine, shd := offS.shd, rbd := offS.rbd, hive := offS.hive, fences := offS.fences,
                    col := offS.col, spr := offS.spr, hl := offS.hl,
                    chip :=
                      have __src := offS.chip;
                      { doms := __src.doms, tries := __src.tries, pwrGood := __src.pwrGood, held := __src.held,
                        resetWaits := __src.resetWaits, wakeOut := __src.wakeOut, faultOut := __src.faultOut,
                        quiet := __src.quiet, stuck := __src.stuck, unmetAt := __src.unmetAt,
                        frac :=
                          (rd offS R.TIME_TOD * 2 ^ 32 + offS.chip.frac +
                                unsigned 97 (40 * 2 ^ 32 + signed 32 (rd offS R.TIME_RATE))) %
                              2 ^ 96 %
                            2 ^ 32,
                        step := __src.step, stepOn := __src.stepOn, causes := __src.causes, deferred := __src.deferred,
                        armLate := __src.armLate, snaps := __src.snaps, timer := __src.timer, pins := __src.pins,
                        ir := __src.ir, tdo := __src.tdo, flush := __src.flush, cold := __src.cold } }
                  R.TIME_TOD
                  ((rd offS R.TIME_TOD * 2 ^ 32 + offS.chip.frac +
                        unsigned 97 (40 * 2 ^ 32 + signed 32 (rd offS R.TIME_RATE))) %
                      2 ^ 96 /
                    2 ^ 32))
                ((rd offS R.TIME_TOD * 2 ^ 32 + offS.chip.frac +
                      unsigned 97 (40 * 2 ^ 32 + signed 32 (rd offS R.TIME_RATE))) %
                    2 ^ 96 /
                  2 ^ 32))).chip.stepOn =
        true) := by and_intros <;> decide +kernel
theorem wit_InputsAreConditioned :
    (bit (rd (pinS 0 0 true false false) R.PIN_STAT_LEVEL) 0 = true) ∧
    (bit (rd (pinS 1 0 false false true) R.PIN_STAT_LEVEL) 1 ≠ true ∧
        bit (rd (setPin (begin (pinS 1 0 false false true)) R.PIN_STAT_LEVEL 1 true) R.PIN_STAT_STUCK) 1 = true) ∧
    (bit (rd (pinS 2 0 true false false) R.PIN_STAT_LEVEL) 2 ≠ false ∧
        bit (rd (setPin (begin (pinS 2 0 true false false)) R.PIN_STAT_LEVEL 2 false) R.PIN_STAT_STUCK) 2 = false ∧
          2 = 2 ∧ false = false) ∧
    (bit (rd (pinS 0 0 false false false) R.PIN_STAT_LEVEL) 0 ≠ true ∧
        bit (rd (setPin (begin (pinS 0 0 false false false)) R.PIN_STAT_LEVEL 0 true) R.PIN_STAT_STUCK) 0 = false ∧
          (0 ≠ 2 ∨ true = true) ∧
            ¬bit (rd (setPin (begin (pinS 0 0 false false false)) R.PIN_STAT_LEVEL 0 true) R.PIN_STAT_OVERRATE) 0 = true ∧
              ¬((pinOf (pinS 0 0 false false false) 0).last ≠ 0 ∧
                  rd (setPin (begin (pinS 0 0 false false false)) R.PIN_STAT_LEVEL 0 true) R.TIME_TOD <
                    (pinOf (pinS 0 0 false false false) 0).last - 1 +
                      1000 * rd (setPin (begin (pinS 0 0 false false false)) R.PIN_STAT_LEVEL 0 true) R.PIN_RATE)) ∧
    (bit (rd (pinS 1 0 true false false) R.PIN_STAT_LEVEL) 1 ≠ false ∧
        bit (rd (setPin (begin (pinS 1 0 true false false)) R.PIN_STAT_LEVEL 1 false) R.PIN_STAT_STUCK) 1 = false ∧
          (1 ≠ 2 ∨ false = true) ∧
            ¬bit (rd (setPin (begin (pinS 1 0 true false false)) R.PIN_STAT_LEVEL 1 false) R.PIN_STAT_OVERRATE) 1 = true ∧
              ¬((pinOf (pinS 1 0 true false false) 1).last ≠ 0 ∧
                  rd (setPin (begin (pinS 1 0 true false false)) R.PIN_STAT_LEVEL 1 false) R.TIME_TOD <
                    (pinOf (pinS 1 0 true false false) 1).last - 1 +
                      1000 * rd (setPin (begin (pinS 1 0 true false false)) R.PIN_STAT_LEVEL 1 false) R.PIN_RATE)) ∧
    (bit (rd (pinS 2 0 false false false) R.PIN_STAT_LEVEL) 2 ≠ true ∧
        bit (rd (setPin (begin (pinS 2 0 false false false)) R.PIN_STAT_LEVEL 2 true) R.PIN_STAT_STUCK) 2 = false ∧
          (2 ≠ 2 ∨ true = true) ∧
            ¬bit (rd (setPin (begin (pinS 2 0 false false false)) R.PIN_STAT_LEVEL 2 true) R.PIN_STAT_OVERRATE) 2 = true ∧
              ¬((pinOf (pinS 2 0 false false false) 2).last ≠ 0 ∧
                  rd (setPin (begin (pinS 2 0 false false false)) R.PIN_STAT_LEVEL 2 true) R.TIME_TOD <
                    (pinOf (pinS 2 0 false false false) 2).last - 1 +
                      1000 * rd (setPin (begin (pinS 2 0 false false false)) R.PIN_STAT_LEVEL 2 true) R.PIN_RATE)) ∧
    (bit (rd (pinS 0 1 true false false) R.PIN_STAT_LEVEL) 0 ≠ false ∧
        bit (rd (setPin (begin (pinS 0 1 true false false)) R.PIN_STAT_LEVEL 0 false) R.PIN_STAT_STUCK) 0 = false ∧
          (0 ≠ 2 ∨ false = true) ∧
            ¬bit (rd (setPin (begin (pinS 0 1 true false false)) R.PIN_STAT_LEVEL 0 false) R.PIN_STAT_OVERRATE) 0 = true ∧
              (pinOf (pinS 0 1 true false false) 0).last ≠ 0 ∧
                rd (setPin (begin (pinS 0 1 true false false)) R.PIN_STAT_LEVEL 0 false) R.TIME_TOD <
                  (pinOf (pinS 0 1 true false false) 0).last - 1 +
                    1000 * rd (setPin (begin (pinS 0 1 true false false)) R.PIN_STAT_LEVEL 0 false) R.PIN_RATE) ∧
    (bit (rd (pinS 1 1 true true false) R.PIN_STAT_LEVEL) 1 ≠ false ∧
        bit (rd (setPin (begin (pinS 1 1 true true false)) R.PIN_STAT_LEVEL 1 false) R.PIN_STAT_STUCK) 1 = false ∧
          (1 ≠ 2 ∨ false = true) ∧
            bit (rd (setPin (begin (pinS 1 1 true true false)) R.PIN_STAT_LEVEL 1 false) R.PIN_STAT_OVERRATE) 1 = true) ∧
    (bit (rd memS R.PIN_STAT_OVERRATE) 0 = false) ∧
    (bit (rd (pinS 0 1 true true false) R.PIN_STAT_OVERRATE) 0 = true) ∧
    (bit (rd (pinS 2 1 false true false) R.PIN_STAT_OVERRATE) 2 = true) := by and_intros <;> decide +kernel

end W07

namespace W08

def rq (n : BitVec 16) : Req := { src := n, tag := 5 }
def qS (db ret size : Nat) (en : Bool) : State := setQ jobS 0 { qOf jobS 0 with db := db, ret := ret, head := ret, size := size, en := en }
def selQ (t i : Nat) : State := wr (qS 0 0 6 false) (selKey 6) (at' t 28 + i)
def kxS : State := wr (qS 0 0 6 true) R.KX2C_CFG_EN 1
def heldS : State := { jobS with chip := { jobS.chip with held := true } }
def cacheS : State := tput (tput kxS 0xA 0 5 (objE clsCompat fmtByte 1 65536 0 1 0)) 0xA 2 0 (5 + at' 1 103 + at' 1 105 + at' 1 19)
def selS (page t i : Nat) : State := wr jobS (selKey page) (at' t 28 + i)
def absS (page t i : Nat) : State := wr (selS page t i) R.CMB_RANK_STATE 0
def inst (role : Nat) (s : State) : State := wr (wr s R.ROLE_STAT_OPEN 1) R.ROLE_STAT_ROLE role
def grpS (t i : Nat) : State := wr jobS R.COL_GRP_IDX (at' t 28 + i)
def memS : State := wr (wr (wr jobS R.GEN_STRAP_SLICE_EN 1) (R.SLC_STAT_READY 0) 1) (R.SLC_CAP 0) 1
def rmS (t i : Nat) : State := wr memS R.RMAP_TWIN_SEL (at' t 28 + i)
def rmA : State := inst 1 (wr (wr (wr (wr (rmS 0 4) R.CMB_RANK_STATE 0) R.CMB_STKMASK 1) R.CMB_DATA_CELLS 4) R.CMB_DATA_BASE 64)
def rmB : State := tput rmA 0x16 0 5 0x8000000000000400
def pendS (n : BitVec 16) : State := wr (wr jobS R.ROLE_STAT_PENDING 1) R.ROLE_STAT_SRC n.toNat
def pend3 : State := { pendS 1 with ses := { jobS.ses with fails := 3, lockLen := 1 } }
def keyA : State := inst 1 (wr jobS R.CMB_RANK_STATE 0)
def histS (x : Nat) : State := tput (wr jobS R.DIG_EXP_VALUE 77) 0x1B 0 9 (9 + at' x 53 + at' 1 55 + at' 5 320)

theorem wit_DoorbellsMoveTheProducerIndex :
    ((qS 0 0 5 false).chip.held = false ∧ ((qOf (qS 0 0 5 false) 0).size < 6 ∨ 16 < (qOf (qS 0 0 5 false) 0).size)) ∧
    ((qS 0 0 17 false).chip.held = false ∧ ((qOf (qS 0 0 17 false) 0).size < 6 ∨ 16 < (qOf (qS 0 0 17 false) 0).size)) ∧
    ((qS 9 0 6 false).chip.held = false ∧
        6 ≤ (qOf (qS 9 0 6 false) 0).size ∧ (qOf (qS 9 0 6 false) 0).size ≤ 16 ∧ 9 = (qOf (qS 9 0 6 false) 0).db) ∧
    ((qS 9 0 6 true).chip.held = false ∧
        6 ≤ (qOf (qS 9 0 6 true) 0).size ∧
          (qOf (qS 9 0 6 true) 0).size ≤ 16 ∧
            0 < (64 + 2 ^ 32 - (qOf (qS 9 0 6 true) 0).db) % 2 ^ 32 ∧
              (64 + 2 ^ 32 - (qOf (qS 9 0 6 true) 0).db) % 2 ^ 32 < 2 ^ 31 ∧
                (64 + 2 ^ 32 - (qOf (qS 9 0 6 true) 0).ret) % 2 ^ 32 ≤ 2 ^ (qOf (qS 9 0 6 true) 0).size) ∧
    ((qS 4294967295 4294967294 16 false).chip.held = false ∧
        6 ≤ (qOf (qS 4294967295 4294967294 16 false) 0).size ∧
          (qOf (qS 4294967295 4294967294 16 false) 0).size ≤ 16 ∧
            0 < (3 + 2 ^ 32 - (qOf (qS 4294967295 4294967294 16 false) 0).db) % 2 ^ 32 ∧
              (3 + 2 ^ 32 - (qOf (qS 4294967295 4294967294 16 false) 0).db) % 2 ^ 32 < 2 ^ 31 ∧
                (3 + 2 ^ 32 - (qOf (qS 4294967295 4294967294 16 false) 0).ret) % 2 ^ 32 ≤
                  2 ^ (qOf (qS 4294967295 4294967294 16 false) 0).size) ∧
    ((qS 9 0 6 true).chip.held = false ∧
        6 ≤ (qOf (qS 9 0 6 true) 0).size ∧
          (qOf (qS 9 0 6 true) 0).size ≤ 16 ∧
            65 ≠ (qOf (qS 9 0 6 true) 0).db ∧
              ((65 + 2 ^ 32 - (qOf (qS 9 0 6 true) 0).db) % 2 ^ 32 = 0 ∨
                2 ^ 31 ≤ (65 + 2 ^ 32 - (qOf (qS 9 0 6 true) 0).db) % 2 ^ 32 ∨
                  2 ^ (qOf (qS 9 0 6 true) 0).size < (65 + 2 ^ 32 - (qOf (qS 9 0 6 true) 0).ret) % 2 ^ 32)) ∧
    ((qS 9 8 6 true).chip.held = false ∧
        6 ≤ (qOf (qS 9 8 6 true) 0).size ∧
          (qOf (qS 9 8 6 true) 0).size ≤ 16 ∧
            8 ≠ (qOf (qS 9 8 6 true) 0).db ∧
              ((8 + 2 ^ 32 - (qOf (qS 9 8 6 true) 0).db) % 2 ^ 32 = 0 ∨
                2 ^ 31 ≤ (8 + 2 ^ 32 - (qOf (qS 9 8 6 true) 0).db) % 2 ^ 32 ∨
                  2 ^ (qOf (qS 9 8 6 true) 0).size < (8 + 2 ^ 32 - (qOf (qS 9 8 6 true) 0).ret) % 2 ^ 32)) := by and_intros <;> decide +kernel
theorem wit_QueueControlAndAliases :
    ((wr jobS (R.QUE_CTRL_ABORT 0) 1).chip.held = false ∧ rdb (wr jobS (R.QUE_CTRL_ABORT 0) 1) (R.QUE_CTRL_ABORT 0) = true) ∧
    ((withRun (runOf (cmd 1 0 0) Phase.unstarted) (qS 0 0 6 true)).chip.held = false ∧
        rdb (withRun (runOf (cmd 1 0 0) Phase.unstarted) (qS 0 0 6 true)) (R.QUE_CTRL_ABORT 0) = false ∧
          (qOf (withRun (runOf (cmd 1 0 0) Phase.unstarted) (qS 0 0 6 true)) 0).head =
            (qOf (withRun (runOf (cmd 1 0 0) Phase.unstarted) (qS 0 0 6 true)) 0).db) ∧
    ((qS 9 0 6 true).chip.held = false ∧
        rdb (qS 9 0 6 true) (R.QUE_CTRL_ABORT 0) = false ∧ (qOf (qS 9 0 6 true) 0).head ≠ (qOf (qS 9 0 6 true) 0).db) ∧
    ((selQ 1 3).chip.held = false ∧ selected (selQ 1 3) 6 = some (1, 3)) ∧
    (jobS.chip.held = false ∧ rdb jobS R.KX2C_CFG_EN = false) ∧
    (kxS.chip.held = false ∧ rdb kxS R.KX2C_CFG_EN = true) ∧
    (kxS.chip.held = false ∧ rdb kxS R.KX2C_CFG_EN = true ∧ (rdb kxS R.KX2C_FLUSH = true ∨ dirtyCaches (begin kxS) 0 = [])) ∧
    (heldS.chip.held = true) ∧
    (cacheS.chip.held = false ∧
        rdb cacheS R.KX2C_CFG_EN = true ∧ rdb cacheS R.KX2C_FLUSH = false ∧ dirtyCaches (begin cacheS) 0 ≠ []) := by and_intros <;> decide +kernel
theorem wit_EventConsumptionIsJudged :
    ((wr jobS R.EVT_PROD 5).chip.held = false ∧
        NMap.wf (wr jobS R.EVT_PROD 5).regs = true ∧
          (3 + 2 ^ 32 - rd (wr jobS R.EVT_PROD 5) R.EVT_CONS) % 2 ^ 32 ≤
            (rd (wr jobS R.EVT_PROD 5) R.EVT_PROD + 2 ^ 32 - rd (wr jobS R.EVT_PROD 5) R.EVT_CONS) % 2 ^ 32) ∧
    ((wr jobS R.EVT_PROD 5).chip.held = false ∧
        NMap.wf (wr jobS R.EVT_PROD 5).regs = true ∧
          (rd (wr jobS R.EVT_PROD 5) R.EVT_PROD + 2 ^ 32 - rd (wr jobS R.EVT_PROD 5) R.EVT_CONS) % 2 ^ 32 <
            (6 + 2 ^ 32 - rd (wr jobS R.EVT_PROD 5) R.EVT_CONS) % 2 ^ 32) := by and_intros <;> decide +kernel
theorem wit_EntrySubmissionsAreJudged_1 :
    ((selS 10 0 9).chip.held = false ∧
        selected (selS 10 0 9) 10 = some (0, 9) ∧
          (dirEffect
                (noteReserved (count (dropStaged (begin (selS 10 0 9)) 1 10) C.OBJ_DIR_SUBMIT) 10
                  !entryReserved
                      (setBits (submitted (begin (selS 10 0 9)) 1 10 (entryValue (begin (selS 10 0 9)) 10 0 9) 0 true) 255
                        240 (oHomeEpoch (entryValue (begin (selS 10 0 9)) 10 0 9))))
                9 (entryValue (begin (selS 10 0 9)) 10 0 9)
                (setBits (submitted (begin (selS 10 0 9)) 1 10 (entryValue (begin (selS 10 0 9)) 10 0 9) 0 true) 255 240
                  (oHomeEpoch (entryValue (begin (selS 10 0 9)) 10 0 9)))).snd =
            0) ∧
    ((selS 10 0 9).chip.held = false ∧
        selected (selS 10 0 9) 10 = some (0, 9) ∧
          (dirEffect
                (noteReserved (count (dropStaged (begin (selS 10 0 9)) 1 10) C.OBJ_DIR_SUBMIT) 10
                  !entryReserved
                      (setBits
                        (submitted (begin (selS 10 0 9)) 1 10 (entryValue (begin (selS 10 0 9)) 10 0 9) 2147483648 true) 255
                        240 (oHomeEpoch (entryValue (begin (selS 10 0 9)) 10 0 9))))
                9 (entryValue (begin (selS 10 0 9)) 10 0 9)
                (setBits (submitted (begin (selS 10 0 9)) 1 10 (entryValue (begin (selS 10 0 9)) 10 0 9) 2147483648 true)
                  255 240 (oHomeEpoch (entryValue (begin (selS 10 0 9)) 10 0 9)))).snd ≠
            0) ∧
    ((inst 1 (selS 16 0 9)).chip.held = false ∧
        selected (inst 1 (selS 16 0 9)) 16 = some (0, 9) ∧
          rightsOf
                (noteReserved (dropStaged (begin (inst 1 (selS 16 0 9))) 0 16) 16
                  (bits
                        (submitted (begin (inst 1 (selS 16 0 9))) 0 16 (entryValue (begin (inst 1 (selS 16 0 9))) 16 0 9) 7
                          true)
                        127 110 !=
                      0 ||
                    bits
                        (submitted (begin (inst 1 (selS 16 0 9))) 0 16 (entryValue (begin (inst 1 (selS 16 0 9))) 16 0 9) 7
                          true)
                        99 96 !=
                      0))
                0 &&&
              2 ≠
            0) ∧
    ((selS 16 0 9).chip.held = false ∧
        selected (selS 16 0 9) 16 = some (0, 9) ∧
          rightsOf
                  (noteReserved (dropStaged (begin (selS 16 0 9)) 1 16) 16
                    (bits (submitted (begin (selS 16 0 9)) 1 16 (entryValue (begin (selS 16 0 9)) 16 0 9) 0 true) 127 110 !=
                        0 ||
                      bits (submitted (begin (selS 16 0 9)) 1 16 (entryValue (begin (selS 16 0 9)) 16 0 9) 0 true) 99 96 !=
                        0))
                  1 &&&
                2 =
              0 ∧
            setBits (bits (submitted (begin (selS 16 0 9)) 1 16 (entryValue (begin (selS 16 0 9)) 16 0 9) 0 true) 109 0) 99
                96 0 =
              entryValue (begin (selS 16 0 9)) 16 0 9) ∧
    ((selS 16 0 9).chip.held = false ∧
        selected (selS 16 0 9) 16 = some (0, 9) ∧
          rightsOf
                  (noteReserved (dropStaged (begin (selS 16 0 9)) 1 16) 16
                    (bits (submitted (begin (selS 16 0 9)) 1 16 (entryValue (begin (selS 16 0 9)) 16 0 9) 7 true) 127 110 !=
                        0 ||
                      bits (submitted (begin (selS 16 0 9)) 1 16 (entryValue (begin (selS 16 0 9)) 16 0 9) 7 true) 99 96 !=
                        0))
                  1 &&&
                2 =
              0 ∧
            setBits (bits (submitted (begin (selS 16 0 9)) 1 16 (entryValue (begin (selS 16 0 9)) 16 0 9) 7 true) 109 0) 99
                96 0 ≠
              entryValue (begin (selS 16 0 9)) 16 0 9) ∧
    ((grpS 1 0).chip.held = false ∧
        (selTable (rd (grpS 1 0) R.COL_GRP_IDX) ≠ 0 ∨ 4096 ≤ selIndex (rd (grpS 1 0) R.COL_GRP_IDX))) ∧
    ((grpS 0 4096).chip.held = false ∧
        (selTable (rd (grpS 0 4096) R.COL_GRP_IDX) ≠ 0 ∨ 4096 ≤ selIndex (rd (grpS 0 4096) R.COL_GRP_IDX))) ∧
    ((grpS 0 4).chip.held = false ∧
        selTable (rd (grpS 0 4) R.COL_GRP_IDX) = 0 ∧
          selIndex (rd (grpS 0 4) R.COL_GRP_IDX) < 4096 ∧
            (groupInUse
                  (if
                      bits
                            (submitted (begin (grpS 0 4)) 1 18 (group (grpS 0 4) (selIndex (rd (grpS 0 4) R.COL_GRP_IDX)))
                              9223372036854775809 true)
                            62 51 ≠
                          0 ∨
                        bits
                              (submitted (begin (grpS 0 4)) 1 18 (group (grpS 0 4) (selIndex (rd (grpS 0 4) R.COL_GRP_IDX)))
                                9223372036854775809 true)
                              31 28 ≠
                            0 ∨
                          bits
                              (submitted (begin (grpS 0 4)) 1 18 (group (grpS 0 4) (selIndex (rd (grpS 0 4) R.COL_GRP_IDX)))
                                9223372036854775809 true)
                              15 13 ≠
                            0 then
                    pgError (dropStaged (begin (grpS 0 4)) 1 18) 18 31 0
                  else dropStaged (begin (grpS 0 4)) 1 18)
                  (selIndex (rd (grpS 0 4) R.COL_GRP_IDX)) =
                true ∨
              grValid
                    (submitted (begin (grpS 0 4)) 1 18 (group (grpS 0 4) (selIndex (rd (grpS 0 4) R.COL_GRP_IDX)))
                      9223372036854775809 true) =
                  true ∧
                (grN
                      (submitted (begin (grpS 0 4)) 1 18 (group (grpS 0 4) (selIndex (rd (grpS 0 4) R.COL_GRP_IDX)))
                        9223372036854775809 true) <
                    2 ∨
                  4096 <
                      grN
                        (submitted (begin (grpS 0 4)) 1 18 (group (grpS 0 4) (selIndex (rd (grpS 0 4) R.COL_GRP_IDX)))
                          9223372036854775809 true) ∨
                    grN
                        (submitted (begin (grpS 0 4)) 1 18 (group (grpS 0 4) (selIndex (rd (grpS 0 4) R.COL_GRP_IDX)))
                          9223372036854775809 true) ≤
                      grMe
                        (submitted (begin (grpS 0 4)) 1 18 (group (grpS 0 4) (selIndex (rd (grpS 0 4) R.COL_GRP_IDX)))
                          9223372036854775809 true)))) ∧
    ((grpS 0 4).chip.held = false ∧
        selTable (rd (grpS 0 4) R.COL_GRP_IDX) = 0 ∧
          selIndex (rd (grpS 0 4) R.COL_GRP_IDX) < 4096 ∧
            groupInUse
                  (if
                      bits
                            (submitted (begin (grpS 0 4)) 1 18 (group (grpS 0 4) (selIndex (rd (grpS 0 4) R.COL_GRP_IDX)))
                              9223372036854775810 true)
                            62 51 ≠
                          0 ∨
                        bits
                              (submitted (begin (grpS 0 4)) 1 18 (group (grpS 0 4) (selIndex (rd (grpS 0 4) R.COL_GRP_IDX)))
                                9223372036854775810 true)
                              31 28 ≠
                            0 ∨
                          bits
                              (submitted (begin (grpS 0 4)) 1 18 (group (grpS 0 4) (selIndex (rd (grpS 0 4) R.COL_GRP_IDX)))
                                9223372036854775810 true)
                              15 13 ≠
                            0 then
                    pgError (dropStaged (begin (grpS 0 4)) 1 18) 18 31 0
                  else dropStaged (begin (grpS 0 4)) 1 18)
                  (selIndex (rd (grpS 0 4) R.COL_GRP_IDX)) =
                false ∧
              ¬(grValid
                      (submitted (begin (grpS 0 4)) 1 18 (group (grpS 0 4) (selIndex (rd (grpS 0 4) R.COL_GRP_IDX)))
                        9223372036854775810 true) =
                    true ∧
                  (grN
                        (submitted (begin (grpS 0 4)) 1 18 (group (grpS 0 4) (selIndex (rd (grpS 0 4) R.COL_GRP_IDX)))
                          9223372036854775810 true) <
                      2 ∨
                    4096 <
                        grN
                          (submitted (begin (grpS 0 4)) 1 18 (group (grpS 0 4) (selIndex (rd (grpS 0 4) R.COL_GRP_IDX)))
                            9223372036854775810 true) ∨
                      grN
                          (submitted (begin (grpS 0 4)) 1 18 (group (grpS 0 4) (selIndex (rd (grpS 0 4) R.COL_GRP_IDX)))
                            9223372036854775810 true) ≤
                        grMe
                          (submitted (begin (grpS 0 4)) 1 18 (group (grpS 0 4) (selIndex (rd (grpS 0 4) R.COL_GRP_IDX)))
                            9223372036854775810 true)))) ∧
    (selTable (rd (rmS 0 4) R.RMAP_TWIN_SEL) = 0 ∧
        selIndex (rd (rmS 0 4) R.RMAP_TWIN_SEL) < 96 ∧
          hasRole
                (if
                    bits
                        (submitted (begin (rmS 0 4)) 1 22 (tget (rmS 0 4) 22 0 (selIndex (rd (rmS 0 4) R.RMAP_TWIN_SEL))) 0
                          true)
                        60 25 ≠
                      0 then
                  pgError (dropStaged (begin (rmS 0 4)) 1 22) 22 31 0
                else dropStaged (begin (rmS 0 4)) 1 22)
                (rq 1).src 2 =
              false ∧
            submitted (begin (rmS 0 4)) 1 22 (tget (rmS 0 4) 22 0 (selIndex (rd (rmS 0 4) R.RMAP_TWIN_SEL))) 0 true %
                  2 ^ 25 +
                at'
                  (bits
                    (submitted (begin (rmS 0 4)) 1 22 (tget (rmS 0 4) 22 0 (selIndex (rd (rmS 0 4) R.RMAP_TWIN_SEL))) 0
                      true)
                    63 61)
                  61 =
              tget (rmS 0 4) 22 0 (selIndex (rd (rmS 0 4) R.RMAP_TWIN_SEL))) ∧
    (selTable (rd (rmS 0 4) R.RMAP_TWIN_SEL) = 0 ∧
        selIndex (rd (rmS 0 4) R.RMAP_TWIN_SEL) < 96 ∧
          hasRole
                (if
                    bits
                        (submitted (begin (rmS 0 4)) 1 22 (tget (rmS 0 4) 22 0 (selIndex (rd (rmS 0 4) R.RMAP_TWIN_SEL))) 7
                          true)
                        60 25 ≠
                      0 then
                  pgError (dropStaged (begin (rmS 0 4)) 1 22) 22 31 0
                else dropStaged (begin (rmS 0 4)) 1 22)
                (rq 1).src 2 =
              false ∧
            submitted (begin (rmS 0 4)) 1 22 (tget (rmS 0 4) 22 0 (selIndex (rd (rmS 0 4) R.RMAP_TWIN_SEL))) 7 true %
                  2 ^ 25 +
                at'
                  (bits
                    (submitted (begin (rmS 0 4)) 1 22 (tget (rmS 0 4) 22 0 (selIndex (rd (rmS 0 4) R.RMAP_TWIN_SEL))) 7
                      true)
                    63 61)
                  61 ≠
              tget (rmS 0 4) 22 0 (selIndex (rd (rmS 0 4) R.RMAP_TWIN_SEL))) ∧
    (selTable (rd (inst 1 (rmS 0 4)) R.RMAP_TWIN_SEL) = 0 ∧
        selIndex (rd (inst 1 (rmS 0 4)) R.RMAP_TWIN_SEL) < 96 ∧
          hasRole
                (if
                    bits
                        (submitted (begin (inst 1 (rmS 0 4))) 0 22
                          (tget (inst 1 (rmS 0 4)) 22 0 (selIndex (rd (inst 1 (rmS 0 4)) R.RMAP_TWIN_SEL))) 7 true)
                        60 25 ≠
                      0 then
                  pgError (dropStaged (begin (inst 1 (rmS 0 4))) 0 22) 22 31 0
                else dropStaged (begin (inst 1 (rmS 0 4))) 0 22)
                (rq 0).src 2 =
              true ∧
            (isAbsent
                  (if
                      bits
                          (submitted (begin (inst 1 (rmS 0 4))) 0 22
                            (tget (inst 1 (rmS 0 4)) 22 0 (selIndex (rd (inst 1 (rmS 0 4)) R.RMAP_TWIN_SEL))) 7 true)
                          60 25 ≠
                        0 then
                    pgError (dropStaged (begin (inst 1 (rmS 0 4))) 0 22) 22 31 0
                  else dropStaged (begin (inst 1 (rmS 0 4))) 0 22) =
                false ∨
              rd
                  (if
                      bits
                          (submitted (begin (inst 1 (rmS 0 4))) 0 22
                            (tget (inst 1 (rmS 0 4)) 22 0 (selIndex (rd (inst 1 (rmS 0 4)) R.RMAP_TWIN_SEL))) 7 true)
                          60 25 ≠
                        0 then
                    pgError (dropStaged (begin (inst 1 (rmS 0 4))) 0 22) 22 31 0
                  else dropStaged (begin (inst 1 (rmS 0 4))) 0 22)
                  R.GEN_STAT_STAGE <
                4)) := by and_intros <;> decide +kernel
theorem wit_EntrySubmissionsAreJudged_2 :
    (selTable (rd rmB R.RMAP_TWIN_SEL) = 0 ∧
        selIndex (rd rmB R.RMAP_TWIN_SEL) < 96 ∧
          hasRole
                (if
                    bits
                        (submitted (begin rmB) 0 22 (tget rmB 22 0 (selIndex (rd rmB R.RMAP_TWIN_SEL))) 9223372036854776832
                          true)
                        60 25 ≠
                      0 then
                  pgError (dropStaged (begin rmB) 0 22) 22 31 0
                else dropStaged (begin rmB) 0 22)
                (rq 0).src 2 =
              true ∧
            isAbsent
                  (if
                      bits
                          (submitted (begin rmB) 0 22 (tget rmB 22 0 (selIndex (rd rmB R.RMAP_TWIN_SEL)))
                            9223372036854776832 true)
                          60 25 ≠
                        0 then
                    pgError (dropStaged (begin rmB) 0 22) 22 31 0
                  else dropStaged (begin rmB) 0 22) =
                true ∧
              4 ≤
                  rd
                    (if
                        bits
                            (submitted (begin rmB) 0 22 (tget rmB 22 0 (selIndex (rd rmB R.RMAP_TWIN_SEL)))
                              9223372036854776832 true)
                            60 25 ≠
                          0 then
                      pgError (dropStaged (begin rmB) 0 22) 22 31 0
                    else dropStaged (begin rmB) 0 22)
                    R.GEN_STAT_STAGE ∧
                bit
                      (submitted (begin rmB) 0 22 (tget rmB 22 0 (selIndex (rd rmB R.RMAP_TWIN_SEL))) 9223372036854776832
                            true %
                          2 ^ 25 +
                        at'
                          (bits
                            (submitted (begin rmB) 0 22 (tget rmB 22 0 (selIndex (rd rmB R.RMAP_TWIN_SEL)))
                              9223372036854776832 true)
                            63 61)
                          61)
                      63 =
                    true ∧
                  (isPrivate
                        (if
                            bits
                                (submitted (begin rmB) 0 22 (tget rmB 22 0 (selIndex (rd rmB R.RMAP_TWIN_SEL)))
                                  9223372036854776832 true)
                                60 25 ≠
                              0 then
                          pgError (dropStaged (begin rmB) 0 22) 22 31 0
                        else dropStaged (begin rmB) 0 22)
                        (selIndex (rd rmB R.RMAP_TWIN_SEL) / 8)
                        (bits
                              (submitted (begin rmB) 0 22 (tget rmB 22 0 (selIndex (rd rmB R.RMAP_TWIN_SEL)))
                                    9223372036854776832 true %
                                  2 ^ 25 +
                                at'
                                  (bits
                                    (submitted (begin rmB) 0 22 (tget rmB 22 0 (selIndex (rd rmB R.RMAP_TWIN_SEL)))
                                      9223372036854776832 true)
                                    63 61)
                                  61)
                              24 0 *
                            4096 /
                          cellSize) =
                      false ∨
                    ((List.range 8).any fun e =>
                        8 * (selIndex (rd rmB R.RMAP_TWIN_SEL) / 8) + e != selIndex (rd rmB R.RMAP_TWIN_SEL) &&
                            bit
                              (tget
                                (if
                                    bits
                                        (submitted (begin rmB) 0 22 (tget rmB 22 0 (selIndex (rd rmB R.RMAP_TWIN_SEL)))
                                          9223372036854776832 true)
                                        60 25 ≠
                                      0 then
                                  pgError (dropStaged (begin rmB) 0 22) 22 31 0
                                else dropStaged (begin rmB) 0 22)
                                22 0 (8 * (selIndex (rd rmB R.RMAP_TWIN_SEL) / 8) + e))
                              63 &&
                          bits
                              (tget
                                (if
                                    bits
                                        (submitted (begin rmB) 0 22 (tget rmB 22 0 (selIndex (rd rmB R.RMAP_TWIN_SEL)))
                                          9223372036854776832 true)
                                        60 25 ≠
                                      0 then
                                  pgError (dropStaged (begin rmB) 0 22) 22 31 0
                                else dropStaged (begin rmB) 0 22)
                                22 0 (8 * (selIndex (rd rmB R.RMAP_TWIN_SEL) / 8) + e))
                              24 0 ==
                            bits
                              (submitted (begin rmB) 0 22 (tget rmB 22 0 (selIndex (rd rmB R.RMAP_TWIN_SEL)))
                                    9223372036854776832 true %
                                  2 ^ 25 +
                                at'
                                  (bits
                                    (submitted (begin rmB) 0 22 (tget rmB 22 0 (selIndex (rd rmB R.RMAP_TWIN_SEL)))
                                      9223372036854776832 true)
                                    63 61)
                                  61)
                              24 0) =
                      true)) ∧
    (selTable (rd rmA R.RMAP_TWIN_SEL) = 0 ∧
        selIndex (rd rmA R.RMAP_TWIN_SEL) < 96 ∧
          hasRole
                (if
                    bits (submitted (begin rmA) 0 22 (tget rmA 22 0 (selIndex (rd rmA R.RMAP_TWIN_SEL))) 0 true) 60 25 ≠
                      0 then
                  pgError (dropStaged (begin rmA) 0 22) 22 31 0
                else dropStaged (begin rmA) 0 22)
                (rq 0).src 2 =
              true ∧
            isAbsent
                  (if
                      bits (submitted (begin rmA) 0 22 (tget rmA 22 0 (selIndex (rd rmA R.RMAP_TWIN_SEL))) 0 true) 60 25 ≠
                        0 then
                    pgError (dropStaged (begin rmA) 0 22) 22 31 0
                  else dropStaged (begin rmA) 0 22) =
                true ∧
              4 ≤
                  rd
                    (if
                        bits (submitted (begin rmA) 0 22 (tget rmA 22 0 (selIndex (rd rmA R.RMAP_TWIN_SEL))) 0 true) 60 25 ≠
                          0 then
                      pgError (dropStaged (begin rmA) 0 22) 22 31 0
                    else dropStaged (begin rmA) 0 22)
                    R.GEN_STAT_STAGE ∧
                (bit
                      (submitted (begin rmA) 0 22 (tget rmA 22 0 (selIndex (rd rmA R.RMAP_TWIN_SEL))) 0 true % 2 ^ 25 +
                        at'
                          (bits (submitted (begin rmA) 0 22 (tget rmA 22 0 (selIndex (rd rmA R.RMAP_TWIN_SEL))) 0 true) 63
                            61)
                          61)
                      63 =
                    false ∨
                  isPrivate
                        (if
                            bits (submitted (begin rmA) 0 22 (tget rmA 22 0 (selIndex (rd rmA R.RMAP_TWIN_SEL))) 0 true) 60
                                25 ≠
                              0 then
                          pgError (dropStaged (begin rmA) 0 22) 22 31 0
                        else dropStaged (begin rmA) 0 22)
                        (selIndex (rd rmA R.RMAP_TWIN_SEL) / 8)
                        (bits
                              (submitted (begin rmA) 0 22 (tget rmA 22 0 (selIndex (rd rmA R.RMAP_TWIN_SEL))) 0 true %
                                  2 ^ 25 +
                                at'
                                  (bits
                                    (submitted (begin rmA) 0 22 (tget rmA 22 0 (selIndex (rd rmA R.RMAP_TWIN_SEL))) 0 true)
                                    63 61)
                                  61)
                              24 0 *
                            4096 /
                          cellSize) =
                      true ∧
                    ((List.range 8).any fun e =>
                        8 * (selIndex (rd rmA R.RMAP_TWIN_SEL) / 8) + e != selIndex (rd rmA R.RMAP_TWIN_SEL) &&
                            bit
                              (tget
                                (if
                                    bits
                                        (submitted (begin rmA) 0 22 (tget rmA 22 0 (selIndex (rd rmA R.RMAP_TWIN_SEL))) 0
                                          true)
                                        60 25 ≠
                                      0 then
                                  pgError (dropStaged (begin rmA) 0 22) 22 31 0
                                else dropStaged (begin rmA) 0 22)
                                22 0 (8 * (selIndex (rd rmA R.RMAP_TWIN_SEL) / 8) + e))
                              63 &&
                          bits
                              (tget
                                (if
                                    bits
                                        (submitted (begin rmA) 0 22 (tget rmA 22 0 (selIndex (rd rmA R.RMAP_TWIN_SEL))) 0
                                          true)
                                        60 25 ≠
                                      0 then
                                  pgError (dropStaged (begin rmA) 0 22) 22 31 0
                                else dropStaged (begin rmA) 0 22)
                                22 0 (8 * (selIndex (rd rmA R.RMAP_TWIN_SEL) / 8) + e))
                              24 0 ==
                            bits
                              (submitted (begin rmA) 0 22 (tget rmA 22 0 (selIndex (rd rmA R.RMAP_TWIN_SEL))) 0 true %
                                  2 ^ 25 +
                                at'
                                  (bits
                                    (submitted (begin rmA) 0 22 (tget rmA 22 0 (selIndex (rd rmA R.RMAP_TWIN_SEL))) 0 true)
                                    63 61)
                                  61)
                              24 0) =
                      false)) ∧
    (selTable (rd rmA R.RMAP_TWIN_SEL) = 0 ∧
        selIndex (rd rmA R.RMAP_TWIN_SEL) < 96 ∧
          hasRole
                (if
                    bits
                        (submitted (begin rmA) 0 22 (tget rmA 22 0 (selIndex (rd rmA R.RMAP_TWIN_SEL))) 9223372036854776832
                          true)
                        60 25 ≠
                      0 then
                  pgError (dropStaged (begin rmA) 0 22) 22 31 0
                else dropStaged (begin rmA) 0 22)
                (rq 0).src 2 =
              true ∧
            isAbsent
                  (if
                      bits
                          (submitted (begin rmA) 0 22 (tget rmA 22 0 (selIndex (rd rmA R.RMAP_TWIN_SEL)))
                            9223372036854776832 true)
                          60 25 ≠
                        0 then
                    pgError (dropStaged (begin rmA) 0 22) 22 31 0
                  else dropStaged (begin rmA) 0 22) =
                true ∧
              4 ≤
                  rd
                    (if
                        bits
                            (submitted (begin rmA) 0 22 (tget rmA 22 0 (selIndex (rd rmA R.RMAP_TWIN_SEL)))
                              9223372036854776832 true)
                            60 25 ≠
                          0 then
                      pgError (dropStaged (begin rmA) 0 22) 22 31 0
                    else dropStaged (begin rmA) 0 22)
                    R.GEN_STAT_STAGE ∧
                (bit
                      (submitted (begin rmA) 0 22 (tget rmA 22 0 (selIndex (rd rmA R.RMAP_TWIN_SEL))) 9223372036854776832
                            true %
                          2 ^ 25 +
                        at'
                          (bits
                            (submitted (begin rmA) 0 22 (tget rmA 22 0 (selIndex (rd rmA R.RMAP_TWIN_SEL)))
                              9223372036854776832 true)
                            63 61)
                          61)
                      63 =
                    false ∨
                  isPrivate
                        (if
                            bits
                                (submitted (begin rmA) 0 22 (tget rmA 22 0 (selIndex (rd rmA R.RMAP_TWIN_SEL)))
                                  9223372036854776832 true)
                                60 25 ≠
                              0 then
                          pgError (dropStaged (begin rmA) 0 22) 22 31 0
                        else dropStaged (begin rmA) 0 22)
                        (selIndex (rd rmA R.RMAP_TWIN_SEL) / 8)
                        (bits
                              (submitted (begin rmA) 0 22 (tget rmA 22 0 (selIndex (rd rmA R.RMAP_TWIN_SEL)))
                                    9223372036854776832 true %
                                  2 ^ 25 +
                                at'
                                  (bits
                                    (submitted (begin rmA) 0 22 (tget rmA 22 0 (selIndex (rd rmA R.RMAP_TWIN_SEL)))
                                      9223372036854776832 true)
                                    63 61)
                                  61)
                              24 0 *
                            4096 /
                          cellSize) =
                      true ∧
                    ((List.range 8).any fun e =>
                        8 * (selIndex (rd rmA R.RMAP_TWIN_SEL) / 8) + e != selIndex (rd rmA R.RMAP_TWIN_SEL) &&
                            bit
                              (tget
                                (if
                                    bits
                                        (submitted (begin rmA) 0 22 (tget rmA 22 0 (selIndex (rd rmA R.RMAP_TWIN_SEL)))
                                          9223372036854776832 true)
                                        60 25 ≠
                                      0 then
                                  pgError (dropStaged (begin rmA) 0 22) 22 31 0
                                else dropStaged (begin rmA) 0 22)
                                22 0 (8 * (selIndex (rd rmA R.RMAP_TWIN_SEL) / 8) + e))
                              63 &&
                          bits
                              (tget
                                (if
                                    bits
                                        (submitted (begin rmA) 0 22 (tget rmA 22 0 (selIndex (rd rmA R.RMAP_TWIN_SEL)))
                                          9223372036854776832 true)
                                        60 25 ≠
                                      0 then
                                  pgError (dropStaged (begin rmA) 0 22) 22 31 0
                                else dropStaged (begin rmA) 0 22)
                                22 0 (8 * (selIndex (rd rmA R.RMAP_TWIN_SEL) / 8) + e))
                              24 0 ==
                            bits
                              (submitted (begin rmA) 0 22 (tget rmA 22 0 (selIndex (rd rmA R.RMAP_TWIN_SEL)))
                                    9223372036854776832 true %
                                  2 ^ 25 +
                                at'
                                  (bits
                                    (submitted (begin rmA) 0 22 (tget rmA 22 0 (selIndex (rd rmA R.RMAP_TWIN_SEL)))
                                      9223372036854776832 true)
                                    63 61)
                                  61)
                              24 0) =
                      false)) ∧
    (selTable (rd (rmS 1 4) R.RMAP_TWIN_SEL) = 1 ∧ selIndex (rd (rmS 1 4) R.RMAP_TWIN_SEL) < 262144) ∧
    (selTable (rd (rmS 0 96) R.RMAP_TWIN_SEL) = 0 ∧ 96 ≤ selIndex (rd (rmS 0 96) R.RMAP_TWIN_SEL) ∨
        selTable (rd (rmS 0 96) R.RMAP_TWIN_SEL) = 1 ∧ 262144 ≤ selIndex (rd (rmS 0 96) R.RMAP_TWIN_SEL) ∨
          2 ≤ selTable (rd (rmS 0 96) R.RMAP_TWIN_SEL)) ∧
    (selTable (rd (rmS 2 0) R.RMAP_TWIN_SEL) = 0 ∧ 96 ≤ selIndex (rd (rmS 2 0) R.RMAP_TWIN_SEL) ∨
        selTable (rd (rmS 2 0) R.RMAP_TWIN_SEL) = 1 ∧ 262144 ≤ selIndex (rd (rmS 2 0) R.RMAP_TWIN_SEL) ∨
          2 ≤ selTable (rd (rmS 2 0) R.RMAP_TWIN_SEL)) := by and_intros <;> decide +kernel
theorem wit_SessionsOpenAndClose_1 :
    (NMap.wf (wr jobS R.ROLE_STAT_LOCKED 1).regs = true ∧ rdb (wr jobS R.ROLE_STAT_LOCKED 1) R.ROLE_STAT_LOCKED = true) ∧
    (NMap.wf jobS.regs = true ∧
        rdb jobS R.ROLE_STAT_LOCKED = false ∧
          (3 = 0 ∨ 3 = 3 ∨ rdb jobS R.ROLE_STAT_OPEN = true ∨ rdb jobS R.ROLE_STAT_PENDING = true)) ∧
    (NMap.wf (wr jobS R.ROLE_STAT_PENDING 1).regs = true ∧
        rdb (wr jobS R.ROLE_STAT_PENDING 1) R.ROLE_STAT_LOCKED = false ∧
          (2 = 0 ∨
            2 = 3 ∨
              rdb (wr jobS R.ROLE_STAT_PENDING 1) R.ROLE_STAT_OPEN = true ∨
                rdb (wr jobS R.ROLE_STAT_PENDING 1) R.ROLE_STAT_PENDING = true)) ∧
    (NMap.wf jobS.regs = true ∧
        rdb jobS R.ROLE_STAT_LOCKED = false ∧
          (2 = 1 ∨ 2 = 2) ∧ rdb jobS R.ROLE_STAT_OPEN = false ∧ rdb jobS R.ROLE_STAT_PENDING = false) ∧
    (NMap.wf (pendS 1).regs = true ∧ rdb (pendS 1) R.ROLE_STAT_PENDING = true ∧ rd (pendS 1) R.ROLE_STAT_SRC = 1) ∧
    (NMap.wf pend3.regs = true ∧ rdb pend3 R.ROLE_STAT_PENDING = true ∧ rd pend3 R.ROLE_STAT_SRC = 1) ∧
    (NMap.wf (pendS 2).regs = true ∧ (rdb (pendS 2) R.ROLE_STAT_PENDING = false ∨ rd (pendS 2) R.ROLE_STAT_SRC ≠ 1)) ∧
    (NMap.wf jobS.regs = true ∧ (rdb jobS R.ROLE_STAT_PENDING = false ∨ rd jobS R.ROLE_STAT_SRC ≠ 1)) ∧
    (rd (inst 1 jobS) R.ROLE_STAT_SRC = 0) ∧
    (rd (inst 1 jobS) R.ROLE_STAT_SRC ≠ 1) ∧
    (NMap.wf (inst 1 jobS).regs = true) ∧
    (NMap.wf (pendS 1).regs = true) := by and_intros <;> decide +kernel
theorem wit_SessionsOpenAndClose_2 :
    (jobS.chip.held = false ∧
        rightsOf (dropWide (begin jobS) 1 (32896 + 32 * 2)) 1 &&& 2 = 0 ∧
          (List.map
                  (fun k =>
                    at'
                      (wideWord (begin jobS) 1 (32896 + 32 * 2 + 4 * k)
                        (bits (rd jobS (R.TBL_IKEY 2)) (32 * k + 31) (32 * k)))
                      (32 * k))
                  (List.range 7)).sum +
              at' 9 224 ≠
            rd jobS (R.TBL_IKEY 2)) ∧
    ((inst 1 jobS).chip.held = false ∧
        rightsOf (dropWide (begin (inst 1 jobS)) 0 (32896 + 32 * 2)) 0 &&& 2 ≠ 0 ∧
          (isAbsent (dropWide (begin (inst 1 jobS)) 0 (32896 + 32 * 2)) = false ∨
            (bankUses (dropWide (begin (inst 1 jobS)) 0 (32896 + 32 * 2)) 0 2 [3, 4] ||
                  bankUses (dropWide (begin (inst 1 jobS)) 0 (32896 + 32 * 2)) 1 2 [3, 4]) =
                true ∨
              rd (dropWide (begin (inst 1 jobS)) 0 (32896 + 32 * 2)) R.GEN_STAT_STAGE < 4)) ∧
    (keyA.chip.held = false ∧
        rightsOf (dropWide (begin keyA) 0 (32896 + 32 * 2)) 0 &&& 2 ≠ 0 ∧
          isAbsent (dropWide (begin keyA) 0 (32896 + 32 * 2)) = true ∧
            (bankUses (dropWide (begin keyA) 0 (32896 + 32 * 2)) 0 2 [3, 4] ||
                  bankUses (dropWide (begin keyA) 0 (32896 + 32 * 2)) 1 2 [3, 4]) =
                false ∧
              4 ≤ rd (dropWide (begin keyA) 0 (32896 + 32 * 2)) R.GEN_STAT_STAGE) ∧
    (1 = 1) ∧
    (255 = 255 ∨ 255 ≠ 1 ∧ makerOpen jobS = false) ∧
    (7 = 255 ∨ 7 ≠ 1 ∧ makerOpen jobS = false) ∧
    (7 ≠ 1 ∧ 7 ≠ 255 ∧ makerOpen (inst 2 jobS) = true) := by and_intros <;> decide +kernel
theorem wit_RegisterWritesAct_1 :
    (true = true ∨ 1 < 1 ∨ 2 ≠ 2 ∧ 2 ≠ 3 ∨ 2 ^ 18 ≤ 0 ∨ 0 % sizeBytes 2 ≠ 0) ∧
    (false = true ∨ 1 < 2 ∨ 2 ≠ 2 ∧ 2 ≠ 3 ∨ 2 ^ 18 ≤ 0 ∨ 0 % sizeBytes 2 ≠ 0) ∧
    (false = true ∨ 1 < 6 ∨ 2 ≠ 2 ∧ 2 ≠ 3 ∨ 2 ^ 18 ≤ 0 ∨ 0 % sizeBytes 2 ≠ 0) ∧
    (false = true ∨ 1 < 1 ∨ 1 ≠ 2 ∧ 1 ≠ 3 ∨ 2 ^ 18 ≤ 0 ∨ 0 % sizeBytes 1 ≠ 0) ∧
    (false = true ∨ 1 < 0 ∨ 2 ≠ 2 ∧ 2 ≠ 3 ∨ 2 ^ 18 ≤ 262144 ∨ 262144 % sizeBytes 2 ≠ 0) ∧
    (false = true ∨ 1 < 0 ∨ 3 ≠ 2 ∧ 3 ≠ 3 ∨ 2 ^ 18 ≤ 4 ∨ 4 % sizeBytes 3 ≠ 0) ∧
    (¬(false = true ∨ 1 < 0 ∨ 3 ≠ 2 ∧ 3 ≠ 3 ∨ 2 ^ 18 ≤ 258048 ∨ 258048 % sizeBytes 3 ≠ 0) ∧
        0 = 0 ∧ pageExists (258048 / 4096) = false) ∧
    (¬(false = true ∨ 1 < 0 ∨ 3 ≠ 2 ∧ 3 ≠ 3 ∨ 2 ^ 18 ≤ 57376 ∨ 57376 % sizeBytes 3 ≠ 0) ∧
        0 = 0 ∧ pageExists (57376 / 4096) = true ∧ 57376 % 4096 < 3840) ∧
    (¬(false = true ∨ 1 < 0 ∨ 2 ≠ 2 ∧ 2 ≠ 3 ∨ 2 ^ 18 ≤ 24832 ∨ 24832 % sizeBytes 2 ≠ 0) ∧
        0 = 0 ∧ pageExists (24832 / 4096) = true ∧ 24832 % 4096 < 3840) ∧
    (¬(false = true ∨ 1 < 0 ∨ 3 ≠ 2 ∧ 3 ≠ 3 ∨ 2 ^ 18 ≤ 44800 ∨ 44800 % sizeBytes 3 ≠ 0) ∧
        0 = 0 ∧ pageExists (44800 / 4096) = true ∧ 3840 ≤ 44800 % 4096) ∧
    (¬(false = true ∨ 1 < 0 ∨ 2 ≠ 2 ∧ 2 ≠ 3 ∨ 2 ^ 18 ≤ 44804 ∨ 44804 % sizeBytes 2 ≠ 0) ∧
        0 = 0 ∧ pageExists (44804 / 4096) = true ∧ 3840 ≤ 44804 % 4096) ∧
    (¬(false = true ∨ 1 < 1 ∨ 3 ≠ 2 ∧ 3 ≠ 3 ∨ 2 ^ 18 ≤ 258048 ∨ 258048 % sizeBytes 3 ≠ 0) ∧
        1 = 1 ∧ pageExists (258048 / 4096) = false) := by and_intros <;> decide +kernel
theorem wit_RegisterWritesAct_2 :
    (¬(false = true ∨ 1 < 1 ∨ 2 ≠ 2 ∧ 2 ≠ 3 ∨ 2 ^ 18 ≤ 57376 ∨ 57376 % sizeBytes 2 ≠ 0) ∧
        1 = 1 ∧ pageExists (57376 / 4096) = true ∧ heldS.chip.held = true ∧ (pageRow (57376 / 4096)).aon = false) ∧
    (¬(false = true ∨ 1 < 1 ∨ 2 ≠ 2 ∧ 2 ≠ 3 ∨ 2 ^ 18 ≤ 44800 ∨ 44800 % sizeBytes 2 ≠ 0) ∧
        1 = 1 ∧
          pageExists (44800 / 4096) = true ∧
            ¬((selS 10 0 9).chip.held = true ∧ (pageRow (44800 / 4096)).aon = false) ∧ 3840 ≤ 44800 % 4096) ∧
    (¬(false = true ∨ 1 < 1 ∨ 3 ≠ 2 ∧ 3 ≠ 3 ∨ 2 ^ 18 ≤ 44808 ∨ 44808 % sizeBytes 3 ≠ 0) ∧
        1 = 1 ∧
          pageExists (44808 / 4096) = true ∧
            ¬((selS 10 0 9).chip.held = true ∧ (pageRow (44808 / 4096)).aon = false) ∧ 3840 ≤ 44808 % 4096) ∧
    (¬(false = true ∨ 1 < 1 ∨ 2 ≠ 2 ∧ 2 ≠ 3 ∨ 2 ^ 18 ≤ 24832 ∨ 24832 % sizeBytes 2 ≠ 0) ∧
        1 = 1 ∧
          pageExists (24832 / 4096) = true ∧
            ¬(jobS.chip.held = true ∧ (pageRow (24832 / 4096)).aon = false) ∧ 256 ≤ 24832 % 4096 ∧ 24832 % 4096 < 3840) ∧
    (¬(false = true ∨ 1 < 1 ∨ 3 ≠ 2 ∧ 3 ≠ 3 ∨ 2 ^ 18 ≤ 26616 ∨ 26616 % sizeBytes 3 ≠ 0) ∧
        1 = 1 ∧
          pageExists (26616 / 4096) = true ∧
            ¬(jobS.chip.held = true ∧ (pageRow (26616 / 4096)).aon = false) ∧ 256 ≤ 26616 % 4096 ∧ 26616 % 4096 < 3840) ∧
    (¬(false = true ∨ 1 < 1 ∨ 2 ≠ 2 ∧ 2 ≠ 3 ∨ 2 ^ 18 ≤ 4192 ∨ 4192 % sizeBytes 2 ≠ 0) ∧
        1 = 1 ∧
          pageExists (4192 / 4096) = true ∧
            ¬(jobS.chip.held = true ∧ (pageRow (4192 / 4096)).aon = false) ∧
              4192 % 4096 < 256 ∧
                2 = 2 ∧ (4192 / 4096 = 1 ∧ 96 ≤ 4192 % 4096 ∧ 4192 % 4096 < 128 ∨ 4192 / 4096 = 8 ∧ 128 ≤ 4192 % 4096)) ∧
    (¬(false = true ∨ 1 < 1 ∨ 2 ≠ 2 ∧ 2 ≠ 3 ∨ 2 ^ 18 ≤ 32924 ∨ 32924 % sizeBytes 2 ≠ 0) ∧
        1 = 1 ∧
          pageExists (32924 / 4096) = true ∧
            ¬(jobS.chip.held = true ∧ (pageRow (32924 / 4096)).aon = false) ∧
              32924 % 4096 < 256 ∧
                2 = 2 ∧ (32924 / 4096 = 1 ∧ 96 ≤ 32924 % 4096 ∧ 32924 % 4096 < 128 ∨ 32924 / 4096 = 8 ∧ 128 ≤ 32924 % 4096)) ∧
    (¬(false = true ∨ 1 < 1 ∨ 2 ≠ 2 ∧ 2 ≠ 3 ∨ 2 ^ 18 ≤ 20560 ∨ 20560 % sizeBytes 2 ≠ 0) ∧
        1 = 1 ∧
          pageExists (20560 / 4096) = true ∧
            ¬(jobS.chip.held = true ∧ (pageRow (20560 / 4096)).aon = false) ∧
              20560 % 4096 < 256 ∧
                2 = 2 ∧
                  ¬(20560 / 4096 = 1 ∧ 96 ≤ 20560 % 4096 ∧ 20560 % 4096 < 128 ∨ 20560 / 4096 = 8 ∧ 128 ≤ 20560 % 4096) ∧
                    regWidth (20560 / 4096) (20560 % 4096) = 64) ∧
    (¬(false = true ∨ 1 < 1 ∨ 2 ≠ 2 ∧ 2 ≠ 3 ∨ 2 ^ 18 ≤ 20564 ∨ 20564 % sizeBytes 2 ≠ 0) ∧
        1 = 1 ∧
          pageExists (20564 / 4096) = true ∧
            ¬(jobS.chip.held = true ∧ (pageRow (20564 / 4096)).aon = false) ∧
              20564 % 4096 < 256 ∧
                2 = 2 ∧
                  ¬(20564 / 4096 = 1 ∧ 96 ≤ 20564 % 4096 ∧ 20564 % 4096 < 128 ∨ 20564 / 4096 = 8 ∧ 128 ≤ 20564 % 4096) ∧
                    regWidth (20564 / 4096) (20564 % 4096) ≠ 64 ∧
                      20564 % 4096 % 8 = 4 ∧ regWidth (20564 / 4096) (20564 % 4096 - 4) = 64) ∧
    (¬(false = true ∨ 1 < 1 ∨ 2 ≠ 2 ∧ 2 ≠ 3 ∨ 2 ^ 18 ≤ 24640 ∨ 24640 % sizeBytes 2 ≠ 0) ∧
        1 = 1 ∧
          pageExists (24640 / 4096) = true ∧
            ¬(jobS.chip.held = true ∧ (pageRow (24640 / 4096)).aon = false) ∧
              24640 % 4096 < 256 ∧
                2 = 2 ∧
                  ¬(24640 / 4096 = 1 ∧ 96 ≤ 24640 % 4096 ∧ 24640 % 4096 < 128 ∨ 24640 / 4096 = 8 ∧ 128 ≤ 24640 % 4096) ∧
                    regWidth (24640 / 4096) (24640 % 4096) ≠ 64 ∧
                      (24640 % 4096 % 8 ≠ 4 ∨ regWidth (24640 / 4096) (24640 % 4096 - 4) ≠ 64)) ∧
    (¬(false = true ∨ 1 < 1 ∨ 2 ≠ 2 ∧ 2 ≠ 3 ∨ 2 ^ 18 ≤ 57376 ∨ 57376 % sizeBytes 2 ≠ 0) ∧
        1 = 1 ∧
          pageExists (57376 / 4096) = true ∧
            ¬((inst 1 jobS).chip.held = true ∧ (pageRow (57376 / 4096)).aon = false) ∧
              57376 % 4096 < 256 ∧
                2 = 2 ∧
                  ¬(57376 / 4096 = 1 ∧ 96 ≤ 57376 % 4096 ∧ 57376 % 4096 < 128 ∨ 57376 / 4096 = 8 ∧ 128 ≤ 57376 % 4096) ∧
                    regWidth (57376 / 4096) (57376 % 4096) ≠ 64 ∧
                      (57376 % 4096 % 8 ≠ 4 ∨ regWidth (57376 / 4096) (57376 % 4096 - 4) ≠ 64)) ∧
    (¬(false = true ∨ 1 < 1 ∨ 3 ≠ 2 ∧ 3 ≠ 3 ∨ 2 ^ 18 ≤ 20560 ∨ 20560 % sizeBytes 3 ≠ 0) ∧
        1 = 1 ∧
          pageExists (20560 / 4096) = true ∧
            ¬(jobS.chip.held = true ∧ (pageRow (20560 / 4096)).aon = false) ∧
              20560 % 4096 < 256 ∧ 3 = 3 ∧ regWidth (20560 / 4096) (20560 % 4096) = 64) := by and_intros <;> decide +kernel
theorem wit_RegisterWritesAct_3 :
    (¬(false = true ∨ 1 < 1 ∨ 3 ≠ 2 ∧ 3 ≠ 3 ∨ 2 ^ 18 ≤ 24640 ∨ 24640 % sizeBytes 3 ≠ 0) ∧
        1 = 1 ∧
          pageExists (24640 / 4096) = true ∧
            ¬(jobS.chip.held = true ∧ (pageRow (24640 / 4096)).aon = false) ∧
              24640 % 4096 < 256 ∧ 3 = 3 ∧ regWidth (24640 / 4096) (24640 % 4096) ≠ 64) ∧
    (heldS.chip.held = true) ∧
    (jobS.chip.held = false ∧
        NMap.wf jobS.regs = true ∧ (9 = 0 ∨ hiValid (hist jobS 9) = false ∨ hiEpoch (hist jobS 9) ≠ 9)) ∧
    ((histS 0).chip.held = false ∧
        NMap.wf (histS 0).regs = true ∧ 9 ≠ 0 ∧ hiValid (hist (histS 0) 9) = true ∧ hiEpoch (hist (histS 0) 9) = 9) ∧
    ((histS 1).chip.held = false ∧
        NMap.wf (histS 1).regs = true ∧ 9 ≠ 0 ∧ hiValid (hist (histS 1) 9) = true ∧ hiEpoch (hist (histS 1) 9) = 9) ∧
    ((histS 0).chip.held = false ∧
        NMap.wf (histS 0).regs = true ∧ (10 = 0 ∨ hiValid (hist (histS 0) 10) = false ∨ hiEpoch (hist (histS 0) 10) ≠ 10)) := by and_intros <;> decide +kernel

end W08

/-! ## The invariant's witnesses -/

/-- The reset state meets the hypothesis of EveryStepAnswersAndKeepsTheInvariant. -/
theorem wit_EveryStepAnswersAndKeepsTheInvariant : State.reset.Inv :=
  { canonical := ⟨by decide +kernel, by decide +kernel, by decide +kernel, by decide +kernel, by decide +kernel, by decide +kernel,
      by decide +kernel, by decide +kernel, by decide +kernel⟩
    counters := fun _ => Nat.zero_le _
    shadows := fun _ => Nat.zero_le _ }

/-- A command that CountersOnlyGrow covers, from the reset state. -/
theorem wit_CountersOnlyGrow : State.reset.Inv ∧ exec (.pllLock 0) State.reset = .next (begin State.reset) :=
  ⟨wit_EveryStepAnswersAndKeepsTheInvariant, rfl⟩

end Sys2Proof.Tests
end

section
/-! PROOFS. What clearing the outputs leaves to be read: a meaning reads of the state it begins with what it would read of the
state before. -/

namespace Sys2Proof.Machine

@[simp] theorem activeRun_begin (s : State) (q opc sub : Nat) : activeRun (begin s) q opc sub = activeRun s q opc sub := rfl
@[simp] theorem capped_begin (s : State) : capped (begin s) = capped s := rfl
@[simp] theorem canCap_begin (s : State) : canCap (begin s) = canCap s := rfl
@[simp] theorem epochOf_begin (s : State) (e : Nat) : epochOf (begin s) e = epochOf s e := rfl
@[simp] theorem attemptOf_begin (s : State) (e : Nat) : attemptOf (begin s) e = attemptOf s e := rfl
@[simp] theorem linkOf_begin (s : State) (l : Nat) : linkOf (begin s) l = linkOf s l := rfl
@[simp] theorem linkUp_begin (s : State) (l : Nat) : linkUp (begin s) l = linkUp s l := rfl
@[simp] theorem member_begin (s : State) (x : Nat) : member (begin s) x = member s x := rfl
@[simp] theorem ownIdx_begin (s : State) : ownIdx (begin s) = ownIdx s := rfl
@[simp] theorem isShadow_begin (s : State) (x : Nat) : isShadow (begin s) x = isShadow s x := rfl
@[simp] theorem peerIdx_begin (s : State) (p : Nat) : peerIdx (begin s) p = peerIdx s p := rfl
@[simp] theorem bypassed_begin (s : State) (x : Nat) : bypassed (begin s) x = bypassed s x := rfl
@[simp] theorem treeRoot_begin (s : State) : treeRoot (begin s) = treeRoot s := rfl

@[simp] theorem climb_begin (s : State) (f x : Nat) : climb (begin s) f x = climb s f x := by
  induction f generalizing x with
  | zero => rfl
  | succ f ih => simp only [climb, treeRoot_begin, bypassed_begin, ih]

@[simp] theorem parentOf_begin (s : State) (x : Nat) : parentOf (begin s) x = parentOf s x := by
  simp only [parentOf, treeRoot_begin, climb_begin]

@[simp] theorem childrenOf_begin (s : State) (x : Nat) : childrenOf (begin s) x = childrenOf s x := by
  simp only [childrenOf, begin_comb, bypassed_begin, parentOf_begin]

@[simp] theorem subtree_begin (s : State) (f x : Nat) : subtree (begin s) f x = subtree s f x := by
  induction f generalizing x with
  | zero => rfl
  | succ f ih => simp only [subtree, childrenOf_begin, funext ih]

@[simp] theorem capChildren_begin (s : State) : capChildren (begin s) = capChildren s := by
  simp only [capChildren, ownIdx_begin, childrenOf_begin, subtree_begin, isShadow_begin]

@[simp] theorem capSum_begin (s : State) (x : Epoch) : capSum (begin s) x = capSum s x := by
  simp only [capSum, ownIdx_begin, isShadow_begin, capChildren_begin]

end Sys2Proof.Machine
end

section
/-! PROOFS. The cap tree (R27, R279 to R281): what CAP, a report, its time-out and an announcement do, case by case. -/

namespace Sys2Proof.Machine

/-- A child's report of an epoch that this node does not gather, or of another attempt, is dropped. -/
theorem capReportIn_dropped {s : State} (x : Nat) {body : Bytes}
    (h : canCap s = false ∨ bits (leAt body 0 32) 47 0 ≤ capped s ∨ capped s + 2 < bits (leAt body 0 32) 47 0 ∨
      bits (leAt body 0 32) 55 48 ≠ attemptOf s (bits (leAt body 0 32) 47 0)) :
    capReportIn s x body = s := by
  refine if_pos ?_
  rcases h with hc | hle | hgt | hatt
  · simp [hc]
  · exact .inl hle
  · exact .inr (.inl hgt)
  · exact .inr (.inr (.inl hatt))

/-- A child's report of an epoch in work, under the attempt in work, takes the place of its earlier one and goes on. -/
theorem capReportIn_taken {s : State} (x : Nat) {body : Bytes} (hc : canCap s = true)
    (hgt : capped s < bits (leAt body 0 32) 47 0) (hle : bits (leAt body 0 32) 47 0 ≤ capped s + 2)
    (hatt : bits (leAt body 0 32) 55 48 = attemptOf s (bits (leAt body 0 32) 47 0)) :
    capReportIn s x body =
      capForward (setEpoch s { epochOf s (bits (leAt body 0 32) 47 0) with
        reports := ((epochOf s (bits (leAt body 0 32) 47 0)).reports.filter fun y => y.child != x) ++
          [{ child := x, clean := bit (leAt body 0 32) 56, covered := bits (leAt body 0 32) 79 64,
             missing := bits (leAt body 0 32) 95 80, firstBad := bits (leAt body 0 32) 109 96 }] })
        (bits (leAt body 0 32) 47 0) := by
  refine if_neg ?_
  rintro (h | h | h | h)
  · omega
  · omega
  · exact h hatt
  · simp [hc] at h

/-- An announcement of an epoch that is capped, or whose cap is already due, does nothing; another goes down the tree and caps. -/
theorem capLearn_forward {s : State} (e : Nat) (hc : canCap s = true) :
    capLearn s e true = if e ≤ max (capped s) s.comb.capDue then s
      else capTo (toChildren s 5 (capReportMsg e (attemptOf s e) s.comb.listN 0 0x3FFF true)) e := by
  simp [capLearn, hc]

/-- The time-out of an own report that waits for children: told as partial, at the root to the driver and elsewhere to the parent. -/
theorem capTimeout_partial {s : State} {e : Nat} (hown : (epochOf s e).own = 1)
    (hin : (capSum s (epochOf s e)).allIn = false) (hgt : capped s < e) (hc : canCap s = true) :
    capTimeout s e =
      let x := epochOf s e
      let c := capSum s x
      let gone := (capChildren s).filter fun y => x.reports.all fun r => r.child != y
      let s1 := setEpoch s { x with told := 2 }
      if amRoot s1 then unitError s1 0 0x0E e (gone.foldl min c.firstBad)
      else toParent s1 5 (capReportMsg e (attemptOf s1 e) c.covered
        (c.missing + (gone.map fun y => (subtree s 6 y).length).sum) (gone.foldl min c.firstBad) (!c.bad)) := by
  refine if_neg ?_
  rintro (h | h | h | h)
  · exact h hown
  · simp [hin] at h
  · omega
  · simp [hc] at h

/-- A CAP that has started begins to wait for its epoch; one that waits goes on waiting. -/
theorem capEffect_active {s : State} {q : Nat} {r : Run} (h : activeRun s q 5 0 = some r) :
    capEffect s q = if r.phase = .running then s else keepRunning s q r.idx [opd r.raw 47 0] := by
  simp [capEffect, h]

/-- CAP_REPORT of a peer of the list. -/
theorem exec_capReport_listed {s : State} {p : BitVec 12} {x : Nat} (body : Bytes) (h : peerIdx s p.toNat = some x) :
    exec (.capReport p body) s = .next (capReportIn (begin s) x body) := by
  simp [exec, execCapReport, h]

/-- CAP_ANNOUNCE of a peer of the list. -/
theorem exec_capAnnounce_listed {s : State} {p : BitVec 12} {x : Nat} (body : Bytes) (h : peerIdx s p.toNat = some x) :
    exec (.capAnnounce p body) s = .next (capLearn (begin s) (leAt body 0 6) true) := by
  simp [exec, execCapAnnounce, h]

/-- Settles O21, from one lemma per case of CAP, of a report, of its time-out and of an announcement: each meaning is its effect on
the state whose outputs are cleared, and that state reads as the one before. -/
theorem capCommandAndReports : Obligations.CapCommandAndReports := by
  unfold Obligations.CapCommandAndReports
  refine ⟨?cap, fun _ _ => rfl, ?report, ?unlisted, ?timeout, ?announce⟩
  case cap =>
    intro q s r hr
    have hexec : exec (.cap q) s = .next (drainChecks (if r.phase = .running then begin s
        else keepRunning (begin s) q r.idx [opd r.raw 47 0])) :=
      congrArg (fun t => Host.Outcome.next (drainChecks t)) (capEffect_active ((activeRun_begin s q 5 0).trans hr))
    exact ⟨fun hp => by rw [hexec, if_neg hp], fun hp => by rw [hexec, if_pos hp]⟩
  case report =>
    intro p body s x hx
    rw [exec_capReport_listed body hx]
    exact ⟨fun hc hgt hle hatt => congrArg _ (capReportIn_taken x hc hgt hle hatt),
      fun hdrop => congrArg _ (capReportIn_dropped x hdrop)⟩
  case unlisted =>
    intro p body s hp
    constructor
    · simp [exec, execCapReport, hp]
    · simp [exec, execCapAnnounce, hp]
  case timeout =>
    intro e s hown hin hgt hc
    have hin' : (capSum (begin s) (epochOf (begin s) e.toNat)).allIn = false := by simpa using hin
    have heff := capTimeout_partial (s := begin s) hown hin' hgt hc
    simp only [capSum_begin, capChildren_begin, subtree_begin, epochOf_begin] at heff
    exact congrArg _ heff
  case announce =>
    intro p body s x hx hc
    rw [exec_capAnnounce_listed body hx]
    exact congrArg _ (capLearn_forward (s := begin s) _ hc)

end Sys2Proof.Machine
end

section
/-! PROOFS. The receiving side of a link (R30, R291, R292, R295): what FLIT_RECEIVE does, by the link's phase and the checks of the
flit. -/

namespace Sys2Proof.Machine

/-- A flit that the lane could not correct, or whose CRC-32 fails (R291). -/
abbrev FlitBad (b : Bytes) (fec : Fin 3) : Prop := fec = 2 ∨ leAt b 252 4 ≠ crc32 (slice b 0 252)

/-- The state once link l has a flit to look at: it is light-port work, and its lane has counted what error correction said (R30). -/
def flitNoted (s : State) (l : Nat) (fec : Fin 3) : State :=
  let lane := s.lp.lane.getD l 0x3F
  if fec = 1 then count (wakeLight s) (C.LP_FEC_CORR lane)
  else if fec = 2 then count (wakeLight s) (C.LP_FEC_UNCORR lane)
  else wakeLight s

section
variable {s : State} {l : Nat} {b : Bytes} {fec : Fin 3}

/-- A link that neither starts nor runs looks at no flit. -/
theorem flitIn_down (h1 : (linkOf s l).phase ≠ 1) (h2 : (linkOf s l).phase ≠ 2) : flitIn s l b fec = s :=
  if_pos ⟨h1, h2⟩

/-- On a link that starts or runs a bad flit is noted; only one that runs answers it, by the discard. -/
theorem flitIn_bad (hlink : (linkOf s l).phase = 1 ∨ (linkOf s l).phase = 2) (hbad : FlitBad b fec) :
    flitIn s l b fec = if (linkOf s l).phase = 2 then discardFlit (flitNoted s l fec) l else flitNoted s l fec := by
  have hworks : ¬ ((linkOf s l).phase ≠ 1 ∧ (linkOf s l).phase ≠ 2) := by omega
  simp only [FlitBad, Fin.ext_iff] at hbad
  simp only [flitIn, flitNoted, Fin.ext_iff]
  exact (if_neg hworks).trans (if_pos hbad)

/-- On a link that starts a good flit acts only as a control flit. -/
theorem flitIn_starting_good (hlink : (linkOf s l).phase = 1) (hgood : ¬ FlitBad b fec) :
    flitIn s l b fec = if hdrType (leAt b 0 16) = 1 then controlIn (flitNoted s l fec) l (slice b 16 232)
      else flitNoted s l fec := by
  simp only [FlitBad, Fin.ext_iff] at hgood
  simp only [flitIn, flitNoted, Fin.ext_iff]
  refine (if_neg (by omega)).trans ((if_neg hgood).trans ?_)
  by_cases hidle : hdrType (leAt b 0 16) = 0
  · simp [hlink, hidle]
  · simp [hlink, hidle]

/-- On a link that runs a good flit passes its LACK on; an idle flit does no more, a control flit acts, and one of another TYPE is
counted and judged by its LSEQ. -/
theorem flitIn_running_good (hlink : (linkOf s l).phase = 2) (hgood : ¬ FlitBad b fec) :
    flitIn s l b fec =
      let s1 := lackIn (flitNoted s l fec) l (leAt b 250 2)
      if hdrType (leAt b 0 16) = 0 then s1
      else if hdrType (leAt b 0 16) = 1 then controlIn s1 l (slice b 16 232)
      else if leAt b 248 2 = (linkOf s l).rx then
        takeFlit (count s1 C.LP_FLIT_RX) l { hdr := leAt b 0 16, payload := slice b 16 232 }
      else if ahead16 (linkOf s l).rx (leAt b 248 2) then count s1 C.LP_FLIT_RX
      else discardFlit (count s1 C.LP_FLIT_RX) l := by
  simp only [FlitBad, Fin.ext_iff] at hgood
  simp only [flitIn, flitNoted, Fin.ext_iff]
  refine (if_neg (by omega)).trans ((if_neg hgood).trans ?_)
  simp [hlink]

end

/-- Settles O33, from one lemma per phase of the link and per verdict on the flit. -/
theorem flitsAreTakenInOrder : Obligations.FlitsAreTakenInOrder := by
  unfold Obligations.FlitsAreTakenInOrder
  refine ⟨?flit, fun _ _ _ => rfl, fun _ _ _ => rfl, ?timer⟩
  case flit =>
    intro l b fec s
    refine ⟨fun h1 h2 => congrArg _ (flitIn_down (s := begin s) h1 h2), ?starting,
      fun h2 hbad => congrArg _ ((flitIn_bad (s := begin s) (.inr h2) hbad).trans (if_pos h2)),
      fun h2 hgood => congrArg _ (flitIn_running_good (s := begin s) h2 hgood)⟩
    intro h1
    refine congrArg Host.Outcome.next ?_
    by_cases hbad : FlitBad b fec
    · have hstarts : (linkOf (begin s) l).phase ≠ 2 := by simp [h1]
      rw [if_neg fun h => h.1 hbad]
      exact (flitIn_bad (s := begin s) (.inl h1) hbad).trans (if_neg hstarts)
    · simp only [hbad, not_false_eq_true, true_and]
      exact flitIn_starting_good (s := begin s) h1 hbad
  case timer =>
    intro l s
    simp [exec, execCreditReturnTimer]

end Sys2Proof.Machine
end

section
/-! PROOFS. Answers of register writes (R63): a write to a page of a fast domain, while the fast domains are held in reset and while
they are not. -/

namespace Sys2Proof.Machine

section
variable {s : State} (r : Req) (x : State × Nat)

/-- A write to a page of a fast domain that is held in reset is answered OK and has no effect. -/
theorem answered_held (h : s.chip.held = true) : answered r (unlessHeld s x) = trsp s r 0 :=
  congrArg (answered r) (if_pos h)

/-- A write to a page of a fast domain that is not held is answered with its status. -/
theorem answered_unheld (h : s.chip.held = false) : answered r (unlessHeld s x) = answered r x :=
  congrArg (answered r) (if_neg (ne_true_of_eq_false h))

end

end Sys2Proof.Machine
end

section
/-! PROOFS. Registers read through writes, and the audit ring (R492 to R496): an entry changes no register but the ring's own. -/

namespace Sys2Proof.Machine

/-- A one-bit field reads false exactly when it holds 0. -/
theorem rdb_eq_false {s : State} {k : Nat} : rdb s k = false ↔ rd s k = 0 := by simp [rdb]

/-- Another one-bit field reads as before. -/
theorem rdb_wr_ne (s : State) {k j : Nat} (v : Nat) (h : j ≠ k) : rdb (wr s k v) j = rdb s j :=
  congrArg (· != 0) (rd_wr_ne s v h)

/-- A record that waits for the ring changes no register, no session and no free value. -/
theorem postRec_frame (s : State) (r : EvRec) :
    (postRec s r).regs = s.regs ∧ (postRec s r).ses = s.ses ∧ (postRec s r).free = s.free := by
  unfold postRec
  split
  · split
    · exact ⟨rfl, rfl, rfl⟩
    · exact ⟨rfl, rfl, rfl⟩
  · exact ⟨rfl, rfl, rfl⟩

@[simp] theorem unitError_regs (s : State) (st src a b : Nat) : (unitError s st src a b).regs = s.regs := (postRec_frame _ _).1
@[simp] theorem unitError_ses (s : State) (st src a b : Nat) : (unitError s st src a b).ses = s.ses := (postRec_frame _ _).2.1
@[simp] theorem unitError_free (s : State) (st src a b : Nat) : (unitError s st src a b).free = s.free := (postRec_frame _ _).2.2

/-- The shape of an audit entry: whether it writes over one that is not mirrored, where it goes, what it is and its sequence number,
and whether the ring is now near its end. -/
def auditShape (s : State) (lost near : Bool) (i e seq : Nat) : State :=
  let t := wr (tput (if lost then count s C.AUD_OVERWRITE else s) 2 0 i e) R.AUD_SEQ seq
  if near then unitError (wr t R.AUD_STAT_NEAR 1) 0 2 seq 768 else t

section
variable (s : State) (lost near : Bool) (i e seq : Nat)

theorem auditShape_ses : (auditShape s lost near i e seq).ses = s.ses := by
  unfold auditShape
  cases near <;> cases lost <;> simp

theorem auditShape_free : (auditShape s lost near i e seq).free = s.free := by
  unfold auditShape
  cases near <;> cases lost <;> simp

theorem auditShape_regs : (auditShape s lost near i e seq).regs =
    if near then put (put s.regs R.AUD_SEQ seq) R.AUD_STAT_NEAR 1 else put s.regs R.AUD_SEQ seq := by
  unfold auditShape
  cases near <;> cases lost <;> simp <;> rfl

end

section
variable (s : State) (kind addr src role status old new : Nat)

/-- An audit entry has the shape of one, with the next sequence number. -/
theorem audit_shape : ∃ lost near i e,
    audit s kind addr src role status old new = auditShape s lost near i e ((rd s R.AUD_SEQ + 1) % 2 ^ 32) := by
  have hnear (n : Nat) (t u : State) : (if n = 768 then t else u) = if decide (n = 768) then t else u := by simp
  have hlost (n : Nat) (t u : State) : (if 1024 ≤ n then t else u) = if decide (1024 ≤ n) then t else u := by simp
  simp only [audit]
  rw [hlost, hnear]
  exact ⟨_, _, _, _, rfl⟩

@[simp] theorem audit_ses : (audit s kind addr src role status old new).ses = s.ses := by
  obtain ⟨lost, near, i, e, h⟩ := audit_shape s kind addr src role status old new
  rw [h, auditShape_ses]

@[simp] theorem audit_free : (audit s kind addr src role status old new).free = s.free := by
  obtain ⟨lost, near, i, e, h⟩ := audit_shape s kind addr src role status old new
  rw [h, auditShape_free]

/-- An audit entry takes the next sequence number, and may set AUD_STAT.NEAR. -/
theorem audit_regs : ∃ near : Bool, (audit s kind addr src role status old new).regs =
    if near then put (put s.regs R.AUD_SEQ ((rd s R.AUD_SEQ + 1) % 2 ^ 32)) R.AUD_STAT_NEAR 1
    else put s.regs R.AUD_SEQ ((rd s R.AUD_SEQ + 1) % 2 ^ 32) := by
  obtain ⟨lost, near, i, e, h⟩ := audit_shape s kind addr src role status old new
  exact ⟨near, by rw [h, auditShape_regs]⟩

/-- An audit entry leaves every register but AUD_SEQ and AUD_STAT.NEAR as it is. -/
theorem rd_audit_ne {k : Nat} (h1 : k ≠ R.AUD_SEQ) (h2 : k ≠ R.AUD_STAT_NEAR) :
    rd (audit s kind addr src role status old new) k = rd s k := by
  obtain ⟨near, h⟩ := audit_regs s kind addr src role status old new
  unfold rd
  rw [h]
  cases near
  · exact get_put_ne _ _ h1
  · exact (get_put_ne _ _ h2).trans (get_put_ne _ _ h1)

variable {s}

/-- An audit entry keeps the registers canonical. -/
theorem audit_regs_wf (hw : NMap.wf s.regs = true) : NMap.wf (audit s kind addr src role status old new).regs = true := by
  obtain ⟨near, h⟩ := audit_regs s kind addr src role status old new
  rw [h]
  cases near
  · exact put_wf hw _ _
  · exact put_wf (put_wf hw _ _) _ _

/-- An audit entry takes the next sequence number. -/
theorem rd_audit_seq (hw : NMap.wf s.regs = true) :
    rd (audit s kind addr src role status old new) R.AUD_SEQ = (rd s R.AUD_SEQ + 1) % 2 ^ 32 := by
  obtain ⟨near, h⟩ := audit_regs s kind addr src role status old new
  unfold rd at *
  rw [h]
  cases near
  · exact get_put_self hw _ _
  · exact (get_put_ne _ _ (by decide)).trans (get_put_self hw _ _)

end

end Sys2Proof.Machine
end

section
/-! PROOFS. A row of registers written one after the other. -/

namespace Sys2Proof.Machine

/-- The registers f 0 to f (n - 1) written with the values v. -/
def wrRow (s : State) (f v : Nat → Nat) (n : Nat) : State := (List.range n).foldl (fun t i => wr t (f i) (v i)) s

section
variable {s : State} {f v : Nat → Nat}

theorem wrRow_succ (n : Nat) : wrRow s f v (n + 1) = wr (wrRow s f v n) (f n) (v n) := by
  simp [wrRow, List.range_succ]

theorem wrRow_regs_wf (hw : NMap.wf s.regs = true) (n : Nat) : NMap.wf (wrRow s f v n).regs = true := by
  induction n with
  | zero => exact hw
  | succ n ih => exact wrRow_succ (s := s) n ▸ wr_regs_wf ih _ _

/-- A register outside the row keeps its value. -/
theorem rd_wrRow_ne {k n : Nat} (h : ∀ i, i < n → k ≠ f i) : rd (wrRow s f v n) k = rd s k := by
  induction n with
  | zero => rfl
  | succ n ih => rw [wrRow_succ, rd_wr_ne _ _ (h n n.lt_succ_self), ih fun i hi => h i (by omega)]

/-- A register of the row reads its value. -/
theorem rd_wrRow (hw : NMap.wf s.regs = true) (hf : Function.Injective f) {n k : Nat} (hk : k < n) :
    rd (wrRow s f v n) (f k) = v k := by
  induction n with
  | zero => exact absurd hk (Nat.not_lt_zero k)
  | succ n ih =>
    rw [wrRow_succ]
    by_cases he : k = n
    · subst he
      exact rd_wr_self (wrRow_regs_wf hw k) _ _
    · rw [rd_wr_ne _ _ (fun h => he (hf h))]
      exact ih (by omega)

/-- Only registers change. -/
theorem wrRow_free (n : Nat) : (wrRow s f v n).free = s.free := by
  induction n with
  | zero => rfl
  | succ n ih => exact wrRow_succ (s := s) (f := f) (v := v) n ▸ ih

end

end Sys2Proof.Machine
end

section
/-! PROOFS. The memory request ports (R45 to R50): what an answer, a rise of READY and a time-out do. -/

namespace Sys2Proof.Machine

/-- What a granule's two status bits say of it: 0 clean, 1 corrected, else uncorrectable (R47). -/
theorem granuleIn_eq (n : Nat) (r : MemReq) (stat : Nat) (data : Bytes) (s : State) (g : Nat) :
    granuleIn n r stat data s g =
      let st := (r.src + g) / 2 ^ 31
      let a := (r.src + g) % 2 ^ 31 * 64
      let x := bits stat (2 * g + 1) (2 * g)
      let got := granuleData s n r g (slice data (64 * g) 64)
      if x = 0 then got
      else if x = 1 then writeBackGran (noteCorrected (count got (C.SLC_ECC_CORR n)) st a) n (r.gran + g) (r.src + g)
      else
        let v := count s (C.SLC_ECC_UNCORR n)
        granuleLost (if foragerFinds v r.owner st a then count v (C.SCRB_FIND n) else v) r.owner st a := by
  unfold granuleIn
  split
  next h => rw [h]; rfl
  next h => rw [h]; rfl
  next h0 h1 => exact ((if_neg h0).trans (if_neg h1)).symm

section
variable {s s1 : State} {n tag : Nat} {r : MemReq}

/-- An answer whose tag names no read of the port has no effect. -/
theorem memReadData_unnamed (h : memAnswered s n tag false = none) (stat : Nat) (data : Bytes) :
    memReadData s n tag stat data = s := by
  simp [memReadData, h]

/-- The answer of a read: its granules come in, what waits is issued, and its unit goes on. -/
theorem memReadData_named (h : memAnswered s n tag false = some (r, s1)) (stat : Nat) (data : Bytes) :
    memReadData s n tag stat data =
      settleOwner (pumpMrp ((List.range r.n).foldl (granuleIn n r stat data) s1) n) r.owner := by
  simp [memReadData, h]

/-- A response whose tag names no write of the port has no effect. -/
theorem memWriteDone_unnamed (h : memAnswered s n tag true = none) : memWriteDone s n tag = s := by
  simp [memWriteDone, h]

/-- The response of a write: it has landed, reads still out may bring older data, and its unit goes on. -/
theorem memWriteDone_named (h : memAnswered s n tag true = some (r, s1)) :
    memWriteDone s n tag =
      let s2 := retryWindows (settleOwner (pumpMrp (writeLanded (setMrp s1 n (markOld (mrpOf s1 n) r)) r.owner (n, r.src)) n) r.owner)
      returnHeld s2.lp.heldCred.length s2 := by
  simp [memWriteDone, h]

end

/-- A port with no request outstanding has no time-out. -/
theorem memTimeout_idle {s : State} {n : Nat} (h : (mrpOf s n).reqs.filter (·.issued) = []) : memTimeout s n = s :=
  if_pos h

/-- Settles O12, from one lemma per answer of the port; a read's granules are judged by granuleIn_eq. -/
theorem memoryPortAnswersSettle : Obligations.MemoryPortAnswersSettle := by
  unfold Obligations.MemoryPortAnswersSettle
  refine ⟨?unnamed, ?read, ?write, ?ready, ?idle, ?timeout⟩
  case unnamed =>
    intro n tag stat data s
    exact ⟨fun h => congrArg Host.Outcome.next (memReadData_unnamed h _ _),
      fun h => congrArg Host.Outcome.next (memWriteDone_unnamed h)⟩
  case read =>
    intro n tag stat data s s1 r h
    refine congrArg Host.Outcome.next ((memReadData_named h _ _).trans ?_)
    simp only [funext₂ (granuleIn_eq n r stat.toNat (leBytes 256 data.toNat))]
  case write => exact fun n tag s s1 r h => congrArg Host.Outcome.next (memWriteDone_named h)
  case ready =>
    intro n up hbm4 cap cycles s
    refine congrArg Host.Outcome.next ?_
    simp only [memReady, Bool.and_eq_true, Bool.not_eq_true']
    rfl
  case idle => exact fun n s h => congrArg Host.Outcome.next (memTimeout_idle (s := begin s) h)
  case timeout => exact fun n s h => congrArg Host.Outcome.next (if_neg (c := (mrpOf (begin s) n).reqs.filter (·.issued) = []) h)

end Sys2Proof.Machine
end

section
/-! PROOFS. The tier ports (R56): what a request that is answered, or that is given up, does. -/

namespace Sys2Proof.Machine

section
variable {s s1 : State} {p tag : Nat} {r : TierReq}

/-- The answer of a tier read: the load is noted, a status other than 0 loses the data, and the unit goes on. -/
theorem tierRead_named (h : tierAnswered s p tag false = some (r, s1)) (stat : BitVec 2) (load : Nat) :
    tierRead s p tag stat.toNat load = settleOwner (if stat = 0 then noteLoad s1 p load
      else tierReadLost (count (noteLoad s1 p load) C.TIER_POISON) p r) r.owner := by
  simp [tierRead, h, BitVec.toNat_eq]

/-- The completion of a tier write: the load is noted, a status other than 0 fails the write, the fences are left, and the unit goes on. -/
theorem tierWritten_named (h : tierAnswered s p tag true = some (r, s1)) (stat : BitVec 2) (load : Nat) :
    tierWritten s p tag stat.toNat load = settleOwner (writeLanded (fenceTier (if stat = 0 then noteLoad s1 p load
      else tierWriteLost (noteLoad s1 p load) p r) p tag) r.owner (12 + p, r.addr)) r.owner := by
  simp [tierWritten, h, BitVec.toNat_eq]

/-- The time-out of a read: it counts, and the read is lost. -/
theorem tierTimeout_read (h : tierAnswered s p tag false = some (r, s1)) :
    tierTimeout s p tag false = settleOwner (tierReadLost (count s1 C.TIER_TMO) p r) r.owner := by
  simp [tierTimeout, h]

/-- The time-out of a write: it counts, and the write is lost as one that failed. -/
theorem tierTimeout_write (h : tierAnswered s p tag true = some (r, s1)) :
    tierTimeout s p tag true =
      settleOwner (writeLanded (fenceTier (tierWriteLost (count s1 C.TIER_TMO) p r) p tag) r.owner (12 + p, r.addr)) r.owner := by
  simp [tierTimeout, h]

end

/-- Settles O14, from one lemma per way a request of a tier port ends. -/
theorem tierAnswersSettle : Obligations.TierAnswersSettle := by
  unfold Obligations.TierAnswersSettle
  refine ⟨?requests, fun _ _ => rfl⟩
  case requests =>
    intro p tag load s s1 r
    exact ⟨fun h stat => congrArg Host.Outcome.next (tierRead_named h stat load.toNat),
      fun h stat => congrArg Host.Outcome.next (tierWritten_named h stat load.toNat),
      fun h => congrArg Host.Outcome.next (tierTimeout_read h),
      fun h => congrArg Host.Outcome.next (tierTimeout_write h)⟩

end Sys2Proof.Machine
end

section
/-! PROOFS. The host fabric port's initiator side (R37, R43, R44): what an answer does for the command that asked. -/

namespace Sys2Proof.Machine

/-- The read made for a command that an answer's tag names. -/
def namedRead (s : State) (tag : Nat) : Option HostRead :=
  s.host.reads.find? fun r => r.issued && r.tag == tag && decide (r.queue < 16)

/-- The state without the issued reads of a tag. -/
def readFreed (s : State) (tag : Nat) : State :=
  setHost s { s.host with reads := s.host.reads.filter fun y => !(y.issued && y.tag == tag) }

/-- The state without the issued reads of a tag, with the bytes of read h kept for its command. -/
def readKept (s : State) (tag : Nat) (h : HostRead) (data : Bytes) : State :=
  setHost s { s.host with
    reads := s.host.reads.filter fun y => !(y.issued && y.tag == tag)
    got := s.host.got ++ [(h.queue, h.idx, h.off, slice data 0 h.size)] }

section
variable {s : State} {tag : Nat} {h : HostRead} {r : Run}

/-- A good part of a read is kept; the last part lets the command go on. -/
theorem initiatorRead_good (data : Bytes) (hh : namedRead s tag = some h)
    (hr : findRun (pumpHost (readKept s tag h data)) h.queue h.idx = some r) (hp : r.phase ≠ .done) :
    initiatorRead s tag 0 data =
      if readsBack (pumpHost (readKept s tag h data)) h.queue h.idx then readsDone (pumpHost (readKept s tag h data)) h.queue r
      else pumpHost (readKept s tag h data) := by
  have hd : readData s tag 0 data = some (h, readKept s tag h data) := by
    simp only [namedRead] at hh
    simp [readData, hh, readKept]
  simp [initiatorRead, hd, hr, hp]

/-- A network error fails the command, whose reads not yet issued are withdrawn. -/
theorem initiatorRead_error {stat : Nat} (data : Bytes) (hs : stat ≠ 0) (hh : namedRead s tag = some h)
    (hr : findRun (pumpHost (readFreed s tag)) h.queue h.idx = some r) (hp : r.phase ≠ .done) :
    initiatorRead s tag stat data =
      let s1 := pumpHost (readFreed s tag)
      readFail (setHost s1 { s1.host with
        reads := s1.host.reads.filter fun y => y.issued || !(y.queue == h.queue && y.idx == h.idx) }) h.queue r := by
  have hd : readData s tag stat data = some (h, readFreed s tag) := by
    simp only [namedRead] at hh
    simp [readData, hh, hs, readFreed]
  simp [initiatorRead, hd, hr, hp, hs]

end

/-- The answer of a write made for a command: an error fails it, the last good one completes it. -/
theorem writeResponseEffect_named {s : State} {tag : Nat} {w : HostWrite} (stat : Nat)
    (hw : (s.host.writes.find? fun w => w.issued && w.tag == tag && w.queue != 16) = some w) :
    writeResponseEffect s tag stat =
      let s1 := setHost s { s.host with writes := s.host.writes.filter fun y => !(y.issued && y.tag == tag) }
      if stat ≠ 0 then finish s1 w.queue w.idx ecDescriptor 0 0
      else if writesBack s1 w.queue w.idx then finish s1 w.queue w.idx 0 0 0 else s1 := by
  simp [writeResponseEffect, hw]

/-- Settles O15, from what a good and a bad answer of a read and of a write do for the command; a credit books itself by definition. -/
theorem hostTransfersComplete : Obligations.HostTransfersComplete := by
  unfold Obligations.HostTransfersComplete
  refine ⟨?part, ?last, ?error, ?written, fun _ _ => ⟨rfl, rfl, rfl, rfl, rfl, rfl, rfl⟩⟩
  case part =>
    intro tag data s h r hh _ s1 hr hp hback
    have hread := initiatorRead_good (s := begin s) data hh hr hp
    exact congrArg Host.Outcome.next (hread.trans (if_neg (ne_true_of_eq_false hback)))
  case last =>
    intro tag data s h r hh _ s1 hr hp hback
    have hread := initiatorRead_good (s := begin s) data hh hr hp
    exact congrArg Host.Outcome.next (hread.trans (if_pos hback))
  case error =>
    intro tag stat data s h r hh hstat s1 hr hp
    have hstat' : stat.toNat ≠ 0 := by simpa [BitVec.toNat_eq] using hstat
    exact congrArg Host.Outcome.next (initiatorRead_error (s := begin s) data hstat' hh hr hp)
  case written =>
    intro tag stat s w hw
    have hresp := writeResponseEffect_named (s := begin s) stat.toNat hw
    refine ⟨fun hstat => congrArg Host.Outcome.next (hresp.trans (if_pos ?_)), fun hstat => ?_⟩
    · simpa [BitVec.toNat_eq] using hstat
    · exact congrArg Host.Outcome.next (hresp.trans (if_neg (by simp [hstat])))

end Sys2Proof.Machine
end

section
/-! PROOFS. SEAL and the spine record (R412, R417, R420): how a SEAL starts, and when the staged record may be written. -/

namespace Sys2Proof.Machine

/-- Writing the staged record leaves the running seal as it is. -/
@[simp] theorem writeSpine_run (s : State) (len seq : Nat) : (writeSpine s len seq).spine.run = s.spine.run := rfl

/-- The half of the seal store that the newest image does not use (R417). -/
def freeHalf (s : State) : Nat :=
  match s.spine.image with
  | some i => 1 - i.half
  | none => 0

section
variable {s : State} {q : Nat} {r : Run}

/-- A SEAL of another epoch than the capped one, or with no fit destination, fails. -/
theorem sealEffect_refused (hr : activeRun s q 6 0 = some r) (hrun : s.spine.run = none)
    (h : opd r.raw 47 0 ≠ capped s ∨ sealDestOk s = false) : sealEffect s q = finish s q r.idx ecDescriptor 0 0 := by
  simp only [sealEffect, hr, hrun, Bool.not_eq_true']
  exact if_pos h

/-- A SEAL of the capped epoch with a fit destination starts, in the half that the newest image does not use. -/
theorem sealEffect_starts (hr : activeRun s q 6 0 = some r) (hrun : s.spine.run = none)
    (hcap : opd r.raw 47 0 = capped s) (hdest : sealDestOk s = true) :
    sealEffect s q = setSpine (keepRunning s q r.idx [80]) { s.spine with
      run := some { queue := q, idx := r.idx, epoch := capped s, half := freeHalf s,
                    peer := rd s R.SPN_SEAL_PEER, cells := rd s R.CMB_DATA_CELLS, next := 0, ahead := [], reading := [], crcs := [],
                    late := (cellsAbove s (capped s)).filter fun d => decide (d < rd s R.CMB_DATA_CELLS), phase := 0 } } := by
  simp only [sealEffect, hr, hrun]
  exact if_neg (by simp [hcap, hdest])

/-- While a seal runs its own SEAL goes on with the next cell, and another SEAL waits. -/
theorem sealEffect_runs {x : SealRun} (hr : activeRun s q 6 0 = some r) (hrun : s.spine.run = some x) :
    sealEffect s q = if x.queue = q ∧ x.idx = r.idx then sealStep s x else s := by
  simp only [sealEffect, hr, hrun]

end

section
variable {s : State} {kind len seq : Nat}

/-- With no record staged nothing is written. -/
theorem recordWrite_unstaged (h : s.spine.staged = none) : recordWrite s = s := by
  simp only [recordWrite, h]

/-- A record that is not of a running seal is written at once. -/
theorem recordWrite_free (h : s.spine.staged = some (kind, len, seq)) (hk : kind ≠ 1 ∨ s.spine.run = none) :
    recordWrite s = sealSettle (writeSpine s len seq) := by
  have hgo : ¬ (kind = 1 ∧ s.spine.run.any (fun x => !sealDurable s x) = true) := by
    rcases hk with hk | hk
    · simp [hk]
    · simp [hk]
  simp only [recordWrite, h]
  refine (if_neg hgo).trans ?_
  split
  next x hx => simp_all
  next => rfl

/-- A seal's record waits while its image is not durable. -/
theorem recordWrite_waits {x : SealRun} (h : s.spine.staged = some (1, len, seq)) (hrun : s.spine.run = some x)
    (hd : sealDurable s x = false) : recordWrite s = s := by
  simp [recordWrite, h, hrun, hd]

/-- A seal that ends with its image named leaves no seal running. -/
theorem sealEnd_named (s : State) (x : SealRun) (img : Option SealImg) (code : Nat) :
    sealEnd (setSpine s { s.spine with image := img }) x code =
      finish { s with spine := { s.spine with run := none, image := img } } x.queue x.idx code 0 0 := rfl

/-- The record of a seal whose image is durable is written, names the image, and completes the SEAL. -/
theorem recordWrite_seals {x : SealRun} (h : s.spine.staged = some (1, len, seq)) (hrun : s.spine.run = some x)
    (hd : sealDurable s x = true) :
    recordWrite s =
      let s1 := writeSpine s len seq
      wr (finish { s1 with spine := { s1.spine with run := none, image := some (sealImg x) } } x.queue x.idx 0 0 0)
        R.HLT_STAT_SEAL_REQ 0 := by
  refine Eq.trans ?_ (congrArg (wr · R.HLT_STAT_SEAL_REQ 0) (sealEnd_named _ x _ 0))
  simp [recordWrite, h, hrun, hd]

end

/-- Settles O31: a SEAL by whether one runs and whether it may start, a staged record by whose it is and whether it may be written; the
two commands of the device are so by definition. -/
theorem sealCopiesAndRecords : Obligations.SealCopiesAndRecords := by
  unfold Obligations.SealCopiesAndRecords
  refine ⟨?start, ?unstaged, ?staged, fun _ => rfl, fun _ _ _ => rfl⟩
  case start =>
    intro q s r hr half new
    refine ⟨fun hrun h => ?_, fun hrun hcap hdest => ?_, fun x hrun => ?_⟩
    · exact congrArg Host.Outcome.next (sealEffect_refused (s := begin s) hr hrun h)
    · exact congrArg Host.Outcome.next (sealEffect_starts (s := begin s) hr hrun hcap hdest)
    · exact congrArg Host.Outcome.next (sealEffect_runs (s := begin s) hr hrun)
  case unstaged => exact fun s h => congrArg Host.Outcome.next (recordWrite_unstaged (s := begin s) h)
  case staged =>
    intro s kind len seq h
    refine ⟨fun hk => ?_, ?_, ?_⟩
    · exact congrArg Host.Outcome.next (recordWrite_free (s := begin s) h hk)
    · rintro x rfl hrun hd
      exact congrArg Host.Outcome.next (recordWrite_waits (s := begin s) h hrun hd)
    · rintro x rfl hrun hd
      exact congrArg Host.Outcome.next (recordWrite_seals (s := begin s) h hrun hd)

end Sys2Proof.Machine
end

section
/-! PROOFS. Optical lanes, modules and their monitor registers (R53, R54, R66). -/

namespace Sys2Proof.Machine

section
variable {s : State} {p k : Nat}

/-- A failed lane that fails again changes nothing. -/
theorem opticalFail_again (h : s.lp.failed.contains p = true) : opticalFail s p = s := if_pos h

/-- A lane that fails is noted; the link it carries takes a spare lane or goes down, with a record. -/
theorem opticalFail_first (h : s.lp.failed.contains p = false) :
    opticalFail s p =
      let s1 := setLp s { s.lp with failed := s.lp.failed ++ [p] }
      match firstBelow 32 fun l => s.lp.lane.getD l 0x3F == p with
      | none => s1
      | some l => spareRec (swapLane s1 l).1 6 p ((swapLane s1 l).2.getD 0) (swapLane s1 l).2.isNone false :=
  if_neg (ne_true_of_eq_false h)

/-- The state once a module is out of use: its lanes are failed, and GEN_DISABLED names it. -/
def moduleNoted (s : State) (k : Nat) : State :=
  let s1 := setLp s { s.lp with failed := s.lp.failed ++ ((List.range 4).map (4 * k + ·)).filter fun p => !s.lp.failed.contains p }
  wr s1 R.GEN_DISABLED (setBits (rd s1 R.GEN_DISABLED) (45 + k) (45 + k) 1)

/-- A failed module is noted; then it moves, or its links stop and it moves after the replacement that retrains. -/
theorem moduleFail_eq (s : State) (k : Nat) :
    moduleFail s k = if swapRuns s && linksOn s k != [] then
        (let s1 := (linksOn (moduleNoted s k) k).foldl (fun t l =>
          putLink t l { linkOf t l with phase := if (linkOf t l).phase = 2 then 3 else (linkOf t l).phase }) (moduleNoted s k)
        setLp s1 { s1.lp with swapDue := s1.lp.swapDue ++ [k] })
      else moduleSwap (moduleNoted s k) k := rfl

end

/-- Outputs driven one after the other stand in their order. -/
theorem foldl_emit (l : List Nat) (f : Nat → Out) (s : State) :
    l.foldl (fun s o => emit s (f o)) s = { s with out := s.out ++ l.map f } := by
  induction l generalizing s with
  | nil => simp
  | cons o l ih =>
    rw [List.foldl_cons, ih]
    simp [emit]

/-- Settles O35, from one lemma per command and per state of the lane or the module. -/
theorem lanesModulesAndMonitors : Obligations.LanesModulesAndMonitors := by
  unfold Obligations.LanesModulesAndMonitors
  refine ⟨?lane, ?module, ?poll, ?response, ?timeout⟩
  case lane =>
    intro ol s
    exact ⟨fun h => congrArg Host.Outcome.next (opticalFail_again (s := begin s) h),
      fun h => congrArg Host.Outcome.next (opticalFail_first (s := begin s) h)⟩
  case module =>
    intro k s c hc
    have hexec : exec c s = .next (moduleFail (begin s) k) := by
      rcases hc with rfl | rfl
      · rfl
      · rfl
    rw [hexec, moduleFail_eq]
    refine ⟨fun h => congrArg Host.Outcome.next (if_neg ?_), fun hrun hl => congrArg Host.Outcome.next (if_pos ?_)⟩
    · rcases h with h | h
      · have hrun : swapRuns (begin s) = false := h
        simp [hrun]
      · have hl : linksOn (begin s) k = [] := h
        simp [hl]
    · have hrun' : swapRuns (begin s) = true := hrun
      have hl' : linksOn (begin s) k ≠ [] := hl
      simp [hrun', hl']
  case poll =>
    intro k s
    exact congrArg (fun t : State => Host.Outcome.next (setLp t { t.lp with
      poll := (t.lp.poll.filter fun x => x.1 != k.val) ++ monOffsets.map fun o => (k.val, o) })) (foldl_emit monOffsets _ (begin s))
  case response =>
    intro k off v s
    refine ⟨fun h => congrArg Host.Outcome.next (if_pos ?_), fun h => congrArg Host.Outcome.next (if_neg ?_)⟩
    · exact congrArg Bool.not h
    · exact ne_true_of_eq_false (congrArg Bool.not h)
  case timeout =>
    intro k s
    exact ⟨fun h => congrArg Host.Outcome.next (if_pos h),
      fun h => congrArg Host.Outcome.next (if_neg (ne_true_of_eq_false h))⟩

end Sys2Proof.Machine
end

section
/-! PROOFS. What the host asks of the hive and of the coded window (R38, R108, R324 to R326, R334). -/

namespace Sys2Proof.Machine

/-- A request of the host takes a context when nothing waits and one is free; else it joins the admission queue, or waits behind it. -/
theorem hostAdmit_eq (s : State) (c : HiveCtx) :
    hostAdmit s c =
      let s1 := { s with hive := { s.hive with admq := s.hive.admq ++ [c] } }
      if s.hive.admq = [] ∧ (freeCtx s).isSome = true then
        (let t := takeCtx s c ((freeCtx s).getD 0); returnBeats t (twdBeats t c))
      else if 256 ≤ s.hive.admq.length then holdHost s1 c
      else (let t := count s1 C.RAE_ADMIT_WAIT; returnBeats t (twdBeats t c)) := by
  simp only [hostAdmit, decide_eq_true_eq]
  rfl

/-- The block has a device number of its own (R324). -/
def ownNumbered (s : State) : Bool :=
  match ownPeer s with
  | some p => decide (64 ≤ peerHive (peerEntry s p))
  | none => false

/-- Setting HIVE_CFG.EN needs an own device number and a fit object. -/
theorem hiveEnable_on (s : State) :
    hiveEnable s true = if ownNumbered s && hiveObjOk s then (wr s R.HIVE_CFG_EN 1, 0) else (s, ecDescriptor) := by
  have hdef : hiveEnable s true = if !ownNumbered s || !hiveObjOk s then (s, ecDescriptor) else (wr s R.HIVE_CFG_EN 1, 0) := rfl
  rw [hdef]
  cases ownNumbered s <;> cases hiveObjOk s <;> rfl

/-- Settles O37: a malformed request is refused as the first test of its meaning, and a good one goes on as the rest of it says. -/
theorem hiveRequestsOfTheHost : Obligations.HiveRequestsOfTheHost := by
  unfold Obligations.HiveRequestsOfTheHost
  refine ⟨?request, hostAdmit_eq, ?window, ?enable⟩
  case request =>
    intro r op addr size data be s n off bad refuse own lane mask c
    refine ⟨fun h => congrArg Host.Outcome.next (if_pos h), fun h => congrArg Host.Outcome.next ((if_neg h).trans ?_)⟩
    simp only [Bool.not_eq_true']
    rfl
  case window =>
    intro r op addr size s n o off refuse c
    refine ⟨fun h => congrArg Host.Outcome.next (if_pos h), fun hop hsize hoff => congrArg Host.Outcome.next ((if_neg ?_).trans ?_)⟩
    · rintro (h | h | h)
      · omega
      · omega
      · exact h hoff
    · simp only [Bool.not_eq_true', Bool.and_eq_true, beq_iff_eq]
      rfl
  case enable =>
    intro r en s fit
    constructor
    · exact fun h => congrArg Host.Outcome.next (answered_held (s := begin s) r _ h)
    · intro h
      have hexec : exec (.hiveCfgEn r en) s = .next (answered r (hiveEnable (begin s) en)) :=
        congrArg Host.Outcome.next (answered_unheld (s := begin s) r _ h)
      rw [hexec]
      cases en with
      | false => rfl
      | true =>
        have hfit : (ownNumbered (begin s) && hiveObjOk (begin s)) = fit := rfl
        rw [hiveEnable_on, hfit]
        cases fit <;> rfl

end Sys2Proof.Machine
end

section
/-! PROOFS. The stages of bring-up (R35, R63, R456, R460, R464, R465). -/

namespace Sys2Proof.Machine

/-- Fuses are loaded in stage 0: a parity failure raises FAULT_OUT, else stage 2 begins once PWR_GOOD is high. -/
theorem fuseLoad_eq (s : State) (ok : Bool) :
    fuseLoad s ok =
      let s1 := wr (loadFuses s) R.GEN_STAT_STAGE 1
      if rd s R.GEN_STAT_STAGE ≠ 0 then s
      else if ok = false then raiseFault s1 1
      else if s1.chip.pwrGood then powerUp (wr s1 R.GEN_STAT_STAGE 2) else s1 := by
  simp only [fuseLoad, Bool.not_eq_true']

/-- PWR_GOOD rises: a waiting block reset runs, stage 2 begins, or a stage that was cut short goes on. -/
theorem powerRise_eq (s : State) :
    powerRise s =
      let s1 := setChip s { s.chip with pwrGood := true }
      if s.chip.resetWaits then blockReset s1
      else if rd s R.GEN_STAT_STAGE = 1 then (if s.chip.faultOut then s1 else powerUp (wr s1 R.GEN_STAT_STAGE 2))
      else if s.chip.held = true ∧ (rd s R.GEN_STAT_STAGE = 2 ∨ rd s R.GEN_STAT_STAGE = 3) then
        powerUp (setChip s1 { s1.chip with held := false })
      else s1 := by
  simp only [powerRise, setChip_chip, Bool.and_eq_true, Bool.or_eq_true, beq_iff_eq]
  rfl

/-- Self-test does not end outside stage 3, while the fast domains are held, or before the ports are ready (R465). -/
def SelfTestIdle (s : State) : Prop := rd s R.GEN_STAT_STAGE ≠ 3 ∨ s.chip.held = true ∨ portsReady s = false

/-- The state self-test leaves with a working sequencer, as stage 4 begins (R465). -/
def selfTested (s : State) (lanes cols : Nat) : State :=
  let s1 := (List.range 12).foldl (fun t n => testLanes t n (bits lanes (34 * n + 33) (34 * n))) (allSpares s)
  let s2 := (List.range 4).foldl (fun t a => testColumns t a (bits cols (129 * a + 128) (129 * a))) s1
  let s3 := setSpr s2 { s2.spr with sliceOut := bits (rd s2 R.GEN_DISABLED) 11 0 }
  let r := readSpine (reloadMaps (wr s3 R.GEN_STAT_CFG_BAD (b2n (cfgBad s3))))
  wr (wr (takeSpine r.1 r.2) R.GEN_CTRL_BLK_RST 0) R.GEN_STAT_STAGE 4

theorem selfTestDone_idle {s : State} (h : SelfTestIdle s) (seqOk : Bool) (lanes cols : Nat) :
    selfTestDone s seqOk lanes cols = s :=
  if_pos (by simpa [SelfTestIdle] using h)

/-- Self-test ends: a failed sequencer raises FAULT_OUT, else stage 4 begins. -/
theorem selfTestDone_ends {s : State} (h : ¬ SelfTestIdle s) (seqOk : Bool) (lanes cols : Nat) :
    selfTestDone s seqOk lanes cols = if seqOk = false then raiseFault s 3 else selfTested s lanes cols := by
  refine (if_neg (by simpa [SelfTestIdle] using h)).trans ?_
  simp only [Bool.not_eq_true']
  rfl

/-- Settles O46, from one lemma per command that turns on more than one test; the others are so by definition. -/
theorem bringUpFollowsItsStages : Obligations.BringUpFollowsItsStages := by
  unfold Obligations.BringUpFollowsItsStages
  refine ⟨fun _ => rfl, fun _ => rfl, ?config, ?fuses, ?fall, ?rise, ?selftest⟩
  case config => exact fun _ _ _ _ _ _ _ => rfl
  case fuses => exact fun ok s => congrArg Host.Outcome.next (fuseLoad_eq (begin s) ok)
  case fall => exact fun _ => rfl
  case rise => exact fun s => congrArg Host.Outcome.next (powerRise_eq (begin s))
  case selftest =>
    intro seqOk lanes cols s idle s1 s2 s3 r
    exact ⟨fun h => congrArg Host.Outcome.next (selfTestDone_idle (s := begin s) h _ _ _),
      fun h => congrArg Host.Outcome.next (selfTestDone_ends (s := begin s) h _ _ _)⟩

end Sys2Proof.Machine
end

section
/-! PROOFS. Errors of the block's own memories (R64, R474, R488, R505, R569). -/

namespace Sys2Proof.Machine

/-- A page without error logic is left alone. -/
theorem sramError_unprotected {s : State} {page : Nat} (h : injPage page = false) (word : Nat) (uncorr : Bool) (cls q : Nat) :
    sramError s page word uncorr cls q = s :=
  if_pos (by simp [h])

/-- A word of a page with error logic is corrected, or lost. -/
theorem sramError_protected {s : State} {page : Nat} (h : injPage page = true) (word : Nat) (uncorr : Bool) (cls q : Nat) :
    sramError s page word uncorr cls q = if uncorr then sramLost s page word cls q else sramCorrected s page word :=
  if_neg (by simp [h])

/-- An injected lost word of a page of working buffers: the running command that uses them fails, if there is one. -/
def bufferLost (s : State) (page : Nat) : State :=
  match injQueue s page with
  | some q => sramLost s page 0 2 q
  | none => pgError s page 27 0

section
variable {s : State} {page : Nat}

/-- Nothing is injected into a page that does not exist. -/
theorem injectErr_missing (h : pageExists page = false) (src v : Nat) : injectErr s src page v = (s, ecDescriptor) := by
  simp [injectErr, h]

/-- Injection needs maker rights. -/
theorem injectErr_barred {src : Nat} {v : Nat} (h : pageExists page = true)
    (hr : rightsOf (noteReserved s page (bits v 26 0 != 0)) src &&& 4 = 0) :
    injectErr s src page v =
      refuseRights (noteReserved s page (bits v 26 0 != 0)) page (4096 * page + 0x2C) src true 0 v := by
  simp [injectErr, h, hr]

/-- A maker's injection is audited, and its bits act as a corrected and as a lost word of a page with error logic. -/
theorem injectErr_acts {src : Nat} {v : Nat} (h : pageExists page = true)
    (hr : rightsOf (noteReserved s page (bits v 26 0 != 0)) src &&& 4 ≠ 0) :
    injectErr s src page v =
      let s1 := noteReserved s page (bits v 26 0 != 0)
      let s2 := audit s1 1 (4096 * page + 0x2C) src (auditRole s1 src) 0 0 v
      let s3 := if bit v 28 then sramCorrected s2 page 0 else s2
      (if injPage page = false then s2
        else if bit v 27 = false then s3
        else if injClass page ≠ 2 then sramLost s3 page 0 (injClass page) 0
        else bufferLost s3 page, 0) := by
  simp only [injectErr, h, hr, if_true, if_false, Bool.not_true, Bool.false_eq_true, Bool.not_eq_true']
  split
  next => rfl
  next =>
    split
    next => rfl
    next =>
      by_cases hc : injClass page = 2
      · simp only [hc, if_true, ne_eq, not_true_eq_false, if_false]
        rfl
      · simp only [hc, if_false, ne_eq, not_false_eq_true, if_true]

end

/-- Settles O48: an error by its page and class, an injection by its page and the source's rights. -/
theorem sramAndParityErrors : Obligations.SramAndParityErrors := by
  unfold Obligations.SramAndParityErrors
  refine ⟨?sram, fun _ _ _ => rfl, fun _ => rfl, ?inject⟩
  case sram =>
    intro page word unc cls q s s1
    have hprot (h : injPage page.toNat = true) (unc : Bool) (cls : Fin 4) : exec (.sramEccError page word unc cls q) s =
        .next (if unc then sramLost (begin s) page.toNat word.toNat cls q else sramCorrected (begin s) page.toNat word.toNat) :=
      congrArg Host.Outcome.next (sramError_protected h word.toNat unc cls q)
    exact ⟨fun h => congrArg Host.Outcome.next (sramError_unprotected h _ _ _ _), fun h => hprot h false cls,
      fun h => hprot h true 0, fun h => hprot h true 1, fun h => hprot h true 2, fun h => hprot h true 3⟩
  case inject =>
    intro r page v s s1 s2 s3
    exact ⟨fun h => congrArg (fun x => Host.Outcome.next (answered r x)) (injectErr_missing (s := begin s) h _ _),
      fun h hr => congrArg (fun x => Host.Outcome.next (answered r x)) (injectErr_barred (s := begin s) h hr),
      fun h hr => congrArg (fun x => Host.Outcome.next (answered r x)) (injectErr_acts (s := begin s) h hr)⟩

end Sys2Proof.Machine
end

section
/-! PROOFS. The queues' control (R135, R527) and the registers kept from the forerunner (R127, R539). -/

namespace Sys2Proof.Machine

section
variable {s : State} {q : Nat}

/-- A further ABORT of a queue that reads 1 changes nothing. -/
theorem abortWrite_again (h : rdb s (R.QUE_CTRL_ABORT q) = true) : abortWrite s q = s := if_pos h

/-- The state once an ABORT has set its bit: not when the retire index equals the doorbell. -/
def abortMarked (s : State) (q : Nat) : State :=
  if (qOf s q).ret = (qOf s q).db then s else wr s (R.QUE_CTRL_ABORT q) 1

/-- The mark leaves the queue as it is. -/
theorem qOf_abortMarked (s : State) (q : Nat) : qOf (abortMarked s q) q = qOf s q := by
  unfold abortMarked
  split <;> rfl

/-- An ABORT sets its bit and runs. -/
theorem abortWrite_first (h : rdb s (R.QUE_CTRL_ABORT q) = false) : abortWrite s q = abortQ (abortMarked s q) q :=
  if_neg (ne_true_of_eq_false h)

/-- The queue with every unstarted command cancelled (R135). -/
def cancelled (x : Queue) : Queue :=
  { x with cmds := x.cmds.map fun c =>
      if c.phase = .unstarted then { c with phase := .done, err := ecDescriptor, cancelled := true } else c }

/-- With every command fetched an ABORT only cancels. -/
theorem abortQ_fetched (h : (qOf s q).head = (qOf s q).db) :
    abortQ s q = setQ (countN s C.SEQ_CMD_CANCEL (unstarted (qOf s q))) q (cancelled (qOf s q)) :=
  if_pos h

/-- An ABORT reads the enqueued rest from the ring. -/
theorem abortQ_reads (h : (qOf s q).head ≠ (qOf s q).db) :
    abortQ s q =
      let s1 := setQ (countN s C.SEQ_CMD_CANCEL (unstarted (qOf s q))) q
        { cancelled (qOf s q) with abortTo := some (qOf s q).db }
      if canFetch (qOf s1 q) then fetchQ s1 q else s1 :=
  if_neg h

end

/-- A submission on the QUE window with table 1 selected is judged as a queue's entry (R527). -/
theorem queueSubmit_queue {s : State} {q : Nat} (h : selected s 6 = some (1, q)) (src data : Nat) (wide : Bool) :
    queueSubmit s src data wide =
      let new := submitted s src 6 (queueEntry s q) data wide
      let s1 := noteReserved (dropStaged s src 6) 6
        (bits new 71 64 != 0 || bits new 75 73 != 0 || bits new 79 78 != 0 || bits new 95 85 != 0 || bits new 223 195 != 0 ||
          bits new 255 228 != 0)
      (submitQueue s1 q new).elim (s1, ecDescriptor) fun t => (t, 0) := by
  have hsub : submission s src 6 data wide =
      (dropStaged s src 6, some (1, q, queueEntry s q, submitted s src 6 (queueEntry s q) data wide)) := by
    simp only [submission, h]
    rfl
  simp only [queueSubmit, hsub]
  cases submitQueue _ q _ <;> rfl

section
variable {s : State}

/-- A register of the forerunner has no effect but STATE_WR while KX2C_CFG.EN is 0. -/
theorem ifKx_off (h : rdb s R.KX2C_CFG_EN = false) (t : State) : ifKx s t = pgError s 0x1D 29 0 :=
  if_neg (ne_true_of_eq_false h)

/-- A register of the forerunner acts while KX2C_CFG.EN is 1. -/
theorem ifKx_on (h : rdb s R.KX2C_CFG_EN = true) (t : State) : ifKx s t = t := if_pos h

/-- A flush that finds one running, or no dirty page, does nothing more. -/
theorem kxFlush_idle (h : rdb s R.KX2C_FLUSH = true ∨ dirtyCaches s 0 = []) : kxFlush s = s := by
  rcases h with h | h
  · exact if_pos h
  · simp [kxFlush, h]

/-- A flush joins a running IMAGE FLUSH and writes every dirty page back. -/
theorem kxFlush_starts (h : rdb s R.KX2C_FLUSH = false) (hd : dirtyCaches s 0 ≠ []) :
    kxFlush s =
      let is := dirtyCaches s 0
      let s1 := flushAll (joinFlushes (wr s R.KX2C_FLUSH 1) is) is
      settleKx { s1 with chip := { s1.chip with flush := is } } :=
  (if_neg (ne_true_of_eq_false h)).trans (if_neg hd)

end

/-- Settles O52: each command is its register's write, answered, when the fast domains are not held, and only answered when they are. -/
theorem queueControlAndAliases : Obligations.QueueControlAndAliases := by
  unfold Obligations.QueueControlAndAliases
  refine ⟨?abort, ?entry, ?doorbell, ?flush, ?held⟩
  case abort =>
    intro r q s hs
    have hexec : exec (.queAbort r q) s = .next (trsp (abortWrite (begin s) q) r 0) :=
      congrArg Host.Outcome.next (answered_unheld (s := begin s) r _ hs)
    rw [hexec]
    refine ⟨fun h => ?_, fun h => ?_⟩
    · exact congrArg (fun t => Host.Outcome.next (trsp t r 0)) (abortWrite_again (s := begin s) h)
    · have hq : qOf (abortMarked (begin s) q) q = qOf s q := qOf_abortMarked (begin s) q
      have hfetched := abortQ_fetched (s := abortMarked (begin s) q) (q := q)
      have hreads := abortQ_reads (s := abortMarked (begin s) q) (q := q)
      rw [hq] at hfetched hreads
      rw [abortWrite_first (s := begin s) h]
      exact ⟨fun hd => congrArg (fun t => Host.Outcome.next (trsp t r 0)) (hfetched hd),
        fun hd => congrArg (fun t => Host.Outcome.next (trsp t r 0)) (hreads hd)⟩
  case entry =>
    intro r data wide s q hs hsel new s1
    have hexec : exec (.queEntrySubmit r data wide) s = .next (answered r (queueSubmit (begin s) r.src.toNat data.toNat wide)) :=
      congrArg Host.Outcome.next (answered_unheld (s := begin s) r _ hs)
    rw [hexec, queueSubmit_queue (s := begin s) hsel]
    change Host.Outcome.next (answered r ((submitQueue s1 q new).elim (s1, ecDescriptor) fun t => (t, 0))) = _
    cases submitQueue s1 q new <;> rfl
  case doorbell =>
    intro r q v s hs
    have hexec : exec (.kx2cDb r q v) s = .next (trsp (ifKx (begin s) (doorbell (begin s) q v.toNat)) r 0) :=
      congrArg Host.Outcome.next (answered_unheld (s := begin s) r _ hs)
    rw [hexec]
    refine ⟨fun h => ?_, fun h => ?_⟩
    · rw [ifKx_off (s := begin s) h]
    · rw [ifKx_on (s := begin s) h]
      exact congrArg Host.Outcome.next (answered_unheld (s := begin s) r (doorbell (begin s) q v.toNat, 0) hs).symm
  case flush =>
    intro r s hs
    have hexec : exec (.kx2cFlush r) s = .next (trsp (ifKx (begin s) (kxFlush (begin s))) r 0) :=
      congrArg Host.Outcome.next (answered_unheld (s := begin s) r _ hs)
    rw [hexec]
    refine ⟨fun h => ?_, fun h hidle => ?_, fun h hf hd => ?_⟩
    · rw [ifKx_off (s := begin s) h]
    · rw [ifKx_on (s := begin s) h, kxFlush_idle (s := begin s) hidle]
    · rw [ifKx_on (s := begin s) h, kxFlush_starts (s := begin s) hf hd]
  case held =>
    intro r q k v data wide s hs
    have hdone (x : State × Nat) : (Host.Outcome.next (answered r (unlessHeld (begin s) x)) : Ans) = .next (trsp (begin s) r 0) :=
      congrArg Host.Outcome.next (answered_held (s := begin s) r x hs)
    exact ⟨hdone _, hdone _, hdone _, hdone _, hdone _, hdone _, hdone _, hdone _, hdone _, hdone _⟩

end Sys2Proof.Machine
end

section
/-! PROOFS. Sessions (R483 to R486): how a REQ, a response, a close and a lapse leave the session registers. -/

namespace Sys2Proof.Machine

@[simp] theorem rd_setSes (s : State) (x : Session) (k : Nat) : rd (setSes s x) k = rd s k := rfl

/-! ## A pending challenge -/

/-- A lapse ends the pending challenge. -/
theorem rd_lapse_pending {s : State} (hw : NMap.wf s.regs = true) : rd (lapse s) R.ROLE_STAT_PENDING = 0 := by
  unfold lapse
  split
  · rw [rd_wr_ne _ _ (by decide)]
    exact rd_wr_self hw _ _
  next h => exact rdb_eq_false.mp (Bool.eq_false_of_not_eq_true h)

theorem lapse_regs_wf {s : State} (hw : NMap.wf s.regs = true) : NMap.wf (lapse s).regs = true := by
  unfold lapse
  split
  · exact wr_regs_wf (wr_regs_wf hw _ _) _ _
  · exact hw

@[simp] theorem lapse_ses (s : State) : (lapse s).ses = s.ses := by
  unfold lapse
  split <;> rfl

@[simp] theorem lapse_cnt (s : State) : (lapse s).cnt = s.cnt := by
  unfold lapse
  split <;> rfl

/-! ## REQ (R483 to R485) -/

/-- The fields of the control register in the data of a REQ: the role, REQ set, CLOSE clear. -/
theorem reqData_fields (role : BitVec 2) :
    bits (at' role.toNat 4 + 1) 5 4 = role.toNat ∧ bit (at' role.toNat 4 + 1) 1 = false ∧ bit (at' role.toNat 4 + 1) 0 = true := by
  revert role
  decide

/-- ROLE_REQ stores the role and asks for it. -/
theorem exec_roleReq (r : Req) (role : BitVec 2) (s : State) :
    exec (.roleReq r role) s = .next (answered r (roleReq (wr (begin s) R.ROLE_CTRL_ROLE role.toNat) r.src.toNat
      (at' (rd s R.ROLE_CTRL_ROLE) 4) (at' role.toNat 4 + 1))) := by
  obtain ⟨hrole, hclose, hreq⟩ := reqData_fields role
  have hctrl : roleCtrl (begin s) r.src.toNat (at' role.toNat 4 + 1) = roleReq (wr (begin s) R.ROLE_CTRL_ROLE role.toNat)
      r.src.toNat (at' (rd s R.ROLE_CTRL_ROLE) 4) (at' role.toNat 4 + 1) := by
    simp [roleCtrl, hrole, hclose, hreq]
  exact congrArg (fun x => Host.Outcome.next (answered r x)) hctrl

/-- A REQ does not find what it needs: a role to ask for, no session, no challenge. -/
def ReqUnfit (s : State) : Prop :=
  rd s R.ROLE_CTRL_ROLE = 0 ∨ rd s R.ROLE_CTRL_ROLE = 3 ∨ rdb s R.ROLE_STAT_OPEN = true ∨ rdb s R.ROLE_STAT_PENDING = true

/-- The four words of the challenge have registers of their own. -/
theorem roleChal_injective : Function.Injective R.ROLE_CHAL := fun i j h => by
  unfold R.ROLE_CHAL at h
  omega

/-- A register below or above the challenge's is none of them. -/
theorem roleChal_ne {k i : Nat} (h : k < R.ROLE_CHAL 0 ∨ R.ROLE_CHAL 3 < k) (hi : i < 4) : R.ROLE_CHAL i ≠ k := by
  unfold R.ROLE_CHAL at *
  omega

/-- The state with a challenge drawn for a source: counted, stored, and pending. -/
def challenged (s : State) (src : Nat) : State :=
  let s1 := wr (wr { s with free := s.free + 1 } R.ROLE_STAT_ENT_BAD 0) R.ROLE_CNT ((rd s R.ROLE_CNT + 1) % 2 ^ 32)
  let s2 := wrRow s1 R.ROLE_CHAL (fun i => bits (Config.entropy s.free).toNat (32 * i + 31) (32 * i)) 4
  let s3 := wr (wr s2 R.ROLE_STAT_PENDING 1) R.ROLE_STAT_SRC src
  setSes s3 { s3.ses with asked := rd s R.ROLE_CTRL_ROLE }

theorem challenged_asked (s : State) (src : Nat) : (challenged s src).ses.asked = rd s R.ROLE_CTRL_ROLE := rfl

theorem challenged_free (s : State) (src : Nat) : (challenged s src).free = s.free + 1 := wrRow_free _

section
variable {s : State} (src old new : Nat)

/-- During a lockout a REQ is refused with RIGHTS. -/
theorem roleReq_locked (hl : rdb s R.ROLE_STAT_LOCKED = true) :
    roleReq s src old new = (roleFail (lapse s) src (rd s R.ROLE_CTRL_ROLE) ecRights, ecRights) :=
  if_pos hl

/-- Outside a lockout an unfit REQ is refused with DESCRIPTOR. -/
theorem roleReq_unfit (hl : rdb s R.ROLE_STAT_LOCKED = false) (hu : ReqUnfit s) :
    roleReq s src old new = (roleFail (lapse s) src (rd s R.ROLE_CTRL_ROLE) ecDescriptor, ecDescriptor) :=
  (if_neg (ne_true_of_eq_false hl)).trans (if_pos hu)

/-- A failed entropy test refuses a REQ and sets ENT_BAD. -/
theorem roleReq_entropyBad (hl : rdb s R.ROLE_STAT_LOCKED = false) (hu : ¬ ReqUnfit s) (he : Config.entropyOk s.free = false) :
    roleReq s src old new = (roleFail (wr { s with free := s.free + 1 } R.ROLE_STAT_ENT_BAD 1) src (rd s R.ROLE_CTRL_ROLE)
      ecDescriptor, ecDescriptor) := by
  refine (if_neg (ne_true_of_eq_false hl)).trans ((if_neg hu).trans (if_pos ?_))
  exact congrArg Bool.not he

/-- A REQ that is accepted draws a challenge and is audited. -/
theorem roleReq_challenges (hl : rdb s R.ROLE_STAT_LOCKED = false) (hu : ¬ ReqUnfit s) (he : Config.entropyOk s.free = true) :
    ∃ role, roleReq s src old new = (audit (challenged s src) 1 0x1010 src role 0 old new, 0) := by
  refine ⟨_, (if_neg (ne_true_of_eq_false hl)).trans ((if_neg hu).trans ((if_neg ?_).trans rfl))⟩
  exact ne_true_of_eq_false (congrArg Bool.not he)

end

/-- What a challenge that is drawn leaves in the registers. -/
theorem rd_challenged {s : State} (hw : NMap.wf s.regs = true) (src : Nat) :
    rd (challenged s src) R.ROLE_STAT_PENDING = 1 ∧ rd (challenged s src) R.ROLE_STAT_SRC = src ∧
      rd (challenged s src) R.ROLE_CNT = (rd s R.ROLE_CNT + 1) % 2 ^ 32 ∧ rd (challenged s src) R.ROLE_STAT_ENT_BAD = 0 ∧
      ∀ k, k < 4 → rd (challenged s src) (R.ROLE_CHAL k) = bits (Config.entropy s.free).toNat (32 * k + 31) (32 * k) := by
  let s0 := wr { s with free := s.free + 1 } R.ROLE_STAT_ENT_BAD 0
  let s1 := wr s0 R.ROLE_CNT ((rd s R.ROLE_CNT + 1) % 2 ^ 32)
  let s2 := wrRow s1 R.ROLE_CHAL (fun i => bits (Config.entropy s.free).toNat (32 * i + 31) (32 * i)) 4
  have hrd (k : Nat) : rd (challenged s src) k = rd (wr (wr s2 R.ROLE_STAT_PENDING 1) R.ROLE_STAT_SRC src) k := rfl
  have hw0 : NMap.wf s0.regs = true := wr_regs_wf hw _ _
  have hw1 : NMap.wf s1.regs = true := wr_regs_wf hw0 _ _
  have hw2 : NMap.wf s2.regs = true := wrRow_regs_wf hw1 _
  refine ⟨?pending, ?src, ?cnt, ?bad, ?chal⟩
  case pending => rw [hrd, rd_wr_ne _ _ (by decide), rd_wr_pos _ _ (by decide)]
  case src => rw [hrd, rd_wr_self (wr_regs_wf hw2 _ _)]
  case cnt =>
    rw [hrd, rd_wr_ne _ _ (by decide), rd_wr_ne _ _ (by decide), rd_wrRow_ne (by decide)]
    exact rd_wr_self hw0 _ _
  case bad =>
    rw [hrd, rd_wr_ne _ _ (by decide), rd_wr_ne _ _ (by decide), rd_wrRow_ne (by decide), rd_wr_ne _ _ (by decide)]
    exact rd_wr_self hw _ _
  case chal =>
    intro k hk
    rw [hrd, rd_wr_ne _ _ (roleChal_ne (by decide) hk), rd_wr_ne _ _ (roleChal_ne (by decide) hk)]
    exact rd_wrRow hw1 roleChal_injective hk

/-! ## A response (R483, R485) -/

/-- The state as a lockout begins, before its entry. -/
def lockedOut (s : State) : State :=
  let s1 := wr (wr s R.ROLE_STAT_LOCKED 1) R.ROLE_LOCK_LEFT s.ses.lockLen
  setSes s1 { s1.ses with lockLen := min 1024 (2 * s.ses.lockLen), lockEdges := 0 }

theorem startLockout_eq (s : State) (src : Nat) : ∃ role,
    startLockout s src = audit (lockedOut s) 8 0 src role 0 (lockedOut s).ses.fails s.ses.lockLen := ⟨_, rfl⟩

/-- A lockout begins: it is on, for as long as is due, and the next one lasts twice as long up to 1,024 s. -/
theorem startLockout_locks {s : State} (hw : NMap.wf s.regs = true) (src : Nat) :
    rd (startLockout s src) R.ROLE_STAT_LOCKED = 1 ∧ rd (startLockout s src) R.ROLE_LOCK_LEFT = s.ses.lockLen ∧
      rd (startLockout s src) R.ROLE_STAT_PENDING = rd s R.ROLE_STAT_PENDING ∧ (startLockout s src).ses.fails = s.ses.fails ∧
      (startLockout s src).ses.lockLen = min 1024 (2 * s.ses.lockLen) := by
  obtain ⟨role, heq⟩ := startLockout_eq s src
  have hrd {k : Nat} (h : k ≠ R.AUD_SEQ ∧ k ≠ R.AUD_STAT_NEAR) : rd (startLockout s src) k =
      rd (wr (wr s R.ROLE_STAT_LOCKED 1) R.ROLE_LOCK_LEFT s.ses.lockLen) k := by
    rw [heq, rd_audit_ne _ _ _ _ _ _ _ _ h.1 h.2]
    rfl
  refine ⟨?locked, ?left, ?pending, ?fails, ?next⟩
  case locked => rw [hrd (by decide), rd_wr_ne _ _ (by decide), rd_wr_pos _ _ (by decide)]
  case left => rw [hrd (by decide), rd_wr_self (wr_regs_wf hw _ _)]
  case pending => rw [hrd (by decide), rd_wr_ne _ _ (by decide), rd_wr_ne _ _ (by decide)]
  case fails =>
    rw [heq, audit_ses]
    rfl
  case next =>
    rw [heq, audit_ses]
    rfl

/-- A session opens, once its entry is made: the role asked for is held and the failure run is cleared. -/
def sessionOpened (s : State) (role : Nat) : State :=
  let s1 := wr (wr (wr s R.ROLE_STAT_PENDING 0) R.ROLE_STAT_OPEN 1) R.ROLE_STAT_ROLE role
  count (setSes s1 { s1.ses with fails := 0, lockLen := 1 }) C.ROLE_OPEN_CNT

/-- The failure run is one longer. -/
def failureCounted (s : State) : State := setSes s { s.ses with fails := s.ses.fails + 1 }

/-- The state a response that does not match leaves, before a lockout. -/
def responseFailed (s : State) (src : Nat) : State :=
  failureCounted (roleFail (lapse (count s C.ROLE_FAIL_CNT)) src s.ses.asked 0)

theorem judgeResponse_eq (s : State) (src : Nat) (resp : Bytes) :
    judgeResponse s src resp = if resp = roleExpected s then
        sessionOpened (audit s 2 0 src (auditRole s src) 0 (rd s R.ROLE_CNT) s.ses.asked) s.ses.asked
      else if 4 ≤ (responseFailed s src).ses.fails then startLockout (responseFailed s src) src else responseFailed s src := rfl

section
variable {s : State} {src : Nat}

theorem sessionOpened_opens (hw : NMap.wf s.regs = true) (role : Nat) :
    rd (sessionOpened s role) R.ROLE_STAT_PENDING = 0 ∧ rd (sessionOpened s role) R.ROLE_STAT_OPEN = 1 ∧
      rd (sessionOpened s role) R.ROLE_STAT_ROLE = role ∧
      (sessionOpened s role).ses.fails = 0 ∧ (sessionOpened s role).ses.lockLen = 1 := by
  simp only [sessionOpened, rd_count, rd_setSes, count_ses, setSes_ses, and_true]
  refine ⟨?pending, ?opened, ?role⟩
  case pending => rw [rd_wr_ne _ _ (by decide), rd_wr_ne _ _ (by decide), rd_wr_self hw]
  case opened => rw [rd_wr_ne _ _ (by decide), rd_wr_pos _ _ (by decide)]
  case role => rw [rd_wr_self (wr_regs_wf (wr_regs_wf hw _ _) _ _)]

theorem failureCounted_regs (s : State) : (failureCounted s).regs = s.regs := rfl

theorem rd_failureCounted (s : State) (k : Nat) : rd (failureCounted s) k = rd s k := rfl

theorem failureCounted_ses (s : State) : (failureCounted s).ses = { s.ses with fails := s.ses.fails + 1 } := rfl

/-- A response that does not match ends the challenge and counts in the failure run. -/
theorem responseFailed_counts (hw : NMap.wf s.regs = true) :
    NMap.wf (responseFailed s src).regs = true ∧ rd (responseFailed s src) R.ROLE_STAT_PENDING = 0 ∧
      (responseFailed s src).ses = { s.ses with fails := s.ses.fails + 1 } := by
  have hw1 : NMap.wf (lapse (count s C.ROLE_FAIL_CNT)).regs = true := lapse_regs_wf hw
  have hp1 : rd (lapse (count s C.ROLE_FAIL_CNT)) R.ROLE_STAT_PENDING = 0 := rd_lapse_pending hw
  unfold responseFailed roleFail
  rw [failureCounted_regs, rd_failureCounted, failureCounted_ses, audit_ses, lapse_ses, count_ses,
    rd_audit_ne _ _ _ _ _ _ _ _ (by decide) (by decide)]
  exact ⟨audit_regs_wf _ _ _ _ _ _ _ hw1, hp1, rfl⟩

/-- A response that matches opens the session and clears the failure run. -/
theorem judgeResponse_match {resp : Bytes} (hw : NMap.wf s.regs = true) (h : resp = roleExpected s) :
    rd (judgeResponse s src resp) R.ROLE_STAT_PENDING = 0 ∧ rd (judgeResponse s src resp) R.ROLE_STAT_OPEN = 1 ∧
      rd (judgeResponse s src resp) R.ROLE_STAT_ROLE = s.ses.asked ∧
      (judgeResponse s src resp).ses.fails = 0 ∧ (judgeResponse s src resp).ses.lockLen = 1 := by
  rw [judgeResponse_eq, if_pos h]
  exact sessionOpened_opens (audit_regs_wf _ _ _ _ _ _ _ hw) _

/-- From the fourth failure in a row on a response that does not match starts a lockout. -/
theorem judgeResponse_mismatch {resp : Bytes} (hw : NMap.wf s.regs = true) (h : resp ≠ roleExpected s) :
    rd (judgeResponse s src resp) R.ROLE_STAT_PENDING = 0 ∧ (judgeResponse s src resp).ses.fails = s.ses.fails + 1 ∧
      (3 ≤ s.ses.fails → rd (judgeResponse s src resp) R.ROLE_STAT_LOCKED = 1 ∧
        rd (judgeResponse s src resp) R.ROLE_LOCK_LEFT = s.ses.lockLen ∧
        (judgeResponse s src resp).ses.lockLen = min 1024 (2 * s.ses.lockLen)) := by
  obtain ⟨hwf, hpending, hses⟩ := responseFailed_counts (src := src) hw
  rw [judgeResponse_eq, if_neg h]
  split
  next hrun =>
    obtain ⟨hlocked, hleft, hpend, hfail, hnext⟩ := startLockout_locks hwf src
    rw [hses] at hleft hfail hnext
    exact ⟨hpend.trans hpending, hfail, fun _ => ⟨hlocked, hleft, hnext⟩⟩
  next hrun =>
    rw [hses] at hrun ⊢
    exact ⟨hpending, rfl, fun h3 => absurd (Nat.succ_le_succ h3) hrun⟩

/-- The response in a source's staged words, with its last word (R510). -/
def stagedResponse (s : State) (src w7 : Nat) : Bytes :=
  ((List.range 7).flatMap fun k => leBytes 4 (wideWord s src (0x1060 + 4 * k) 0)) ++ leBytes 4 w7

/-- A response of the source whose challenge is pending is judged. -/
theorem roleResponse_judged (hp : rdb s R.ROLE_STAT_PENDING = true) (hsrc : rd s R.ROLE_STAT_SRC = src) (w7 : Nat) :
    roleResponse s src w7 = (judgeResponse (dropWide s src 0x1060) src (stagedResponse s src w7), 0) := by
  refine if_pos ?_
  have hp' : rdb (dropWide s src 0x1060) R.ROLE_STAT_PENDING = true := hp
  have hsrc' : rd (dropWide s src 0x1060) R.ROLE_STAT_SRC = src := hsrc
  simp [hp', hsrc']

/-- A response with no challenge of its source pending only counts. -/
theorem roleResponse_unasked (h : rdb s R.ROLE_STAT_PENDING = false ∨ rd s R.ROLE_STAT_SRC ≠ src) (w7 : Nat) :
    roleResponse s src w7 = (roleFail (count (dropWide s src 0x1060) C.ROLE_FAIL_CNT) src 0 0, 0) := by
  refine if_neg ?_
  rcases h with h | h
  · have hp : rdb (dropWide s src 0x1060) R.ROLE_STAT_PENDING = false := h
    simp [hp]
  · have hsrc : rd (dropWide s src 0x1060) R.ROLE_STAT_SRC ≠ src := h
    simp [hsrc]

end

/-! ## The end of a session (R486) -/

section
variable {s : State} (src cause : Nat)

/-- Without a session nothing closes. -/
theorem closeSession_none (h : rdb s R.ROLE_STAT_OPEN = false) : closeSession s src cause = s :=
  if_pos (congrArg Bool.not h)

/-- Selecting BYPASS touches no register. -/
theorem rd_tapClosed (s : State) (k : Nat) : rd (tapClosed s) k = rd s k := by
  unfold tapClosed
  split <;> rfl

/-- A session that closes leaves no role, and is audited. -/
theorem closeSession_open (hw : NMap.wf s.regs = true) (h : rdb s R.ROLE_STAT_OPEN = true) :
    rd (closeSession s src cause) R.ROLE_STAT_OPEN = 0 ∧ rd (closeSession s src cause) R.ROLE_STAT_ROLE = 0 ∧
      rd (closeSession s src cause) R.AUD_SEQ = (rd s R.AUD_SEQ + 1) % 2 ^ 32 := by
  let s1 := audit s 4 0 src (auditRole s src) 0 cause 0
  have hclosed : ¬ (!rdb s R.ROLE_STAT_OPEN) = true := by simp [h]
  have hrd (k : Nat) : rd (closeSession s src cause) k =
      rd (wr (wr (wr s1 R.ROLE_STAT_OPEN 0) R.ROLE_STAT_ROLE 0) R.ROLE_STAT_SRC 0) k :=
    (congrArg (rd · k) (if_neg hclosed)).trans (rd_tapClosed _ k)
  have hw1 : NMap.wf s1.regs = true := audit_regs_wf _ _ _ _ _ _ _ hw
  refine ⟨?opened, ?role, ?seq⟩
  case opened => rw [hrd, rd_wr_ne _ _ (by decide), rd_wr_ne _ _ (by decide), rd_wr_self hw1]
  case role => rw [hrd, rd_wr_ne _ _ (by decide), rd_wr_self (wr_regs_wf hw1 _ _)]
  case seq =>
    rw [hrd, rd_wr_ne _ _ (by decide), rd_wr_ne _ _ (by decide), rd_wr_ne _ _ (by decide)]
    exact rd_audit_seq _ _ _ _ _ _ _ hw

end

/-- A lockout that ends is off, with the failure run as it was. -/
theorem lockoutEnd_ends {s : State} (hw : NMap.wf s.regs = true) :
    rd (lockoutEnd s) R.ROLE_STAT_LOCKED = 0 ∧ rd (lockoutEnd s) R.ROLE_LOCK_LEFT = 0 ∧ (lockoutEnd s).ses.fails = s.ses.fails := by
  unfold lockoutEnd
  rw [rd_setSes, rd_setSes, setSes_ses]
  exact ⟨(rd_wr_ne _ _ (by decide)).trans (rd_wr_self hw _ _), rd_wr_self (wr_regs_wf hw _ _) _ _, rfl⟩

/-! ## The installer's keys (R487, R489, R490) and the test port (R65) -/

/-- Word 7 of a key slot written by a source completes the key of its staged words. -/
def keyWritten (s : State) (src slot w7 : Nat) : Nat :=
  ((List.range 7).map fun i => at' (wideWord s src (0x8080 + 32 * slot + 4 * i)
    (bits (rd s (R.TBL_IKEY slot)) (32 * i + 31) (32 * i))) (32 * i)).sum + at' w7 224

/-- The audit entry of a key commit with a status. -/
def keyEntry (s t : State) (src slot w7 st : Nat) : State :=
  audit t 1 (0x8080 + 32 * slot) src (auditRole t src) st (rd s (R.TBL_IKEY slot)) (keyWritten s src slot w7)

section
variable {s : State} {src slot w7 : Nat}

/-- Without installer rights a key that would change is refused with RIGHTS. -/
theorem keyCommit_barred (hr : rightsOf (dropWide s src (0x8080 + 32 * slot)) src &&& 2 = 0)
    (hnew : keyWritten s src slot w7 ≠ rd s (R.TBL_IKEY slot)) :
    keyCommit s src slot w7 = refuseRights (dropWide s src (0x8080 + 32 * slot)) 8 (0x8080 + 32 * slot) src true
      (rd s (R.TBL_IKEY slot)) (keyWritten s src slot w7) :=
  (if_pos hr).trans (if_neg hnew)

/-- A key slot in use may not be committed: some ARMED or ACTIVE bank was verified under it. -/
def keyUsed (s : State) (slot : Nat) : Bool := bankUses s 0 slot [3, 4] || bankUses s 1 slot [3, 4]

/-- Outside ABSENT, before stage 4, or with the slot in use, an installer's commit is refused with DESCRIPTOR. -/
theorem keyCommit_refused (hr : rightsOf (dropWide s src (0x8080 + 32 * slot)) src &&& 2 ≠ 0)
    (h : isAbsent (dropWide s src (0x8080 + 32 * slot)) = false ∨ keyUsed (dropWide s src (0x8080 + 32 * slot)) slot = true ∨
      rd (dropWide s src (0x8080 + 32 * slot)) R.GEN_STAT_STAGE < 4) :
    keyCommit s src slot w7 =
      (keyEntry s (pgError (dropWide s src (0x8080 + 32 * slot)) 8 29 0) src slot w7 ecDescriptor, ecDescriptor) := by
  refine (if_neg hr).trans (if_pos ?_)
  simp only [early, Bool.or_eq_true, decide_eq_true_eq, Bool.not_eq_true']
  simp only [keyUsed, Bool.or_eq_true] at h
  tauto

/-- An installer's commit that is accepted stores the key, is audited, and takes down what the old key verified. -/
theorem keyCommit_accepted (hr : rightsOf (dropWide s src (0x8080 + 32 * slot)) src &&& 2 ≠ 0)
    (ha : isAbsent (dropWide s src (0x8080 + 32 * slot)) = true) (hu : keyUsed (dropWide s src (0x8080 + 32 * slot)) slot = false)
    (hstage : 4 ≤ rd (dropWide s src (0x8080 + 32 * slot)) R.GEN_STAT_STAGE) :
    keyCommit s src slot w7 = (keyChanged (keyEntry s (wr (dropWide s src (0x8080 + 32 * slot)) (R.TBL_IKEY slot)
      (keyWritten s src slot w7)) src slot w7 0) slot, 0) := by
  refine (if_neg hr).trans (if_neg ?_)
  simp only [keyUsed, Bool.or_eq_false_iff] at hu
  simp only [early, ha, hu, Bool.or_false, Bool.not_true, decide_eq_true_eq]
  omega

end

section
variable {s : State} {code : Nat}

/-- BYPASS, and without a maker session every instruction but IDCODE, selects BYPASS. -/
theorem tapInstruction_bypass (h : code = 255 ∨ code ≠ 1 ∧ makerOpen s = false) : tapInstruction s code = setTap s 0xFF 0 := by
  have hid : code ≠ 1 := by omega
  have hby : code = 0xFF ∨ (!makerOpen s) = true := by
    rcases h with h | h
    · exact .inl h
    · exact .inr (by simp [h.2])
  exact (if_neg hid).trans (if_pos hby)

/-- In a maker session another instruction shifts a free value out, and is audited. -/
theorem tapInstruction_maker (hid : code ≠ 1) (hby : code ≠ 255) (hm : makerOpen s = true) :
    tapInstruction s code =
      audit (setTap { s with free := s.free + 1 } code (Config.tapData s.free).toNat) 7 0 selfSrc 2 0 0 code :=
  (if_neg hid).trans (if_neg (by simp [hby, hm]))

end

/-! ## What an answer leaves as it is -/

theorem rd_answered (r : Req) (t : State) (st k : Nat) : rd (answered r (t, st)) k = rd t k := rfl
theorem answered_ses (r : Req) (t : State) (st : Nat) : (answered r (t, st)).ses = t.ses := rfl
theorem answered_freeCount (r : Req) (t : State) (st : Nat) : (answered r (t, st)).free = t.free := rfl

/-- Settles O55: a REQ by whether it is locked out, unfit, or drawn, a response by whether it is asked for and matches, and so on through
the session's end, the key commit and the test port; the registers after each are read through its writes and its audit entry. -/
theorem sessionsOpenAndClose : Obligations.SessionsOpenAndClose := by
  unfold Obligations.SessionsOpenAndClose
  refine ⟨?req, ?response, ?close, ?ends, ?key, ?tap⟩
  case req =>
    intro r role s hw s1 no
    have hrole : rd s1 R.ROLE_CTRL_ROLE = role.toNat := rd_wr_self (s := begin s) hw _ _
    have hb {k : Nat} (h : k ≠ R.ROLE_CTRL_ROLE) : rdb s1 k = rdb s k := rdb_wr_ne (begin s) _ h
    have hunfit : ReqUnfit s1 ↔
        role.toNat = 0 ∨ role.toNat = 3 ∨ rdb s R.ROLE_STAT_OPEN = true ∨ rdb s R.ROLE_STAT_PENDING = true := by
      simp only [ReqUnfit, hrole, hb (k := R.ROLE_STAT_OPEN) (by decide), hb (k := R.ROLE_STAT_PENDING) (by decide)]
    have hlocked : rdb s1 R.ROLE_STAT_LOCKED = rdb s R.ROLE_STAT_LOCKED := hb (by decide)
    have hw1 : NMap.wf s1.regs = true := wr_regs_wf (s := begin s) hw _ _
    rw [exec_roleReq]
    refine ⟨fun hl => ?_, fun hl hu => ?_, fun hl hr ho hp => ?_⟩
    · rw [roleReq_locked _ _ _ (hlocked.trans hl), hrole]
      rfl
    · rw [roleReq_unfit _ _ _ (hlocked.trans hl) (hunfit.mpr hu), hrole]
      rfl
    · have hfit : ¬ ReqUnfit s1 := by
        rw [hunfit, ho, hp]
        rintro (h | h | h | h)
        · omega
        · omega
        · exact Bool.false_ne_true h
        · exact Bool.false_ne_true h
      refine ⟨_, rfl, fun he => ?_, fun he => ?_⟩
      · rw [roleReq_entropyBad _ _ _ (hlocked.trans hl) hfit he, hrole]
        rfl
      · obtain ⟨arole, hacc⟩ := roleReq_challenges r.src.toNat (at' (rd s R.ROLE_CTRL_ROLE) 4) (at' role.toNat 4 + 1)
          (hlocked.trans hl) hfit he
        obtain ⟨hpending, hsrc, hcnt, hbad, hchal⟩ := rd_challenged hw1 r.src.toNat
        have hcnt1 : rd s1 R.ROLE_CNT = rd s R.ROLE_CNT := rd_wr_ne (begin s) _ (by decide)
        have hrd {k : Nat} (h1 : k ≠ R.AUD_SEQ) (h2 : k ≠ R.AUD_STAT_NEAR) :=
          (rd_answered r (audit (challenged s1 r.src.toNat) 1 0x1010 r.src.toNat arole 0 (at' (rd s R.ROLE_CTRL_ROLE) 4)
            (at' role.toNat 4 + 1)) 0 k).trans (rd_audit_ne _ _ _ _ _ _ _ _ h1 h2)
        rw [hacc, answered_ses, answered_freeCount, audit_ses, audit_free, challenged_free, challenged_asked, hrole]
        exact ⟨(hrd (by decide) (by decide)).trans hpending, (hrd (by decide) (by decide)).trans hsrc,
          (hrd (by decide) (by decide)).trans (hcnt.trans (by rw [hcnt1])), rfl, (hrd (by decide) (by decide)).trans hbad, rfl,
          fun k hk => (hrd (roleChal_ne (by decide) hk) (roleChal_ne (by decide) hk)).trans (hchal k hk)⟩
  case response =>
    intro r word7 s hw resp s1
    have hexec : exec (.roleResponse r word7) s = .next (answered r (roleResponse (begin s) r.src.toNat word7.toNat)) := rfl
    rw [hexec]
    refine ⟨fun hp hsrc => ?_, fun h => ?_⟩
    · rw [roleResponse_judged (s := begin s) hp hsrc]
      refine ⟨_, rfl, ?_⟩
      rw [rd_answered, rd_answered, rd_answered, rd_answered, rd_answered, answered_ses]
      by_cases hmatch : resp = roleExpected s1
      · obtain ⟨hpending, hopen, hrole, hfails, hlen⟩ := judgeResponse_match (src := r.src.toNat) (s := s1) hw hmatch
        exact ⟨hpending, fun _ => ⟨hopen, hrole, hfails, hlen⟩, fun hne => absurd hmatch hne⟩
      · obtain ⟨hpending, hfails, hlock⟩ := judgeResponse_mismatch (src := r.src.toNat) (s := s1) hw hmatch
        exact ⟨hpending, fun he => absurd he hmatch, fun _ => ⟨hfails, hlock⟩⟩
    · rw [roleResponse_unasked (s := begin s) h]
      rfl
  case close =>
    intro r s
    exact ⟨fun h => congrArg (fun t => Host.Outcome.next (trsp t r 0)) (if_pos h),
      fun h => congrArg (fun t => Host.Outcome.next (trsp t r 0)) (if_neg h)⟩
  case ends =>
    intro s hw
    have hidle : exec .sessionIdle s = .next (closeSession (begin s) selfSrc 1) := rfl
    have hnone := closeSession_none (s := begin s) selfSrc 1
    have hopen := closeSession_open (s := begin s) selfSrc 1 hw
    refine ⟨⟨_, hidle, ?_, fun ho => (hopen ho).2, hnone⟩, ⟨_, rfl, rd_lapse_pending (s := begin s) hw, lapse_cnt _⟩,
      ⟨_, rfl, lockoutEnd_ends (s := begin s) hw⟩⟩
    cases ho : rdb s R.ROLE_STAT_OPEN with
    | false => exact (congrArg (rd · R.ROLE_STAT_OPEN) (hnone ho)).trans (rdb_eq_false.mp ho)
    | true => exact (hopen ho).1
  case key =>
    intro r slot word7 s hs addr cur new s1 used entry
    have hexec : exec (.tblIkeyCommit r slot word7) s =
        .next (answered r (keyCommit (begin s) r.src.toNat slot word7.toNat)) :=
      congrArg Host.Outcome.next (answered_unheld (s := begin s) r _ hs)
    have hkey : keyWritten (begin s) r.src.toNat slot word7.toNat = new := rfl
    have hentry (t : State) (st : Nat) : keyEntry (begin s) t r.src.toNat slot word7.toNat st = entry t st := rfl
    clear_value entry new
    rw [hexec]
    refine ⟨fun hr hnew => ?_, fun hr h => ?_, fun hr ha hu hstage => ?_⟩
    · rw [keyCommit_barred (s := begin s) hr (hkey ▸ hnew), hkey]
      rfl
    · rw [keyCommit_refused (s := begin s) hr h, hentry]
      rfl
    · rw [keyCommit_accepted (s := begin s) hr ha hu hstage, hkey, hentry]
      rfl
  case tap =>
    intro code s
    exact ⟨fun h => congrArg Host.Outcome.next (if_pos h),
      fun h => congrArg Host.Outcome.next (tapInstruction_bypass (s := begin s) h),
      fun hid hby hm => congrArg Host.Outcome.next (tapInstruction_maker (s := begin s) hid hby hm)⟩

end Sys2Proof.Machine
end

section
/-! PROOFS. The register window (R38 to R40, R499, R501, R509 to R514): a request by its OP, its page and its offset. -/

namespace Sys2Proof.Machine

/-! ## Well-formed requests -/

/-- A request that the register window does not take (R38). -/
def RegBad (win3 : Bool) (op addr size : Nat) : Prop :=
  win3 = true ∨ 1 < op ∨ (size ≠ 2 ∧ size ≠ 3) ∨ 2 ^ 18 ≤ addr ∨ addr % sizeBytes size ≠ 0

/-- The bytes of a request of 4 or of 8. -/
theorem sizeBytes_eq {size : Nat} (h : size = 2 ∨ size = 3) : sizeBytes size = if (size == 3) = true then 8 else 4 := by
  rcases h with rfl | rfl
  · rfl
  · rfl

section
variable {s : State} {r : Req} {win3 : Bool} {op addr size data : Nat}

theorem registerRequest_bad (h : RegBad win3 op addr size) :
    registerRequest s r win3 op addr size data =
      refuseReq s r op (sizeBytes size) ecDescriptor (List.replicate (sizeBytes size) 0) := by
  refine if_pos ?_
  simpa [RegBad, or_assoc] using h

theorem registerRequest_good (h : ¬ RegBad win3 op addr size) :
    registerRequest s r win3 op addr size data =
      if op = 0 then registerRead s r addr (size == 3) else answered r (registerWrite s r addr (size == 3) data) := by
  refine if_neg ?_
  simpa [RegBad, or_assoc] using h

/-- A well-formed request is of 4 or 8 bytes and aligned to them. -/
theorem aligned_of_good (h : ¬ RegBad win3 op addr size) :
    (size = 2 ∨ size = 3) ∧ addr % (if (size == 3) = true then 8 else 4) = 0 := by
  simp only [RegBad, not_or] at h
  obtain ⟨-, -, hsize, -, halign⟩ := h
  have hsize' : size = 2 ∨ size = 3 := by omega
  exact ⟨hsize', sizeBytes_eq hsize' ▸ not_not.mp halign⟩

end

/-! ## Reads -/

section
variable {s : State} {r : Req} {addr : Nat} {wide : Bool}

/-- A read on a page that does not exist is refused. -/
theorem registerRead_missing (hp : pageExists (addr / 4096) = false) :
    registerRead s r addr wide = trd s r ecDescriptor (List.replicate (if wide then 8 else 4) 0) :=
  if_pos (.inr (congrArg Bool.not hp))

/-- An aligned read on a page that exists reads the window from offset 0xF00 on, and below it one word or two. -/
theorem registerRead_page (ha : addr % (if wide then 8 else 4) = 0) (hp : pageExists (addr / 4096) = true) :
    registerRead s r addr wide =
      let n := if wide then 8 else 4
      let page := addr / 4096
      let off := addr % 4096
      let src := r.src.toNat
      if 0xF00 ≤ off then
        (let s1 := if off = 0xF00 then setLatch s src page (windowBytes s page) else s
        trd s1 r 0 (slice ((latchOf s1 src page).getD (windowBytes s1 page)) (off - 0xF00) n))
      else trd s r 0 (leBytes 4 (readWord s src page off) ++ (if wide then leBytes 4 (readWord s src page (off + 4)) else [])) := by
  refine if_neg ?_
  rintro (h | h)
  · exact h ha
  · simp [hp] at h

end

/-! ## Writes -/

section
variable {s : State} {r : Req} {addr data : Nat} {wide : Bool}

/-- A write on a page that does not exist is refused. -/
theorem registerWrite_missing (hp : pageExists (addr / 4096) = false) : registerWrite s r addr wide data = (s, ecDescriptor) :=
  if_pos (.inr (congrArg Bool.not hp))

section
variable (ha : addr % (if wide then 8 else 4) = 0) (hp : pageExists (addr / 4096) = true)
include ha hp

/-- A write of a held page has no effect. -/
theorem registerWrite_held (hh : s.chip.held = true ∧ (pageRow (addr / 4096)).aon = false) :
    registerWrite s r addr wide data = (s, 0) := by
  refine (if_neg ?_).trans (if_pos (by simp [hh.1, hh.2]))
  rintro (h | h)
  · exact h ha
  · simp [hp] at h

/-- An aligned write of a page that exists and is not held acts by its offset and its bytes. -/
theorem registerWrite_page (hh : ¬ (s.chip.held = true ∧ (pageRow (addr / 4096)).aon = false)) :
    registerWrite s r addr wide data =
      let src := r.src.toNat
      let page := addr / 4096
      let off := addr % 4096
      let v := if wide then data else bits data 31 0
      if 0xF00 ≤ off then windowWrite s r page off v wide
      else if 0x100 ≤ off then counterWrite s page off v
      else if !wide then writeWord s src page off v
      else if regWidth page off = 64 then commitRegister s src page off v
      else
        let x := writeWord s src page off (bits v 31 0)
        let y := writeWord x.1 src page (off + 4) (bits v 63 32)
        (y.1, max x.2 y.2) := by
  refine (if_neg ?_).trans (if_neg (by simpa using hh))
  rintro (h | h)
  · exact h ha
  · simp [hp] at h

variable (hh : ¬ (s.chip.held = true ∧ (pageRow (addr / 4096)).aon = false))
include hh

/-- A write from offset 0xF00 on is a window write. -/
theorem registerWrite_window (hoff : 0xF00 ≤ addr % 4096) :
    registerWrite s r addr wide data =
      windowWrite s r (addr / 4096) (addr % 4096) (if wide then data else bits data 31 0) wide :=
  (registerWrite_page ha hp hh).trans (if_pos hoff)

/-- A write from offset 0x100 up to the window is of counters. -/
theorem registerWrite_counter (hlo : 0x100 ≤ addr % 4096) (hhi : addr % 4096 < 0xF00) :
    registerWrite s r addr wide data = counterWrite s (addr / 4096) (addr % 4096) (if wide then data else bits data 31 0) :=
  (registerWrite_page ha hp hh).trans ((if_neg (Nat.not_le.mpr hhi)).trans (if_pos hlo))

end

section
variable (hp : pageExists (addr / 4096) = true) (hh : ¬ (s.chip.held = true ∧ (pageRow (addr / 4096)).aon = false))
  (hoff : addr % 4096 < 0x100)
include hp hh hoff

/-- A write of 4 bytes below offset 0x100 is of one word. -/
theorem registerWrite_word (ha : addr % 4 = 0) :
    registerWrite s r addr false data = writeWord s r.src.toNat (addr / 4096) (addr % 4096) (bits data 31 0) := by
  refine (registerWrite_page (wide := false) ha hp hh).trans ((if_neg (by omega)).trans ((if_neg (by omega)).trans ?_))
  simp only [Bool.not_false, if_true, Bool.false_eq_true, if_false]

/-- A write of 8 bytes below offset 0x100 is of one register of 64 bits, or of two words, the lower first. -/
theorem registerWrite_wide (ha : addr % 8 = 0) :
    registerWrite s r addr true data =
      let src := r.src.toNat
      let page := addr / 4096
      let off := addr % 4096
      if regWidth page off = 64 then commitRegister s src page off data
      else
        let x := writeWord s src page off (bits data 31 0)
        let y := writeWord x.1 src page (off + 4) (bits data 63 32)
        (y.1, max x.2 y.2) := by
  refine (registerWrite_page (wide := true) ha hp hh).trans ((if_neg (by omega)).trans ((if_neg (by omega)).trans ?_))
  simp only [Bool.not_true, if_true, Bool.false_eq_true, if_false]

end

end

/-- A register wider than 64 bits: the response words and the key slots (R510). -/
def WideReg (page off : Nat) : Prop := (page = 1 ∧ 0x60 ≤ off ∧ off < 0x80) ∨ (page = 8 ∧ 0x80 ≤ off)

section
variable {s : State} {src page off v : Nat}

/-- A word of a wide register is staged or commits. -/
theorem writeWord_wideReg (hw : WideReg page off) : writeWord s src page off v = wideWrite s src page off v := if_pos hw

section
variable (hw : ¬ WideReg page off)
include hw

/-- The low half of a register of 64 bits is staged by its source. -/
theorem writeWord_low (h64 : regWidth page off = 64) : writeWord s src page off v = (stageLow s src (4096 * page + off) v, 0) :=
  (if_neg hw).trans (if_pos h64)

/-- The high half of a register of 64 bits commits both. -/
theorem writeWord_high (h64 : regWidth page off ≠ 64) (h4 : off % 8 = 4) (hlow : regWidth page (off - 4) = 64) :
    writeWord s src page off v = commitHigh s src page (off - 4) v :=
  (if_neg hw).trans ((if_neg h64).trans (if_pos ⟨h4, hlow⟩))

/-- Any other word is a register of its own. -/
theorem writeWord_plain (h64 : regWidth page off ≠ 64) (hlow : off % 8 ≠ 4 ∨ regWidth page (off - 4) ≠ 64) :
    writeWord s src page off v = commitRegister s src page off v :=
  (if_neg hw).trans ((if_neg h64).trans (if_neg (not_and_or.mpr hlow)))

end

end

/-- A register written whole acts, or is written field by field. -/
theorem commitRegister_eq (s : State) (src page off v : Nat) :
    commitRegister s src page off v =
      let s1 := noteReserved s page (reservedBits page off v != 0)
      (actRegister s1 src page off v).getD (writeFields s1 src page off v) := by
  unfold commitRegister
  cases h : actRegister (noteReserved s page (reservedBits page off v != 0)) src page off v <;> simp only [h, Option.getD]

/-! ## The expected digest (R436) -/

/-- The state with an expectation armed: its epoch, and the value then in DIG_EXP_VALUE. -/
def armed (s : State) (e : Nat) : State :=
  let s1 := wr s R.DIG_EXP_EPOCH e
  { s1 with cod := { s.cod with expect := rd s R.DIG_EXP_VALUE } }

theorem expectWrite_eq (s : State) {e : Nat} (he : bits e 47 0 = e) : expectWrite s e = digExpect (armed s e) := by
  unfold expectWrite
  rw [he]
  rfl

section
variable {s : State} {e : Nat}

/-- An expectation with no valid entry of its epoch waits. -/
theorem digExpect_waits (hw : NMap.wf s.regs = true) (h : e = 0 ∨ hiValid (hist s e) = false ∨ hiEpoch (hist s e) ≠ e) :
    digExpect (armed s e) = armed s e := by
  have hrd : rd (armed s e) R.DIG_EXP_EPOCH = e := rd_wr_self hw _ _
  have hhist : hist (armed s e) e = hist s e := rfl
  refine if_pos ?_
  simpa [hrd, hhist] using h

/-- An expectation with a valid entry of its epoch is judged at once, and DIG_EXP_EPOCH returns to 0. -/
theorem digExpect_judges (hw : NMap.wf s.regs = true) (h0 : e ≠ 0) (hv : hiValid (hist s e) = true) (he : hiEpoch (hist s e) = e) :
    digExpect (armed s e) =
      let h := hist s e
      let s2 := wr (armed s e) R.DIG_EXP_EPOCH 0
      if hiFast h || hiTaint h || hiDigest h == rd s R.DIG_EXP_VALUE then s2 else digMismatch s2 e 0x3FFF := by
  have hrd : rd (armed s e) R.DIG_EXP_EPOCH = e := rd_wr_self hw _ _
  have hhist : hist (armed s e) e = hist s e := rfl
  have hgo : ¬ (e = 0 ∨ (!hiValid (hist s e)) = true ∨ hiEpoch (hist s e) ≠ e) := by simp [h0, hv, he]
  simp only [digExpect, hrd, hhist]
  exact if_neg hgo

end

/-- An epoch of 48 bits is stored whole. -/
theorem bits_epoch (e : BitVec 48) : bits e.toNat 47 0 = e.toNat := by
  simpa [bits] using Nat.mod_eq_of_lt e.isLt

/-- Settles O56: a request by whether it is well formed and its OP, a write by what it reaches, and a digest expectation by whether its
entry is valid. -/
theorem registerWritesAct : Obligations.RegisterWritesAct := by
  unfold Obligations.RegisterWritesAct
  refine ⟨?request, ?held, ?expect⟩
  case request =>
    intro r win3 op addr size data s n bad page off src out
    have hout : out = .next (registerRequest (begin s) r win3 op.toNat addr.toNat size.toNat data.toNat) := rfl
    refine ⟨fun h => ?_, fun h hop => ?_, fun h hop => ?_⟩
    · exact congrArg Host.Outcome.next (registerRequest_bad h)
    · obtain ⟨hsize, ha⟩ := aligned_of_good h
      have hn : n = if (size.toNat == 3) = true then 8 else 4 := sizeBytes_eq hsize
      have hread : out = .next (registerRead (begin s) r addr.toNat (size.toNat == 3)) :=
        congrArg Host.Outcome.next ((registerRequest_good h).trans (if_pos hop))
      rw [hread]
      refine ⟨fun hp => ?_, fun hp hoff => ?_, fun hp hoff => ?_⟩
      · rw [registerRead_missing hp, hn]
      · refine congrArg Host.Outcome.next ((registerRead_page ha hp).trans ((if_neg (Nat.not_le.mpr hoff)).trans ?_))
        simp only [beq_iff_eq]
        rfl
      · refine congrArg Host.Outcome.next ((registerRead_page ha hp).trans ((if_pos hoff).trans ?_))
        rw [hn]
    · obtain ⟨hsize, ha⟩ := aligned_of_good h
      have hwrite : out = .next (answered r (registerWrite (begin s) r addr.toNat (size.toNat == 3) data.toNat)) :=
        congrArg Host.Outcome.next ((registerRequest_good h).trans (if_neg (by simp [hop])))
      intro held word
      rw [hwrite]
      refine ⟨fun hp => ?_, fun hp hh => ?_, fun hp hh hoff => ?_, fun hp hh hlo hhi => ?_, fun hp hh hoff hsz => ?_,
        fun hp hh hoff hsz hw => ?_, fun hp hh hoff hsz hw => ?_⟩
      · rw [registerWrite_missing (s := begin s) hp]
        rfl
      · rw [registerWrite_held (s := begin s) ha hp hh]
        rfl
      · rw [registerWrite_window (s := begin s) ha hp hh hoff]
        simp only [beq_iff_eq]
        rfl
      · rw [registerWrite_counter (s := begin s) ha hp hh hlo hhi]
        simp only [beq_iff_eq]
        rfl
      · have hword : (size.toNat == 3) = false := by simp [hsz]
        have ha4 : addr.toNat % 4 = 0 := by simpa [hword] using ha
        rw [hword, registerWrite_word (s := begin s) hp hh hoff ha4]
        refine ⟨fun hw => ?_, fun hw h64 => ?_, fun hw h64 h4 hlow => ?_, fun hw h64 hlow => ?_⟩
        · rw [writeWord_wideReg hw]
        · rw [writeWord_low hw h64]
          rfl
        · rw [writeWord_high hw h64 h4 hlow]
        · rw [writeWord_plain hw h64 hlow, commitRegister_eq]
      · have hwide : (size.toNat == 3) = true := by simp [hsz]
        have ha8 : addr.toNat % 8 = 0 := by simpa [hwide] using ha
        rw [hwide, registerWrite_wide (s := begin s) hp hh hoff ha8, if_pos hw, commitRegister_eq]
      · have hwide : (size.toNat == 3) = true := by simp [hsz]
        have ha8 : addr.toNat % 8 = 0 := by simpa [hwide] using ha
        rw [hwide, registerWrite_wide (s := begin s) hp hh hoff ha8, if_neg hw]
  case held => exact fun r e s h => congrArg Host.Outcome.next (answered_held (s := begin s) r _ h)
  case expect =>
    intro r e s hs hw h
    have hexec : exec (.digExpEpoch r e) s = .next (trsp (digExpect (armed (begin s) e.toNat)) r 0) :=
      congrArg Host.Outcome.next ((answered_unheld (s := begin s) r _ hs).trans
        (congrArg (fun t => trsp t r 0) (expectWrite_eq (begin s) (bits_epoch e))))
    rw [hexec]
    refine ⟨fun hwait => ⟨_, rfl, ?_⟩, fun h0 hv he => ?_⟩
    · rw [digExpect_waits (s := begin s) hw hwait]
      exact ⟨(rd_wr_self (s := begin s) hw _ _).trans (bits_epoch e).symm, rfl, rfl⟩
    · rw [digExpect_judges (s := begin s) hw h0 hv he]
      rfl

end Sys2Proof.Machine
end

section
/-! PROOFS. The state at AON reset (R61, R308, R408, R515, R550, R556). -/

namespace Sys2Proof.Machine

/-- The reset values of the register fields are a canonical map. -/
theorem resetRegs_wf : NMap.wf resetRegs = true := by decide

/-- The reset values of the table entries are a canonical map. -/
theorem resetTab_wf : NMap.wf resetTab = true := by decide

/-- The reset state meets the invariant: its maps are canonical, and every counter and shadow reads 0. -/
theorem reset_inv : State.reset.Inv where
  canonical := ⟨resetRegs_wf, rfl, rfl, resetTab_wf, rfl, rfl, rfl, rfl, rfl⟩
  counters := fun _ => Nat.zero_le _
  shadows := fun _ => Nat.zero_le _

/-- Every domain is gated at reset. -/
theorem domain_reset {d : Nat} (h : d < 15) : domain State.reset d = Domain.off := List.getD_replicate _ h

/-- Every queue is disabled and empty at reset. -/
theorem qOf_reset {q : Nat} (h : q < 16) : qOf State.reset q = Queue.empty := List.getD_replicate _ h

/-- Settles O58: the invariant is reset_inv; the reset values are read off the tables of fields and entries. -/
theorem resetStateMeetsTheInvariant : Obligations.ResetStateMeetsTheInvariant := by
  unfold Obligations.ResetStateMeetsTheInvariant
  refine ⟨reset_inv, rfl, rfl, rfl, rfl, rfl, ?absent, ?stage, ?power, fun _ => domain_reset, fun _ => qOf_reset,
    ?weights, ?indicators, ?shares⟩
  case absent => decide
  case stage => decide
  case power => decide
  case weights => decide
  case indicators => decide
  case shares => decide

end Sys2Proof.Machine
end

section
/-! PROOFS. MOVE (R114 to R117): how it takes its entry, and how it runs. -/

namespace Sys2Proof.Machine

section
variable {s : State} {q : Nat} {r : Run}

/-- A MOVE that may not begin completes with DESCRIPTOR. -/
theorem takeMove_refused (h : moveOk s r.raw = false) : takeMove s q r = finish s q r.idx ecDescriptor 0 0 := by
  simp [takeMove, h]

/-- A MOVE that may begin takes the lowest free entry of the move table. -/
theorem takeMove_takes {i : Nat} (h : moveOk s r.raw = true) (hi : firstBelow 64 (fun i => !bit (moveAt s i) 19) = some i) :
    takeMove s q r =
      let e := dir s (opd r.raw 18 0)
      let h := moveDest s r.raw
      modRun (setMove s i (moveEntry (opd r.raw 111 64) (oHome e) (oStk e) (oTier e) h.home h.mask h.tier 0 0
        (opd r.raw 18 0))) q r.idx fun x => { x with aux := [1, i, 0, 0] } := by
  simp [takeMove, h, hi]

section
variable (h : activeRun s q 3 0 = some r)
include h

/-- A MOVE that runs goes on where it waited. -/
theorem moveEffect_running (hp : r.phase = .running) : moveEffect s q = settleMove s (r.aux.getD 1 0) := by
  simp [moveEffect, h, hp]

/-- A MOVE that starts on a UNIQUE object copies cell by cell, as its reads come in. -/
theorem moveEffect_starts_unique (hp : r.phase = .started)
    (hc : oClass (dir s (mvObj (moveAt s (r.aux.getD 1 0)))) = clsUnique) :
    moveEffect s q = settleMove (keepRunning s q r.idx r.aux) (r.aux.getD 1 0) := by
  have hclass : oClass (dir (keepRunning s q r.idx r.aux) (mvObj (moveAt (keepRunning s q r.idx r.aux) (r.aux.getD 1 0)))) =
      clsUnique := hc
  simp only [moveEffect, h, hp, hclass, reduceCtorEq, if_false, if_true]

/-- A MOVE that starts on an object of another class requests every cell from the old home. -/
theorem moveEffect_starts_other (hp : r.phase = .started)
    (hc : oClass (dir s (mvObj (moveAt s (r.aux.getD 1 0)))) ≠ clsUnique) :
    moveEffect s q = settleMove (moveFetch (keepRunning s q r.idx r.aux) (r.aux.getD 1 0)) (r.aux.getD 1 0) := by
  have hclass : oClass (dir (keepRunning s q r.idx r.aux) (mvObj (moveAt (keepRunning s q r.idx r.aux) (r.aux.getD 1 0)))) ≠
      clsUnique := hc
  simp only [moveEffect, h, hp, hclass, reduceCtorEq, if_false]

end

end

/-- Settles O9: a MOVE's start is takeMove, refused or with an entry; its row is moveEffect, running, or starting by the class. -/
theorem moveTakesAnEntryAndCopies : Obligations.MoveTakesAnEntryAndCopies := by
  unfold Obligations.MoveTakesAnEntryAndCopies
  refine ⟨fun q s r => takeMove_refused, fun q s r i => takeMove_takes, fun q s r h => ⟨?goesOn, ?startsUnique, ?startsOther⟩⟩
  case goesOn => exact fun hp => congrArg Host.Outcome.next (moveEffect_running (s := begin s) h hp)
  case startsUnique => exact fun hp hc => congrArg Host.Outcome.next (moveEffect_starts_unique (s := begin s) h hp hc)
  case startsOther => exact fun hp hc => congrArg Host.Outcome.next (moveEffect_starts_other (s := begin s) h hp hc)

end Sys2Proof.Machine
end

section
/-! PROOFS. Images and stream programs (R119, R121, R124, R125, R127, R130): what each IMAGE command does, by what it finds. -/

namespace Sys2Proof.Machine

section
variable {s : State} {q : Nat} {r : Run}

section
variable (h : activeRun s q 4 0 = some r) (hp : r.phase = .started)
include h hp

/-- An IMAGE FILL of a range that may not be imaged, or that can never find room, is refused. -/
theorem imageFillEffect_refused
    (hbad : imageableRange s (opd r.raw 18 0) (opd r.raw 41 20) (opd r.raw 60 42) = false ∨
      fillTooBig s (qOf s q).tenant (opd r.raw 60 42) = true) :
    imageFillEffect s q = finish s q r.idx ecDescriptor 0 0 := by
  have hguard : (!imageableRange s (opd r.raw 18 0) (opd r.raw 41 20) (opd r.raw 60 42) ||
      fillTooBig s (qOf s q).tenant (opd r.raw 60 42)) = true := by simpa using hbad
  simp only [imageFillEffect, h, hp, hguard, reduceCtorEq, if_false, if_true]

section
variable (hrange : imageableRange s (opd r.raw 18 0) (opd r.raw 41 20) (opd r.raw 60 42) = true)
  (hfits : fillTooBig s (qOf s q).tenant (opd r.raw 60 42) = false) {s1 : State}
include hrange hfits

/-- An IMAGE FILL waits while the pool has no room. -/
theorem imageFillEffect_waits (hroom : makeRoom (qOf s q).tenant (opd r.raw 60 42) 16385 s = (s1, none)) :
    imageFillEffect s q = count s1 C.TIER_POOL_WAIT := by
  simp only [imageFillEffect, h, hp, hrange, hfits, hroom, reduceCtorEq, if_false, Bool.not_true, Bool.or_self, Bool.false_eq_true]

/-- An IMAGE FILL with room and a free image table entry takes both and requests the cells. -/
theorem imageFillEffect_fills {st slot i : Nat}
    (hroom : makeRoom (qOf s q).tenant (opd r.raw 60 42) 16385 s = (s1, some (st, slot))) (hfree : freeImage s1 = some i) :
    imageFillEffect s q =
      settleFill (fillCells (keepRunning (tput s1 0xA 2 i (imageEntry s1 st slot (opd r.raw 41 20) (opd r.raw 60 42)
        (qOf s q).tenant (opd r.raw 18 0) (bit (opd r.raw 191 0) 19) false false true)) q r.idx [2, i]) i) i := by
  simp only [imageFillEffect, h, hp, hrange, hfits, hroom, hfree, reduceCtorEq, if_false, Bool.not_true, Bool.or_self,
    Bool.false_eq_true]

end

end

section
variable (h : activeRun s q 4 1 = some r) (hp : r.phase = .started)
include h hp

/-- An IMAGE DROP of an index without an image, of a stream image or of one being filled is refused. -/
theorem imageDropEffect_refused
    (hbad : imValid (image s (opd r.raw 13 0)) = false ∨ imStream (image s (opd r.raw 13 0)) = true ∨
      imFilling (image s (opd r.raw 13 0)) = true) :
    imageDropEffect s q = finish s q r.idx ecDescriptor 0 0 := by
  have hguard : (!imValid (image s (opd r.raw 13 0)) || imStream (image s (opd r.raw 13 0)) ||
      imFilling (image s (opd r.raw 13 0))) = true := by simpa [or_assoc] using hbad
  simp only [imageDropEffect, h, hp, hguard, reduceCtorEq, if_false, if_true]

section
variable (hv : imValid (image s (opd r.raw 13 0)) = true) (hs : imStream (image s (opd r.raw 13 0)) = false)
  (hf : imFilling (image s (opd r.raw 13 0)) = false)
include hv hs hf

/-- An IMAGE DROP of a whole image removes a clean one, or one that is no cache. -/
theorem imageDropEffect_drops
    (hclean : imCompat (image s (opd r.raw 13 0)) = false ∨ imDirty (image s (opd r.raw 13 0)) = false) :
    imageDropEffect s q = finish (dropImage s (opd r.raw 13 0)) q r.idx 0 0 0 := by
  have hguard : (imCompat (image s (opd r.raw 13 0)) && imDirty (image s (opd r.raw 13 0))) = false :=
    Bool.and_eq_false_iff.mpr hclean
  simp only [imageDropEffect, h, hp, hv, hs, hf, hguard, reduceCtorEq, if_false, Bool.not_true, Bool.or_self, Bool.false_eq_true]

/-- An IMAGE DROP of a dirty cache writes its pages back first. -/
theorem imageDropEffect_writesBack (hc : imCompat (image s (opd r.raw 13 0)) = true)
    (hd : imDirty (image s (opd r.raw 13 0)) = true) :
    imageDropEffect s q =
      let i := opd r.raw 13 0
      settleDrop (settleBack (writeBack (keepRunning s q r.idx [3, i]) i 3) i) i := by
  simp only [imageDropEffect, h, hp, hv, hs, hf, hc, hd, reduceCtorEq, if_false, if_true, Bool.not_true, Bool.or_self,
    Bool.and_self, Bool.false_eq_true]

end

end

section
variable (h : activeRun s q 4 2 = some r)
include h

/-- An IMAGE FLUSH of what is no valid COMPAT object is refused. -/
theorem imageFlushEffect_refused
    (hbad : objValid s (opd r.raw 18 0) = false ∨ oClass (dir s (opd r.raw 18 0)) ≠ clsCompat) :
    imageFlushEffect s q = finish s q r.idx ecDescriptor 0 0 := by
  have hguard : (!objValid s (opd r.raw 18 0) || oClass (dir s (opd r.raw 18 0)) != clsCompat) = true := by simpa using hbad
  simp only [imageFlushEffect, h, hguard, if_true]

/-- An IMAGE FLUSH of a COMPAT object writes its dirty caches back. -/
theorem imageFlushEffect_starts (hp : r.phase = .started) (hv : objValid s (opd r.raw 18 0) = true)
    (hc : oClass (dir s (opd r.raw 18 0)) = clsCompat) :
    imageFlushEffect s q =
      let is := dirtyCaches s (opd r.raw 18 0)
      settleFlush (flushAll (keepRunning s q r.idx (4 :: is)) is) q { r with aux := 4 :: is } := by
  simp only [imageFlushEffect, h, hp, hv, hc, bne_self_eq_false, reduceCtorEq, if_false, Bool.not_true, Bool.or_self,
    Bool.false_eq_true]

end

section
variable (h : activeRun s q 4 3 = some r)
include h

/-- An IMAGE STREAM of a good program fills visit 0 and completes with its slot. -/
theorem imageStreamEffect_good {p : Stream} (hprog : readProgram s (opd r.raw 18 0) (qOf s q).tenant = some p) :
    imageStreamEffect s q =
      let k := r.aux.getD 1 0
      settleStream k 8 (finish (fillVisit (setStream s k (some p)) k p 0) q r.idx 0 k 0) := by
  simp only [imageStreamEffect, h, hprog]

/-- An IMAGE STREAM of a bad program frees its slot and is refused. -/
theorem imageStreamEffect_bad (hprog : readProgram s (opd r.raw 18 0) (qOf s q).tenant = none) :
    imageStreamEffect s q = finish (setStream s (r.aux.getD 1 0) none) q r.idx ecDescriptor 0 0 := by
  simp only [imageStreamEffect, h, hprog]

end

section
variable (h : activeRun s q 4 4 = some r)
include h

/-- An IMAGE STOP of a slot without a program is refused. -/
theorem imageStopEffect_empty (hk : s.streams.getD (opd r.raw 1 0) none = none) :
    imageStopEffect s q = finish s q r.idx ecDescriptor 0 0 := by
  simp only [imageStopEffect, h, hk]

/-- An IMAGE STOP drops the images of the slot's program and frees the slot. -/
theorem imageStopEffect_program {p : Stream} (hk : s.streams.getD (opd r.raw 1 0) none = some p) :
    imageStopEffect s q =
      finish (setStream (((List.range (min p.depth p.started)).flatMap fun v => slotImages s p v).foldl dropImage s)
        (opd r.raw 1 0) none) q r.idx 0 0 0 := by
  simp only [imageStopEffect, h, hk]

end

end

/-- Settles O10: each command by what it finds, in the state whose outputs are cleared. -/
theorem imageCommandsWork : Obligations.ImageCommandsWork := by
  unfold Obligations.ImageCommandsWork
  refine fun q s r => ⟨fun h hp => ?fill, fun h hp => ?drop, fun h hp => ?flush, fun h => ?stream, fun h => ?stop⟩
  case fill =>
    refine ⟨fun hbad => ?_, fun hrange hfits => ⟨fun s1 hroom => ?_, fun s1 st slot i hroom hfree => ?_⟩⟩
    · exact congrArg Host.Outcome.next (imageFillEffect_refused (s := begin s) h hp hbad)
    · exact congrArg Host.Outcome.next (imageFillEffect_waits (s := begin s) h hp hrange hfits hroom)
    · exact congrArg Host.Outcome.next (imageFillEffect_fills (s := begin s) h hp hrange hfits hroom hfree)
  case drop =>
    refine ⟨fun hbad => ?_, fun hv hs hf => ⟨fun hclean => ?_, fun hc hd => ?_⟩⟩
    · exact congrArg Host.Outcome.next (imageDropEffect_refused (s := begin s) h hp hbad)
    · exact congrArg Host.Outcome.next (imageDropEffect_drops (s := begin s) h hp hv hs hf hclean)
    · exact congrArg Host.Outcome.next (imageDropEffect_writesBack (s := begin s) h hp hv hs hf hc hd)
  case flush =>
    refine ⟨fun hbad => ?_, fun hv hc => ?_⟩
    · exact congrArg Host.Outcome.next (imageFlushEffect_refused (s := begin s) h hbad)
    · exact congrArg Host.Outcome.next (imageFlushEffect_starts (s := begin s) h hp hv hc)
  case stream =>
    refine ⟨fun p hprog => ?_, fun hprog => ?_⟩
    · exact congrArg Host.Outcome.next (imageStreamEffect_good (s := begin s) h hprog)
    · exact congrArg Host.Outcome.next (imageStreamEffect_bad (s := begin s) h hprog)
  case stop =>
    refine ⟨fun hk => ?_, fun p hk => ?_⟩
    · exact congrArg Host.Outcome.next (imageStopEffect_empty (s := begin s) h hk)
    · exact congrArg Host.Outcome.next (imageStopEffect_program (s := begin s) h hk)

end Sys2Proof.Machine
end

section
/-! PROOFS. Stream programs (R125): the next visit's fill. -/

namespace Sys2Proof.Machine

/-- A slot without a program fills no visit. -/
theorem streamVisitEffect_empty {s : State} {k : Nat} (h : s.streams.getD k none = none) : streamVisitEffect s k = s := by
  simp only [streamVisitEffect, h]

/-- A slot's program fills its next visit exactly when that is a layer and the release tally has come far enough. -/
theorem streamVisitEffect_program {s : State} {k : Nat} {p : Stream} (h : s.streams.getD k none = some p) :
    streamVisitEffect s k =
      if p.started < p.layers ∧ (p.started < p.depth ∨ p.rel0 + (p.started + 1 - p.depth) ≤ tally s p.relTally) then
        settleStream k 8 (fillVisit s k p p.started) else s := by
  have hwaits : (p.layers ≤ p.started ∨ (p.depth ≤ p.started ∧ tally s p.relTally < p.rel0 + (p.started + 1 - p.depth))) ↔
      ¬ (p.started < p.layers ∧ (p.started < p.depth ∨ p.rel0 + (p.started + 1 - p.depth) ≤ tally s p.relTally)) := by
    omega
  simp only [streamVisitEffect, h, hwaits, ite_not]

/-- Settles O11: a slot has no program, or one whose next visit is due or not. -/
theorem streamVisitFillsInOrder : Obligations.StreamVisitFillsInOrder := by
  unfold Obligations.StreamVisitFillsInOrder
  refine ⟨fun k s h => ?empty, fun k s p h => ?program⟩
  case empty => exact congrArg Host.Outcome.next (streamVisitEffect_empty (s := begin s) h)
  case program => exact congrArg Host.Outcome.next (streamVisitEffect_program (s := begin s) h)

end Sys2Proof.Machine
end

section
/-! PROOFS. Entries submitted on a table window (R101, R301, R309, R400, R514, R555): what a submission reads of the window, and how
the directory, the peer table, the group table and the remap table judge it. -/

namespace Sys2Proof.Machine

/-- An outcome's state is answered with its status. -/
theorem answered_mk (r : Req) (t : State) (st : Nat) : answered r (t, st) = trsp t r st := rfl

@[simp] theorem tableShape_begin (s : State) (page t : Nat) : tableShape (begin s) page t = tableShape s page t := rfl

@[simp] theorem selected_begin (s : State) (page : Nat) : selected (begin s) page = selected s page := rfl

/-- A submission with an entry selected drops the staged words and gives that entry as it is and as submitted. -/
theorem submission_selected {s : State} {page t i : Nat} (h : selected s page = some (t, i)) (src data : Nat) (wide : Bool) :
    submission s src page data wide =
      (dropStaged s src page, some (t, i, entryValue s page t i, submitted s src page (entryValue s page t i) data wide)) := by
  simp only [submission, h]

/-! ## Directory entries -/

section
variable {s : State} {o src data : Nat} {wide : Bool}

/-- The directory entry a submission forms: HOME_EPOCH stays the block's. -/
def dirFormed (s : State) (o src data : Nat) (wide : Bool) : Nat :=
  setBits (submitted s src 0xA (entryValue s 0xA 0 o) data wide) 255 240 (oHomeEpoch (entryValue s 0xA 0 o))

/-- The state once a directory submission has dropped its staged words, counted itself and noted the reserved bits of its entry. -/
def dirNoted (s : State) (o src data : Nat) (wide : Bool) : State :=
  noteReserved (count (dropStaged s src 0xA) C.OBJ_DIR_SUBMIT) 0xA !entryReserved (dirFormed s o src data wide)

/-- What the submitted directory entry does. -/
def dirJudged (s : State) (o src data : Nat) (wide : Bool) : State × Nat :=
  dirEffect (dirNoted s o src data wide) o (entryValue s 0xA 0 o) (dirFormed s o src data wide)

section
variable (h : selected s 0xA = some (0, o))
include h

/-- An accepted directory submission takes effect. -/
theorem dirSubmit_accepted (hw : (dirJudged s o src data wide).2 = 0) :
    dirSubmit s src data wide = ((dirJudged s o src data wide).1, 0) := by
  generalize hx : dirJudged s o src data wide = x at hw ⊢
  obtain ⟨t, w⟩ := x
  obtain rfl : w = 0 := hw
  simp only [dirJudged, dirNoted, dirFormed] at hx
  simp only [dirSubmit, submission_selected h, hx]

/-- A refused directory submission sets OBJ_STAT.DIR_REFUSED and its reason in WHY. -/
theorem dirSubmit_refused (hw : (dirJudged s o src data wide).2 ≠ 0) :
    dirSubmit s src data wide =
      (wr (wr (count (dirJudged s o src data wide).1 C.OBJ_DIR_REFUSE) R.OBJ_STAT_DIR_REFUSED 1) R.OBJ_STAT_WHY
        (dirJudged s o src data wide).2, ecDescriptor) := by
  generalize hx : dirJudged s o src data wide = x at hw ⊢
  obtain ⟨t, w⟩ := x
  simp only [dirJudged, dirNoted, dirFormed] at hx
  simp only [dirSubmit, submission_selected h, hx]

end

end

/-! ## Peer entries -/

/-- A peer entry submitted without installer rights is refused unless it changes nothing; with them it is judged. -/
theorem peerSubmit_entry {s : State} {i : Nat} (h : selected s 0x10 = some (0, i)) (src data : Nat) (wide : Bool) :
    peerSubmit s src data wide =
      let cur := entryValue s 0x10 0 i
      let v := submitted s src 0x10 cur data wide
      let s1 := noteReserved (dropStaged s src 0x10) 0x10 (bits v 127 110 != 0 || bits v 99 96 != 0)
      let new := setBits (bits v 109 0) 99 96 0
      if rightsOf s1 src &&& 2 = 0 then (if new = cur then (s1, 0) else refuseRights s1 0x10 0x10F00 src true cur new)
      else peerWrite s1 src i cur new := by
  simp only [peerSubmit, submission_selected h]

/-! ## Group entries -/

section
variable {s : State} {r : Req} {data : Nat} {wide : Bool}

/-- The group entry a submission forms. -/
def groupFormed (s : State) (r : Req) (data : Nat) (wide : Bool) : Nat :=
  submitted s r.src.toNat 0x12 (group s (selIndex (rd s R.COL_GRP_IDX))) data wide

/-- The state once a group submission has dropped its staged words and noted the reserved bits of its entry. -/
def groupNoted (s : State) (r : Req) (data : Nat) (wide : Bool) : State :=
  let new := groupFormed s r data wide
  let s0 := dropStaged s r.src.toNat 0x12
  if bits new 62 51 ≠ 0 ∨ bits new 31 28 ≠ 0 ∨ bits new 15 13 ≠ 0 then pgError s0 0x12 31 0 else s0

/-- A valid group entry whose membership is not well formed (R309). -/
def GroupMalformed (e : Nat) : Prop := grValid e = true ∧ (grN e < 2 ∨ 4096 < grN e ∨ grN e ≤ grMe e)

/-- A group submission beyond the table is answered DESCRIPTOR. -/
theorem groupSubmit_beyond (h : selTable (rd s R.COL_GRP_IDX) ≠ 0 ∨ 4096 ≤ selIndex (rd s R.COL_GRP_IDX)) :
    groupSubmit s r data wide = (dropStaged s r.src.toNat 0x12, ecDescriptor) :=
  if_pos h

section
variable (ht : selTable (rd s R.COL_GRP_IDX) = 0) (hi : selIndex (rd s R.COL_GRP_IDX) < 4096)
include ht hi

/-- A group entry in use, or not well formed, is refused. -/
theorem groupSubmit_refused
    (h : groupInUse (groupNoted s r data wide) (selIndex (rd s R.COL_GRP_IDX)) = true ∨ GroupMalformed (groupFormed s r data wide)) :
    groupSubmit s r data wide = (groupNoted s r data wide, ecDescriptor) :=
  (if_neg (by omega)).trans (if_pos h)

/-- A well-formed entry of a group not in use is stored with GSEQ 0. -/
theorem groupSubmit_stores (hfree : groupInUse (groupNoted s r data wide) (selIndex (rd s R.COL_GRP_IDX)) = false)
    (hgood : ¬ GroupMalformed (groupFormed s r data wide)) :
    groupSubmit s r data wide =
      let new := groupFormed s r data wide
      (tput (groupNoted s r data wide) 0x12 0 (selIndex (rd s R.COL_GRP_IDX)) (at' (grTag new) 64 + at' (b2n (grValid new)) 63 +
        at' (grList new) 32 + at' (grMe new) 16 + grN new), 0) :=
  (if_neg (by omega)).trans (if_neg fun h => h.elim (ne_true_of_eq_false hfree) hgood)

end

end

/-! ## Remap entries -/

section
variable {s : State} {r : Req} {data : Nat} {wide : Bool}

/-- The words a remap submission gives for an entry of a table. -/
def remapWords (s : State) (r : Req) (table data : Nat) (wide : Bool) : Nat :=
  submitted s r.src.toNat 0x16 (tget s 0x16 table (selIndex (rd s R.RMAP_TWIN_SEL))) data wide

/-- The entry of table 0 a remap submission forms: its reserved bits are ignored. -/
def remapFormed (s : State) (r : Req) (data : Nat) (wide : Bool) : Nat :=
  remapWords s r 0 data wide % 2 ^ 25 + at' (bits (remapWords s r 0 data wide) 63 61) 61

/-- The state once a submission to table 0 has dropped its staged words and noted the reserved bits of its entry. -/
def remapNoted (s : State) (r : Req) (data : Nat) (wide : Bool) : State :=
  let s0 := dropStaged s r.src.toNat 0x16
  if bits (remapWords s r 0 data wide) 60 25 ≠ 0 then pgError s0 0x16 31 0 else s0

/-- The audit entry of an installer's submission to table 0, with its status. -/
def remapAudited (s : State) (r : Req) (data : Nat) (wide : Bool) (t : State) (st : Nat) : State :=
  audit t 1 0x16F00 r.src.toNat (auditRole t r.src.toNat) st (tget s 0x16 0 (selIndex (rd s R.RMAP_TWIN_SEL)))
    (remapFormed s r data wide)

/-- Another entry of index x's stack names the range that a new entry names. -/
def rangeTaken (s : State) (x new : Nat) : Bool :=
  (List.range 8).any fun e => 8 * (x / 8) + e != x && bit (tget s 0x16 0 (8 * (x / 8) + e)) 63 &&
    bits (tget s 0x16 0 (8 * (x / 8) + e)) 24 0 == bits new 24 0

/-- The range that an entry at index x names lies in a cell of its stack that the block keeps to itself (R399). -/
def rangePrivate (s : State) (x new : Nat) : Bool := isPrivate s (x / 8) (bits new 24 0 * 4096 / cellSize)

/-- How a submission to table 0 is judged: rights, then the stage and the member's state, then the range it names. -/
theorem remapSubmit_entry (ht : selTable (rd s R.RMAP_TWIN_SEL) = 0) (hi : selIndex (rd s R.RMAP_TWIN_SEL) < 96) :
    remapSubmit s r data wide =
      let x := selIndex (rd s R.RMAP_TWIN_SEL)
      let cur := tget s 0x16 0 x
      let new := remapFormed s r data wide
      let s1 := remapNoted s r data wide
      let done := remapAudited s r data wide
      if !hasRole s1 r.src 2 then (if new = cur then (s1, 0) else refuseRights s1 0x16 0x16F00 r.src.toNat true cur new)
      else if early s1 || !isAbsent s1 then (done (pgError s1 0x16 29 0) ecDescriptor, ecDescriptor)
      else if bit new 63 && (!rangePrivate s1 x new || rangeTaken s1 x new) then (done s1 ecDescriptor, ecDescriptor)
      else (done (setMapEntry s1 0 x new) 0, 0) := by
  simp only [remapSubmit, ht]
  exact (if_neg (by omega)).trans (if_neg (by omega))

section
variable (ht : selTable (rd s R.RMAP_TWIN_SEL) = 0) (hi : selIndex (rd s R.RMAP_TWIN_SEL) < 96)
include ht hi

section
variable (hr : hasRole (remapNoted s r data wide) r.src 2 = false)
include hr

/-- Without installer rights an entry that changes nothing is answered OK. -/
theorem remapSubmit_unchanged (h : remapFormed s r data wide = tget s 0x16 0 (selIndex (rd s R.RMAP_TWIN_SEL))) :
    remapSubmit s r data wide = (remapNoted s r data wide, 0) := by
  simp only [remapSubmit_entry ht hi, hr, h, Bool.not_false, if_true]

/-- Without installer rights an entry that would change is refused for rights. -/
theorem remapSubmit_barred (h : remapFormed s r data wide ≠ tget s 0x16 0 (selIndex (rd s R.RMAP_TWIN_SEL))) :
    remapSubmit s r data wide = refuseRights (remapNoted s r data wide) 0x16 0x16F00 r.src.toNat true
      (tget s 0x16 0 (selIndex (rd s R.RMAP_TWIN_SEL))) (remapFormed s r data wide) := by
  simp only [remapSubmit_entry ht hi, hr, h, Bool.not_false, if_true, if_false]

end

section
variable (hr : hasRole (remapNoted s r data wide) r.src 2 = true)
include hr

/-- An installer's entry is refused before stage 4 and outside ABSENT. -/
theorem remapSubmit_untimely
    (h : isAbsent (remapNoted s r data wide) = false ∨ rd (remapNoted s r data wide) R.GEN_STAT_STAGE < 4) :
    remapSubmit s r data wide =
      (remapAudited s r data wide (pgError (remapNoted s r data wide) 0x16 29 0) ecDescriptor, ecDescriptor) := by
  have hguard : (early (remapNoted s r data wide) || !isAbsent (remapNoted s r data wide)) = true := by
    simpa [early, or_comm] using h
  simp only [remapSubmit_entry ht hi, hr, hguard, Bool.not_true, Bool.false_eq_true, if_true, if_false]

section
variable (ha : isAbsent (remapNoted s r data wide) = true) (hst : 4 ≤ rd (remapNoted s r data wide) R.GEN_STAT_STAGE)
include ha hst

/-- A valid entry whose range the block does not keep to itself, or that is taken by another entry of its stack, is refused. -/
theorem remapSubmit_misplaced (hv : bit (remapFormed s r data wide) 63 = true)
    (h : rangePrivate (remapNoted s r data wide) (selIndex (rd s R.RMAP_TWIN_SEL)) (remapFormed s r data wide) = false ∨
      rangeTaken (remapNoted s r data wide) (selIndex (rd s R.RMAP_TWIN_SEL)) (remapFormed s r data wide) = true) :
    remapSubmit s r data wide = (remapAudited s r data wide (remapNoted s r data wide) ecDescriptor, ecDescriptor) := by
  have hguard : (!rangePrivate (remapNoted s r data wide) (selIndex (rd s R.RMAP_TWIN_SEL)) (remapFormed s r data wide) ||
      rangeTaken (remapNoted s r data wide) (selIndex (rd s R.RMAP_TWIN_SEL)) (remapFormed s r data wide)) = true := by
    simpa using h
  have hlate : early (remapNoted s r data wide) = false := decide_eq_false (by omega)
  simp only [remapSubmit_entry ht hi, hr, hlate, ha, hv, hguard, Bool.not_true, Bool.or_self, Bool.and_self, Bool.false_eq_true,
    if_true, if_false]

/-- An invalid entry, or one whose range the block keeps to itself and that is not taken, is stored. -/
theorem remapSubmit_stores
    (h : bit (remapFormed s r data wide) 63 = false ∨
      rangePrivate (remapNoted s r data wide) (selIndex (rd s R.RMAP_TWIN_SEL)) (remapFormed s r data wide) = true ∧
      rangeTaken (remapNoted s r data wide) (selIndex (rd s R.RMAP_TWIN_SEL)) (remapFormed s r data wide) = false) :
    remapSubmit s r data wide =
      (remapAudited s r data wide (setMapEntry (remapNoted s r data wide) 0 (selIndex (rd s R.RMAP_TWIN_SEL))
        (remapFormed s r data wide)) 0, 0) := by
  have hguard : (bit (remapFormed s r data wide) 63 &&
      (!rangePrivate (remapNoted s r data wide) (selIndex (rd s R.RMAP_TWIN_SEL)) (remapFormed s r data wide) ||
        rangeTaken (remapNoted s r data wide) (selIndex (rd s R.RMAP_TWIN_SEL)) (remapFormed s r data wide))) = false := by
    rcases h with hv | ⟨hp, ht⟩
    · simp [hv]
    · simp [hp, ht]
  have hlate : early (remapNoted s r data wide) = false := decide_eq_false (by omega)
  simp only [remapSubmit_entry ht hi, hr, hlate, ha, hguard, Bool.not_true, Bool.or_self, Bool.false_eq_true, if_false]

end

end

end

/-- A submission to the relocation table only notes the reserved bits. -/
theorem remapSubmit_relocation (ht : selTable (rd s R.RMAP_TWIN_SEL) = 1) (hi : selIndex (rd s R.RMAP_TWIN_SEL) < 262144) :
    remapSubmit s r data wide =
      (noteReserved (dropStaged s r.src.toNat 0x16) 0x16 (readOnlyBad 0x16 1 (remapWords s r 1 data wide)), 0) := by
  simp only [remapSubmit, ht]
  exact if_pos ⟨trivial, hi⟩

/-- A submission beyond both tables is answered DESCRIPTOR. -/
theorem remapSubmit_beyond
    (h : (selTable (rd s R.RMAP_TWIN_SEL) = 0 ∧ 96 ≤ selIndex (rd s R.RMAP_TWIN_SEL)) ∨
      (selTable (rd s R.RMAP_TWIN_SEL) = 1 ∧ 262144 ≤ selIndex (rd s R.RMAP_TWIN_SEL)) ∨ 2 ≤ selTable (rd s R.RMAP_TWIN_SEL)) :
    remapSubmit s r data wide = (dropStaged s r.src.toNat 0x16, ecDescriptor) :=
  (if_neg (by omega)).trans (if_pos (by omega))

end

/-- Settles O54: each command is its table's submission, answered; the remap table is of an always-on page. -/
theorem entrySubmissionsAreJudged : Obligations.EntrySubmissionsAreJudged := by
  unfold Obligations.EntrySubmissionsAreJudged
  refine ⟨?directory, ?peer, ?group, ?remap, ?otherTables⟩
  case directory =>
    intro r data wide s o hs hsel cur new s1
    have hexec : exec (.directorySubmit r data wide) s = .next (answered r (dirSubmit (begin s) r.src.toNat data.toNat wide)) :=
      congrArg Host.Outcome.next (answered_unheld (s := begin s) r _ hs)
    have hjudged : dirEffect s1 o cur new = dirJudged (begin s) o r.src.toNat data.toNat wide := rfl
    have hsel1 : selected (begin s) 0xA = some (0, o) := (selected_begin s _).trans hsel
    rw [hexec, hjudged]
    refine ⟨fun h => ?_, fun h => ?_⟩
    · rw [dirSubmit_accepted hsel1 h, answered_mk]
    · rw [dirSubmit_refused hsel1 h, answered_mk]
  case peer =>
    intro r data wide s i hs hsel cur v s1 new
    have hexec : exec (.peerEntryWrite r data wide) s = .next (answered r (peerSubmit (begin s) r.src.toNat data.toNat wide)) :=
      congrArg Host.Outcome.next (answered_unheld (s := begin s) r _ hs)
    rw [hexec, peerSubmit_entry ((selected_begin s _).trans hsel)]
    refine ⟨fun h => ?_, fun h hsame => ?_, fun h hnew => ?_⟩
    · exact congrArg (Host.Outcome.next ∘ answered r) (if_neg h)
    · exact congrArg (Host.Outcome.next ∘ answered r) ((if_pos h).trans (if_pos hsame))
    · exact congrArg (Host.Outcome.next ∘ answered r) ((if_pos h).trans (if_neg hnew))
  case group =>
    intro r data wide s hs
    have hexec : exec (.groupSubmit r data wide) s = .next (answered r (groupSubmit (begin s) r data.toNat wide)) :=
      congrArg Host.Outcome.next (answered_unheld (s := begin s) r _ hs)
    rw [hexec]
    refine ⟨fun h => ?_, fun ht hi h => ?_, fun ht hi hfree hgood => ?_⟩
    · exact congrArg (Host.Outcome.next ∘ answered r) (groupSubmit_beyond (s := begin s) h)
    · exact congrArg (Host.Outcome.next ∘ answered r) (groupSubmit_refused (s := begin s) ht hi h)
    · exact congrArg (Host.Outcome.next ∘ answered r) (groupSubmit_stores (s := begin s) ht hi hfree hgood)
  case remap =>
    intro r data wide s sel x cur v new s0 s1 done twice ht hi
    have hexec : exec (.remapEntrySubmit r data wide) s = .next (answered r (remapSubmit (begin s) r data.toNat wide)) := rfl
    have hcur : cur = tget (begin s) 0x16 0 x := rfl
    have hnew : new = remapFormed (begin s) r data.toNat wide := rfl
    have hs1 : s1 = remapNoted (begin s) r data.toNat wide := rfl
    have hdone : done = remapAudited (begin s) r data.toNat wide := rfl
    have hpriv : isPrivate s1 (x / 8) (bits new 24 0 * 4096 / cellSize) = rangePrivate s1 x new := rfl
    have htwice : twice = rangeTaken s1 x new := rfl
    rw [hexec, hpriv, htwice, hdone, hcur, hs1, hnew]
    refine ⟨fun hr h => ?_, fun hr h => ?_, fun hr h => ?_, fun hr ha hst hv h => ?_, fun hr ha hst h => ?_⟩
    · rw [remapSubmit_unchanged (s := begin s) ht hi hr h, answered_mk]
    · rw [remapSubmit_barred (s := begin s) ht hi hr h]
      rfl
    · rw [remapSubmit_untimely (s := begin s) ht hi hr h, answered_mk]
    · rw [remapSubmit_misplaced (s := begin s) ht hi hr ha hst hv h, answered_mk]
    · rw [remapSubmit_stores (s := begin s) ht hi hr ha hst h, answered_mk]
      rfl
  case otherTables =>
    intro r data wide s sel s0 v
    refine ⟨fun ht hi => ?_, fun h => ?_⟩
    · exact congrArg (Host.Outcome.next ∘ answered r) (remapSubmit_relocation (s := begin s) ht hi)
    · exact congrArg (Host.Outcome.next ∘ answered r) (remapSubmit_beyond (s := begin s) h)

end Sys2Proof.Machine
end

section
/-! PROOFS. Doorbells (R133, R134): which value becomes the producer index of a queue, and what a rejected one leaves. -/

namespace Sys2Proof.Machine

section
variable {s : State} {q v : Nat}

/-- What a rejected doorbell leaves: DB_BAD, the count and a unit-error record. -/
def doorbellRejected (s : State) (q v : Nat) : State :=
  unitError (count (setQ s q { qOf s q with dbBad := true }) (C.QUE_DB_BAD q)) ecDescriptor 6 q (v + at' (qOf s q).db 32)

/-- What a taken doorbell leaves: the new producer index, and the sequencer domain woken for an enabled queue. -/
def doorbellTaken (s : State) (q v : Nat) : State :=
  let s1 := setQ s q { qOf s q with db := v, dbBad := false }
  if (qOf s q).en then wakeDomain s1 0 else s1

/-- A value is in the ring when it lies at most the ring's size ahead of the retire index. -/
def InRing (x : Queue) (v : Nat) : Prop := (v + 2 ^ 32 - x.ret) % 2 ^ 32 ≤ 2 ^ x.size

/-- A value is greater than another exactly when it lies less than 2^31 ahead (R133). -/
theorem serialGt_iff (a b : Nat) :
    serialGt a b = true ↔ 0 < (a + 2 ^ 32 - b) % 2 ^ 32 ∧ (a + 2 ^ 32 - b) % 2 ^ 32 < 2 ^ 31 := by
  simp [serialGt]

/-- A value is not greater than another exactly when it lies nowhere or at least 2^31 ahead. -/
theorem serialGt_eq_false_iff (a b : Nat) :
    serialGt a b = false ↔ (a + 2 ^ 32 - b) % 2 ^ 32 = 0 ∨ 2 ^ 31 ≤ (a + 2 ^ 32 - b) % 2 ^ 32 := by
  rw [← Bool.not_eq_true, serialGt_iff]
  omega

/-- No value is ahead of itself. -/
theorem serialGt_self (a : Nat) : serialGt a a = false := by
  simp [serialGt]

/-- A queue without a ring rejects every value. -/
theorem doorbell_sizeless (h : (qOf s q).size < 6 ∨ 16 < (qOf s q).size) : doorbell s q v = doorbellRejected s q v :=
  if_pos h

section
variable (hlo : 6 ≤ (qOf s q).size) (hhi : (qOf s q).size ≤ 16)
include hlo hhi

/-- The value in force changes nothing. -/
theorem doorbell_same (h : v = (qOf s q).db) : doorbell s q v = s :=
  (if_neg (by omega)).trans (if_pos h)

/-- A value ahead of the one in force and within the ring is taken. -/
theorem doorbell_ahead (hgt : serialGt v (qOf s q).db = true) (hin : InRing (qOf s q) v) : doorbell s q v = doorbellTaken s q v := by
  have hne : v ≠ (qOf s q).db := by
    intro h
    rw [← h, serialGt_self] at hgt
    exact Bool.false_ne_true hgt
  exact (if_neg (by omega)).trans ((if_neg hne).trans (if_pos (by simpa [hgt, InRing] using hin)))

/-- Any other value is rejected. -/
theorem doorbell_astray (hne : v ≠ (qOf s q).db) (h : serialGt v (qOf s q).db = false ∨ ¬ InRing (qOf s q) v) :
    doorbell s q v = doorbellRejected s q v := by
  have hbad : ¬ (serialGt v (qOf s q).db && decide ((v + 2 ^ 32 - (qOf s q).ret) % 2 ^ 32 ≤ 2 ^ (qOf s q).size)) = true := by
    intro hgood
    rw [Bool.and_eq_true, decide_eq_true_eq] at hgood
    exact h.elim (fun hgt => by simp [hgood.1] at hgt) (fun hin => hin hgood.2)
  exact (if_neg (by omega)).trans ((if_neg hne).trans (if_neg hbad))

end

end

/-- Settles O51: the write is a doorbell's answer, and a doorbell is judged by the queue's size, its value in force and its ring. -/
theorem doorbellsMoveTheProducerIndex : Obligations.DoorbellsMoveTheProducerIndex := by
  unfold Obligations.DoorbellsMoveTheProducerIndex
  intro r q v s hs x rejected
  have hexec {t : State} (h : doorbell (begin s) q v.toNat = t) : exec (.queDb r q v) s = .next (trsp t r 0) :=
    congrArg Host.Outcome.next ((answered_unheld (s := begin s) r _ hs).trans (congrArg (trsp · r 0) h))
  refine ⟨fun hsize => hexec (doorbell_sizeless hsize),
    fun hlo hhi => ⟨fun hsame => ?_, fun h0 h31 hring => ?_, fun hne hbad => ?_⟩⟩
  · exact hexec (doorbell_same (s := begin s) hlo hhi hsame)
  · exact hexec (doorbell_ahead (s := begin s) hlo hhi ((serialGt_iff _ _).2 ⟨h0, h31⟩) hring)
  · exact hexec (doorbell_astray (s := begin s) hlo hhi hne
      ((or_assoc.2 hbad).imp (serialGt_eq_false_iff _ _).2 Nat.not_le.2))

end Sys2Proof.Machine
end

section
/-! PROOFS. Commands that end at their first step (R138, R144), and DRAW (R139). -/

namespace Sys2Proof.Machine

section
variable {s : State} {q : Nat} {r : Run}

theorem nopEffect_active (h : activeRun s q 0 0 = some r) : nopEffect s q = finish s q r.idx 0 0 0 := by
  simp only [nopEffect, h]

theorem tallyAddEffect_active (h : activeRun s q 0x11 0 = some r) :
    tallyAddEffect s q = finish (tallyAdd s (opd r.raw 7 0) (opd r.raw 127 64)) q r.idx 0 0 0 := by
  simp only [tallyAddEffect, h]

theorem tallySetEffect_active (h : activeRun s q 0x11 1 = some r) :
    tallySetEffect s q =
      finish { s with tallyVal := put s.tallyVal (opd r.raw 7 0) (opd r.raw 127 64) } q r.idx 0 0 0 := by
  simp only [tallySetEffect, h]

theorem tallyClearEffect_active (h : activeRun s q 0x11 2 = some r) :
    tallyClearEffect s q = finish { s with tallyCode := put s.tallyCode (opd r.raw 7 0) 0 } q r.idx 0 0 0 := by
  simp only [tallyClearEffect, h]

end

/-- Settles O1, from the effect of each command that has started. -/
theorem nopAndTallyTakeEffect : Obligations.NopAndTallyTakeEffect := by
  unfold Obligations.NopAndTallyTakeEffect
  intro q s r
  refine ⟨fun h => ?nop, fun h => ?add, fun h => ?set, fun h => ?clear⟩
  case nop => exact congrArg Host.Outcome.next (nopEffect_active (s := begin s) h)
  case add => exact congrArg Host.Outcome.next (tallyAddEffect_active (s := begin s) h)
  case set => exact congrArg Host.Outcome.next (tallySetEffect_active (s := begin s) h)
  case clear => exact congrArg Host.Outcome.next (tallyClearEffect_active (s := begin s) h)

section
variable {s : State} {q : Nat} {r : Run} {uni : Bool}

/-- A DRAW of no words, or of an object that keys no generator, fails. -/
theorem drawEffect_refused (hr : activeRun s q 0x10 (b2n uni) = some r) (hp : r.phase = .started)
    (h : opd r.raw 97 82 = 0 ∨ (seedObjs s).contains (opd r.raw 18 0) = false) :
    drawEffect s q uni = finish s q r.idx ecDescriptor 0 0 := by
  have hguard : opd r.raw 97 82 = 0 ∨ (!(seedObjs s).contains (opd r.raw 18 0)) = true := h.imp_right (congrArg (!·))
  simp only [drawEffect, hr, hp, reduceCtorEq, if_false]
  exact if_pos hguard

/-- A DRAW of a seed object's words writes them, and its completion waits. -/
theorem drawEffect_writes (hr : activeRun s q 0x10 (b2n uni) = some r) (hp : r.phase = .started)
    (hn : opd r.raw 97 82 ≠ 0) (ho : (seedObjs s).contains (opd r.raw 18 0) = true) :
    drawEffect s q uni = drawWrites (keepRunning s q r.idx [1]) q r.idx r.raw (drawWords (leBytes 32 (r.aux.getD 1 0)) r.raw uni) := by
  have hguard : ¬ (opd r.raw 97 82 = 0 ∨ (!(seedObjs s).contains (opd r.raw 18 0)) = true) := by
    rw [ho]
    exact not_or.2 ⟨hn, Bool.false_ne_true⟩
  simp only [drawEffect, hr, hp, reduceCtorEq, if_false]
  exact if_neg hguard

end

/-- Both DRAW commands are DRAW, with and without the conversion to uniform numbers. -/
theorem exec_draw (uni : Bool) (q : Fin 16) (s : State) :
    exec (if uni then .drawUniform q else .drawRaw q) s = .next (drawEffect (begin s) q uni) := by
  cases uni <;> rfl

/-- Settles O2, from what a DRAW that has started does. -/
theorem drawWritesItsWords : Obligations.DrawWritesItsWords := by
  unfold Obligations.DrawWritesItsWords
  intro q s r uni hr hp
  rw [exec_draw]
  exact ⟨fun h => congrArg Host.Outcome.next (drawEffect_refused (s := begin s) hr hp h),
    fun hn ho => congrArg Host.Outcome.next (drawEffect_writes (s := begin s) hr hp hn ho)⟩

end Sys2Proof.Machine
end

section
/-! PROOFS. Queues read after writes: a queue of the block reads what was written to it. -/

namespace Sys2Proof.Machine

section
variable {s : State} {q : Nat}

/-- A queue that holds anything is one of the block's. -/
theorem queue_lt_of_ne_empty (h : qOf s q ≠ Queue.empty) : q < s.queues.length :=
  Nat.lt_of_not_le fun hge => h (List.getD_eq_default _ _ hge)

/-- A queue of the block reads what was written to it. -/
theorem qOf_setQ_self (hq : q < s.queues.length) (x : Queue) : qOf (setQ s q x) q = x := by
  simp [qOf, setQ, hq]

end

end Sys2Proof.Machine
end

section
/-! PROOFS. The fetch of commands (R132): the read that goes out, and the commands that its good answer brings. -/

namespace Sys2Proof.Machine

/-- The commands a fetch of n slots from index h on finds in its 256 bytes. -/
def fetchedRuns (data : Bytes) (h n : Nat) : List Run :=
  (List.range n).map fun i => newRun (leAt data (64 * ((h + i) % 4)) 64) ((h + i) % 2 ^ 32)

section
variable {s : State} {q : Nat}

/-- QUEUE_FETCH fetches for the first queue from the round-robin pointer on that may fetch, and moves the pointer behind it. -/
theorem queueFetchEffect_next {k : Nat} (h : (List.range 16).find? (fun k => canFetch (qOf s ((s.seq.rr + k) % 16))) = some k) :
    queueFetchEffect s =
      { fetchQ s ((s.seq.rr + k) % 16) with seq := { s.seq with rr := ((s.seq.rr + k) % 16 + 1) % 16 } } := by
  simp only [queueFetchEffect, h]

/-- A command that is not a CAP is taken without a note (R113). -/
theorem noteFetched_other {r : Run} (h : opcodeOf r.raw ≠ 5) : noteFetched s q r = s :=
  if_neg fun hcap => h hcap.1

/-- Commands without a CAP among them are taken without a note. -/
theorem notesFetched_other {rs : List Run} (h : ∀ r ∈ rs, opcodeOf r.raw ≠ 5) :
    rs.foldl (fun s r => noteFetched s q r) s = s := by
  induction rs with
  | nil => rfl
  | cons r rs ih =>
    rw [List.foldl_cons, noteFetched_other (h r List.mem_cons_self)]
    exact ih fun x hx => h x (List.mem_cons_of_mem r hx)

/-- No fetched command is a CAP when no slot holds one. -/
theorem fetchedRuns_other {data : Bytes} {h n : Nat} (hop : ∀ i, i < n → opcodeOf (leAt data (64 * ((h + i) % 4)) 64) ≠ 5) :
    ∀ r ∈ fetchedRuns data h n, opcodeOf r.raw ≠ 5 := by
  intro r hr
  obtain ⟨i, hi, rfl⟩ := List.mem_map.1 hr
  exact hop i (List.mem_range.1 hi)

/-- On a queue that no ABORT runs the fetched commands enter in slot order, and HEAD passes them. -/
theorem takeCmds_enter {data : Bytes} {h n : Nat} (hf : (qOf s q).fetching = some (h, n)) (ha : (qOf s q).abortTo = none)
    (hop : ∀ i, i < n → opcodeOf (leAt data (64 * ((h + i) % 4)) 64) ≠ 5) :
    takeCmds s q data = setQ s q { qOf s q with
      head := (h + n) % 2 ^ 32, fetching := none, cmds := (qOf s q).cmds ++ fetchedRuns data h n } := by
  have hnote (t : State) : (fetchedRuns data h n).foldl (fun s r => noteFetched s q r) t = t :=
    notesFetched_other (fetchedRuns_other hop)
  have hq : q < s.queues.length := queue_lt_of_ne_empty fun h => by simp [h, Queue.empty] at hf
  have hab (x : Queue) (hx : x.abortTo = none) : (qOf (setQ s q x) q).abortTo.isSome = false := by
    rw [qOf_setQ_self hq, hx]
    rfl
  simp only [takeCmds, hf, ha, Option.isSome_none, Bool.false_eq_true, if_false, reduceCtorEq]
  rw [← fetchedRuns, hnote, hab _ rfl, Bool.and_false]
  rfl

/-- The good answer of a fetch frees its read and brings its commands. -/
theorem queueFetchDataEffect_good {tag : Nat} {r : HostRead}
    (hr : s.host.reads.find? (fun r => r.issued && r.tag == tag && decide (16 ≤ r.queue)) = some r) (hq : r.queue = 16 + q)
    (data : Bytes) :
    queueFetchDataEffect s tag 0 data =
      takeCmds (setHost s { s.host with reads := s.host.reads.filter fun y => !(y.issued && y.tag == tag) }) q data := by
  simp only [queueFetchDataEffect, hr, hq, Nat.add_sub_cancel_left, if_true]

end

/-- Settles O3, from the fetch that goes out and from what its good answer brings. -/
theorem queueFetchTakesCommands : Obligations.QueueFetchTakesCommands := by
  unfold Obligations.QueueFetchTakesCommands
  refine ⟨?fetch, ?data⟩
  case fetch =>
    rintro s k q hk rfl
    exact congrArg Host.Outcome.next (queueFetchEffect_next (s := begin s) hk)
  case data =>
    intro s tag data r q h n hr hq hf ha hop
    refine congrArg (fun t => Host.Outcome.next (drainChecks t)) ?_
    exact (queueFetchDataEffect_good (s := begin s) hr hq data).trans (takeCmds_enter hf ha hop)

end Sys2Proof.Machine
end

section
/-! PROOFS. Retirement (R135, R143): a complete command's record, its signal, and its leave of the queue. -/

namespace Sys2Proof.Machine

section
variable {s : State} {q : Nat} {r : Run} {rest : List Run}

/-- The state once a retiring command has signalled its counter (R143): one more, or the error code. -/
def signalled (s : State) (r : Run) : State :=
  if sigEnOf r.raw = true ∧ r.noRecord = false then
    (if r.err ≠ 0 ∨ r.cancelled = true then tallyFail s (sigTallyOf r.raw) r.err else tallyAdd s (sigTallyOf r.raw) 1)
  else s

/-- A signal changes no queue and no register. -/
theorem signalled_frame (s : State) (r : Run) : (signalled s r).queues = s.queues ∧ (signalled s r).regs = s.regs := by
  unfold signalled tallyFail
  split_ifs <;> exact ⟨rfl, rfl⟩

/-- A command that retires signals, leaves the queue and advances RETIRE; at the doorbell it ends an ABORT. -/
theorem retire_eq (h : (qOf s q).cmds = r :: rest) :
    retire s q r =
      let s1 := setQ (signalled s r) q { qOf s q with cmds := rest, ret := ((qOf s q).ret + 1) % 2 ^ 32 }
      if ((qOf s q).ret + 1) % 2 ^ 32 = (qOf s q).db ∧ rdb s (R.QUE_CTRL_ABORT q) = true then wr s1 (R.QUE_CTRL_ABORT q) 0
      else s1 := by
  obtain ⟨hqueues, hregs⟩ := signalled_frame s r
  have hq : q < (signalled s r).queues.length := hqueues ▸ queue_lt_of_ne_empty fun he => by simp [he, Queue.empty] at h
  have hqueue : qOf (signalled s r) q = qOf s q := congrArg (·.getD q Queue.empty) hqueues
  have hread (x : Queue) : rdb (setQ (signalled s r) q x) (R.QUE_CTRL_ABORT q) = rdb s (R.QUE_CTRL_ABORT q) :=
    congrArg (get · (R.QUE_CTRL_ABORT q) != 0) hregs
  have hsig : retire s q r =
      let x := qOf (signalled s r) q
      let s1 := setQ (signalled s r) q { x with cmds := x.cmds.drop 1, ret := (x.ret + 1) % 2 ^ 32 }
      if (qOf s1 q).ret = x.db ∧ rdb s1 (R.QUE_CTRL_ABORT q) = true then wr s1 (R.QUE_CTRL_ABORT q) 0 else s1 := by
    simp [retire, signalled]
  simp only [hsig, qOf_setQ_self hq, hread, hqueue, h, List.drop_one, List.tail_cons]

/-- A complete command that needs a record and has none posts it. -/
theorem commandRetireEffect_posts (h : (qOf s q).cmds = r :: rest) (hd : r.phase = .done) (hn : needsRecord r = true)
    (hp : r.posted = 0) :
    commandRetireEffect s q = postRec (modRun s q r.idx fun x => { x with posted := 1 }) (completionRec s q r) := by
  simp [commandRetireEffect, h, hd, hn, hp]

/-- A complete command that needs no record, or whose record is written, retires. -/
theorem commandRetireEffect_retires (h : (qOf s q).cmds = r :: rest) (hd : r.phase = .done)
    (hp : needsRecord r = false ∨ r.posted = 2) : commandRetireEffect s q = retire s q r := by
  rcases hp with hp | hp
  · simp [commandRetireEffect, h, hd, hp]
  · simp [commandRetireEffect, h, hd, hp]

end

/-- Settles O5, from what COMMAND_RETIRE does with a complete command before and after its record. -/
theorem retireInOrderWithRecordAndSignal : Obligations.RetireInOrderWithRecordAndSignal := by
  unfold Obligations.RetireInOrderWithRecordAndSignal
  intro q s r rest h hd
  refine ⟨fun hn hp => ?_, fun hp => ?_⟩
  · exact congrArg Host.Outcome.next (commandRetireEffect_posts (s := begin s) h hd hn hp)
  · exact congrArg Host.Outcome.next ((commandRetireEffect_retires (s := begin s) h hd hp).trans (retire_eq h))

end Sys2Proof.Machine
end

section
/-! PROOFS. The event ring (R148 to R152): the write of the oldest record, and what its acknowledgement does. -/

namespace Sys2Proof.Machine

section
variable {s : State} {r : EvRec}

/-- With none being written and room in the ring, the oldest record is written. -/
theorem eventPostEffect_writes {t : List EvRec} (hw : s.ev.writing = none) (hb : s.ev.buf = r :: t) (hf : ringFree s ≠ 0) :
    eventPostEffect s = hostStore { s with ev := { s.ev with buf := t, writing := some (r, 0) } } 16 0
      (rd s R.EVT_BASE * 4096 + 32 * (rd s R.EVT_PROD % 2 ^ rd s R.EVT_SIZE)) (recBytes r (phaseAt s))
      (if rdb s R.GEN_STRAP_HFP_W128 then 2 ^ 32 - 1 - 4 else 2 ^ 32 - 1) := by
  simp only [eventPostEffect, hw, hb]
  exact if_neg hf

/-- The state without the writes of the event ring. -/
def recordFreed (s : State) : State :=
  setHost s { s.host with writes := s.host.writes.filter fun w => w.queue != 16 }

/-- The answer of a record's write: an error loses the record, the first good one of a generation-2 record lets byte 2 follow, the last
good one ends it. -/
theorem eventAckEffect_writing {n : Nat} (hw : s.ev.writing = some (r, n))
    (hi : s.host.writes.any (fun w => w.queue == 16 && w.issued) = true) (stat : Nat) :
    eventAckEffect s stat =
      if stat ≠ 0 then recordDone (recordFreed s) r false
      else if rdb s R.GEN_STRAP_HFP_W128 = true ∧ n = 0 then
        hostStore { recordFreed s with ev := { s.ev with writing := some (r, 1) } } 16 0
          (rd s R.EVT_BASE * 4096 + 32 * (rd s R.EVT_PROD % 2 ^ rd s R.EVT_SIZE)) (recBytes r (phaseAt s)) 4
      else recordDone (recordFreed s) r true := by
  have hout : ¬ (s.host.writes.all fun w => !(w.queue == 16 && w.issued)) = true := by
    rw [List.all_eq_not_any_not]
    simpa using hi
  simp only [eventAckEffect, hw]
  exact if_neg hout

end

/-- Settles O6, from the write of the oldest record and from its acknowledgement. -/
theorem eventRecordsReachTheRing : Obligations.EventRecordsReachTheRing := by
  unfold Obligations.EventRecordsReachTheRing
  refine ⟨?post, ?ack, fun _ => rfl⟩
  case post =>
    intro s r t hw hb hf
    exact congrArg Host.Outcome.next (eventPostEffect_writes (s := begin s) hw hb hf)
  case ack =>
    intro s r n stat hw hi s1 s2 s3 s4
    have hack := eventAckEffect_writing (s := begin s) hw hi stat.toNat
    refine ⟨fun hbad => ?error, fun hgood hg2 hn => ?first, fun hgood hlast => ?last⟩
    case error =>
      have hstat : stat.toNat ≠ 0 := by simpa [BitVec.toNat_eq] using hbad
      exact congrArg Host.Outcome.next (hack.trans (if_pos hstat))
    case first =>
      subst hgood
      exact congrArg Host.Outcome.next (hack.trans ((if_neg (not_not.2 rfl)).trans (if_pos (show _ ∧ _ from ⟨hg2, hn⟩))))
    case last =>
      subst hgood
      have hends : ¬ (rdb (begin s) R.GEN_STRAP_HFP_W128 = true ∧ n = 0) := by
        rintro ⟨hg2, hn⟩
        exact hlast.elim (fun h => absurd hg2 (ne_true_of_eq_false h)) (fun h => h hn)
      exact congrArg Host.Outcome.next (hack.trans ((if_neg (not_not.2 rfl)).trans (if_neg hends)))

end Sys2Proof.Machine
end

section
/-! PROOFS. What STEP RUN, REPLAY and the loads fetch first (R153, R162, R438). -/

namespace Sys2Proof.Machine

section
variable {s : State} {q : Nat} {r : Run} (hp : r.phase = .started)
include hp

/-- A STEP RUN that has started asks for its bindings. -/
theorem stepRunEffect_fetches (hr : activeRun s q 1 0 = some r) :
    stepRunEffect s q = hostFetch (keepRunning s q r.idx [20]) q r.idx (opd r.raw 109 64 * 64) (8 * opd r.raw 117 112) := by
  simp only [stepRunEffect, hr, hp, reduceCtorEq, if_false]

/-- A load that has started asks for the header of its image. -/
theorem loadEffect_fetches {ucode : Bool} (hr : activeRun s q 1 (if ucode then 2 else 1) = some r) :
    loadEffect s q ucode = hostFetch (keepRunning s q r.idx [10]) q r.idx (opd r.raw 45 0 * 64) 64 := by
  simp only [loadEffect, hr, hp, reduceCtorEq, if_false]

/-- A REPLAY that has started asks for its images, outside any job and with images to run; another fails. -/
theorem replayEffect_judged {t : Nat} (hr : activeRun s q 0x0E 0 = some r) (ht : threadOf s q r.idx = some t) :
    replayEffect s q =
      if isAbsent s = false ∨ opd r.raw 127 112 = 0 then finish (setThread s t Thread.idle) q r.idx ecDescriptor 0 0
      else hostFetch (keepRunning s q r.idx [30]) q r.idx (opd r.raw 109 64 * 64) (64 * opd r.raw 127 112) := by
  simp only [replayEffect, hr, hp, ht, reduceCtorEq, if_false, Bool.not_eq_true']

end

/-- Settles O7, from what each of the four asks for. -/
theorem stepFetchesItsBindings : Obligations.StepFetchesItsBindings := by
  unfold Obligations.StepFetchesItsBindings
  intro q s r hp
  refine ⟨fun hr => ?run, fun t hr ht => ?replay, fun hr => ?table, fun hr => ?ucode⟩
  case run => exact congrArg Host.Outcome.next (stepRunEffect_fetches (s := begin s) hp hr)
  case replay =>
    have hexec := replayEffect_judged (s := begin s) hp hr ht
    refine ⟨fun ha hn => congrArg Host.Outcome.next (hexec.trans (if_neg ?_)),
      fun hbad => congrArg Host.Outcome.next (hexec.trans (if_pos hbad))⟩
    exact not_or.2 ⟨ne_false_of_eq_true ha, hn⟩
  case table => exact congrArg Host.Outcome.next (loadEffect_fetches (s := begin s) (ucode := false) hp hr)
  case ucode => exact congrArg Host.Outcome.next (loadEffect_fetches (s := begin s) (ucode := true) hp hr)

end Sys2Proof.Machine
end

section
/-! PROOFS. Rows (R154, R158, R268): how a thread enters the row it stands at, and how an iteration ends. -/

namespace Sys2Proof.Machine

/-! ## Entry -/

/-- The state once a thread has visited the row it stands at: its first iteration is next, and the writes it waits for are noted. -/
def rowVisited (s : State) (t : Nat) : State :=
  setThread (visit s t) t
    { thread (visit s t) t with iter := 0, leaves := [], got := false, prior := outWrites (visit s t) t }

/-- The state with a thread's row entered. -/
def rowEntered (s : State) (t : Nat) : State := setThread s t { thread s t with entered := true }

/-- The state once the row of thread x has noted the set it forms (R229). -/
def rowFormed (s : State) (t : Nat) (x : Thread) : State := noteFormed s (rowCtx s t).pace.e x.epoch x.replay

/-- A row forms a set: an update row by a code of its chain, a root row by STAT. -/
def rowForms (s : State) (x : Thread) (row unit : Nat) : Bool :=
  match unit with
  | 1 => (chCodes (chainOf s x row)).any fun c => decide (17 ≤ c) && decide (c < 25)
  | 2 => rwUop row == 1
  | _ => false

/-- What a visit of thread x's row becomes, by its unit. -/
def rowEnteredBy (v : State) (t : Nat) (x : Thread) (row unit : Nat) : State :=
  let formed := if rowForms v x row unit then rowFormed v t x else v
  match unit with
  | 0 => rowDone v t
  | 1 => if rowOk v t then rowEntered formed t else rowRefuse v t
  | 2 => if rootRowOk v t then rowEntered formed t else rowRefuse v t
  | _ => rowEntered v t

/-- A row that is checked is entered, with the set it forms noted, or refused. -/
theorem enteredOrRefused (ok forms : Bool) (v f : State) (t : Nat) :
    (if ok then rowEntered (if forms then f else v) t else rowRefuse v t) =
      if ok = false then rowRefuse v t else if forms = true then rowEntered f t else rowEntered v t := by
  cases ok
  · rfl
  · cases forms <;> rfl

/-- A thread stands at a row that it may enter (R154). -/
structure MayEnter (s : State) (t : Nat) : Prop where
  busy : (thread s t).busy = true
  bound : (thread s t).bound = true
  running : (thread s t).ended = false
  outside : (thread s t).entered = false
  slots : slotsBound (curRow s (thread s t)) (thread s t).binds.length = true
  single : rwRep (curRow s (thread s t)) = false
  wait : rowWait s (thread s t) (curRow s (thread s t)) = (0, true)

section
variable {s : State} {t : Nat} (h : MayEnter s t)
include h

/-- A row that may be entered, whose scratch ranges are free and whose intake, if it is of the intake, has started, is visited. -/
theorem rowEnterEffect_enters {u : State} (hfree : rwUnit (curRow s (thread s t)) = 1 → scratchBusy s t = false)
    (hstart : (if rwUnit (curRow s (thread s t)) = 3 then intakeStart s t else (s, .done)) = (u, .done)) :
    rowEnterEffect s t =
      rowEnteredBy (rowVisited u t) t (thread s t) (curRow s (thread s t)) (rwUnit (curRow s (thread s t))) := by
  have hstands : ¬ (!(thread s t).busy || !(thread s t).bound || (thread s t).ended || (thread s t).entered) = true := by
    simp [h.busy, h.bound, h.running, h.outside]
  have hslots : ¬ (!slotsBound (curRow s (thread s t)) (thread s t).binds.length) = true := by simp [h.slots]
  have hsingle : ¬ rwRep (curRow s (thread s t)) = true := by simp [h.single]
  have herror : ¬ (rowWait s (thread s t) (curRow s (thread s t))).1 ≠ 0 := by simp [h.wait]
  have hmet : ¬ (!(rowWait s (thread s t) (curRow s (thread s t))).2) = true := by simp [h.wait]
  have hscratch : ¬ (rwUnit (curRow s (thread s t)) = 1 ∧ slotsBound (curRow s (thread s t)) (thread s t).binds.length = true ∧
      scratchBusy s t = true) := by
    rintro ⟨hu, -, hbusy⟩
    simp [hfree hu] at hbusy
  refine (if_neg hstands).trans ((if_neg hslots).trans ((if_neg hsingle).trans
    ((if_neg herror).trans ((if_neg hmet).trans ((if_neg hscratch).trans ?_)))))
  rw [hstart]
  rfl

/-- A row of no unit, of the update engine or of the root unit is visited at once. -/
theorem rowEnterEffect_outside (hu : rwUnit (curRow s (thread s t)) ≠ 3)
    (hfree : rwUnit (curRow s (thread s t)) = 1 → scratchBusy s t = false) :
    rowEnterEffect s t =
      rowEnteredBy (rowVisited s t) t (thread s t) (curRow s (thread s t)) (rwUnit (curRow s (thread s t))) :=
  rowEnterEffect_enters h hfree (if_neg hu)

/-- A row with no unit is complete at once. -/
theorem rowEnterEffect_none (hu : rwUnit (curRow s (thread s t)) = 0) : rowEnterEffect s t = rowDone (rowVisited s t) t := by
  rw [rowEnterEffect_outside h (by omega) (by omega), hu]
  rfl

/-- A row of the update engine whose scratch ranges are free is checked, and entered or refused. -/
theorem rowEnterEffect_update (hu : rwUnit (curRow s (thread s t)) = 1) (hfree : scratchBusy s t = false) :
    rowEnterEffect s t =
      if rowOk (rowVisited s t) t = false then rowRefuse (rowVisited s t) t
      else if ((chCodes (chainOf s (thread s t) (curRow s (thread s t)))).any fun c => decide (17 ≤ c) && decide (c < 25)) = true then
        rowEntered (rowFormed (rowVisited s t) t (thread s t)) t
      else rowEntered (rowVisited s t) t := by
  rw [rowEnterEffect_outside h (by omega) (fun _ => hfree), hu]
  exact enteredOrRefused _ _ _ _ t

/-- A row of the root unit is checked, and entered or refused. -/
theorem rowEnterEffect_root (hu : rwUnit (curRow s (thread s t)) = 2) :
    rowEnterEffect s t =
      if rootRowOk (rowVisited s t) t = false then rowRefuse (rowVisited s t) t
      else if rwUop (curRow s (thread s t)) = 1 then rowEntered (rowFormed (rowVisited s t) t (thread s t)) t
      else rowEntered (rowVisited s t) t := by
  rw [rowEnterEffect_outside h (by omega) (by omega), hu]
  have hforms : (rwUop (curRow s (thread s t)) = 1) = ((rwUop (curRow s (thread s t)) == 1) = true) := by simp
  simp only [hforms]
  exact enteredOrRefused _ _ _ _ t

/-- A row of the intake that could start is entered. -/
theorem rowEnterEffect_intake {u : State} (hu : rwUnit (curRow s (thread s t)) = 3) (hstart : intakeStart s t = (u, .done)) :
    rowEnterEffect s t = rowEntered (rowVisited u t) t := by
  rw [rowEnterEffect_enters h (by omega) ((if_pos hu).trans hstart), hu]
  rfl

end

/-! ## Iterations -/

section
variable {work : State × IterEnd} {t : Nat}

/-- The state once an iteration is done: the thread stands at the next one. -/
def iterDone (s : State) (t : Nat) : State := setThread s t { thread s t with iter := (thread s t).iter + 1, got := false }

theorem iterEnd_wait (h : work.2 = .wait) : iterEnd work t = work.1 := by
  simp only [iterEnd, h]

theorem iterEnd_fail {code : Nat} (h : work.2 = .fail code) : iterEnd work t = settleThread (failThread work.1 t code) t := by
  simp only [iterEnd, h]

/-- A good iteration leads to the next one, or the row is done. -/
theorem iterEnd_done (h : work.2 = .done) :
    iterEnd work t =
      if (thread work.1 t).iter + 1 < rwLoop (curRow (iterDone work.1 t) (thread work.1 t)) then iterDone work.1 t
      else rowDone (iterDone work.1 t) t := by
  simp only [iterEnd, h]
  rfl

end

/-- A thread is within a row of a unit and an operation. -/
structure WithinRow (s : State) (t u op : Nat) : Prop where
  busy : (thread s t).busy = true
  entered : (thread s t).entered = true
  running : (thread s t).ended = false
  unit : rwUnit (curRow s (thread s t)) = u
  uop : rwUop (curRow s (thread s t)) = op

/-- Within a row nothing keeps its iteration from running. -/
theorem WithinRow.runs {s : State} {t u op : Nat} (h : WithinRow s t u op) :
    ¬ (!(thread s t).busy || !(thread s t).entered || (thread s t).ended || rwUnit (curRow s (thread s t)) != u ||
      rwUop (curRow s (thread s t)) != op) = true := by
  simp [h.busy, h.entered, h.running, h.unit, h.uop]

section
variable {s : State} {t : Nat}

theorem runIter_update {op : Nat} (h : WithinRow s t 1 op) :
    runIter s t 1 op = iterEnd (iterate s t (thread s t).iter) t := if_neg h.runs

theorem runIter_root {op : Nat} (h : WithinRow s t 2 op) :
    runIter s t 2 op = iterEnd (rootRow s t (thread s t).iter) t := if_neg h.runs

theorem runIter_accDense (h : WithinRow s t 3 1) : runIter s t 3 1 = iterEnd (accDense s t (thread s t).iter) t := if_neg h.runs

theorem runIter_accList (h : WithinRow s t 3 2) : runIter s t 3 2 = iterEnd (accList s t) t := if_neg h.runs

theorem runIter_drain (h : WithinRow s t 3 3) : runIter s t 3 3 = iterEnd (drainRowOp s t) t := if_neg h.runs

theorem runIter_commit (h : WithinRow s t 3 4) : runIter s t 3 4 = iterEnd (commitOp s t) t := if_neg h.runs

end

/-- LOG_RESERVATION tries the row again that the thread is within. -/
theorem exec_logReservation {s : State} {t : Fin 8} {u op : Nat} (h : WithinRow (begin s) t u op) :
    exec (.logReservation t) s = .next (runIter (begin s) t u op) := by
  rw [← h.unit, ← h.uop]
  rfl

/-- Settles O8, from how a row is entered by its unit, and from how an iteration of each unit ends. -/
theorem rowsEnterAndIterate : Obligations.RowsEnterAndIterate := by
  unfold Obligations.RowsEnterAndIterate
  refine ⟨?enter, ?iterate⟩
  case enter =>
    intro t s hb hbd he hn row hslots hrep hwait at0 enter form s1
    have h : MayEnter (begin s) t := ⟨hb, hbd, he, hn, hslots, hrep, hwait⟩
    refine ⟨fun hu => ?_, fun hu hfree => ?_, fun hu => ?_, fun u hu hstart => ?_⟩
    · exact congrArg Host.Outcome.next (rowEnterEffect_none h hu)
    · exact congrArg Host.Outcome.next (rowEnterEffect_update h hu hfree)
    · exact congrArg Host.Outcome.next (rowEnterEffect_root h hu)
    · exact congrArg Host.Outcome.next (rowEnterEffect_intake h hu hstart)
  case iterate =>
    intro t s u op c work hwork hb he hn hu hop
    have h : WithinRow (begin s) t u op := ⟨hb, he, hn, hu, hop⟩
    have hlog (hc : c = .logReservation t) : exec c s = .next (runIter (begin s) t u op) := hc ▸ exec_logReservation h
    have hexec : exec c s = .next (iterEnd work t) := by
      obtain ⟨rfl, hc, rfl⟩ | ⟨rfl, hc, rfl⟩ | ⟨rfl, hc⟩ := hwork
      case inl =>
        refine Eq.trans ?_ (congrArg Host.Outcome.next (runIter_update h))
        obtain ⟨rfl, rfl⟩ | ⟨rfl, rfl⟩ | ⟨rfl, rfl⟩ | hc := hc
        · rfl
        · rfl
        · rfl
        · exact hlog hc
      case inr.inl =>
        refine Eq.trans ?_ (congrArg Host.Outcome.next (runIter_root h))
        obtain ⟨rfl, rfl⟩ | ⟨rfl, rfl⟩ | hc := hc
        · rfl
        · rfl
        · exact hlog hc
      case inr.inr =>
        obtain ⟨rfl, hc, rfl⟩ | ⟨rfl, hc, rfl⟩ | ⟨rfl, hc, rfl⟩ | ⟨rfl, hc, rfl⟩ := hc
        · exact (hc.elim (fun hc => hc ▸ rfl) hlog).trans (congrArg Host.Outcome.next (runIter_accDense h))
        · exact (hc.elim (fun hc => hc ▸ rfl) hlog).trans (congrArg Host.Outcome.next (runIter_accList h))
        · exact (hc.elim (fun hc => hc ▸ rfl) hlog).trans (congrArg Host.Outcome.next (runIter_drain h))
        · exact (hc.elim (fun hc => hc ▸ rfl) hlog).trans (congrArg Host.Outcome.next (runIter_commit h))
    rw [hexec]
    refine ⟨fun hw => ?_, fun code hw => ?_, fun hw hmore => ?_, fun hw hlast => ?_⟩
    · exact congrArg Host.Outcome.next (iterEnd_wait hw)
    · exact congrArg Host.Outcome.next (iterEnd_fail hw)
    · exact congrArg Host.Outcome.next ((iterEnd_done hw).trans (if_pos hmore))
    · exact congrArg Host.Outcome.next ((iterEnd_done hw).trans (if_neg (Nat.not_lt.2 hlast)))

end Sys2Proof.Machine
end

section
/-! PROOFS. ROLLBACK (R147, R363 to R365): its start and its undo, the agreement of the tree, and the wait for a cap. -/

namespace Sys2Proof.Machine

/-- A ROLLBACK as it begins to run. -/
def rbBegun (q : Nat) (r : Run) : RbRun :=
  { queue := q, idx := r.idx, target := opd r.raw 47 0, reason := opd r.raw 55 48, newest := opd r.raw 47 0 + 2, undone := false,
    told := false }

section
variable {s : State} {q : Nat} {r : Run}

/-- A ROLLBACK that runs goes on; one that has started begins to run first. -/
theorem rollbackEffect_active (h : activeRun s q 9 0 = some r) :
    rollbackEffect s q = rbAdvance (if r.phase = .running then s
      else setComb (keepRunning s q r.idx [opd r.raw 47 0]) { s.comb with rb := some (rbBegun q r) }) := by
  simp only [rollbackEffect, h]
  split <;> rfl

/-- A ROLLBACK or a SEAL that waits for its cap fails when the wait is over. -/
theorem capWaitTimeout_waiting (hen : (qOf s q).en = true) (hr : oldestUnstarted (qOf s q) = some r)
    (hop : opcodeOf r.raw = 9 ∨ opcodeOf r.raw = 6) (hcap : capped s < opd r.raw 47 0) (hj : judge s q r = .wait) :
    capWaitTimeout s q = finish s q r.idx ecDescriptor 0 0 := by
  simp only [capWaitTimeout, hen, hr, if_true]
  exact if_pos ⟨hop, hcap, hj⟩

end

section
variable {s : State} {x : RbRun}

/-- RB_DONE of a peer that the list does not hold is dropped. -/
theorem rbDoneIn_unlisted {p : Nat} (body : Bytes) (hp : peerIdx s p = none) : rbDoneIn s p body = s := by
  simp only [rbDoneIn, hp]

/-- What the RB_DONE of the member at position y says (R365). -/
def rbDoneOf (y : Nat) (body : Bytes) : RbDone :=
  { target := bits (leAt body 0 16) 127 80, child := y, covered := bits (leAt body 0 16) 79 48,
    missing := idxList (body.drop 16) ((body.length - 16) / 2) }

/-- RB_DONE of a listed member takes the place of its earlier one, and the ROLLBACK goes on. -/
theorem rbDoneIn_listed {p y : Nat} (body : Bytes) (hp : peerIdx s p = some y) :
    rbDoneIn s p body = rbSettle (setComb s { s.comb with rbDone :=
      (s.comb.rbDone.filter fun z => !(z.target == (rbDoneOf y body).target && z.child == y)) ++ [rbDoneOf y body] }) := by
  simp only [rbDoneIn, hp]
  rfl

/-- RB_ANN of the target of an undone ROLLBACK is forwarded and completes it. -/
theorem rbAnnIn_target {body : Bytes} (hx : s.comb.rb = some x) (hu : x.undone = true)
    (ht : bits (leAt body 0 16) 127 80 = x.target) : rbAnnIn s body = rbAnnounce s x := by
  simp [rbAnnIn, hx, hu, ht]

/-- Any other RB_ANN is dropped. -/
theorem rbAnnIn_other {body : Bytes}
    (h : ∀ r, s.comb.rb = some r → r.undone = false ∨ bits (leAt body 0 16) 127 80 ≠ r.target) : rbAnnIn s body = s := by
  unfold rbAnnIn
  split
  next => rfl
  next r hr =>
    refine if_neg ?_
    rcases h r hr with hu | ht
    · simp [hu]
    · simp [ht]

theorem rbTimeout_none (h : s.comb.rb = none) : rbTimeout s = s := by
  simp only [rbTimeout, h]

/-- Who is missing of a ROLLBACK: children that have not reported, and those whom the reports name (R365). -/
def rbMissing (s : State) (x : RbRun) : List Nat :=
  (((childrenOf s (ownIdx s)).filter fun y => !(s.comb.rbDone.any fun d => d.target == x.target && d.child == y)) ++
    (s.comb.rbDone.filter fun d => d.target == x.target).flatMap (·.missing)).eraseDups

/-- The time-out of an undone ROLLBACK tells who is missing: at the root the driver, elsewhere the parent. -/
theorem rbTimeout_running (h : s.comb.rb = some x) :
    rbTimeout s = if x.undone = false ∨ rbMissing s x = [] then s
      else if amRoot s = true then
        unitError s ecRemoteDead 0x0E x.target ((rbMissing s x).foldl min 0x3FFF + at' (rbMissing s x).length 16)
      else toParent s 3 (membMsg 6 (ownIdx s) 0
        (1 + ((s.comb.rbDone.filter fun d => d.target == x.target).map (·.covered)).sum) x.target (idxBytes (rbMissing s x))) := by
  have hguard : (x.undone = false ∨ rbMissing s x = []) = ((!x.undone || rbMissing s x == []) = true) := by simp
  simp only [rbTimeout, h, hguard]
  rfl

end

/-- Settles O26, clause by clause from what starts, runs, reports and times out. -/
theorem rollbackCancelsUndoesAndAgrees : Obligations.RollbackCancelsUndoesAndAgrees := by
  unfold Obligations.RollbackCancelsUndoesAndAgrees
  refine ⟨fun _ _ => rfl, ?run, fun _ _ => rfl, ?unlisted, ?done, ?announced, ?dropped, ?idle, ?timeout, ?capWait⟩
  case run =>
    intro q s r hr target run s1 s2
    exact congrArg Host.Outcome.next (rollbackEffect_active (s := begin s) hr)
  case unlisted =>
    intro p body s hp
    exact congrArg Host.Outcome.next (rbDoneIn_unlisted (s := begin s) body hp)
  case done =>
    intro p body s y hp v d
    exact congrArg Host.Outcome.next (rbDoneIn_listed (s := begin s) body hp)
  case announced =>
    intro body s r hr hu ht
    exact congrArg Host.Outcome.next (rbAnnIn_target (s := begin s) hr hu ht)
  case dropped =>
    intro body s h
    exact congrArg Host.Outcome.next (rbAnnIn_other (s := begin s) h)
  case idle =>
    intro s h
    exact congrArg Host.Outcome.next (rbTimeout_none (s := begin s) h)
  case timeout =>
    intro s r h mine gone
    have hgone : rbMissing (begin s) r = gone := by
      simp only [rbMissing, childrenOf_begin]
      rfl
    refine congrArg Host.Outcome.next ((rbTimeout_running (s := begin s) h).trans ?_)
    rw [hgone]
    rfl
  case capWait =>
    intro q s r hen hr hop hcap hj
    exact congrArg Host.Outcome.next (capWaitTimeout_waiting (s := begin s) hen hr hop hcap hj)

end Sys2Proof.Machine
end

section
/-! PROOFS. The fast domains (R249, R453 to R455): what a wake, a ramp step and a ramp-down step do to a domain, by its phase. -/

namespace Sys2Proof.Machine

/-- No work wakes fast domain d: the fast domains are held in reset, its slice stays gated, or stage 2 is not reached. -/
abbrev WakeBarred (s : State) (d : Nat) : Prop :=
  s.chip.held = true ∨ sliceAbsent s d = true ∨ rd s R.GEN_STAT_STAGE < 2

/-- A current step of domain d may begin: PWR_GOOD is high, the PLL is locked, and the domain wakes or ramps (R454, R456). -/
abbrev MayRamp (s : State) (d : Nat) : Prop :=
  s.chip.pwrGood = true ∧ rd s (pllKey (pllOf d)) = 2 ∧ ((domain s d).phase = 1 ∨ (domain s d).phase = 2)

section
variable {s : State} {d : Nat}

/-- The guard of DOMAIN_WAKE as the model computes it. -/
theorem wakeBarred_iff :
    (s.chip.held || sliceAbsent s d || decide (rd s R.GEN_STAT_STAGE < 2)) = true ↔ WakeBarred s d := by
  simp only [WakeBarred, Bool.or_eq_true, decide_eq_true_eq, or_assoc]

/-- The guard of RAMP_STEP as the model computes it. -/
theorem not_mayRamp_iff :
    (!s.chip.pwrGood || rd s (pllKey (pllOf d)) != 2 || !((domain s d).phase == 1 || (domain s d).phase == 2)) = true ↔
      ¬ MayRamp s d := by
  simp only [MayRamp, Bool.or_eq_true, Bool.not_eq_true', bne_iff_ne, Bool.or_eq_false_iff, beq_eq_false_iff_ne, not_and_or,
    not_or, Bool.not_eq_true, or_assoc]

/-! ## Waking -/

theorem wakeDomain_barred (h : WakeBarred s d) : wakeDomain s d = s := if_pos (wakeBarred_iff.2 h)

/-- A domain that is awake or waking is left as it is. -/
theorem wakeDomain_up (h0 : (domain s d).phase ≠ 0) (h4 : (domain s d).phase ≠ 4) : wakeDomain s d = s := by
  by_cases hb : WakeBarred s d
  · exact wakeDomain_barred hb
  · exact (if_neg (mt wakeBarred_iff.1 hb)).trans ((if_neg h4).trans (if_pos h0))

/-- A ramp-down is turned round at the step it had reached. -/
theorem wakeDomain_turns (hb : ¬ WakeBarred s d) (h4 : (domain s d).phase = 4) :
    wakeDomain s d = setDomain s d { domain s d with phase := if (domain s d).steps = 8 then 3 else 2 } :=
  (if_neg (mt wakeBarred_iff.1 hb)).trans (if_pos h4)

/-- A gated domain starts a wake, which is warm where its PLL is locked; a PLL that is off starts to lock. -/
theorem wakeDomain_starts (hb : ¬ WakeBarred s d) (h0 : (domain s d).phase = 0) :
    wakeDomain s d =
      let k := pllOf d
      let s1 := count s (if rd s (pllKey k) = 2 then C.PWR_WAKE_WARM else C.PWR_WAKE_COLD)
      setDomain (if rd s (pllKey k) = 0 then setPll s1 k 1 0 else s1) d { phase := 1, steps := 0, live := false } := by
  have h4 : (domain s d).phase ≠ 4 := by omega
  exact (if_neg (mt wakeBarred_iff.1 hb)).trans ((if_neg h4).trans (if_neg (not_not_intro h0)))

/-! ## Ramping -/

theorem rampStep_steps (h : MayRamp s d) :
    rampStep s d = setDomain s d (if 7 ≤ (domain s d).steps then { domain s d with phase := 3, steps := 8 }
      else { domain s d with phase := 2, steps := (domain s d).steps + 1 }) :=
  (if_neg fun hg => not_mayRamp_iff.1 hg h).trans (apply_ite (setDomain s d) _ _ _).symm

theorem rampStep_waits (h : ¬ MayRamp s d) : rampStep s d = s := if_pos (not_mayRamp_iff.2 h)

end

/-- Settles O43, from what a wake and a ramp step do by the domain's phase; the other commands are their definitions on the state
whose outputs are cleared, which reads as the one before. -/
theorem domainsRampUpAndDown : Obligations.DomainsRampUpAndDown := by
  unfold Obligations.DomainsRampUpAndDown
  refine ⟨?wake, ?ramp, fun _ _ => rfl, fun _ => rfl, fun _ _ => rfl, fun _ _ => rfl, ?filler⟩
  case wake =>
    intro d s barred
    refine ⟨?still, fun hb h4 => congrArg Host.Outcome.next (wakeDomain_turns (s := begin s) hb h4),
      fun hb h0 => congrArg Host.Outcome.next (wakeDomain_starts (s := begin s) hb h0)⟩
    rintro (hb | ⟨h0, h4⟩)
    · exact congrArg Host.Outcome.next (wakeDomain_barred (s := begin s) hb)
    · exact congrArg Host.Outcome.next (wakeDomain_up (s := begin s) h0 h4)
  case ramp =>
    intro d s ready
    exact ⟨fun h => congrArg Host.Outcome.next (rampStep_steps (s := begin s) h),
      fun h => congrArg Host.Outcome.next (rampStep_waits (s := begin s) h)⟩
  case filler =>
    intro cycles s s1
    have hdom : domain s1 13 = domain s 13 := by
      unfold s1
      split
      · rfl
      · rfl
    rw [← hdom]
    rfl

end Sys2Proof.Machine
end

section
/-! PROOFS. ROOT (R239, R244, R245): its refusal, the loss of its requests, and the end of a run through its statistics. -/

namespace Sys2Proof.Machine

/-! ## What the start of a ROOT leaves of the registers -/

section
variable {s : State} {k : Nat}

theorem rd_setPll_ne {j : Nat} (st n : Nat) (h : k ≠ pllKey j) : rd (setPll s j st n) k = rd s k := rd_wr_ne _ st h

theorem rd_setDomain_ne (d : Nat) (x : Domain) (h : k ≠ R.PWR_DOM) : rd (setDomain s d x) k = rd s k := rd_wr_ne _ _ h

/-- A wake changes no register but PWR_DOM and the state of the domain's PLL. -/
theorem rd_wakeDomain_ne {d : Nat} (hdom : k ≠ R.PWR_DOM) (hpll : k ≠ pllKey (pllOf d)) : rd (wakeDomain s d) k = rd s k := by
  by_cases hb : WakeBarred s d
  · rw [wakeDomain_barred hb]
  by_cases h0 : (domain s d).phase = 0
  · rw [wakeDomain_starts hb h0]
    refine (rd_setDomain_ne d _ hdom).trans ?_
    split
    · exact rd_setPll_ne 1 0 hpll
    · rfl
  by_cases h4 : (domain s d).phase = 4
  · rw [wakeDomain_turns hb h4]
    exact rd_setDomain_ne d _ hdom
  · rw [wakeDomain_up h0 h4]

/-- The formation of scalars changes no register. -/
@[simp] theorem rd_noteFormed (d e : Nat) (replay : Bool) : rd (noteFormed s d e replay) k = rd s k := by
  unfold noteFormed
  split
  · rfl
  · rfl

end

/-! ## A run of a ROOT -/

/-- The state in which a ROOT goes through its statistics: at its start the root domain wakes and the scalars are formed once. -/
def rootBegun (s : State) (r : Run) : State :=
  if r.phase == .started then rootForm (wakeDomain s 13) r.raw false else s

/-- Where a ROOT goes on: at its first statistic, with the warning level of its start, or where it waited. -/
def rootFrom (s : State) (r : Run) : RootPos := if r.phase == .started then RootPos.fresh s else RootPos.ofAux r.aux

/-- A ROOT's run through the statistics it has left. -/
def rootRun (s : State) (r : Run) : State × RootPos × IterEnd :=
  rootGo r.raw false ((rootStats (rootBegun s r) r.raw false).drop (rootFrom s r).k) (rootFrom s r) (rootBegun s r)

/-- A ROOT may run: it has started with good operands, or it runs. -/
abbrev RootRuns (s : State) (r : Run) : Prop := r.phase = .started ∧ rootOk s r.raw false = true ∨ r.phase = .running

/-- The warning level that a ROOT starts with is the one that stood before its root domain woke. -/
theorem rootFresh_rootForm (s : State) (raw : Nat) : RootPos.fresh (rootForm (wakeDomain s 13) raw false) = RootPos.fresh s := by
  have hwarn : rd (rootForm (wakeDomain s 13) raw false) R.ROOT_RESID_WARN = rd s R.ROOT_RESID_WARN :=
    (rd_noteFormed _ _ _).trans (rd_wakeDomain_ne (by decide) (by decide))
  simp only [RootPos.fresh, hwarn]

/-- The position a run begins at, as ROOT reads it in the state that has begun. -/
theorem rootFrom_rootBegun (s : State) (r : Run) :
    (if r.phase == .started then RootPos.fresh (rootBegun s r) else RootPos.ofAux r.aux) = rootFrom s r := by
  unfold rootFrom rootBegun
  split
  · exact rootFresh_rootForm s r.raw
  · rfl

/-- The end of a run that has come to g: complete when all is done and its writes are acknowledged, kept while it must wait, or
failed. -/
def rootEnded (q : Nat) (r : Run) (g : State × RootPos × IterEnd) : State :=
  match g.2.2 with
  | .done =>
    if writesAcked g.1 rootOwner then finish (rootReport g.1 g.2.1) q r.idx 0 (g.2.1.worst + at' g.2.1.place 32) g.2.1.above
    else keepRunning g.1 q r.idx g.2.1.aux
  | .wait => keepRunning g.1 q r.idx g.2.1.aux
  | .fail c => finish (rootFree g.1) q r.idx c 0 0

section
variable {q : Nat} {r : Run} {g : State × RootPos × IterEnd}

theorem rootEnded_done (h : g.2.2 = .done) (hw : writesAcked g.1 rootOwner = true) :
    rootEnded q r g = finish (rootReport g.1 g.2.1) q r.idx 0 (g.2.1.worst + at' g.2.1.place 32) g.2.1.above := by
  simp only [rootEnded, h, hw, if_true]

/-- A run whose writes are out, or that must wait for cells, keeps its place. -/
theorem rootEnded_keeps (h : g.2.2 = .done ∧ writesAcked g.1 rootOwner = false ∨ g.2.2 = .wait) :
    rootEnded q r g = keepRunning g.1 q r.idx g.2.1.aux := by
  obtain ⟨hd, hw⟩ | hwait := h
  · simp only [rootEnded, hd, hw, Bool.false_eq_true, if_false]
  · simp only [rootEnded, hwait]

theorem rootEnded_fails {c : Nat} (h : g.2.2 = .fail c) : rootEnded q r g = finish (rootFree g.1) q r.idx c 0 0 := by
  simp only [rootEnded, h]

end

section
variable {s : State} {q : Nat} {r : Run} (h : activeRun s q 0x0F 0 = some r)
include h

/-- A started ROOT whose operands are refused fails with DESCRIPTOR. -/
theorem rootEffect_refused (hp : r.phase = .started) (hok : rootOk s r.raw false = false) :
    rootEffect s q = finish (rootFree (rootRefuse s r.raw false)) q r.idx ecDescriptor 0 0 := by
  simp [rootEffect, h, hp, hok]

/-- A ROOT that may run loses its requests at ports out of service and fails, or goes through its statistics. -/
theorem rootEffect_runs (hr : RootRuns s r) :
    rootEffect s q =
      if rootOut s then finish (rootFree (rootOffOut s)) q r.idx 0x0D 0 0 else rootEnded q r (rootRun s r) := by
  have hgood : ¬ (r.phase == .started && !rootOk s r.raw false) = true := by
    obtain ⟨-, hok⟩ | hp := hr
    · simp [hok]
    · simp [hp]
  unfold rootRun
  rw [← rootFrom_rootBegun]
  simp only [rootEffect, h]
  exact if_neg hgood

end

/-- Settles O20, from the refusal, the loss of requests, and the end of the run; the whole of it is followed by the drain checks. -/
theorem rootRunsItsRange : Obligations.RootRunsItsRange := by
  unfold Obligations.RootRunsItsRange
  intro q s r h
  have exec_of {t : State} (ht : rootEffect (begin s) q = t) : exec (.root q none) s = .next (drainChecks t) :=
    congrArg (fun t => Host.Outcome.next (drainChecks t)) ht
  refine ⟨fun hp hok => exec_of (rootEffect_refused (s := begin s) h hp hok), fun hr => ⟨?out, ?run⟩, fun _ => rfl⟩
  case out =>
    exact fun hout => exec_of ((rootEffect_runs (s := begin s) h hr).trans (if_pos hout))
  case run =>
    intro hout fresh s1 p0 g p
    have hend : rootEffect (begin s) q = rootEnded q r g :=
      (rootEffect_runs (s := begin s) h hr).trans (if_neg (ne_true_of_eq_false hout))
    exact ⟨fun hd hw => exec_of (hend.trans (rootEnded_done hd hw)), fun hk => exec_of (hend.trans (rootEnded_keeps hk)),
      fun c hc => exec_of (hend.trans (rootEnded_fails hc))⟩

end Sys2Proof.Machine
end

section
/-! PROOFS. The drain of segments (R271 to R277, R298): what is sent, what an acknowledgement raises, and what is sent again. -/

namespace Sys2Proof.Machine

/-! ## Sending (R271, R273) -/

/-- The segments of a slice's stream that DRAIN_SEND may send, oldest first: own ones of uncapped epochs that have passed every
read-back so far. -/
abbrev drainable (s : State) (sl : Nat) : List Seg :=
  s.cod.segs.filter fun g => g.own && segStream g == sl && decide (capped s < g.epoch) && !segBad s g

/-- The holders whose turn a segment is and whose grant covers its epoch. -/
abbrev grantedHolders (s : State) (g : Seg) : List (Nat × Nat × Nat) :=
  (dueHolders s g).filter fun h => decide (g.epoch ≤ grantFrom s h.1)

section
variable {s : State} {sl : Nat}

/-- The oldest segment that some holder may have now is read back: a good one goes to those holders, a bad one is given up. -/
theorem drainSendEffect_oldest {g : Seg} (h : ((drainable s sl).find? fun g => grantedHolders s g != []) = some g) :
    drainSendEffect s sl = if segOk (segBytes s g) then
        (grantedHolders s g).foldl (fun t h => sendSeg t g h (segBytes s g)) (markSent s g (grantedHolders s g))
      else backFails s g := by
  simp only [drainSendEffect, h]

/-- With no segment to send, one that waits for a grant counts a cycle. -/
theorem drainSendEffect_none (h : ((drainable s sl).find? fun g => grantedHolders s g != []) = none) :
    drainSendEffect s sl =
      if (drainable s sl).any fun g => dueHolders s g != [] then count s C.COD_GRANT_WAIT else s := by
  simp only [drainSendEffect, h]

end

/-! ## Acknowledgements (R275, R298) -/

/-- A holder's grant is noted from its acknowledgement. -/
def noteGrant (s : State) (r : Nat) (body : Bytes) : State :=
  setCod s { s.cod with granted := put s.cod.granted r (bits (leAt body 0 32) 143 96 + 1) }

/-- An acknowledgement fits a stream, as the model tests it: it names the stream's slice, its epoch and its attempt, which is in work,
and a segment that the holder has been sent and has not acknowledged. -/
abbrev ackFits (s : State) (r : Nat) (body : Bytes) (o : DrainOut) : Bool :=
  o.slice == bits (leAt body 0 32) 51 48 && o.epoch == bits (leAt body 0 32) 47 0 && o.attempt == bits (leAt body 0 32) 63 56 &&
    o.attempt == attemptOf s o.epoch && decide (get o.acked r < bits (leAt body 0 32) 95 64 + 1) &&
    decide (bits (leAt body 0 32) 95 64 + 1 ≤ get o.sent r)

/-- The streams that an acknowledgement fits, the own rank's before the kept ones' (notes/assumptions/47). -/
def fittingOuts (s : State) (r : Nat) (body : Bytes) : List DrainOut :=
  let os := s.cod.outs.filter (ackFits s r body)
  (os.filter fun o => o.src == cmbRank s) ++ os.filter fun o => o.src != cmbRank s

/-- An acknowledgement counts for the first stream that it fits. -/
def ackFirst (s : State) (r : Nat) (body : Bytes) : State :=
  match fittingOuts s r body with
  | o :: _ => ackRise s o r (bits (leAt body 0 32) 95 64 + 1)
  | [] => s

theorem fittingOuts_single {s : State} {r : Nat} {body : Bytes} {o : DrainOut} (hone : s.cod.outs = [o])
    (hfit : ackFits s r body o = true) : fittingOuts s r body = [o] := by
  have hos : [o].filter (ackFits s r body) = [o] := List.filter_cons_of_pos hfit
  unfold fittingOuts
  rw [hone, hos]
  by_cases hown : o.src = cmbRank s
  · simp [hown]
  · simp [hown]

theorem ackRise_rises {s : State} {o : DrainOut} {r n : Nat} (h : get o.acked r < n) :
    ackRise s o r n = setOut s { o with acked := put o.acked r n, tries := put o.tries r 0 } := if_pos h

/-- An acknowledgement that fits the one stream there is raises what its holder has acknowledged of it. -/
theorem ackFirst_single {s : State} {r : Nat} {body : Bytes} {o : DrainOut} (hone : s.cod.outs = [o])
    (hfit : ackFits s r body o = true) (hun : get o.acked r < bits (leAt body 0 32) 95 64 + 1) :
    ackFirst s r body =
      setOut s { o with acked := put o.acked r (bits (leAt body 0 32) 95 64 + 1), tries := put o.tries r 0 } := by
  simp only [ackFirst, fittingOuts_single hone hfit, ackRise_rises hun]

/-- DRAIN_ACK of a holder notes its grant, and unless it tells only that, counts for the stream it fits. -/
theorem drainAckIn_holder {s : State} {p r : Nat} (body : Bytes) (hr : peerHolder s p = some r) :
    drainAckIn s p body =
      if bit (leAt body 0 32) 144 then noteGrant s r body else ackFirst (noteGrant s r body) r body := by
  simp only [drainAckIn, hr]
  rfl

/-- A stream with durable segments that have not been told is acknowledged: to the member itself as keeper, else to its sender. -/
theorem ackStream_due {s : State} {i : DrainIn} (h : i.told < durable s i) :
    ackStream s i =
      let t := setIn s { i with told := durable s i, waits := i.waits.filter fun w => decide (durable s i ≤ w.1) }
      if ownStream t i then ackRise t (outOf t i.rank i.slice i.epoch) (cmbRank t) (durable s i)
      else sendMsg t i.peer 8 0 (ackMsg i.epoch i.slice i.attempt (durable s i - 1) (grantOf t) false) :=
  if_neg (Nat.ne_zero_of_lt h)

/-- The stream that DRAIN_ACK_TIMER acknowledges: at its attempt in work, with durable segments that have not been told. -/
abbrev untoldStream (s : State) (rank sl e : Nat) : Option DrainIn :=
  s.cod.ins.find? fun i => i.rank == rank && i.slice == sl && i.epoch == e && i.attempt == attemptOf s e &&
    decide (i.told < durable s i)

section
variable {s : State} {rank sl e : Nat}

theorem ackTimerEffect_none (h : untoldStream s rank sl e = none) : ackTimerEffect s rank sl e = s := by
  simp only [ackTimerEffect, h]

theorem ackTimerEffect_some {i : DrainIn} (h : untoldStream s rank sl e = some i) :
    ackTimerEffect s rank sl e = ackStream s i := by
  simp only [ackTimerEffect, h]

/-- What the stream found by the timer has durable goes beyond what it has told. -/
theorem told_lt_durable {i : DrainIn} (h : untoldStream s rank sl e = some i) : i.told < durable s i := by
  have hp := List.find?_some h
  simp only [Bool.and_eq_true, decide_eq_true_eq] at hp
  exact hp.2

end

/-- V2_DRAIN_ACK of a rank of the comb: the segments whose messages all lie at or below MSEQ are acknowledged and let go. -/
theorem v2AckIn_rank {s : State} {p r : Nat} (e mseq : Nat) (h : peerRank s p = some r) :
    v2AckIn s p e mseq =
      let got := s.cod.v2segs.filter fun v => v.holder == r && v.epoch == e && decide (v.first + v.n ≤ mseq + 1)
      got.foldl (fun t v => ackRise t (outOf t v.src v.slice e) r (v.seq + 1))
        (setCod s { s.cod with v2segs := s.cod.v2segs.filter fun v => !got.contains v }) := by
  simp only [v2AckIn, h]

/-! ## Sending again (R276, R357) -/

/-- The holders that lag in a stream: they have been sent more than they have acknowledged. -/
abbrev lateHolders (s : State) (o : DrainOut) : List Nat :=
  (List.range 16 ++ mirrorHolders s).filter fun r => decide (get o.acked r < get o.sent r)

/-- The stream with one more try for each holder that lags. -/
abbrev retried (s : State) (o : DrainOut) : DrainOut :=
  { o with tries := (lateHolders s o).foldl (fun m r => put m r (get m r + 1)) o.tries }

section
variable {s : State} {src sl e : Nat}

theorem drainResendEffect_none (h : lateHolders s (outOf s src sl e) = []) : drainResendEffect s src sl e = s := if_pos h

theorem drainResendEffect_late (h : lateHolders s (outOf s src sl e) ≠ []) :
    drainResendEffect s src sl e =
      let o := retried s (outOf s src sl e)
      let late := lateHolders s (outOf s src sl e)
      (late.filter fun r => get o.tries r % 4 == 0).foldl (fun t r => match holderIdx t r with
        | some x => faultReport t x 3
        | none => t)
      (late.foldl (fun t r => resendTo t o r) (count (setOut s o) C.COD_DRAIN_RESEND)) := if_neg h

end

/-- Settles O22, clause by clause from what is sent, acknowledged and sent again; the state whose outputs are cleared reads as the one
before. -/
theorem drainSendsAndAcknowledges : Obligations.DrainSendsAndAcknowledges := by
  unfold Obligations.DrainSendsAndAcknowledges
  refine ⟨?send, fun _ _ _ => ⟨rfl, rfl⟩, ?ack, ?timer, ?resend, ?v2, fun _ => rfl⟩
  case send =>
    intro sl s mine ok
    refine ⟨fun g hg => ?_, fun hnone => congrArg Host.Outcome.next (drainSendEffect_none (s := begin s) hnone)⟩
    have hsend := drainSendEffect_oldest (s := begin s) hg
    exact ⟨fun hok => congrArg Host.Outcome.next (hsend.trans (if_pos hok)),
      fun hbad => congrArg Host.Outcome.next (hsend.trans (if_neg (ne_true_of_eq_false hbad)))⟩
  case ack =>
    intro p body s r hr v n s1
    have hack := drainAckIn_holder (s := begin s) body hr
    refine ⟨fun hb => congrArg Host.Outcome.next (hack.trans (if_pos hb)), fun o hb hone hsl he ha hw hun hsent => ?_⟩
    have hfit : ackFits s1 r body o = true := by
      simp only [Bool.and_eq_true, beq_iff_eq, decide_eq_true_eq]
      exact ⟨⟨⟨⟨⟨hsl, he⟩, ha⟩, hw⟩, hun⟩, hsent⟩
    exact congrArg Host.Outcome.next
      (hack.trans ((if_neg (ne_true_of_eq_false hb)).trans (ackFirst_single (s := s1) hone hfit hun)))
  case timer =>
    intro rank sl e s due
    refine ⟨fun hnone => congrArg Host.Outcome.next (ackTimerEffect_none (s := begin s) hnone), fun i hi => ?_⟩
    exact congrArg Host.Outcome.next
      ((ackTimerEffect_some (s := begin s) hi).trans (ackStream_due (s := begin s) (told_lt_durable hi)))
  case resend =>
    intro src sl e s o late o2
    exact ⟨fun h => congrArg Host.Outcome.next (drainResendEffect_none (s := begin s) h),
      fun h => congrArg Host.Outcome.next (drainResendEffect_late (s := begin s) h)⟩
  case v2 =>
    intro p e mseq s r hr got
    exact congrArg Host.Outcome.next (v2AckIn_rank (s := begin s) e.toNat mseq.toNat hr)

end Sys2Proof.Machine
end

section
/-! PROOFS. A COLL at its start (R310, R311, R315): its sequence number is taken, its operands are judged, and the collective that is
entered is aborted or announced. -/

namespace Sys2Proof.Machine

/-- The state after the group's entry has given its sequence number to a COLL (R310). -/
def collSeqTaken (s : State) (o : CollOp) : State :=
  setCol (tput s 0x12 0 o.grp (setBits (group s o.grp) 127 96 ((grSeq (group s o.grp) + 1) % 2 ^ 32))) { s.col with
    taken := (s.col.taken.filter fun x => decide (capped s < x.1)) ++ [(o.epoch, o.grp, grSeq (group s o.grp))] }

/-- The collective that a COLL of SUBOP sub with operands o enters, with the digest of its operands (R311). -/
def collEntry (s : State) (q i sub : Nat) (o : CollOp) : Coll :=
  let e := group s o.grp
  { queue := q, idx := i, grp := o.grp, gtag := grTag e, seq := grSeq e
    digest := crc32 ([BitVec.ofNat 8 sub, BitVec.ofNat 8 o.type] ++ leBytes 2 o.root ++ leBytes 4 o.count ++
      leBytes 4 (grTag e) ++ leBytes 4 (grSeq e))
    opened := false, kids := [], told := false, acks := [], staged := [], ends := [], formed := []
    owner := 2 ^ 19 + s.col.serial % 2 ^ 19, next := 0, reading := false, lost := false, win := rd s R.COL_RS_WIN }

/-- The state with the collective entered and its command waiting for it. -/
def collEntered (s : State) (q i sub : Nat) (o : CollOp) : State :=
  let t := collSeqTaken s o
  keepRunning (setCol t { t.col with run := s.col.run ++ [collEntry s q i sub o], serial := s.col.serial + 1 }) q i [40]

/-- What an entered collective k with group entry e does first: it ends as aborted before, or aborts, or takes up its early DESCs and
goes on (R311, R318). -/
def collAnnounce (s : State) (sub e : Nat) (o : CollOp) (k : Coll) : State :=
  match abortedAs s k.gtag k.seq with
  | some code =>
    collFail (setCol s { s.col with aborted := s.col.aborted.filter fun a => !(a.1 == k.gtag && a.2.1 == k.seq) }) k code
  | none =>
    if (grPeers s e).any (peerLost s) then collAbort s k ecRemoteDead
    else if sub = 3 ∧ (scatterCells s o).any (fun x => decide (x.2 < rd s R.CMB_DATA_CELLS) && !settled (ledger s x.2)) then
      collAbort s k ecDescriptor
    else match collOf (takeEarly s k.gtag k.seq) k.gtag k.seq with
      | some d => collForward (takeEarly s k.gtag k.seq) d
      | none => takeEarly s k.gtag k.seq

section
variable {s : State} {q sub : Nat} {r : Run}

/-- A COLL that runs goes on where it waited. -/
theorem collStart_running (hr : activeRun s q 2 sub = some r) (hp : r.phase = .running) : collStart s q sub = resumeUnits s := by
  simp only [collStart, hr]
  exact if_pos hp

/-- A COLL at its start takes its sequence number and then, by its operands, is refused or entered. -/
theorem collStart_started (hr : activeRun s q 2 sub = some r) (hp : r.phase ≠ .running) :
    collStart s q sub =
      let o := collOp r.raw
      if collOk (collSeqTaken s o) o = false then finish (collSeqTaken s o) q r.idx ecDescriptor (grSeq (group s o.grp)) 0
      else collAnnounce (collEntered s q r.idx sub o) sub (group s o.grp) o (collEntry s q r.idx sub o) := by
  simp only [collStart, hr, Bool.not_eq_true']
  exact if_neg hp

end

/-- Settles O16, from what collStart does by the command's phase; the five commands differ in their SUBOP alone. -/
theorem collectivesStart : Obligations.CollectivesStart := by
  unfold Obligations.CollectivesStart
  intro q s r sub c hc hr
  have hexec : exec c s = .next (collStart (begin s) q sub) := by
    rcases hc with ⟨rfl, rfl⟩ | ⟨rfl, rfl⟩ | ⟨rfl, rfl⟩ | ⟨rfl, rfl⟩ | ⟨rfl, rfl⟩
    all_goals rfl
  have hr' : activeRun (begin s) q 2 sub = some r := (activeRun_begin s q 2 sub).trans hr
  rw [hexec]
  exact ⟨fun hp => congrArg Host.Outcome.next (collStart_started hr' hp),
    fun hp => congrArg Host.Outcome.next (collStart_running hr' hp)⟩

end Sys2Proof.Machine
end

section
/-! PROOFS. The collective control messages (R311, R312, R320): what a DESC, an OPEN or an ABORT does, by its group, its KIND and the
collective it names. -/

namespace Sys2Proof.Machine

section
variable {s : State} {body : Bytes}

/-- A control message of no group here is stray, whatever its KIND. -/
theorem collMsgIn_unknown (kind : Nat) (h : groupOfTag s (leAt body 8 4) = none) : collMsgIn s kind body = count s C.COL_STRAY := by
  simp only [collMsgIn, h]

/-- The DESC in a message's bytes. -/
def descOf (body : Bytes) : EarlyDesc :=
  { gtag := leAt body 8 4, seq := leAt body 12 4, sender := bits (leAt body 0 4) 27 16, digest := leAt body 16 4,
    matched := bits (leAt body 20 4) 12 0 }

section
variable {g : Nat} (hg : groupOfTag s (leAt body 8 4) = some g)
include hg

/-- A message of a known group whose KIND is another than its row's is stray. -/
theorem collMsgIn_otherKind {kind : Nat} (hk : leAt body 0 1 ≠ kind) : collMsgIn s kind body = count s C.COL_STRAY := by
  simp only [collMsgIn, hg]
  exact if_pos hk

section
variable {c : Coll} (hc : collOf s (leAt body 8 4) (leAt body 12 4) = some c)
include hc

theorem collMsgIn_desc (hk : leAt body 0 1 = 1) : collMsgIn s 1 body = descFor s c (descOf body) := by
  simp only [collMsgIn, hg, hc]
  exact if_neg (not_not_intro hk)

theorem collMsgIn_open (hk : leAt body 0 1 = 2) : collMsgIn s 2 body = collOpen s c := by
  simp only [collMsgIn, hg, hc]
  exact if_neg (not_not_intro hk)

theorem collMsgIn_abort (hk : leAt body 0 1 = 3) :
    collMsgIn s 3 body =
      collFail (sendAbort s c (leAt body 1 1) (some (bits (leAt body 0 4) 27 16))) c (leAt body 1 1) := by
  simp only [collMsgIn, hg, hc]
  exact if_neg (not_not_intro hk)

end

section
variable (hc : collOf s (leAt body 8 4) (leAt body 12 4) = none) (hseq : serialGt (grSeq (group s g)) (leAt body 12 4) = false)
include hc hseq

/-- A DESC that comes before its COLL waits for it. -/
theorem collMsgIn_desc_early (hk : leAt body 0 1 = 1) :
    collMsgIn s 1 body = setCol s { s.col with early := s.col.early ++ [descOf body] } := by
  simp only [collMsgIn, hg, hc]
  exact (if_neg (not_not_intro hk)).trans (if_neg (ne_true_of_eq_false hseq))

/-- The first ABORT for a COLL that has not started here is passed on and kept. -/
theorem collMsgIn_abort_early (hk : leAt body 0 1 = 3) (hnew : abortedAs s (leAt body 8 4) (leAt body 12 4) = none) :
    collMsgIn s 3 body =
      sendAborts (setCol s { s.col with aborted := s.col.aborted ++ [(leAt body 8 4, leAt body 12 4, leAt body 1 1)] }) g
        (leAt body 8 4) (leAt body 12 4) (leAt body 16 4) (leAt body 1 1) (some (bits (leAt body 0 4) 27 16)) := by
  have hfirst : ¬ (serialGt (grSeq (group s g)) (leAt body 12 4) = true ∨
      (abortedAs s (leAt body 8 4) (leAt body 12 4)).isSome = true) := by
    simp [hseq, hnew]
  simp only [collMsgIn, hg, hc]
  exact (if_neg (not_not_intro hk)).trans (if_neg hfirst)

end
end
end

/-- A peer that did not answer a collective is reported, when it is of the list (R357). -/
def reportSilent (s : State) (p : Nat) : State :=
  match peerIdx s p with
  | some x => faultReport s x 2
  | none => s

/-- A collective that times out aborts with REMOTE_DEAD, and the peers that it waited for are reported. -/
theorem collTimeout_started {s : State} {gtag seq : Nat} {c : Coll} (h : collOf s gtag seq = some c) :
    collTimeout s gtag seq = (collBlocked s c).eraseDups.foldl reportSilent (collAbort s c ecRemoteDead) := by
  simp only [collTimeout, h]
  rfl

/-- What waits for a COLL that has not started by then is dropped. -/
theorem collTimeout_waiting {s : State} {gtag seq : Nat} (h : collOf s gtag seq = none) :
    collTimeout s gtag seq = setCol s { s.col with
      early := s.col.early.filter fun d => !(d.gtag == gtag && d.seq == seq)
      aborted := s.col.aborted.filter fun a => !(a.1 == gtag && a.2.1 == seq) } := by
  simp only [collTimeout, h]

/-- Settles O17, clause by clause from what a control message does by its group, its KIND and its collective, and from the two cases of
the time-out. -/
theorem collectiveMessagesAct : Obligations.CollectiveMessagesAct := by
  unfold Obligations.CollectiveMessagesAct
  intro body s gtag seq d
  refine ⟨?unknown, ?started, ?descEarly, ?abortEarly, ?timeoutStarted, ?timeoutWaiting⟩
  case unknown =>
    intro hg
    have hstray (kind : Nat) : collMsgIn (begin s) kind body = count (begin s) C.COL_STRAY := collMsgIn_unknown kind hg
    exact ⟨congrArg Host.Outcome.next (hstray 1), congrArg Host.Outcome.next (hstray 2), congrArg Host.Outcome.next (hstray 3)⟩
  case started =>
    intro g c hg hc
    exact ⟨fun hk => congrArg Host.Outcome.next (collMsgIn_desc (s := begin s) hg hc hk),
      fun hk => congrArg Host.Outcome.next (collMsgIn_open (s := begin s) hg hc hk),
      fun hk => congrArg Host.Outcome.next (collMsgIn_abort (s := begin s) hg hc hk)⟩
  case descEarly =>
    intro g hg hc hk hseq
    exact congrArg Host.Outcome.next (collMsgIn_desc_early (s := begin s) hg hc hseq hk)
  case abortEarly =>
    intro g hg hc hk hseq hnew
    exact congrArg Host.Outcome.next (collMsgIn_abort_early (s := begin s) hg hc hseq hk hnew)
  case timeoutStarted =>
    intro tag sq c hc
    exact congrArg Host.Outcome.next (collTimeout_started (s := begin s) hc)
  case timeoutWaiting =>
    intro tag sq hc
    exact congrArg Host.Outcome.next (collTimeout_waiting (s := begin s) hc)

end Sys2Proof.Machine
end

section
/-! PROOFS. Fences (R321, R338): what a FENCE at its start, an acknowledgement and a fence's time-out do. -/

namespace Sys2Proof.Machine

/-- The hive writes that wait for their answer, and whether one has been sent: it is in no flit that is still being packed. -/
def hiveWrites (s : State) : List HiveCtx := s.hive.ctxs.filter fun c => c.req.op != 0 && c.req.op != 6

def hiveSent (s : State) (c : HiveCtx) : Bool :=
  !c.own && c.issued && !(s.hive.packs.any fun k => k.peer == c.peer && !k.resp)

/-- The streams that a FENCE of queue q covers: with SCOPE bit 0 those that carry its queue's work, as far as they are sent, and with bit 1
those of the hive writes that are sent (notes/assumptions/50). -/
def fenceStreams (s : State) (q scope : Nat) : List (Nat × Nat × Nat) :=
  (if bit scope 0 then s.lp.tx.filterMap (sentMark s q) else []) ++
    (if bit scope 1 then (s.lp.tx.filter fun t => t.vc == 5 && (hiveWrites s).any fun c => hiveSent s c && c.peer == t.peer).filterMap
      (streamMark s) else [])

/-- The hive requests of the host that wait for a context and write, as the host's port knows them. -/
def queuedWrites (s : State) : List (Nat × Nat) :=
  (s.hive.admq.filter fun c => c.req.op != 0).filterMap fun c => match c.asker with
    | .host a b => some (a, b)
    | _ => none

/-- The writes outstanding on the tier ports. -/
def tierWrites (s : State) : List (Nat × Nat) :=
  (List.range 4).flatMap fun p => ((tierOf s p).reqs.filter (·.write)).map fun t => (p, t.tag)

/-- What a FENCE of queue q, at place i, with this SCOPE covers. -/
def fenceOf (s : State) (q i scope : Nat) : Fence :=
  { queue := q, idx := i
    streams := fenceStreams s q scope
    ctxs := if bit scope 1 then ((hiveWrites s).filter fun c => !hiveSent s c).map fun c => (c.req.ctx, c.req.gen) else []
    watch := if bit scope 1 then ((hiveWrites s).filter (hiveSent s)).map fun c => (c.req.ctx, c.req.gen) else []
    tiers := if bit scope 2 then tierWrites s else []
    queued := if bit scope 1 then queuedWrites s else [] }

/-- A fence is recorded and its command waits; it fails when a peer it covers is lost, and else ends as soon as nothing is left. -/
def fenceBegun (s : State) (f : Fence) : State :=
  let t := keepRunning { s with fences := s.fences ++ [f] } f.queue f.idx [50]
  if f.streams.any fun x => peerLost t x.1 then failFence t f ecRemoteDead else settleFences t

section
variable {s : State} {q : Nat} {r : Run} (hr : activeRun s q 0x0C 0 = some r)
include hr

/-- A FENCE that runs waits. -/
theorem fenceEffect_running (hp : r.phase = .running) : fenceEffect s q = s := by
  simp only [fenceEffect, hr]
  exact if_pos hp

/-- A FENCE at its start records what it covers. -/
theorem fenceEffect_started (hp : r.phase ≠ .running) : fenceEffect s q = fenceBegun s (fenceOf s q r.idx (opd r.raw 2 0)) := by
  simp only [fenceEffect, hr]
  exact if_neg hp

end

/-- What INFO0 of a fence's time-out names: the first stream still short, by its peer's FID and its VC (notes/assumptions/50). -/
def shortStream (s : State) (f : Fence) : Nat :=
  match f.streams with
  | x :: _ => peerFid (peerEntry s x.1) + at' x.2.1 16
  | [] => 0

/-- The oldest fence of a queue ends with FENCE_TIMEOUT. -/
theorem fenceTimeout_some {s : State} {q : Nat} {f : Fence} (h : (s.fences.find? fun f => f.queue == q) = some f) :
    fenceTimeout s q =
      finish { s with fences := s.fences.filter fun x => !(x.queue == f.queue && x.idx == f.idx) } f.queue f.idx 0x07
        (shortStream s f) 0 := by
  simp only [fenceTimeout, h]
  rfl

theorem fenceTimeout_none {s : State} {q : Nat} (h : (s.fences.find? fun f => f.queue == q) = none) : fenceTimeout s q = s := by
  simp only [fenceTimeout, h]

/-- Settles O19: a FENCE by its phase, a time-out by whether the queue has a fence; an acknowledgement is its entries' in turn, by
definition. -/
theorem fencesWaitForWhatTheyCover : Obligations.FencesWaitForWhatTheyCover := by
  unfold Obligations.FencesWaitForWhatTheyCover
  refine ⟨?start, ?running, fun _ _ _ => rfl, ?timeout, ?noFence⟩
  case start =>
    intro q s r hr hp scope writes sent only f s1
    exact congrArg Host.Outcome.next (fenceEffect_started ((activeRun_begin s q 0x0C 0).trans hr) hp)
  case running =>
    intro q s r hr hp
    exact congrArg Host.Outcome.next (fenceEffect_running ((activeRun_begin s q 0x0C 0).trans hr) hp)
  case timeout =>
    intro q s f hf
    exact congrArg Host.Outcome.next (fenceTimeout_some (s := begin s) hf)
  case noFence =>
    intro q s hf
    exact congrArg Host.Outcome.next (fenceTimeout_none (s := begin s) hf)

end Sys2Proof.Machine
end

section
/-! PROOFS. A rebuild's requests, stale answers and chunks (R319, R371, R372): what each does, by what it names. -/

namespace Sys2Proof.Machine

/-! ## The device's requests -/

theorem runFrom_begin (s : State) (n t : Nat) : runFrom (begin s) n t = runFrom s n t := by
  induction n generalizing t with
  | zero => rfl
  | succ n ih =>
    simp only [runFrom, ih]
    rfl

theorem nextRange_begin (s : State) (room : Nat) : nextRange (begin s) room = nextRange s room := by
  simp only [nextRange, runFrom_begin]
  rfl

/-- The contributors of n stripes from t on are asked for them; with too few of them no one is. -/
def askGivers (s : State) (x : Rebuild) (t n : Nat) : State :=
  match chainGivers s x.rank t with
  | none => s
  | some cs => cs.foldl (fun u c => sendRank u c.1 3 0
      (membMsg 0x0A (ownIdx s) 0 n (capped s) (leBytes 4 t ++ leBytes 4 x.seq)))
    (setRbd s { x with seq := (x.seq + 1) % 2 ^ 32, out := x.out ++ [(x.seq, t, n, capped s)] })

section
variable {s : State}

/-- With no rebuild, no room in the window or no range that is needed, nothing is asked for. -/
theorem requestIssue_idle (h : s.rbd.cmd = none ∨ rd s R.CMB_RB_WIN - stripesOut s = 0 ∨
    (nextRange s (rd s R.CMB_RB_WIN - stripesOut s)).1 = none) : requestIssue s = s := by
  unfold requestIssue
  by_cases hwork : (s.rbd.cmd.isNone || rd s R.CMB_RB_WIN - stripesOut s == 0) = true
  · exact if_pos hwork
  · refine (if_neg hwork).trans ?_
    simp only [Bool.or_eq_true, Option.isNone_iff_eq_none, beq_iff_eq, not_or] at hwork
    have hnone := (h.resolve_left hwork.1).resolve_left hwork.2
    rw [← Prod.mk.eta (p := nextRange s (rd s R.CMB_RB_WIN - stripesOut s)), hnone]

/-- The next range that is needed is asked for. -/
theorem requestIssue_range {t n : Nat} {x : Rebuild} (hcmd : s.rbd.cmd.isSome = true) (hroom : rd s R.CMB_RB_WIN - stripesOut s ≠ 0)
    (hnext : nextRange s (rd s R.CMB_RB_WIN - stripesOut s) = (some (t, n), x)) : requestIssue s = askGivers s x t n := by
  have hwork : ¬ (s.rbd.cmd.isNone || rd s R.CMB_RB_WIN - stripesOut s == 0) = true := by
    simp [Option.isSome_iff_ne_none.mp hcmd, hroom]
  simp only [requestIssue, hnext]
  exact if_neg hwork

end

/-! ## Requests and stale answers in -/

section
variable {s : State} {p : Nat} {body : Bytes}

theorem rbReqIn_unfit (h : bits (leAt body 0 16) 71 48 = 0 ∨ 64 < bits (leAt body 0 16) 71 48 ∨
    memRole (member s (ownIdx s)) ≠ 0) : rbReqIn s p body = s := if_pos h

/-- A contributor's request from the bytes of an RB_REQ of peer p, for a rank. -/
def chainReqOf (p : Nat) (body : Bytes) (rank : Nat) : ChainReq :=
  { peer := p, seq := leAt body 20 4, first := leAt body 16 4, n := bits (leAt body 0 16) 71 48, x := bits (leAt body 0 16) 127 80
    rank := rank }

/-- A request of a device: served at the own capped epoch, stale at another one, and waiting (rank 16) while the device is not known. -/
def requestFrom (s : State) (p : Nat) (body : Bytes) : State :=
  match deviceRank s p with
  | none => setComb s { s.comb with reqs := s.comb.reqs ++ [chainReqOf p body 16] }
  | some rank =>
    if capped s ≠ bits (leAt body 0 16) 127 80 then sendStale s p (leAt body 16 4) (bits (leAt body 0 16) 71 48) (leAt body 20 4)
    else serveReq s (chainReqOf p body rank)

theorem rbReqIn_fit (hrole : memRole (member s (ownIdx s)) = 0) (hn : 0 < bits (leAt body 0 16) 71 48)
    (hmax : bits (leAt body 0 16) 71 48 ≤ 64) : rbReqIn s p body = requestFrom s p body := by
  refine if_neg ?_
  rintro (h | h | h)
  · omega
  · omega
  · exact h hrole

end

/-! ## Chunks in -/

/-- The device takes up a chain's result for its request; one that it has not asked for is let pass. -/
def deviceChunk (s : State) (body : Bytes) : State :=
  match requestOf s (leAt body 4 4) with
  | some o => resultIn s o (leAt body 8 3) (chunkBody body)
  | none => s

/-- A contributor passes a chunk on for the request it belongs to, or keeps it until that request comes. -/
def giverChunk (s : State) (p : Nat) (body : Bytes) : State :=
  match s.comb.reqs.find? fun r => r.seq == leAt body 4 4 && r.rank == bits (leAt body 0 4) 3 0 with
  | some r => passTerm s r (leAt body 8 3) (chunkBody body)
  | none => setComb s { s.comb with chunks := s.comb.chunks ++ [(p, body)] }

section
variable {s : State} {p : Nat} {body : Bytes}

theorem rebuildChunk_coll (h : (collOf s (leAt body 0 4) (leAt body 4 4)).isSome = true) :
    rebuildChunk s p body = chunkIn s 4 p body := if_pos h

theorem chunkTaken_coll {t : State} {type unit : Nat} {c : Coll} (h : collOf s (leAt body 0 4) (leAt body 4 4) = some c) :
    chunkTaken s t type p body unit = settleRx (takenMsg t p type (c.owner + 1) []) := by
  simp only [chunkTaken, h]

section
variable (hnone : collOf s (leAt body 0 4) (leAt body 4 4) = none)
include hnone

theorem chunkTaken_unit {t : State} {type unit : Nat} : chunkTaken s t type p body unit = settleRx (takenMsg t p type unit []) := by
  simp only [chunkTaken, hnone]

/-- A chunk of no collective, and of no rebuild of this job, is stray. -/
theorem rebuildChunk_stray
    (hjob : leAt body 0 4 / 256 ≠ rd s R.CMB_JOB_JOB_TAG ∨ bits (leAt body 0 4) 7 4 ≠ 0xE ∨ isAbsent s = true) :
    rebuildChunk s p body = count s C.COL_STRAY := by
  unfold rebuildChunk
  exact (if_neg (by simp [hnone])).trans (if_pos hjob)

/-- A chunk of a rebuild of this job goes to the device, when this member is the one that rebuilds the rank, and else to the contributor. -/
theorem rebuildChunk_rebuild (hjob : leAt body 0 4 / 256 = rd s R.CMB_JOB_JOB_TAG) (hkind : bits (leAt body 0 4) 7 4 = 0xE)
    (hin : isAbsent s = false) :
    rebuildChunk s p body = if s.rbd.cmd.isSome = true ∧ s.rbd.rank = bits (leAt body 0 4) 3 0 then deviceChunk s body
      else giverChunk s p body := by
  unfold rebuildChunk
  exact (if_neg (by simp [hnone])).trans (if_neg (by simp [hjob, hkind, hin]))

end
end

/-- Settles O29, clause by clause from what is asked for, and from what a request, a stale answer and a chunk do. -/
theorem rebuildRequestsAndChunks : Obligations.RebuildRequestsAndChunks := by
  unfold Obligations.RebuildRequestsAndChunks
  refine ⟨?idle, ?range, ?request, fun _ _ => rfl, ?chunk, fun _ => rfl⟩
  case idle =>
    intro s h
    rw [← nextRange_begin] at h
    exact congrArg Host.Outcome.next (requestIssue_idle (s := begin s) h)
  case range =>
    intro s t n x hcmd hroom hnext
    rw [← nextRange_begin] at hnext
    exact congrArg Host.Outcome.next (requestIssue_range (s := begin s) hcmd hroom hnext)
  case request =>
    intro p body s v n rq
    exact ⟨fun h => congrArg Host.Outcome.next (rbReqIn_unfit (s := begin s) h),
      fun hrole hn hmax => congrArg Host.Outcome.next (rbReqIn_fit (s := begin s) hrole hn hmax)⟩
  case chunk =>
    intro p body s tag seq j took
    refine ⟨fun c hc => ?_, fun hnone hjob => ?_, fun hnone hjob hkind hin => ?_⟩
    · have hsome : (collOf (begin s) tag seq).isSome = true := Option.isSome_iff_exists.mpr ⟨c, hc⟩
      exact congrArg Host.Outcome.next ((chunkTaken_coll hc).trans (congrArg (took c.owner) (rebuildChunk_coll hsome)))
    · exact congrArg Host.Outcome.next
        ((chunkTaken_unit hnone).trans (congrArg (took collOwner) (rebuildChunk_stray (s := begin s) hnone hjob)))
    · exact congrArg Host.Outcome.next
        ((chunkTaken_unit hnone).trans (congrArg (took collOwner) (rebuildChunk_rebuild (s := begin s) hnone hjob hkind hin)))

end Sys2Proof.Machine
end

section
/-! PROOFS. The seal store's messages and the shadow copies (R385, R414 to R416, R422): what each does, by its sender, by what it names and
by its CRC. -/

namespace Sys2Proof.Machine

theorem ite_bool_not {α : Type} (b : Bool) (x y : α) : (if !b then x else y) = if b then y else x := by
  cases b
  · rfl
  · rfl

section
variable {s : State} {p : Nat} {body : Bytes}

/-! ## Images kept for another member (R415, R416) -/

/-- A cell of no image that this store takes, or from another peer, is discarded. -/
theorem imageCellIn_dropped (h : p ≠ rd s R.SPN_SEALIN_FROM ∨ rd s R.SPN_SEALIN_CELLS ≤ bits (leAt body 0 16) 76 52 ∨ sealKind body ≠ 0) :
    imageCellIn s p body = dropSeal s := if_pos h

/-- A cell of the image that is sealed here is written to its slot when its CRC passes. -/
theorem imageCellIn_taken (hp : p = rd s R.SPN_SEALIN_FROM) (hcell : bits (leAt body 0 16) 76 52 < rd s R.SPN_SEALIN_CELLS)
    (hkind : sealKind body = 0) :
    imageCellIn s p body =
      let half := bits (leAt body 0 16) 48 48
      if (sealBody body).2 then
        boardStore (setHeld s half (bits (leAt body 0 16) 47 0)) storeOwner (sealSlot s half (bits (leAt body 0 16) 76 52)) (sealBody body).1
      else s := by
  refine (if_neg ?_).trans (ite_bool_not _ _ _)
  rintro (h | h | h)
  · exact h hp
  · omega
  · exact h hkind

/-- A seal read of another peer is discarded. -/
theorem sealReadIn_dropped (h : p ≠ rd s R.SPN_SEALIN_FROM) : sealReadIn s p body = dropSeal s := if_pos h

section
variable (hp : p = rd s R.SPN_SEALIN_FROM)
include hp

/-- A seal read of an image that is not held, of no cell or beyond the image is refused. -/
theorem sealReadIn_refused
    (h : s.spine.held.contains (bits (leAt body 0 16) 48 48, bits (leAt body 0 16) 47 0) = false ∨ bits (leAt body 0 16) 103 80 = 0 ∨
      rd s R.SPN_SEALIN_CELLS < bits (leAt body 0 16) 76 52 + bits (leAt body 0 16) 103 80) :
    sealReadIn s p body = sealRefuse s p (bits (leAt body 0 16) 47 0) ecDescriptor := by
  rw [← Bool.not_eq_true'] at h
  exact (if_neg (not_not_intro hp)).trans (if_pos h)

/-- A seal read of a held image asks for its cells on the board tier and is answered once they are back. -/
theorem sealReadIn_held
    (hheld : s.spine.held.contains (bits (leAt body 0 16) 48 48, bits (leAt body 0 16) 47 0) = true)
    (hn : bits (leAt body 0 16) 103 80 ≠ 0)
    (hmax : bits (leAt body 0 16) 76 52 + bits (leAt body 0 16) 103 80 ≤ rd s R.SPN_SEALIN_CELLS) :
    sealReadIn s p body =
      let half := bits (leAt body 0 16) 48 48
      let first := bits (leAt body 0 16) 76 52
      let n := bits (leAt body 0 16) 103 80
      serveSettle ((List.range n).foldl (fun s k => tierRequest s storeOwner false (sealSlot s half (first + k)) 0 cellSize)
        (setSpine s { s.spine with serve := s.spine.serve ++
          [{ peer := p, epoch := bits (leAt body 0 16) 47 0, half := half, first := first, n := n, bad := false }] })) := by
  refine (if_neg (not_not_intro hp)).trans (if_neg ?_)
  rintro (h | h | h)
  · rw [hheld] at h
    exact Bool.false_ne_true h
  · exact hn h
  · omega

end

/-! ## The image that a RESTORE loads (R422) -/

theorem sealDataIn_noLoad (h : s.spine.load = none) : sealDataIn s p body = dropSeal s := by
  simp only [sealDataIn, h]

theorem sealRefusedIn_noLoad (h : s.spine.load = none) : sealRefusedIn s p body = dropSeal s := by
  simp only [sealRefusedIn, h]

section
variable {x : SealLoad} (h : s.spine.load = some x)
include h

/-- A cell of the image from the peer that its record names is gathered when its CRC passes, in the place of an earlier one. -/
theorem sealDataIn_load :
    sealDataIn s p body =
      let v := leAt body 0 16
      if p ≠ hdrSealPeer x.hdr ∨ bits v 47 0 ≠ hdrSealEpoch x.hdr ∨ bits v 48 48 ≠ hdrSealHalf x.hdr then dropSeal s
      else if (sealBody body).2 then loadSettle (setSpine s { s.spine with load := some { x with
        got := (x.got.filter fun g => g.1 != bits v 76 52) ++ [(bits v 76 52, (sealBody body).1)] } })
      else s := by
  simp only [sealDataIn, h, ite_bool_not]

/-- A refusal from that peer fails the RESTORE with its code. -/
theorem sealRefusedIn_load :
    sealRefusedIn s p body =
      let v := leAt body 0 16
      if p ≠ hdrSealPeer x.hdr ∨ bits v 47 0 ≠ hdrSealEpoch x.hdr then dropSeal s
      else finish (setSpine s { s.spine with load := none }) x.queue x.idx (bits v 55 48) 0 0 := by
  simp only [sealRefusedIn, h]

end

/-! ## The copies of a shadow's principal (R416) -/

section
variable (h : fromPrincipal s p = false)
include h

theorem copyCellIn_dropped : copyCellIn s p body = dropSeal s := by
  simp [copyCellIn, h]

theorem copyEndIn_dropped : copyEndIn s p body = dropSeal s := by
  simp [copyEndIn, h]

end

/-- The cell in a copy's bytes is held, and counted in its epoch. -/
def holdCopy (s : State) (body : Bytes) : State :=
  let v := leAt body 0 16
  let e := bits v 47 0
  { s with shd := { s.shd with got := s.shd.got ++ [(e, bits v 66 48, bits v 88 67, (sealBody body).1)],
                               cells := put s.shd.cells e (get s.shd.cells e + 1) } }

/-- A held copy is written to its place, if its object has one. -/
def writeCopy (e : Nat) (s : State) (g : Nat × Nat × Nat × Bytes) : State :=
  if objValid s g.2.1 && decide (g.2.2.1 < objCells (dir s g.2.1)) then
    homeWritten (cellWrite s storeOwner e g.2.1 g.2.2.1 0 g.2.2.2) g.2.1 e
  else s

/-- The held copies of an epoch are written, and the epoch is ready. -/
def readyCopies (s : State) (e : Nat) : State :=
  let t := (s.shd.got.filter fun g => g.1 == e).foldl (writeCopy e) s
  { t with shd := { t.shd with got := t.shd.got.filter fun g => g.1 != e, ready := t.shd.ready ++ [e] } }

section
variable (h : fromPrincipal s p = true)
include h

theorem copyCellIn_principal : copyCellIn s p body = if (sealBody body).2 then holdCopy s body else s := by
  refine (if_neg ?_).trans (ite_bool_not _ _ _)
  simp [h]

/-- The end message makes its epoch ready when as many copies have come as were sent. -/
theorem copyEndIn_principal :
    copyEndIn s p body =
      if get s.shd.cells (bits (leAt body 0 16) 47 0) = bits (leAt body 0 16) 95 64 then readyCopies s (bits (leAt body 0 16) 47 0)
      else s := by
  refine (if_neg ?_).trans (ite_not _ _ _)
  simp [h]

end
end

theorem next_takenMsg_congr {t u : State} {p type owner : Nat} {reqs : List (Nat × Nat)} (h : t = u) :
    (.next (takenMsg t p type owner reqs) : Ans) = .next (takenMsg u p type owner reqs) := h ▸ rfl

/-- Settles O32, from what each message does for its sender and its CRC; how each is accepted is so by definition. -/
theorem sealStoreAndShadowMessages : Obligations.SealStoreAndShadowMessages := by
  unfold Obligations.SealStoreAndShadowMessages
  refine ⟨?store, ?shadow⟩
  case store =>
    intro p body s v half took drop
    refine ⟨fun h => next_takenMsg_congr (imageCellIn_dropped (s := begin s) h),
      fun hp hcell hkind => next_takenMsg_congr (imageCellIn_taken (s := begin s) hp hcell hkind),
      fun hp => next_takenMsg_congr (sealReadIn_dropped (s := begin s) hp),
      fun hp => ⟨fun h => next_takenMsg_congr (sealReadIn_refused (s := begin s) hp h),
        fun hheld hn hmax => next_takenMsg_congr (sealReadIn_held (s := begin s) hp hheld hn hmax)⟩,
      fun h => ⟨next_takenMsg_congr (sealDataIn_noLoad (s := begin s) h), next_takenMsg_congr (sealRefusedIn_noLoad (s := begin s) h)⟩,
      fun x h => ⟨next_takenMsg_congr (sealDataIn_load (s := begin s) h), next_takenMsg_congr (sealRefusedIn_load (s := begin s) h)⟩⟩
  case shadow =>
    intro p body s v e l took drop
    exact ⟨fun h => ⟨next_takenMsg_congr (copyCellIn_dropped (s := begin s) h), next_takenMsg_congr (copyEndIn_dropped (s := begin s) h)⟩,
      fun h => next_takenMsg_congr (copyCellIn_principal (s := begin s) h),
      fun h => next_takenMsg_congr (copyEndIn_principal (s := begin s) h)⟩

end Sys2Proof.Machine
end

section
/-! PROOFS. Links that retrain and go down (R294, R306), by the link's phase. -/

namespace Sys2Proof.Machine

section
variable {s : State} {l : Nat}

/-! ## Retraining (R294) -/

/-- A link that does not retrain, or whose lane has failed, stays as it is. -/
theorem retrainDone_not (h : (linkOf s l).phase ≠ 3 ∨ s.lp.failed.contains (s.lp.lane.getD l 0x3F) = true) :
    retrainDone s l = s := if_pos h

/-- A running link t again takes up what it keeps: with a kept flit it replays from the oldest, and the links go on. -/
def resumeRetry (t : State) (l : Nat) (kept : List (Nat × Flit)) : State :=
  match kept with
  | [] => pumpAll t
  | f :: _ => pumpAll (pumpLink (replayFrom (count t (C.LP_LRTY l)) l f.1) l)

/-- A link that retrains on a good lane runs again with all else kept. -/
theorem retrainDone_done (hphase : (linkOf s l).phase = 3) (hlane : s.lp.failed.contains (s.lp.lane.getD l 0x3F) = false) :
    retrainDone s l = nextSwap (resumeRetry (putLink s l { linkOf s l with phase := 2 }) l (linkOf s l).retry) := by
  refine if_neg ?_
  rintro (h | h)
  · exact h hphase
  · exact ne_true_of_eq_false hlane h

/-! ## Going down (R306) -/

/-- A link that is down stays as it is. -/
theorem linkDown_down (h : (linkOf s l).phase = 0) : linkDown s l = s := if_pos h

end

/-- Settles O34, from what a retrained link and a link that goes down do by their phase; the other commands are so by definition. -/
theorem linksComeUpAndGoDown : Obligations.LinksComeUpAndGoDown := by
  unfold Obligations.LinksComeUpAndGoDown
  refine ⟨fun _ _ => rfl, fun _ _ _ _ _ _ => rfl, fun _ _ => rfl, ?retrain, fun _ _ => rfl, ?down, ?up⟩
  case retrain =>
    intro l s s1
    exact ⟨fun h => congrArg Host.Outcome.next (retrainDone_not (s := begin s) h),
      fun hphase hlane => congrArg Host.Outcome.next (retrainDone_done (s := begin s) hphase hlane)⟩
  case down =>
    intro l s h
    exact congrArg (fun t => Host.Outcome.next (nextSwap t)) (linkDown_down (s := begin s) h)
  case up =>
    intro l s h gone s1 s2 s3 s4
    exact congrArg (fun t => Host.Outcome.next (nextSwap t)) (if_neg h)

end Sys2Proof.Machine
end

section
/-! PROOFS. The end-to-end streams (R305, R306): when a receiving stream has nothing to accept and nothing to acknowledge. -/

namespace Sys2Proof.Machine

/-- A stream on another VC than 3 with no message that has become durable and fewer than 64 flits to acknowledge is left alone. -/
theorem settleRxStream_idle {s : State} {p vc : Nat} (hheld : dropDurable s p (rxOf s p vc).held = (rxOf s p vc).held)
    (hun : unacked (rxOf s p vc) < 64) (hvc : vc ≠ 3) : settleRxStream s p vc = s := by
  refine if_pos ⟨hheld, ?_, hvc⟩
  rw [hheld]
  exact hun

/-- Settles O36: the idle stream by settleRxStream_idle; what an acknowledgement says, what is sent again and what an entry changes is so
by definition. -/
theorem streamsAcknowledgeAndResend : Obligations.StreamsAcknowledgeAndResend := by
  unfold Obligations.StreamsAcknowledgeAndResend
  refine ⟨?timer, fun _ _ _ => rfl, fun _ _ _ => rfl, fun _ _ _ => rfl⟩
  intro p vc s s1
  exact ⟨fun hheld hun hvc => settleRxStream_idle hheld hun fun h => hvc (Fin.ext h), rfl⟩

end Sys2Proof.Machine
end

section
/-! PROOFS. The home agent's accesses (R329 to R332): how the oldest access of a line is served, and how a granule read is answered. -/

namespace Sys2Proof.Machine

/-! ## Accesses of a line -/

section
variable {s : State} {l op : Nat}

theorem homeOp_none (hold : oldestOn s l = none) : homeOp s l op = s := by
  simp only [homeOp, hold]

section
variable {h : HomeReq} (hold : oldestOn s l = some h)
include hold

/-- An oldest access of another operation stays. -/
theorem homeOp_otherOp (hop : h.req.op ≠ op) : homeOp s l op = s := by
  simp only [homeOp, hold]
  exact if_neg hop

theorem homeOp_serve (hop : h.req.op = op) : homeOp s l op = homeServe s l := by
  simp only [homeOp, hold]
  exact if_pos hop

theorem lineOfRec_oldestOn : lineOfRec h.req = l := by
  have hp := List.find?_some hold
  simp only [Bool.and_eq_true, beq_iff_eq] at hp
  exact hp.2

/-- A line that is being read serves no access. -/
theorem homeServe_reading (hf : (fetchOf s l).isSome = true) : homeServe s l = s := by
  obtain ⟨f, hf⟩ := Option.isSome_iff_exists.mp hf
  simp only [homeServe, hold, hf]

section
variable (hf : fetchOf s l = none)
include hf

/-- A line in the buffer is accessed there. -/
theorem homeServe_hot {x : HotLine} (hx : hotOf s l = some x) : homeServe s l = hotApply (count s C.HIVE_HL_HIT) h x := by
  simp only [homeServe, hold, hf, hx]

section
variable (hx : hotOf s l = none)
include hx

/-- A write of the whole line goes straight to memory when the line is not busy there. -/
theorem homeServe_whole (hop : h.req.op = 1) (hpart : h.req.part = false) (hsize : sizeBytes h.req.size = 64)
    (hbusy : lineBusy s l true = false) : homeServe s l = memApply s h := by
  simp only [homeServe, hold, hf, hx]
  exact if_pos ⟨hop, by simp [hpart], hsize, by simp [hbusy]⟩

/-- For another access the line is read first. -/
theorem homeServe_fetch
    (hread : h.req.op ≠ 1 ∨ h.req.part = true ∨ sizeBytes h.req.size ≠ 64 ∨ lineBusy s l true = true) :
    homeServe s l = kickFetch (setFetch s { line := l, hot := false, out := false, bad := false })
      { line := l, hot := false, out := false, bad := false } := by
  simp only [homeServe, hold, hf, hx]
  refine if_neg ?_
  rintro ⟨hop, hpart, hsize, hbusy⟩
  rcases hread with h1 | h1 | h1 | h1
  · exact h1 hop
  · simp [h1] at hpart
  · exact h1 hsize
  · simp [h1] at hbusy

end
end
end
end

/-- A write returns no data. -/
theorem lineAfter_write_snd {r : HiveRec} (hop : r.op = 1) (line : Bytes) : (lineAfter r line).2 = [] := by
  simp only [lineAfter, applyOp, hop]

/-- A write straight to memory stores its line and is answered without data. -/
theorem memApply_write {s : State} {h : HomeReq} (hop : h.req.op = 1) :
    memApply s h =
      let l := lineOfRec h.req
      homeDone (count (lineWrite s l (lineAfter h.req (lineBytes s l)).1) C.HIVE_APPLIED) h 0 [] := by
  have hne : h.req.op ≠ 0 := by omega
  simp only [memApply, lineAfter_write_snd hop, if_neg hne]

/-! ## Granule reads -/

/-- The oldest queued granule read that need not wait, as the model finds it. -/
abbrev readyRead (s : State) : Option HomeReq :=
  s.hive.home.find? fun x => x.req.op == 6 && !cellReadHeld s x && (!x.out || cellReadReady s x)

section
variable {s : State}

theorem cellReadEffect_none (h : readyRead s = none) : cellReadEffect s = s := by
  simp only [cellReadEffect, h]

section
variable {h : HomeReq} (hfirst : readyRead s = some h)
include hfirst

/-- A granule read whose cell is not back asks for the whole of it. -/
theorem cellReadEffect_asks (hready : cellReadReady s h = false) :
    cellReadEffect s =
      let c := bits h.req.off 38 10
      let p := if bit h.req.off 40 then parPlace s c else dataPlace s c
      memRequest (setHive s { s.hive with home := s.hive.home.map fun x => if x = h then { x with out := true } else x })
        cellOwner false false p.1 (p.2 * cellSize) cellSize := by
  simp only [cellReadEffect, hfirst]
  exact if_neg (ne_true_of_eq_false hready)

theorem cellReadEffect_answers (hready : cellReadReady s h = true) : cellReadEffect s = cellReadAnswer s h := by
  simp only [cellReadEffect, hfirst]
  exact if_pos hready

end
end

/-- The answer to a granule read that nothing was latched for, of a parity cell or of a data cell: by the bounds, by what is missing and by
the check of the view (R329, R389). -/
def granuleAnswer (s : State) (h : HomeReq) : State :=
  let par := bit h.req.off 40
  let live := bit h.req.off 39
  let c := bits h.req.off 38 10
  let gran (b : Bytes) : Bytes := slice b (64 * bits h.req.off 9 0) 64
  if (if par then parCells s else dMax s) ≤ c then homeAnswer (count s C.HIVE_OOR) h ecDescriptor []
  else if (if par then parMissing s c else dataMissing s c) then homeAnswer s h ecCellCheck []
  else if par then
    (if parViewOk s live c then homeAnswer s h 0 (gran (parView s live c)) else homeAnswer (suspectPar s c) h ecCellCheck [])
  else if dataViewOk s c then homeAnswer s h 0 (gran (dataView s live c))
  else homeAnswer (suspectData s c) h ecCellCheck []

/-- A granule read leaves the queue and is answered: as latched, or by its cell. -/
theorem cellReadAnswer_eq (s : State) (h : HomeReq) :
    cellReadAnswer s h =
      let t := setHive s { s.hive with home := s.hive.home.erase h }
      match h.snap with
      | some b => homeAnswer t h 0 b
      | none => granuleAnswer t h := by
  unfold cellReadAnswer granuleAnswer
  cases h.snap with
  | some b => rfl
  | none =>
    cases bit h.req.off 40 with
    | false => simp only [Bool.false_eq_true, if_false, decide_eq_true_eq]
    | true => simp only [if_true, decide_eq_true_eq]

/-! ## Lines that idle -/

section
variable {s : State} {line : BitVec 35}

theorem exec_hotLineIdle_cold (h : hotOf s line.toNat = none) : exec (.hotLineIdle line) s = .next (begin s) := by
  have hcold : hotOf (begin s) line.toNat = none := h
  simp only [exec, execHotLineIdle, hcold]

/-- A hot line with no queued access leaves the buffer. -/
theorem exec_hotLineIdle_hot {x : HotLine} (h : hotOf s line.toNat = some x) :
    exec (.hotLineIdle line) s = .next (if lineQueued s line.toNat = true then begin s else hotDrop (begin s) x) := by
  have hhot : hotOf (begin s) line.toNat = some x := h
  simp only [exec, execHotLineIdle, hhot]
  rfl

end

/-- Settles O38: the six operations differ in their number alone, and go on as their line's oldest access is served; a granule read asks
for its cell or is answered; a hot line stays or leaves. -/
theorem hiveAccessesApplyInOrder : Obligations.HiveAccessesApplyInOrder := by
  unfold Obligations.HiveAccessesApplyInOrder
  refine ⟨?line, ?noRead, ?asks, ?answers, ?idle⟩
  case line =>
    intro line s op c hc l oldest
    have hexec : exec c s = .next (settleRx (homeOp (begin s) l op)) := by
      rcases hc with ⟨rfl, rfl⟩ | ⟨rfl, rfl⟩ | ⟨rfl, rfl⟩ | ⟨rfl, rfl⟩ | ⟨rfl, rfl⟩ | ⟨rfl, rfl⟩
      all_goals rfl
    have leads {t : State} (h : homeOp (begin s) l op = t) : exec c s = .next (settleRx t) := h ▸ hexec
    refine ⟨fun hnone => leads (homeOp_none hnone), fun h (hold : oldestOn (begin s) l = some h) hwaits => leads ?_,
      fun h (hold : oldestOn (begin s) l = some h) hop (hf : fetchOf (begin s) l = none) => ?_⟩
    · by_cases hop : h.req.op = op
      · exact (homeOp_serve hold hop).trans (homeServe_reading hold (hwaits.resolve_left (not_not_intro hop)))
      · exact homeOp_otherOp hold hop
    · have serve {t : State} (h : homeServe (begin s) l = t) : exec c s = .next (settleRx t) := leads ((homeOp_serve hold hop).trans h)
      refine ⟨fun x hx => serve (homeServe_hot hold hf hx), fun hx hwrite hpart hsize hbusy => serve ?_,
        fun hx hread => serve (homeServe_fetch hold hf hx (hop ▸ hread))⟩
      have hop1 := hop.trans hwrite
      have hmem := memApply_write (s := begin s) hop1
      rw [lineOfRec_oldestOn hold] at hmem
      exact (homeServe_whole hold hf hx hop1 hpart hsize hbusy).trans hmem
  case noRead =>
    intro s hnone
    exact congrArg (fun t => Host.Outcome.next (settleRx (takeWaiting t))) (cellReadEffect_none (s := begin s) hnone)
  case asks =>
    intro s h hfirst hready c p mark
    exact congrArg (fun t => Host.Outcome.next (settleRx (takeWaiting t))) (cellReadEffect_asks (s := begin s) hfirst hready)
  case answers =>
    intro s h hfirst hready s1 par live c gran
    exact congrArg (fun t => Host.Outcome.next (settleRx (takeWaiting t)))
      ((cellReadEffect_answers (s := begin s) hfirst hready).trans (cellReadAnswer_eq (begin s) h))
  case idle =>
    intro line s
    cases hhot : hotOf s line.toNat with
    | none => exact exec_hotLineIdle_cold hhot
    | some h => exact exec_hotLineIdle_hot hhot

end Sys2Proof.Machine
end

section
/-! PROOFS. Hive records between members (R328, R333 to R337): requests as they arrive, contexts as they are issued, and answers. -/

namespace Sys2Proof.Machine

/-! ## Requests in (R333, R337) -/

section
variable {s : State} {tag memb : Nat}

theorem newerMemb_iff : newerMemb s tag memb = true ↔ tag = rd s R.CMB_JOB_JOB_TAG ∧ rd s R.CMB_JOB_MEMB_EPOCH < memb := by
  simp [newerMemb]

/-- A request flit of another job, or of an older membership epoch. -/
abbrev FlitStale (s : State) (tag memb : Nat) : Prop := tag ≠ rd s R.CMB_JOB_JOB_TAG ∨ memb < rd s R.CMB_JOB_MEMB_EPOCH

theorem not_newerMemb_of_stale (h : FlitStale s tag memb) : ¬ newerMemb s tag memb = true := by
  rw [newerMemb_iff]
  rintro ⟨htag, hmemb⟩
  exact h.elim (fun hne => hne htag) (fun hold => by omega)

/-- The requests of a stale flit are answered JOB_TAG_STALE and counted, in flits of their own that carry the flit's tag and epoch. -/
def answerStale (s : State) (p tag memb : Nat) (body : Bytes) : State :=
  let t := wr (wr (sendPack s p true) R.CMB_JOB_JOB_TAG tag) R.CMB_JOB_MEMB_EPOCH memb
  let u := sendPack ((takeRecs 30 body).foldl (fun t r => packRec (count t C.HIVE_STALE) p true (hiveFlow r.off)
    (respBytes r.ctx r.gen 0x08 (respData r 0x08 []))) t) p true
  wr (wr u R.CMB_JOB_JOB_TAG (rd s R.CMB_JOB_JOB_TAG)) R.CMB_JOB_MEMB_EPOCH (rd s R.CMB_JOB_MEMB_EPOCH)

theorem requestArrival_stale {p : Nat} {body : Bytes} (h : FlitStale s tag memb) :
    requestArrival s p tag memb body = answerStale s p tag memb body := if_pos h

/-- The requests of a flit join their stream's waiting requests, and what the home can take is taken. -/
def joinWaiting (s : State) (p : Nat) (body : Bytes) : State :=
  takeWaiting (setHive s { s.hive with
    waitq := s.hive.waitq ++ (takeRecs 30 body).map fun r => { peer := some p, req := r, snap := none, out := false } })

section
variable {p : Nat} {body : Bytes} (htag : tag = rd s R.CMB_JOB_JOB_TAG)
include htag

theorem requestArrival_newer (h : rd s R.CMB_JOB_MEMB_EPOCH < memb) : requestArrival s p tag memb body = s := by
  have hfresh : ¬ FlitStale s tag memb := by
    rintro (hne | hold)
    · exact hne htag
    · omega
  exact (if_neg hfresh).trans (if_pos (newerMemb_iff.mpr ⟨htag, h⟩))

theorem requestArrival_own (h : rd s R.CMB_JOB_MEMB_EPOCH = memb) : requestArrival s p tag memb body = joinWaiting s p body := by
  have hfresh : ¬ FlitStale s tag memb := by
    rintro (hne | hold)
    · exact hne htag
    · omega
  have hnewer : ¬ newerMemb s tag memb = true := by
    rw [newerMemb_iff]
    omega
  exact (if_neg hfresh).trans (if_neg hnewer)

end
end

section
variable {s : State} {p : BitVec 12} {tag : BitVec 24} {memb : BitVec 16} {body : Bytes}

/-- A flit of a newer epoch is left to its re-send. -/
theorem exec_hiveRequestArrival_newer (h : newerMemb s tag.toNat memb.toNat = true) :
    exec (.hiveRequestArrival p tag memb body) s = .next (requestArrival (begin s) p.toNat tag.toNat memb.toNat body) :=
  congrArg Host.Outcome.next (if_pos h)

/-- Another flit is taken, and is accepted with its requests. -/
theorem exec_hiveRequestArrival_taken (h : ¬ newerMemb s tag.toNat memb.toNat = true) :
    exec (.hiveRequestArrival p tag memb body) s =
      .next (takenMsg (requestArrival (begin s) p.toNat tag.toNat memb.toNat body) p.toNat 0x0C 0 (requestKeys body)) :=
  congrArg Host.Outcome.next (if_neg h)

end

/-! ## Issue (R334) -/

/-- The state with a context issued: its place in the turn and its time are noted. -/
def markIssued (s : State) (c : HiveCtx) : State :=
  setHive s { s.hive with
    rr := c.req.ctx
    ctxs := s.hive.ctxs.map fun x => if x.req.ctx = c.req.ctx then { x with issued := true, time := rd s R.TIME_TOD % 2 ^ 32 } else x }

/-- A context's request goes: to the own home, when that takes it, or into a flit to its peer. -/
def issueCtx (s : State) (c : HiveCtx) : State :=
  if c.own then
    match homeTake (markIssued s c) { peer := none, req := c.req, snap := none, out := false } with
    | some t => count (count t C.RAE_LOCAL) C.RAE_ISSUED
    | none => s
  else count (packRec (markIssued s c) c.peer false (hiveFlow c.req.off) (recBytesOf c.req)) C.RAE_ISSUED

section
variable {s : State}

/-- With no context that can go, all that RAE_ISSUE does is to let waiting requests take free contexts. -/
theorem raeIssueEffect_none (h : (readyCtxs [] (admitCtxs 64 s).hive.ctxs).filter (canIssue (admitCtxs 64 s)) = []) :
    raeIssueEffect s = admitCtxs 64 s := by
  have hnext : nextCtx (admitCtxs 64 s) = none := by
    simp only [nextCtx, h]
    rfl
  simp only [raeIssueEffect, hnext]

theorem raeIssueEffect_some {c : HiveCtx} (h : nextCtx (admitCtxs 64 s) = some c) :
    raeIssueEffect s = issueCtx (admitCtxs 64 s) c := by
  simp only [raeIssueEffect, h]
  rfl

end

/-! ## Answers (R335, R336) -/

/-- The context that the first response record of a peer's flit answers: the request is out, and of the record's generation. -/
abbrev answeredCtx (s : State) (p : Nat) (body : Bytes) : Option HiveCtx :=
  s.hive.ctxs.find? fun c => c.req.ctx == bits (leAt body 0 8) 63 52 && c.req.gen == bits (leAt body 0 8) 51 48 &&
    c.peer == p && c.issued && !c.own

section
variable {s : State} {p fuel : Nat} {body : Bytes} (hlen : 8 ≤ body.length)
include hlen

/-- A late record counts; with the length of its answer known the records behind it are still taken. -/
theorem responsesIn_late (h : answeredCtx s p body = none) :
    responsesIn (fuel + 1) s p body =
      let n := get s.hive.late (bits (leAt body 0 8) 63 48)
      if n = 0 then count s C.HIVE_LATE else responsesIn fuel (count s C.HIVE_LATE) p (body.drop n) := by
  simp only [responsesIn, h]
  exact if_neg (by omega)

/-- A record of a request that is out finishes its context, and the records behind it follow. -/
theorem responsesIn_answer {c : HiveCtx} (h : answeredCtx s p body = some c) :
    responsesIn (fuel + 1) s p body = responsesIn fuel
      (settleFences (finishCtx (fenceCtx s c.req.ctx c.req.gen (bits (leAt body 0 8) 47 40 == ecRemoteDead && c.req.op != 0)) c
        (bits (leAt body 0 8) 47 40) (slice body 8 (respLen c.req - 8)))) p (body.drop (respLen c.req)) := by
  simp only [responsesIn, h]
  exact if_neg (by omega)

end

/-- Settles O39, from what a flit of requests does by its tag and epoch, from whether a context can go, and from what the first record of
a flit of answers names; the two time-outs are so by definition. -/
theorem hiveRecordsTravelAndAnswer : Obligations.HiveRecordsTravelAndAnswer := by
  unfold Obligations.HiveRecordsTravelAndAnswer
  refine ⟨?own, ?stale, ?noneReady, ?issue, ?late, ?answer, fun _ _ => rfl, fun _ _ _ => rfl⟩
  case own =>
    intro p tag memb body s htag
    refine ⟨fun hnew => ?_, fun heq => ?_⟩
    · exact (exec_hiveRequestArrival_newer (newerMemb_iff.mpr ⟨htag, hnew⟩)).trans
        (congrArg Host.Outcome.next (requestArrival_newer (s := begin s) htag hnew))
    · have hnewer : ¬ newerMemb s tag.toNat memb.toNat = true := by
        rw [newerMemb_iff]
        omega
      exact (exec_hiveRequestArrival_taken hnewer).trans (next_takenMsg_congr (requestArrival_own (s := begin s) htag heq))
  case stale =>
    intro p tag memb body s h s1 s2
    exact (exec_hiveRequestArrival_taken (not_newerMemb_of_stale h)).trans
      (next_takenMsg_congr (requestArrival_stale (s := begin s) h))
  case noneReady =>
    intro s h
    exact congrArg Host.Outcome.next (raeIssueEffect_none h)
  case issue =>
    intro s c s1 turn s2 h
    exact congrArg Host.Outcome.next (raeIssueEffect_some (s := begin s) h)
  case late =>
    intro p body s hlen h n
    exact congrArg Host.Outcome.next (responsesIn_late (s := begin s) hlen h)
  case answer =>
    intro p body s c hlen h
    exact congrArg Host.Outcome.next (responsesIn_answer (s := begin s) hlen h)

end Sys2Proof.Machine
end

section
/-! PROOFS. The start of a job (R345 to R351): JOIN, the answers to a START, GO, and the wait for the subtrees. -/

namespace Sys2Proof.Machine

/-- A JOIN that has started asks for its list, outside TEARDOWN. -/
theorem joinEffect_active {s : State} {q : Nat} {r : Run} (h : activeRun s q 0x0A 0 = some r) :
    joinEffect s q = if r.phase = .running then s else if memberState s = 8 then finish s q r.idx 0x09 0 0
      else hostFetch (keepRunning s q r.idx [60]) q r.idx (opd r.raw 85 40 * 64) (64 + 8 * opd r.raw 99 86) := by
  simp only [joinEffect, h]

/-! ## START_ACK (R349) -/

/-- The refusal of the START of child y. -/
def refusalOf (y : Nat) (body : Bytes) : StartAck :=
  { child := y, covered := 0, unreached := [(y, bits (leAt body 0 16) 23 16)] }

/-- What the START_ACK of child y covers, and the subtrees it did not reach. -/
def coverOf (y : Nat) (body : Bytes) : StartAck :=
  { child := y, covered := bits (leAt body 0 16) 79 48,
    unreached := (List.range ((body.length - 16) / 4)).map fun i =>
      (bits (leAt body (16 + 4 * i) 4) 13 0, bits (leAt body (16 + 4 * i) 4) 23 16) }

section
variable {s : State} {p : Nat}

/-- Before a START, or from a peer of no position, a START_ACK is dropped. -/
theorem startAckIn_dropped (body : Bytes) (h : s.comb.started = false ∨ peerIdx s p = none) : startAckIn s p body = s := by
  unfold startAckIn
  split
  next => rfl
  next y hy =>
    have hstarted : s.comb.started = false := h.resolve_right (by simp [hy])
    exact if_pos (by simp [hstarted])

/-- The START_ACK of a child is stored as its STATUS says, and the start goes on. -/
theorem startAckIn_child {body : Bytes} {y : Nat} (hp : peerIdx s p = some y) (hs : s.comb.started = true)
    (hc : (childrenOf s (ownIdx s)).contains y = true) :
    startAckIn s p body =
      startSettle (putAck s (if bits (leAt body 0 16) 23 16 = 0 then coverOf y body else refusalOf y body)) := by
  simp only [startAckIn, hp, hs, hc, coverOf, refusalOf]
  by_cases hcode : bits (leAt body 0 16) 23 16 = 0
  · simp [hcode]
  · simp [hcode]

end

/-! ## GO (R350) -/

section
variable {s : State} {tag memb : Nat} {body : Bytes}

/-- GO outside JOINING, after GO, or of another job is dropped. -/
theorem goIn_dropped (h : memberState s ≠ 1 ∨ s.comb.going = true ∨ tag ≠ rd s R.CMB_JOB_JOB_TAG ∨ memb ≠ rd s R.CMB_JOB_MEMB_EPOCH) :
    goIn s tag memb body = s := if_pos h

/-- GO of the job that a JOINING member waits for is forwarded and applied. -/
theorem goIn_applied (hst : memberState s = 1) (hgo : s.comb.going = false) (htag : tag = rd s R.CMB_JOB_JOB_TAG)
    (hmemb : memb = rd s R.CMB_JOB_MEMB_EPOCH) :
    goIn s tag memb body = goApply (sendGo (setExcl s (idxList (body.drop 16) (bits (leAt body 0 16) 79 48)))) :=
  if_neg (by simp [hst, hgo, htag, hmemb])

end

/-! ## The wait for the subtrees (R349) -/

/-- The children that have not answered a START. -/
def silentKids (s : State) : List Nat := (childrenOf s (ownIdx s)).filter fun y => (ackFrom s y).isNone

@[simp] theorem silentKids_begin (s : State) : silentKids (begin s) = silentKids s := by
  simp only [silentKids, ownIdx_begin, childrenOf_begin]
  rfl

section
variable {s : State}

theorem startTimeout_idle (h : s.comb.started = false ∨ s.comb.going = true ∨ s.comb.acked = true) : startTimeout s = s := by
  refine if_pos ?_
  rcases h with h | h | h
  · simp [h]
  · simp [h]
  · simp [h]

/-- While the start waits for its children the time-out counts the silent ones as unreached. -/
theorem startTimeout_waiting (hs : s.comb.started = true) (hg : s.comb.going = false) (ha : s.comb.acked = false) :
    startTimeout s = if silentKids s = [] then s else startSettle ((silentKids s).foldl
      (fun t y => putAck t { child := y, covered := 0, unreached := [(y, ecRemoteDead)] }) s) :=
  if_neg (by simp [hs, hg, ha])

end

/-- Settles O23, message by message; what a START does is so by definition. -/
theorem joinAndStartOverTheTree : Obligations.JoinAndStartOverTheTree := by
  unfold Obligations.JoinAndStartOverTheTree
  refine ⟨?join, fun _ _ _ _ _ => rfl, ?ack, ?noAck, ?noGo, ?go, ?idle, ?waiting⟩
  case join =>
    intro q s r hr
    exact congrArg Host.Outcome.next (joinEffect_active (s := begin s) hr)
  case ack =>
    intro p body s y hp hs hc v
    have hkid : (childrenOf (begin s) (ownIdx (begin s))).contains y = true := by
      rw [childrenOf_begin]
      exact hc
    have hack := startAckIn_child (s := begin s) (body := body) hp hs hkid
    refine ⟨fun hcode => ?_, fun hcode => ?_⟩
    · rw [if_neg hcode] at hack
      exact congrArg Host.Outcome.next hack
    · rw [if_pos hcode] at hack
      exact congrArg Host.Outcome.next hack
  case noAck =>
    intro p body s h
    exact congrArg Host.Outcome.next (startAckIn_dropped (s := begin s) body h)
  case noGo =>
    intro tag memb body s h
    exact congrArg Host.Outcome.next (goIn_dropped (s := begin s) h)
  case go =>
    intro tag memb body s hst hgo htag hmemb
    exact congrArg Host.Outcome.next (goIn_applied (s := begin s) hst hgo htag hmemb)
  case idle =>
    intro s h
    exact congrArg Host.Outcome.next (startTimeout_idle (s := begin s) h)
  case waiting =>
    intro s hs hg ha gone
    have hwait := startTimeout_waiting (s := begin s) hs hg ha
    rw [silentKids_begin] at hwait
    exact congrArg Host.Outcome.next hwait

end Sys2Proof.Machine
end

section
/-! PROOFS. Declaring a loss (R360, R386): a declaration marks its position as one whose LOST has passed here. -/

namespace Sys2Proof.Machine

/-- A member that has joined a list of two positions and waits for its GO: both positions are JOINING, and neither has a peer entry. -/
def joiningPair : State :=
  { State.reset with
    comb := { State.reset.comb with listN := 2 }
    regs := put State.reset.regs R.CMB_RANK_STATE 1
    tab := put (put State.reset.tab (tkey 0x0E 0 0) (at' 1 72)) (tkey 0x0E 0 1) (at' 1 72) }

/-- Position 1 of `joiningPair` declared lost is marked; learning its loss alone marks nothing. -/
theorem joiningPair_lostSeen : (declare joiningPair 1).comb.lostSeen = [1] ∧
    (toTree (learnLost joiningPair 1 (cmbRank joiningPair)) none
      (treeNear joiningPair ++ treeNear (learnLost joiningPair 1 (cmbRank joiningPair)))
      (membMsg 4 1 0 (cmbRank joiningPair) (capped joiningPair) [])).comb.lostSeen = [] := by
  decide

/-- Refutes O24 by its last clause, which gives the state after a declaration without the note that the position's LOST has passed here. In
`joiningPair` the declaration of position 1 leaves that note. -/
theorem not_lossesAreDeclaredAndLearned : ¬ Obligations.LossesAreDeclaredAndLearned := by
  unfold Obligations.LossesAreDeclaredAndLearned
  rintro ⟨-, -, -, -, -, -, -, -, hdeclare⟩
  have heq := hdeclare joiningPair 1 (by decide) (by decide)
  obtain ⟨hmarked, hplain⟩ := joiningPair_lostSeen
  rw [← heq, hmarked] at hplain
  exact List.cons_ne_nil _ _ hplain

end Sys2Proof.Machine
end

section
/-! PROOFS. LEAVE (R354): how it starts, waits and is refused, and how TEARDOWN is released. -/

namespace Sys2Proof.Machine

/-- Some epoch above the capped one is open here. -/
abbrev someOpen (s : State) : Bool := (uncapped s).any (isOpen s)

section
variable {s : State} {q i : Nat} {down : Bool}

theorem leaveSettle_draining (h : s.comb.leave = some (q, i, false)) :
    leaveSettle s = if someOpen s = true then s else teardown s q i := by
  simp only [leaveSettle, h]

/-- A LEAVE noted goes on: past its TEARDOWN, or while an epoch is open, there is nothing to do. -/
theorem leaveGoesOn (h : s.comb.leave = some (q, i, down)) :
    (if down then s else leaveSettle s) = if down = true ∨ someOpen s = true then s else teardown s q i := by
  cases down
  case true => simp
  case false => simp [leaveSettle_draining h]

end

/-- The state with a LEAVE noted that has not torn down yet. -/
def leaveNoted (s : State) (q i : Nat) : State :=
  setComb (keepRunning s q i [70]) { s.comb with leave := some (q, i, false) }

section
variable {s : State} {q sub : Nat} {r : Run} (hr : activeRun s q 0x0B sub = some r)
include hr

/-- With a LEAVE noted that one goes on, and another is refused. -/
theorem leaveEffect_noted {lq li : Nat} {down : Bool} (h : s.comb.leave = some (lq, li, down)) :
    leaveEffect s q sub = if lq = q ∧ li = r.idx then
        (if down = true ∨ someOpen s = true then s else teardown s lq li)
      else finish s q r.idx ecDescriptor 0 0 := by
  simp only [leaveEffect, hr, h, leaveGoesOn h]

/-- Outside the states that can leave, and under another tag, a LEAVE is refused. -/
theorem leaveEffect_refused (h : s.comb.leave = none)
    (hbad : [1, 2, 3, 4, 6].contains (memberState s) = false ∨ opd r.raw 23 0 ≠ rd s R.CMB_JOB_JOB_TAG) :
    leaveEffect s q sub = finish s q r.idx ecDescriptor 0 0 := by
  simp only [leaveEffect, hr, h]
  refine if_pos ?_
  rcases hbad with hst | htag
  · simp only [hst, Bool.not_false, Bool.true_or]
  · simp [htag]

/-- A first LEAVE that is fit is noted; it tears down at once when it is immediate, or when no epoch is open. -/
theorem leaveEffect_starts (h : s.comb.leave = none) (hst : [1, 2, 3, 4, 6].contains (memberState s) = true)
    (htag : opd r.raw 23 0 = rd s R.CMB_JOB_JOB_TAG) :
    leaveEffect s q sub = if sub = 1 ∨ someOpen (leaveNoted s q r.idx) = false then teardown (leaveNoted s q r.idx) q r.idx
      else leaveNoted s q r.idx := by
  have hfit : ¬ (!([1, 2, 3, 4, 6].contains (memberState s)) || opd r.raw 23 0 != rd s R.CMB_JOB_JOB_TAG) = true := by
    simp only [hst, htag, Bool.not_true, bne_self_eq_false, Bool.or_false, Bool.false_eq_true, not_false_eq_true]
  have hgo : leaveEffect s q sub = if sub = 1 then teardown (leaveNoted s q r.idx) q r.idx
      else leaveSettle (leaveNoted s q r.idx) := by
    simp only [leaveEffect, hr, h]
    exact if_neg hfit
  rw [hgo, leaveSettle_draining (q := q) (i := r.idx) rfl]
  by_cases hsub : sub = 1
  · simp only [hsub, true_or, if_true]
  · cases hopen : someOpen (leaveNoted s q r.idx)
    · simp [hsub]
    · simp [hsub]

end

section
variable {s : State}

/-- Outside TEARDOWN nothing is released. -/
theorem releaseEffect_outside (h : memberState s ≠ 8) : releaseEffect s = s := if_pos h

/-- TEARDOWN that no LEAVE began is released. -/
theorem releaseEffect_noLeave (h : memberState s = 8) (hl : s.comb.leave = none) :
    releaseEffect s = releaseJob (joinsEnd s ecDescriptor 0) := by
  unfold releaseEffect
  rw [if_neg (not_not_intro h), hl]

/-- TEARDOWN is released and its LEAVE completes. -/
theorem releaseEffect_leave {q i : Nat} {down : Bool} (h : memberState s = 8) (hl : s.comb.leave = some (q, i, down)) :
    releaseEffect s = finish (releaseJob (joinsEnd s ecDescriptor 0)) q i 0 0 0 := by
  unfold releaseEffect
  rw [if_neg (not_not_intro h), hl]

/-- A LEAVE of either kind. -/
theorem exec_leave {q : Fin 16} {sub : Nat} {c : Instr} (hc : (sub = 0 ∧ c = .leaveDrain q) ∨ (sub = 1 ∧ c = .leaveImmediate q)) :
    exec c s = .next (leaveEffect (begin s) q sub) := by
  rcases hc with ⟨rfl, rfl⟩ | ⟨rfl, rfl⟩
  · rfl
  · rfl

end

/-- Settles O25, from the LEAVE that is noted, refused or starts, and from what TEARDOWN_RELEASE finds. -/
theorem leaveTearsDownAndReleases : Obligations.LeaveTearsDownAndReleases := by
  unfold Obligations.LeaveTearsDownAndReleases
  refine ⟨?leave, ?outside, ?noLeave, ?released⟩
  case leave =>
    intro q s r sub c hc hr
    rw [exec_leave hc]
    exact ⟨fun lq li down h => congrArg Host.Outcome.next (leaveEffect_noted (s := begin s) hr h),
      fun h hbad => congrArg Host.Outcome.next (leaveEffect_refused (s := begin s) hr h hbad),
      fun h hst htag => congrArg Host.Outcome.next (leaveEffect_starts (s := begin s) hr h hst htag)⟩
  case outside =>
    intro s h
    exact congrArg Host.Outcome.next (releaseEffect_outside (s := begin s) h)
  case noLeave =>
    intro s h hl
    exact congrArg Host.Outcome.next (releaseEffect_noLeave (s := begin s) h hl)
  case released =>
    intro s q i down h hl
    exact congrArg Host.Outcome.next (releaseEffect_leave (s := begin s) h hl)

end Sys2Proof.Machine
end

section
/-! PROOFS. Waggles and fault reports (R356, R357, R359): what each does, by the position it comes from or names. -/

namespace Sys2Proof.Machine

/-- A waggle of position x noted: its capped epoch, the time it was heard, and a REBUILDING it tells of itself
(notes/assumptions/52). -/
def waggleNoted (s : State) (x : Nat) (body : Bytes) : State :=
  let s1 := tput s 0x0E 0 x (setBits (member s x) 47 0 (bits (leAt body 0 22) 47 0))
  let s2 := setComb s1 { s.comb with heard := put s.comb.heard x (rd s R.TIME_TOD + 1) }
  if bits (leAt body 0 22) 51 48 = 6 ∧ memState (member s2 x) = 2 then memberTo s2 x 6 else s2

section
variable {s : State} {p : Nat} {body : Bytes}

theorem waggleIn_unlisted (h : peerIdx s p = none) : waggleIn s p body = s := by
  simp only [waggleIn, h]

theorem faultIn_unlisted (h : peerIdx s p = none) : faultIn s p body = s := by
  simp only [faultIn, h]

section
variable {x : Nat} (hp : peerIdx s p = some x)
include hp

/-- A waggle of another comb, or of a position held LOST, is dropped. -/
theorem waggleIn_foreign (h : memComb (member s x) ≠ ownComb s ∨ memState (member s x) = 7) : waggleIn s p body = s := by
  simp only [waggleIn, hp]
  exact if_pos h

/-- A waggle of a comb member is noted, its capped epoch is taken up, and its digest is compared. -/
theorem waggleIn_member (hcomb : memComb (member s x) = ownComb s) (hst : memState (member s x) ≠ 7) :
    waggleIn s p body = peerDigest (capLearn (waggleNoted s x body) (bits (leAt body 0 22) 47 0) false) x
      (bits (leAt body 0 22) 175 128) (bits (leAt body 0 22) 127 64) := by
  simp only [waggleIn, hp]
  refine if_neg ?_
  rintro (h | h)
  · exact h hcomb
  · exact hst h

/-- A report about a position beyond the list is dropped; this member takes another one as guard. -/
theorem faultIn_listed :
    faultIn s p body = if s.comb.listN ≤ bits (leAt body 0 32) 13 0 then s
      else guardReport s (bits (leAt body 0 32) 13 0) (bits (leAt body 0 32) 19 16) (bits (leAt body 0 32) 63 32) x := by
  simp only [faultIn, hp]

end
end

/-- Settles O27, from what a waggle and a report do by their peer; the sending and the silence are so by definition. -/
theorem wagglesAndReports : Obligations.WagglesAndReports := by
  unfold Obligations.WagglesAndReports
  refine ⟨fun _ => rfl, ?waggle, ?unlisted, fun _ _ => rfl, ?report⟩
  case waggle =>
    intro p body s x hp v
    exact ⟨fun h => congrArg Host.Outcome.next (waggleIn_foreign (s := begin s) hp h),
      fun hcomb hst => congrArg Host.Outcome.next (waggleIn_member (s := begin s) hp hcomb hst)⟩
  case unlisted =>
    intro p body s hp
    exact ⟨congrArg Host.Outcome.next (waggleIn_unlisted (s := begin s) hp),
      congrArg Host.Outcome.next (faultIn_unlisted (s := begin s) hp)⟩
  case report =>
    intro p body s y hp
    exact congrArg Host.Outcome.next (faultIn_listed (s := begin s) hp)

end Sys2Proof.Machine
end

section
/-! PROOFS. REBUILD (R369, R370, R373, R376): refused, done with a keeper, waiting for REBUILT, or started on this device. -/

namespace Sys2Proof.Machine

/-- A REBUILD whose rank another device has taken waits for its REBUILT, and the requests that came early are judged. -/
def rebuildWaits (s : State) (q i rank : Nat) : State :=
  takeReqs (refreshRecord (keepRunning (setRbd s { s.rbd with waits := s.rbd.waits ++ [(q, i, rank)] }) q i [rank]))

section
variable {s : State} {q : Nat} {r : Run} (hr : activeRun s q 7 0 = some r)
include hr

theorem rebuildEffect_running (hp : r.phase = .running) : rebuildEffect s q = s := by
  simp only [rebuildEffect, hr, hp, if_true]

section
variable (hp : r.phase ≠ .running)
include hp

/-- While an uncapped epoch is open a REBUILD is refused. -/
theorem rebuildEffect_open (ho : someOpen s = true) : rebuildEffect s q = finish s q r.idx ecDescriptor 0 0 := by
  simp only [rebuildEffect, hr]
  exact (if_neg hp).trans (if_pos ho)

section
variable (ho : someOpen s = false)
include ho

/-- With no spare named a LOST rank gets a keeper and the REBUILD completes; a rank that is not LOST is refused. -/
theorem rebuildEffect_keeper {x : Nat} (hsp : opd r.raw 15 4 = 0xFFF) (hx : rankIdx s (opd r.raw 3 0) = some x) :
    rebuildEffect s q = if memState (member s x) = 7 then
        finish (refreshRecord (keepRank s x (opd r.raw 3 0))) q r.idx 0 0 0
      else finish s q r.idx ecDescriptor 0 0 := by
  simp only [rebuildEffect, hr, hx]
  exact (if_neg hp).trans ((if_neg (ne_true_of_eq_false ho)).trans (if_pos hsp))

/-- With a spare named that is not admitted, or a rank that no position holds, a REBUILD is refused. -/
theorem rebuildEffect_unfit (hsp : opd r.raw 15 4 ≠ 0xFFF)
    (h : ∀ y, peerIdx s (opd r.raw 15 4) = some y → deviceKind s (opd r.raw 3 0) y = 0 ∨ rankIdx s (opd r.raw 3 0) = none) :
    rebuildEffect s q = finish s q r.idx ecDescriptor 0 0 := by
  simp only [rebuildEffect, hr]
  refine (if_neg hp).trans ((if_neg (ne_true_of_eq_false ho)).trans ((if_neg hsp).trans ?_))
  split
  next => rfl
  next y hy => exact if_pos ((h y hy).imp_right fun hnone => by simp [hnone])

/-- A rank that no position holds is not rebuilt. -/
theorem rebuildEffect_noRank (hnone : rankIdx s (opd r.raw 3 0) = none) :
    rebuildEffect s q = finish s q r.idx ecDescriptor 0 0 := by
  by_cases hsp : opd r.raw 15 4 = 0xFFF
  · simp only [rebuildEffect, hr, hnone]
    exact (if_neg hp).trans ((if_neg (ne_true_of_eq_false ho)).trans (if_pos hsp))
  · exact rebuildEffect_unfit hr hp ho hsp fun _ _ => .inr hnone

/-- An admitted spare takes the rank: this block starts to rebuild, another device is waited for. -/
theorem rebuildEffect_device {y : Nat} (hsp : opd r.raw 15 4 ≠ 0xFFF) (hy : peerIdx s (opd r.raw 15 4) = some y)
    (hk : deviceKind s (opd r.raw 3 0) y ≠ 0) (hx : (rankIdx s (opd r.raw 3 0)).isSome = true) :
    rebuildEffect s q =
      let rank := opd r.raw 3 0
      let s1 := takeRank s rank y (deviceKind s rank y)
      if y = ownIdx s1 then deviceStart s1 q r.idx rank (deviceKind s rank y) else rebuildWaits s1 q r.idx rank := by
  have hfit : ¬ (deviceKind s (opd r.raw 3 0) y = 0 ∨ (rankIdx s (opd r.raw 3 0)).isNone = true) := by
    rw [Option.isNone_iff_eq_none, not_or]
    exact ⟨hk, Option.isSome_iff_ne_none.mp hx⟩
  simp only [rebuildEffect, hr, hy]
  exact (if_neg hp).trans ((if_neg (ne_true_of_eq_false ho)).trans ((if_neg hsp).trans (if_neg hfit)))

end
end
end

/-- Settles O28, from the REBUILD that is refused, gets a keeper or a device; what REBUILT does is so by definition. -/
theorem rebuildStartsOrWaits : Obligations.RebuildStartsOrWaits := by
  unfold Obligations.RebuildStartsOrWaits
  refine ⟨?rebuild, fun _ _ => rfl⟩
  intro q s r hr rank sp bad
  refine ⟨fun hp => ?running, fun hp h => ?refused, fun x hp ho hsp hx => ?keeper, fun hp ho hsp h => ?unfit,
    fun y hp ho hsp hy hk hx => ?device⟩
  case running => exact congrArg Host.Outcome.next (rebuildEffect_running (s := begin s) hr hp)
  case refused =>
    cases ho : someOpen s with
    | true => exact congrArg Host.Outcome.next (rebuildEffect_open (s := begin s) hr hp ho)
    | false =>
      have hnone : rankIdx s rank = none := h.resolve_left (ne_true_of_eq_false ho)
      exact congrArg Host.Outcome.next (rebuildEffect_noRank (s := begin s) hr hp ho hnone)
  case keeper => exact congrArg Host.Outcome.next (rebuildEffect_keeper (s := begin s) hr hp ho hsp hx)
  case unfit =>
    exact congrArg Host.Outcome.next (rebuildEffect_unfit (s := begin s) hr hp ho hsp fun y hy => .inl (h y hy))
  case device =>
    intro s1
    have hdevice := rebuildEffect_device (s := begin s) hr hp ho hsp hy hk hx
    exact ⟨fun hown => congrArg Host.Outcome.next (hdevice.trans (if_pos hown)),
      fun hother => congrArg Host.Outcome.next (hdevice.trans (if_neg hother))⟩

end Sys2Proof.Machine
end

section
/-! PROOFS. RESTORE (R348, R381 to R386, R422): its start from coded state or from a seal image, and its rounds. -/

namespace Sys2Proof.Machine

/-! ## The start -/

section
variable {s : State} {q : Nat} {r : Run} (hr : activeRun s q 8 0 = some r)
include hr

theorem restoreEffect_running (hp : r.phase = .running) : restoreEffect s q = s := by
  simp only [restoreEffect, hr, hp, if_true]

section
variable (hp : r.phase ≠ .running)
include hp

/-- A member that waits for no RESTORE, or runs one, refuses it. -/
theorem restoreEffect_refused (h : s.comb.needRestore = false ∨ s.comb.rs.isSome = true ∨ s.spine.load.isSome = true) :
    restoreEffect s q = finish s q r.idx ecDescriptor 0 0 := by
  simp only [restoreEffect, hr]
  refine (if_neg hp).trans (if_pos ?_)
  rcases h with h | h | h
  · simp [h]
  · simp [h]
  · simp [h]

/-- A RESTORE that is due starts from its SOURCE. -/
theorem restoreEffect_due (hneed : s.comb.needRestore = true) (hrs : s.comb.rs = none) (hload : s.spine.load = none) :
    restoreEffect s q = if opd r.raw 48 48 = 1 then restoreSeal s q r else restoreStart s q r := by
  simp only [restoreEffect, hr]
  exact (if_neg hp).trans (if_neg (by simp [hneed, hrs, hload]))

end
end

/-! ## From a seal image (R422) -/

/-- A RESTORE begins to load the image that record h in a slot names: from the board tier, or from the peer that keeps it. -/
def loadBegins (s : State) (q i h slot : Nat) : State :=
  let need := hdrSealCells h + crcCells (hdrSealCells h)
  let l : SealLoad := { queue := q, idx := i, hdr := h, slot := slot, got := [], bad := [] }
  if hdrSealPeer h = 0xFFF then
    loadSettle ((List.range need).foldl (fun t i => tierRequest t loadOwner false (sealSlot t (hdrSealHalf h) i) 0 cellSize)
      (setSpine s { s.spine with load := some { l with
        got := (List.range need).map fun i => (i, boardRead s (sealSlot s (hdrSealHalf h) i) 0 cellSize) } }))
  else if (!peerValid (peerEntry s (hdrSealPeer h)) || (peerIdx s (hdrSealPeer h)).isNone) = true then
    finish s q i ecDescriptor 0 0
  else loadSettle ((sealRequests h 4 0 need).foldl (fun t b => sendMsg t (hdrSealPeer h) 0x0E 0 b)
    (setSpine s { s.spine with load := some l }))

section
variable {s : State} {q : Nat} {r : Run}

/-- A spine without a valid record fails the RESTORE. -/
theorem restoreSeal_noRecord (h : (readSpine s).2 = none) : restoreSeal s q r = finish (readSpine s).1 q r.idx 0x10 0 0 := by
  simp only [restoreSeal, h, takeSpine]

section
variable {h slot : Nat} (hx : (readSpine s).2 = some (h, slot))
include hx

/-- A record that names no image, or the image of another epoch, fails the RESTORE. -/
theorem restoreSeal_otherEpoch (hbad : hdrSealValid h = false ∨ hdrSealEpoch h ≠ opd r.raw 47 0) :
    restoreSeal s q r = finish (takeSpine (readSpine s).1 (some (h, slot))) q r.idx 0x04 0 0 := by
  simp only [restoreSeal, hx]
  refine if_pos ?_
  rcases hbad with hv | he
  · simp [hv]
  · simp [he]

/-- A record of the epoch's image is loaded. -/
theorem restoreSeal_loads (hv : hdrSealValid h = true) (he : hdrSealEpoch h = opd r.raw 47 0) :
    restoreSeal s q r =
      loadBegins (keepRunning (takeSpine (readSpine s).1 (some (h, slot))) q r.idx [opd r.raw 47 0]) q r.idx h slot := by
  simp only [restoreSeal, hx]
  exact if_neg (by simp [hv, he])

end
end

/-! ## Reports and decisions (R381, R382, R386) -/

/-- The round that this node's reports are of. -/
def currentRound (s : State) : Nat :=
  match s.comb.rs with
  | some r => r.round
  | none => 1

/-- What a subtree's RS_REPORT says, of a child and a round. -/
def rsRepOf (y round : Nat) (body : Bytes) : RsRep :=
  { child := y, round := round, ok := bit (bits (leAt body 0 16) 79 48) 0, lo := bits (leAt body 0 16) 127 80, hi := leAt body 16 6 }

/-- The state with a fresh member noted. -/
def freshNoted (s : State) (x : Nat) : State :=
  setComb s { s.comb with rsFresh := (s.comb.rsFresh.filter (· != x)) ++ [x] }

section
variable {s : State} {p : Nat} {body : Bytes}

/-- RS_REPORT of a peer that the list does not hold is dropped. -/
theorem rsReportIn_unlisted (hp : peerIdx s p = none) : rsReportIn s p body = s := by
  simp only [rsReportIn, hp]

section
variable {y : Nat} (hp : peerIdx s p = some y)
include hp

/-- The report of a fresh member is noted and passed up. -/
theorem rsReportIn_fresh (hf : bit (bits (leAt body 0 16) 79 48) 1 = true) :
    rsReportIn s p body =
      let s1 := freshNoted s (bits (leAt body 0 16) 47 34)
      if amRoot s1 then s1 else sendReport s1 (bits (leAt body 0 16) 47 34) true true noCap 0 := by
  simp only [rsReportIn, hp]
  exact if_pos hf

/-- The report of a subtree takes the place of its earlier one of the round, and the rounds go on. -/
theorem rsReportIn_subtree (hf : bit (bits (leAt body 0 16) 79 48) 1 = false) :
    rsReportIn s p body = rsRounds (setComb s { s.comb with rsReps :=
      (s.comb.rsReps.filter fun x => !(x.child == y && x.round == currentRound s)) ++ [rsRepOf y (currentRound s) body] }) := by
  simp only [rsReportIn, hp]
  exact if_neg (ne_true_of_eq_false hf)

end

/-- Where no RESTORE runs a refusal is passed on, and another decision has no effect. -/
theorem rsDecideIn_idle (h : s.comb.rs = none) :
    rsDecideIn s body = if bits (leAt body 0 16) 49 48 = 2 then
        sendDecide s 2 (bits (leAt body 0 16) 23 16) (bits (leAt body 0 16) 127 80)
      else s := by
  simp only [rsDecideIn, h]

section
variable {r : RsRun} (h : s.comb.rs = some r)
include h

theorem rsDecideIn_dropped (hd : r.source ≠ 0 ∨ bits (leAt body 0 16) 49 48 = 3) : rsDecideIn s body = s := by
  simp only [rsDecideIn, h]
  exact if_pos hd

section
variable (hsrc : r.source = 0)
include hsrc

/-- The decision for round 2 is passed on, the member checks itself, and its round 2 begins. -/
theorem rsDecideIn_round2 (hwhat : bits (leAt body 0 16) 49 48 = 0) :
    rsDecideIn s body =
      let target := bits (leAt body 0 16) 127 80
      let c := splitCheck (sendDecide s 0 0 target) target
      rsSettle (setComb c.1 { c.1.comb with rs := some { r with round := 2, target := target, split := c.2 } }) := by
  simp only [rsDecideIn, h]
  exact (if_neg (by simp [hsrc, hwhat])).trans (if_pos hwhat)

/-- A verdict is passed on and ends the RESTORE, as OK or with its STATUS. -/
theorem rsDecideIn_verdict (hwhat : bits (leAt body 0 16) 49 48 = 1 ∨ bits (leAt body 0 16) 49 48 = 2) :
    rsDecideIn s body = restoreVerdict s r
      (if bits (leAt body 0 16) 49 48 = 1 then 0 else bits (leAt body 0 16) 23 16) (bits (leAt body 0 16) 127 80) := by
  simp only [rsDecideIn, h]
  exact (if_neg (by omega)).trans (if_neg (by omega))

end

/-- The wait for reports of round 1 ends the RESTORE with REMOTE_DEAD at the root, and does nothing elsewhere. -/
theorem restoreTimeout_running :
    restoreTimeout s = if amRoot s = true ∧ r.source = 0 ∧ r.round = 1 then restoreVerdict s r ecRemoteDead 0 else s := by
  simp only [restoreTimeout, h]

end

theorem restoreTimeout_idle (h : s.comb.rs = none) : restoreTimeout s = s := by
  simp only [restoreTimeout, h]

end

/-- Settles O30, from the start of a RESTORE by its SOURCE and from what a report, a decision and the time-out do. -/
theorem restoreRunsItsRounds : Obligations.RestoreRunsItsRounds := by
  unfold Obligations.RestoreRunsItsRounds
  refine ⟨?start, ?unlisted, ?report, ?idle, ?decide, ?noTimeout, ?timeout⟩
  case start =>
    intro q s r hr
    refine ⟨fun hp => congrArg Host.Outcome.next (restoreEffect_running (s := begin s) hr hp),
      fun hp h => congrArg Host.Outcome.next (restoreEffect_refused (s := begin s) hr hp h), fun hp hneed hrs hload => ?_⟩
    have hdue := restoreEffect_due (s := begin s) hr hp hneed hrs hload
    have hseal {t : State} (hsrc : opd r.raw 48 48 = 1) (ht : restoreSeal (begin s) q r = t) : exec (.restore q) s = .next t :=
      congrArg Host.Outcome.next (hdue.trans ((if_pos hsrc).trans ht))
    refine ⟨fun hsrc => congrArg Host.Outcome.next (hdue.trans (if_neg hsrc)), fun hsrc hx => hseal hsrc (restoreSeal_noRecord hx), ?_⟩
    intro h slot hsrc hx s1 s2 need l loading
    exact ⟨fun hbad => hseal hsrc (restoreSeal_otherEpoch hx hbad), fun hv he => hseal hsrc (restoreSeal_loads hx hv he)⟩
  case unlisted =>
    intro p body s hp
    exact congrArg Host.Outcome.next (rsReportIn_unlisted (s := begin s) hp)
  case report =>
    intro p body s y hp v
    exact ⟨fun hf => congrArg Host.Outcome.next (rsReportIn_fresh (s := begin s) hp hf),
      fun hf => congrArg Host.Outcome.next (rsReportIn_subtree (s := begin s) hp hf)⟩
  case idle =>
    intro body s h
    exact congrArg Host.Outcome.next (rsDecideIn_idle (s := begin s) h)
  case decide =>
    intro body s r h v
    refine ⟨fun hd => congrArg Host.Outcome.next (rsDecideIn_dropped (s := begin s) h hd),
      fun hsrc hwhat => congrArg Host.Outcome.next (rsDecideIn_round2 (s := begin s) h hsrc hwhat),
      fun hsrc hwhat => ?ok, fun hsrc hwhat => ?refusal⟩
    case ok =>
      have hverdict := rsDecideIn_verdict (s := begin s) h hsrc (.inl hwhat)
      rw [if_pos hwhat] at hverdict
      exact congrArg Host.Outcome.next hverdict
    case refusal =>
      have hverdict := rsDecideIn_verdict (s := begin s) h hsrc (.inr hwhat)
      rw [if_neg (hwhat.trans_ne (by decide))] at hverdict
      exact congrArg Host.Outcome.next hverdict
  case noTimeout =>
    intro s h
    exact congrArg Host.Outcome.next (restoreTimeout_idle (s := begin s) h)
  case timeout =>
    intro s r h
    exact congrArg Host.Outcome.next (restoreTimeout_running (s := begin s) h)

end Sys2Proof.Machine
end

section
/-! PROOFS. The repair of a parity cell (R392): the write it ends in is requested with PRIO. -/

namespace Sys2Proof.Machine

section
variable {s : State} {p : Nat} {x : DegRead}

/-- A known SUSPECT parity cell without an undo whose read is back and sound is written, with PRIO, when what was read matches the
ledger's check. -/
theorem parityRepair_writes (hcell : p < parCells s) (hsuspect : lSuspect (ledgerP s p) = true)
    (hknown : s.hl.lost.contains (true, p) = false) (hundo : xUndoB (ledgerX s p) = 0)
    (hread : repairRead s true p = some x) (htodo : x.todo = []) (hout : x.out = 0) (hgood : x.bad = false)
    (hcap : (repairOf s true p).waitCap = 0) (hcrc : crc64 x.bytes = lCrc (ledgerP s p)) :
    parityRepair s p = repairEnd (memWrite (closeWindow s x) hlOwner true (parPlace s p).1 ((parPlace s p).2 * cellSize) x.bytes)
      true p := by
  have hdue : ¬ (parCells s ≤ p ∨ (!lSuspect (ledgerP s p)) = true) := by
    simp only [hsuspect, Bool.not_true, Bool.false_eq_true, or_false, not_le, hcell]
  have hlost : ¬ s.hl.lost.contains (true, p) = true := ne_true_of_eq_false hknown
  have hback : ¬ (x.todo ≠ [] ∨ x.out ≠ 0) := not_or.mpr ⟨not_not_intro htodo, not_not_intro hout⟩
  simp only [parityRepair, hread]
  rw [if_neg hdue, if_neg fun h => hlost h.1, if_neg hback, if_neg (ne_true_of_eq_false hgood), if_neg hlost,
    if_neg (not_not_intro hcap), if_neg (not_not_intro hundo), if_pos hcrc]

end

/-- The read of parity cell 0 for its repair, back and sound: one byte of 0. -/
def parityRead : DegRead :=
  { id := 0, use := .repair true 0, bytes := [0], todo := [], out := 0, bad := false, badPeers := [], rank := 0, stripe := 0,
    live := false, grans := [], except := [] }

/-- A member with one parity cell, on stack 0 and SUSPECT in the ledger at slot 1, and the read for its repair back. -/
def suspectParity : State :=
  { State.reset with
    regs := [(R.CMB_GEOM_N, 1), (R.CMB_GEOM_M, 1), (R.CMB_GEOM_S, 1), (R.CMB_STKMASK, 1), (R.CMB_LEDGER_BASE, 1)].foldl
      (fun m e => put m e.1 e.2) State.reset.regs
    hbm := mput State.reset.hbm (cellSize + 8) 8
    hive := { State.reset.hive with degs := [parityRead] } }

/-- What the repair of `suspectParity` comes to, its write with PRIO or without. -/
def parityWritten (prio : Bool) : State :=
  repairEnd (memWrite (closeWindow (begin suspectParity) parityRead) hlOwner prio (parPlace suspectParity 0).1
    ((parPlace suspectParity 0).2 * cellSize) parityRead.bytes) true 0

/-- `suspectParity` is due for the write: cell 0 exists, is SUSPECT and known, has no undo, waits for no cap, and matches its check. -/
theorem suspectParity_due :
    0 < parCells suspectParity ∧ lSuspect (ledgerP suspectParity 0) = true ∧
      suspectParity.hl.lost.contains (true, 0) = false ∧ xUndoB (ledgerX suspectParity 0) = 0 ∧
      repairRead suspectParity true 0 = some parityRead ∧ (repairOf suspectParity true 0).waitCap = 0 ∧
      crc64 parityRead.bytes = lCrc (ledgerP suspectParity 0) := by
  decide

/-- The requests that wait at port 0 afterwards all carry PRIO in the one case, and not in the other. -/
theorem parityWritten_prio (prio : Bool) : (mrpOf (parityWritten prio) 0).reqs.all (·.prio) = prio := by
  cases prio
  · decide +kernel
  · decide +kernel

/-- Refutes O40 by its clause on a parity cell written back, which gives a write without PRIO. PARITY_REPAIR of cell 0 of
`suspectParity` leaves a write with PRIO at port 0. -/
theorem not_maintenanceVisitsAndRepairs : ¬ Obligations.MaintenanceVisitsAndRepairs := by
  unfold Obligations.MaintenanceVisitsAndRepairs
  rintro ⟨-, -, hparity, -⟩
  obtain ⟨hcell, hsuspect, hknown, hundo, hread, hcap, hcrc⟩ := suspectParity_due
  have hdue : ¬ (parCells suspectParity ≤ 0 ∨ lSuspect (ledgerP suspectParity 0) = false ∨
      (suspectParity.hl.lost.contains (true, 0) = true ∧ xUndoB (ledgerX suspectParity 0) ≠ 0)) := by
    rw [hsuspect, hundo]
    simp only [Nat.not_le.mpr hcell, Bool.true_eq_false, ne_eq, not_true_eq_false, and_false, or_false, not_false_eq_true]
  obtain ⟨-, -, hreads⟩ := hparity 0 suspectParity
  obtain ⟨-, -, -, hwrites⟩ := hreads hdue parityRead hread
  have hclaim : parityRepair (begin suspectParity) 0 = parityWritten false :=
    (Host.Outcome.next.inj (hwrites rfl rfl rfl hknown hcap hundo)).trans (if_pos hcrc)
  have hmodel : parityRepair (begin suspectParity) 0 = parityWritten true :=
    parityRepair_writes (s := begin suspectParity) hcell hsuspect hknown hundo hread rfl rfl rfl hcap hcrc
  have hprio := parityWritten_prio false
  rw [← hclaim, hmodel, parityWritten_prio true] at hprio
  exact Bool.noConfusion hprio

end Sys2Proof.Machine
end

section
/-! PROOFS. The health level (R408 to R410): when its dwell's end lowers it. -/

namespace Sys2Proof.Machine

/-- The score at which a level is entered. -/
def levelThreshold (s : State) (l : Nat) : Nat := if l = 2 then rd s R.HLT_ALARM else rd s R.HLT_WATCH

section
variable {s : State}

/-- A level above 0 whose threshold the score with the hysteresis does not reach falls by one. -/
theorem dwellExpiry_lowers (hl : rd s R.HLT_STAT_LEVEL ≠ 0)
    (hv : rd s R.HLT_SCORE_SCORE + rd s R.HLT_HYST < levelThreshold s (rd s R.HLT_STAT_LEVEL)) :
    dwellExpiry s = setLevel s (rd s R.HLT_STAT_LEVEL - 1) :=
  if_neg (not_or.mpr ⟨hl, Nat.not_le.mpr hv⟩)

theorem dwellExpiry_keeps
    (h : rd s R.HLT_STAT_LEVEL = 0 ∨ levelThreshold s (rd s R.HLT_STAT_LEVEL) ≤ rd s R.HLT_SCORE_SCORE + rd s R.HLT_HYST) :
    dwellExpiry s = s := if_pos h

end

/-- Settles O41, from the dwell's end that lowers the level and the one that keeps it; the update is so by definition. -/
theorem healthLevelFollowsTheScore : Obligations.HealthLevelFollowsTheScore := by
  unfold Obligations.HealthLevelFollowsTheScore
  refine ⟨fun _ => rfl, ?dwell⟩
  intro s l thr
  refine (congrArg Host.Outcome.next ?_ : exec .levelDwellExpiry s = _)
  split
  next h => exact dwellExpiry_lowers (s := begin s) h.1 h.2
  next h =>
    have hkeep : l = 0 ∨ thr ≤ rd s R.HLT_SCORE_SCORE + rd s R.HLT_HYST := by omega
    exact dwellExpiry_keeps (s := begin s) hkeep

end Sys2Proof.Machine
end

section
/-! PROOFS. The sensor core's shell (R403 to R406): how a conversion is kept, by its slot of the sub-frame. -/

namespace Sys2Proof.Machine

section
variable {s : State}

theorem subframe_selects (h : s.hl.sub < 3) : subframe s = setHl s { s.hl with sub := s.hl.sub + 1 } := if_pos h

/-- The fourth sub-frame ends the frame: it is counted, the trims are latched, and a correction that waits applies. -/
theorem subframe_endsFrame (h : 3 ≤ s.hl.sub) :
    subframe s = let t := latchTrims (count s C.SNS_FRAMES)
      match t.hl.corr with
      | some c => setHl t { t.hl with sub := 0, offs := c.1, gain := c.2, corr := none }
      | none => setHl t { t.hl with sub := 0 } := if_neg (Nat.not_lt.mpr h)

section
variable {k raw : Nat} {opened : Bool}

theorem conversion_supply (h : k < 16) : conversion s k raw opened = supplyConv s k raw := if_pos h

theorem conversion_zero (h : k = 16 ∨ k = 18) :
    conversion s k raw opened = setHl s { s.hl with zeros := (raw :: s.hl.zeros).take 64 } :=
  (if_neg (by omega)).trans (if_pos h)

theorem conversion_bandgap (h : k = 17 ∨ k = 19) :
    conversion s k raw opened = setHl s { s.hl with gaps := (raw :: s.hl.gaps).take 64 } :=
  (if_neg (by omega)).trans ((if_neg (by omega)).trans (if_pos (by omega)))

/-- A pod's selected point is marked open or not, and an open one is not converted. -/
theorem conversion_pod (h : 20 ≤ k) :
    conversion s k raw opened =
      let p := 4 * (k - 20) + s.hl.sub
      let s1 := wr s R.SNS_POD_OPEN (setBits (rd s R.SNS_POD_OPEN) p p (b2n opened))
      if opened then s1 else thermalConv s1 p raw :=
  (if_neg (by omega)).trans ((if_neg (by omega)).trans (if_neg (by omega)))

end
end

/-- Settles O42, from the two kinds of sub-frame and the four of slots; a calibration and a droop are so by definition. -/
theorem sensorsConvertAndCalibrate : Obligations.SensorsConvertAndCalibrate := by
  unfold Obligations.SensorsConvertAndCalibrate
  refine ⟨?selects, ?endsFrame, ?conversions, fun _ _ _ => rfl, fun _ _ => rfl, fun _ => rfl⟩
  case selects =>
    intro s h
    exact congrArg Host.Outcome.next (subframe_selects (s := begin s) h)
  case endsFrame =>
    intro s h
    exact congrArg Host.Outcome.next (subframe_endsFrame (s := begin s) h)
  case conversions =>
    intro raw opened s
    refine ⟨fun k h => ?zero, fun k h => ?bandgap, fun k h => ?supply, fun k h => ?pod⟩
    case zero =>
      have hk : k.val = 16 ∨ k.val = 18 := h.imp (congrArg Fin.val) (congrArg Fin.val)
      exact congrArg Host.Outcome.next (conversion_zero (s := begin s) hk)
    case bandgap =>
      have hk : k.val = 17 ∨ k.val = 19 := h.imp (congrArg Fin.val) (congrArg Fin.val)
      exact congrArg Host.Outcome.next (conversion_bandgap (s := begin s) hk)
    case supply => exact congrArg Host.Outcome.next (conversion_supply (s := begin s) h)
    case pod => exact congrArg Host.Outcome.next (conversion_pod (s := begin s) h)

end Sys2Proof.Machine
end

section
/-! PROOFS. One step (R443): the front command, or an edge when no command waits. -/

namespace Sys2Proof.Machine

section
variable {s : State}

theorem step_eq_exec {c : Instr} {rest : List Instr} (h : s.pending = c :: rest) :
    step s = exec c { s with pending := rest } := by
  unfold step
  rw [h]

theorem step_eq_idleEdge (h : s.pending = []) : step s = .next (idleEdge s) := by
  unfold step
  rw [h]

end

/-- Settles O57, by whether a command waits. -/
theorem stepRunsTheFrontCommand : Obligations.StepRunsTheFrontCommand := by
  unfold Obligations.StepRunsTheFrontCommand
  constructor
  · intro c rest s
    exact step_eq_exec (s := { s with pending := c :: rest }) rfl
  · intro s h
    exact step_eq_idleEdge h

end Sys2Proof.Machine
end

section
/-! PROOFS. The time and the strobe (R442 to R445): the SNAP commands by what their queue holds, and the edge by whether a
TIME_OFFSET write came since the last one. -/

namespace Sys2Proof.Machine

section
variable {s : State} {q : Nat} {r : Run}

/-- SNAP_NOW does nothing where the queue has no such SNAP under way, or one that has given its cause. -/
theorem snapNow_keeps (h : ((activeRun s q 0x0D 0).all fun r => r.phase == .running) = true) : snapNow s q = s := by
  unfold snapNow
  cases hr : activeRun s q 0x0D 0 with
  | none => rfl
  | some r =>
    have hp : r.phase = .running := by simpa [hr] using h
    exact if_pos hp

/-- A started SNAP of the next edge gives the SNAP cause, and the strobe will complete it. -/
theorem snapNow_started (hr : activeRun s q 0x0D 0 = some r) (hp : r.phase ≠ .running) :
    snapNow s q =
      let s1 := addCause (keepRunning s q r.idx [1]) 8
      setChip s1 { s1.chip with snaps := s1.chip.snaps ++ [(q, r.idx)] } := by
  simp only [snapNow, hr]
  exact if_neg hp

/-- SNAP_AT_TIME does nothing where no such SNAP is under way, and where it has the timer or waits for it. -/
theorem snapAt_keeps
    (h : ((activeRun s q 0x0D 1).all fun r => r.phase == .running || rdb s R.SNP_CTRL_ARM || s.chip.timer.isSome) = true) :
    snapAt s q = s := by
  unfold snapAt
  cases hr : activeRun s q 0x0D 1 with
  | none => rfl
  | some r =>
    have hw : r.phase = .running ∨ rdb s R.SNP_CTRL_ARM ∨ s.chip.timer.isSome := by simpa [hr, or_assoc] using h
    exact if_pos hw

/-- A started SNAP at a time takes the timer while ARM is 0 and no other SNAP holds it. -/
theorem snapAt_started (hr : activeRun s q 0x0D 1 = some r) (hp : r.phase ≠ .running)
    (harm : rdb s R.SNP_CTRL_ARM = false) (hfree : s.chip.timer = none) :
    snapAt s q =
      let s1 := keepRunning s q r.idx [1]
      setChip s1 { s1.chip with
        timer := some { queue := q, idx := r.idx, time := opd r.raw 63 0, late := decide (opd r.raw 63 0 ≤ rd s R.TIME_TOD) } } := by
  have hw : ¬ (r.phase = .running ∨ rdb s R.SNP_CTRL_ARM ∨ s.chip.timer.isSome) := by simp [hp, harm, hfree]
  simp only [snapAt, hr]
  exact if_neg hw

end

/-- An edge up to the TIME_OFFSET sum: TIME_TOD advances, the strobe fires or waits, and a lockout's time runs. -/
def edgeBeforeStep (s : State) : State :=
  lockEdge (edgeStrobe (wr (setChip s { s.chip with frac := nextTime s % 2 ^ 32 }) R.TIME_TOD (nextTime s / 2 ^ 32))
    (nextTime s / 2 ^ 32))

/-- What an edge at time t does with the sum of the TIME_OFFSET writes since the last one: it is added, and a negative one sets
BACK (R443). -/
def addStep (s : State) (t : Nat) : State :=
  if s.chip.stepOn then
    let s1 := wr (if 2 ^ 63 ≤ s.chip.step then wr s R.TIME_STAT_BACK 1 else s) R.TIME_TOD ((t + s.chip.step) % 2 ^ 64)
    setChip s1 { s1.chip with step := 0, stepOn := false }
  else s

theorem aonEdge_eq_addStep (s : State) : aonEdge s = addStep (edgeBeforeStep s) (nextTime s / 2 ^ 32) := by
  unfold aonEdge addStep edgeBeforeStep
  rfl

section
variable {s : State} (t : Nat)

theorem addStep_without (h : s.chip.stepOn = false) : addStep s t = s := if_neg (ne_true_of_eq_false h)

theorem addStep_with (h : s.chip.stepOn = true) :
    addStep s t =
      let s1 := wr (if 2 ^ 63 ≤ s.chip.step then wr s R.TIME_STAT_BACK 1 else s) R.TIME_TOD ((t + s.chip.step) % 2 ^ 64)
      setChip s1 { s1.chip with step := 0, stepOn := false } := if_pos h

end

/-- Settles O49: the SNAP commands by what their queue holds, the edge by whether TIME_OFFSET was written; the two register
writes and TIMED_STROBE are so by definition. -/
theorem timeAndStrobe : Obligations.TimeAndStrobe := by
  unfold Obligations.TimeAndStrobe
  refine ⟨fun _ _ _ _ => rfl, fun _ _ _ => rfl, ?nowKeeps, ?nowStarted, ?atKeeps, ?atStarted, fun _ => rfl, ?edge⟩
  case nowKeeps =>
    intro q edge s h
    exact congrArg (fun t => Host.Outcome.next (withEdge edge t)) (snapNow_keeps (s := begin s) h)
  case nowStarted =>
    intro q edge s r hr hp
    exact congrArg (fun t => Host.Outcome.next (withEdge edge t))
      (snapNow_started ((activeRun_begin s q 0x0D 0).trans hr) hp)
  case atKeeps =>
    intro q s h
    exact congrArg Host.Outcome.next (snapAt_keeps (s := begin s) h)
  case atStarted =>
    intro q s r hr hp harm hfree
    exact congrArg Host.Outcome.next (snapAt_started ((activeRun_begin s q 0x0D 1).trans hr) hp harm hfree)
  case edge =>
    intro s v s1
    rw [aonEdge_eq_addStep]
    exact ⟨addStep_without _, addStep_with _⟩

end Sys2Proof.Machine
end

section
/-! PROOFS. A PLL by its state (R450 to R452, R464): what PLL_LOCK and PLL_LOCK_LOSS do with one that is off, locking, locked or FAILED. -/

namespace Sys2Proof.Machine

section
variable {s : State} {k : Nat}

/-- A PLL that is off or locked already does not lock. -/
theorem pllLock_idle (h : rd s (pllKey k) = 0 ∨ rd s (pllKey k) = 2) : pllLock s k = s := if_pos h

/-- A PLL that is locking, or FAILED, locks; the third to be locked in stage 2 begins stage 3. -/
theorem pllLock_locks (hoff : rd s (pllKey k) ≠ 0) (hlocked : rd s (pllKey k) ≠ 2) :
    pllLock s k =
      let t := setPll s k 2 0
      if rd t R.GEN_STAT_STAGE = 2 ∧ allLocked t = true then wr t R.GEN_STAT_STAGE 3 else t :=
  if_neg (not_or.mpr ⟨hoff, hlocked⟩)

/-- A PLL that is off, or FAILED, has no lock to lose. -/
theorem pllLoss_idle (h : rd s (pllKey k) = 0 ∨ rd s (pllKey k) = 3) : pllLoss s k = s := by
  have h1 : rd s (pllKey k) ≠ 1 := by omega
  have h2 : rd s (pllKey k) ≠ 2 := by omega
  simp only [pllLoss, h1, h2, false_or, false_and, if_false]

/-- PLL k after a loss: a locked one freezes what it drives and starts again; one that is locking has failed an attempt, and starts again
until CLK_RELOCK_MAX attempts are used up (R452). -/
def lossTaken (s : State) (k : Nat) : State :=
  if rd s (pllKey k) = 2 then count (countN (setPll s k 1 1) C.CLK_FREEZE (drivenBy s k)) C.CLK_RELOCK
  else if rd s R.CLK_RELOCK_MAX ≤ tries s k then setPll s k 3 (tries s k)
  else count (setPll s k 1 (tries s k + 1)) C.CLK_RELOCK

/-- The loss of a PLL that is locking or locked raises FAULT_OUT when no PLL has its lock any more. -/
theorem pllLoss_taken (h : rd s (pllKey k) = 1 ∨ rd s (pllKey k) = 2) :
    pllLoss s k =
      if (List.range 3).all (lockLost (lossTaken s k)) then raiseFault (lossTaken s k) 2 else lossTaken s k := by
  have htaken : (if rd s (pllKey k) = 2 then count (countN (setPll s k 1 1) C.CLK_FREEZE (drivenBy s k)) C.CLK_RELOCK
      else if rd s (pllKey k) = 1 then
        (if rd s R.CLK_RELOCK_MAX ≤ tries s k then setPll s k 3 (tries s k) else count (setPll s k 1 (tries s k + 1)) C.CLK_RELOCK)
      else s) = lossTaken s k := by
    rcases h with h1 | h2
    · have h2 : rd s (pllKey k) ≠ 2 := by omega
      rw [lossTaken, if_neg h2, if_neg h2, if_pos h1]
    · rw [lossTaken, if_pos h2, if_pos h2]
  simp only [pllLoss, htaken, h, true_and]

end

/-- Settles O44: a lock and a loss by the PLL's state; the retry, the stop and the two changes of AON_CLK are so by definition. -/
theorem pllsLockAndRelock : Obligations.PllsLockAndRelock := by
  unfold Obligations.PllsLockAndRelock
  refine ⟨?locks, ?keeps, ?loss, fun _ _ => rfl, fun _ _ => rfl, fun _ => rfl, fun _ => rfl⟩
  case locks =>
    exact fun k s hoff hlocked => congrArg Host.Outcome.next (pllLock_locks (s := begin s) hoff hlocked)
  case keeps => exact fun k s h => congrArg Host.Outcome.next (pllLock_idle (s := begin s) h)
  case loss =>
    intro k s t
    exact ⟨fun h => congrArg Host.Outcome.next (pllLoss_taken (s := begin s) h),
      fun h => congrArg Host.Outcome.next (pllLoss_idle (s := begin s) h)⟩

end Sys2Proof.Machine
end

section
/-! PROOFS. The limiter (R457 to R459): the next duty by where the estimate stands, and the record of a cap that cannot be met. -/

namespace Sys2Proof.Machine

section
variable {est lim d quiet : Nat}

/-! ## The duty -/

/-- Above the limit the duty falls by one, to 1 at the least. -/
theorem nextDuty_above (h : lim < est) : nextDuty est lim d quiet = (max 1 (d - 1), 0) := if_pos h

/-- Between 15/16 of the limit and the limit the duty stays. -/
theorem nextDuty_between (hlow : 15 * lim < 16 * est) (hhigh : est ≤ lim) : nextDuty est lim d quiet = (d, 0) :=
  (if_neg (Nat.not_lt.mpr hhigh)).trans (if_neg (Nat.not_le.mpr hlow))

/-- At or below 15/16 of the limit the duty rises by one, to 16 at the most, from the eighth such update on. -/
theorem nextDuty_below (h : 16 * est ≤ 15 * lim) :
    nextDuty est lim d quiet = (if min 8 (quiet + 1) = 8 then min 16 (d + 1) else d, min 8 (quiet + 1)) :=
  (if_neg (by omega : ¬ lim < est)).trans (if_pos h)

/-- The next duty stays within 1 to 16 and within one of the present one. -/
theorem nextDuty_bounds (h1 : 1 ≤ d) (h16 : d ≤ 16) :
    let n := (nextDuty est lim d quiet).1
    1 ≤ n ∧ n ≤ 16 ∧ n ≤ d + 1 ∧ d ≤ n + 1 := by
  rcases Nat.lt_or_ge lim est with habove | hlim
  · rw [nextDuty_above habove]
    omega
  rcases Nat.lt_or_ge (15 * lim) (16 * est) with hbetween | hbelow
  · rw [nextDuty_between hbetween hlim]
    omega
  · rw [nextDuty_below hbelow]
    dsimp only
    split <;> omega

end

/-! ## The update -/

@[simp] theorem unitError_chip (s : State) (st src a b : Nat) : (unitError s st src a b).chip = s.chip := by
  unfold unitError event postRec
  split
  · split
    · rfl
    · rfl
  · rfl

/-- What an update does at a hundred in a row or more above the limit at duty 1: CAP_UNMET sets, with a record unless the last one is less
than a second old (R459). -/
def capUnmet (s : State) (est lim : Nat) : State :=
  let t := wr s R.PWR_STAT_CAP_UNMET 1
  if t.chip.unmetAt = 0 ∨ t.chip.unmetAt - 1 + 10 ^ 9 ≤ rd t R.TIME_TOD then
    setChip (unitError t 0 4 est lim) { t.chip with unmetAt := rd t R.TIME_TOD + 1 }
  else t

/-- The time noted is that of the record, whose posting changes neither the clock nor what the chip has noted. -/
theorem capUnmet_eq (s : State) (est lim : Nat) :
    capUnmet s est lim =
      let t := wr s R.PWR_STAT_CAP_UNMET 1
      let u := unitError t 0 4 est lim
      if s.chip.unmetAt = 0 ∨ s.chip.unmetAt - 1 + 10 ^ 9 ≤ rd t R.TIME_TOD then
        { u with chip := { u.chip with unmetAt := rd u R.TIME_TOD + 1 } }
      else t := by
  simp only [capUnmet, setChip, rd, unitError_chip, unitError_regs]
  rfl

/-- An update that leaves the duty below 16 is counted. -/
def noteLimited (s : State) (d : Nat) : State := if d < 16 then count s C.PWR_LIMITED else s

@[simp] theorem noteLimited_chip (s : State) (d : Nat) : (noteLimited s d).chip = s.chip := by
  unfold noteLimited
  split
  · rfl
  · rfl

/-- The duty an update sets: at most PWR_THERM_DUTY, or 1, while THERM_IN is taken as asserted (R459). -/
def dutySet (s : State) (n : Nat) : Nat := if rdb s R.PWR_STAT_THERM then min n (max 1 (rd s R.PWR_THERM_DUTY)) else n

/-- How many updates in a row have found the estimate above the limit at duty 1, this one among them. -/
def stuckNow (s : State) (est lim : Nat) : Nat := if rd s R.PWR_STAT_DUTY = 1 ∧ lim < est then s.chip.stuck + 1 else 0

/-- The state in which an update judges CAP_UNMET: the free value is used, and the estimate, the duty and the two counts of updates are
stored. -/
def dutyStored (s : State) : State :=
  let est := (Config.powerEst s.free).toNat
  let n := nextDuty est (powerLimit s) (rd s R.PWR_STAT_DUTY) s.chip.quiet
  let d := dutySet s n.1
  noteLimited (setChip (wr (wr { s with free := s.free + 1 } R.PWR_EST est) R.PWR_STAT_DUTY d)
    { s.chip with quiet := n.2, stuck := stuckNow s est (powerLimit s) }) d

/-- An update stores estimate and duty, and then clears CAP_UNMET or sets it. -/
theorem limiterUpdate_eq (s : State) :
    limiterUpdate s =
      let est := (Config.powerEst s.free).toNat
      if stuckNow s est (powerLimit s) < 100 then wr (dutyStored s) R.PWR_STAT_CAP_UNMET 0
      else capUnmet (dutyStored s) est (powerLimit s) := rfl

theorem dutyStored_unmetAt (s : State) : (dutyStored s).chip.unmetAt = s.chip.unmetAt := by
  simp only [dutyStored, noteLimited_chip, setChip_chip]

/-- Settles O45: the duty from the three places of the estimate, the update from what CAP_UNMET comes to. -/
theorem limiterHoldsThePower : Obligations.LimiterHoldsThePower := by
  unfold Obligations.LimiterHoldsThePower
  refine ⟨?duty, ?update⟩
  case duty =>
    intro est lim d quiet h1 h16 n
    obtain ⟨hmin, hmax, hup, hdown⟩ := nextDuty_bounds (est := est) (lim := lim) (quiet := quiet) h1 h16
    refine ⟨hmin, hmax, hup, hdown, fun habove => ?_, fun hlow hhigh => congrArg Prod.fst (nextDuty_between hlow hhigh)⟩
    have hn : n = max 1 (d - 1) := congrArg Prod.fst (nextDuty_above habove)
    omega
  case update =>
    intro s est lim n d stuck s1 s2 s3 s4 s5
    have heq := limiterUpdate_eq (begin s)
    simp only [capUnmet_eq, dutyStored_unmetAt] at heq
    exact congrArg Host.Outcome.next heq

end Sys2Proof.Machine
end

section
/-! PROOFS. GEN_CTRL and GEN_DIS_REQ (R461, R464, R472, R477, R520): each field of the one alone, and a request of the other by the
source's rights, the unit and the member's state. -/

namespace Sys2Proof.Machine

/-! ## The registers of the open session -/

/-- A cause noted on a page changes no register but the page's own PG_ERR_RAW and PG_ERR_STAT. -/
theorem rd_pgError_ne (s : State) {page b info k : Nat} (hraw : k ≠ pgErrRaw page) (hstat : k ≠ pgErrStat page) :
    rd (pgError s page b info) k = rd s k := by
  simp only [pgError]
  split
  · unfold rd
    rw [unitError_regs]
    exact (rd_wr_ne _ _ hstat).trans (rd_wr_ne s _ hraw)
  · exact rd_wr_ne s _ hraw

/-- The registers that rights and roles are read from (R481, R482). -/
def roleRegs (s : State) : Nat × Nat × Nat := (rd s R.ROLE_STAT_OPEN, rd s R.ROLE_STAT_SRC, rd s R.ROLE_STAT_ROLE)

section
variable {s t : State}

theorem auditRole_congr (h : roleRegs t = roleRegs s) (src : Nat) : auditRole t src = auditRole s src := by
  obtain ⟨hopen, hsrc, hrole⟩ : rd t R.ROLE_STAT_OPEN = rd s R.ROLE_STAT_OPEN ∧ rd t R.ROLE_STAT_SRC = rd s R.ROLE_STAT_SRC ∧
    rd t R.ROLE_STAT_ROLE = rd s R.ROLE_STAT_ROLE := by simpa [roleRegs] using h
  have hrights : rightsOf t src = rightsOf s src := by
    unfold rightsOf rdb
    rw [hopen, hsrc, hrole]
  simp only [auditRole, hrights]

theorem roleRegs_of_regs (h : t.regs = s.regs) : roleRegs t = roleRegs s := by simp only [roleRegs, rd, h]

theorem roleRegs_wr (s : State) {k : Nat} (v : Nat) (hopen : R.ROLE_STAT_OPEN ≠ k) (hsrc : R.ROLE_STAT_SRC ≠ k)
    (hrole : R.ROLE_STAT_ROLE ≠ k) : roleRegs (wr s k v) = roleRegs s := by
  simp only [roleRegs, rd_wr_ne s v hopen, rd_wr_ne s v hsrc, rd_wr_ne s v hrole]

end

section
variable (s : State) (n p : Nat)

@[simp] theorem roleRegs_setDisabled (i : Nat) (b : Bool) : roleRegs (setDisabled s i b) = roleRegs s :=
  roleRegs_wr s _ (by decide) (by decide) (by decide)

@[simp] theorem roleRegs_spareRec (kind idx spare : Nat) (none waits : Bool) :
    roleRegs (spareRec s kind idx spare none waits) = roleRegs s := by
  refine roleRegs_of_regs ((postRec_frame _ _).1.trans ?_)
  split
  · rfl
  · rfl

@[simp] theorem roleRegs_laneRec (waits : Bool) : roleRegs (laneRec s n p waits) = roleRegs s := roleRegs_spareRec ..

@[simp] theorem roleRegs_beginMigrate : roleRegs (beginMigrate s n) = roleRegs s := by
  simp only [beginMigrate]
  split
  · rfl
  · iterate 5 rw [roleRegs_wr _ _ (by decide) (by decide) (by decide)]

@[simp] theorem roleRegs_startMigrate : roleRegs (startMigrate s n) = roleRegs s := by
  unfold startMigrate
  split
  · rfl
  · split
    · exact roleRegs_of_regs rfl
    · exact roleRegs_beginMigrate s n

@[simp] theorem roleRegs_remapLanes : roleRegs (remapLanes s n) = roleRegs s := by
  have htput (t : State) (e : Nat) : roleRegs (tput t (0x20 + n) 0 0 e) = roleRegs t := roleRegs_of_regs rfl
  simp only [remapLanes]
  split
  · simp only [htput, roleRegs_setDisabled]
  · split
    · simp only [htput, roleRegs_setDisabled]
    · simp only [roleRegs_startMigrate, roleRegs_setDisabled]

/-- A failing lane changes no register of the session: not where it is unused, nor where its replacement waits or comes at once. -/
@[simp] theorem roleRegs_laneFail : roleRegs (laneFail s n p) = roleRegs s := by
  have hspr (t : State) (x : Spares) : roleRegs (setSpr t x) = roleRegs t := roleRegs_of_regs rfl
  simp only [laneFail]
  split
  · rfl
  · split
    · simp only [roleRegs_setDisabled, hspr]
    · split
      · simp only [roleRegs_laneRec, hspr]
      · simp only [roleRegs_remapLanes, roleRegs_laneRec, hspr]

/-- A step that keeps the session's registers keeps them over a list. -/
theorem roleRegs_foldl {α : Type} (f : State → α → State) (hf : ∀ t a, roleRegs (f t a) = roleRegs t) (l : List α) :
    roleRegs (l.foldl f s) = roleRegs s := by
  induction l generalizing s with
  | nil => rfl
  | cons a l ih => exact (ih (f s a)).trans (hf s a)

@[simp] theorem roleRegs_testLanes (bad : Nat) : roleRegs (testLanes s n bad) = roleRegs s :=
  (roleRegs_foldl _ _ (fun t p => roleRegs_laneFail t n p) _).trans
    (roleRegs_wr s _ (by unfold R.ROLE_STAT_OPEN R.SLC_LANE_OK; omega) (by unfold R.ROLE_STAT_SRC R.SLC_LANE_OK; omega)
      (by unfold R.ROLE_STAT_ROLE R.SLC_LANE_OK; omega))

/-- A cause noted on page 0 changes no register of the session. -/
@[simp] theorem roleRegs_pgError_zero (b info : Nat) : roleRegs (pgError s 0 b info) = roleRegs s := by
  simp only [roleRegs, rd_pgError_ne s (show R.ROLE_STAT_OPEN ≠ pgErrRaw 0 by decide) (show R.ROLE_STAT_OPEN ≠ pgErrStat 0 by decide),
    rd_pgError_ne s (show R.ROLE_STAT_SRC ≠ pgErrRaw 0 by decide) (show R.ROLE_STAT_SRC ≠ pgErrStat 0 by decide),
    rd_pgError_ne s (show R.ROLE_STAT_ROLE ≠ pgErrRaw 0 by decide) (show R.ROLE_STAT_ROLE ≠ pgErrStat 0 by decide)]

@[simp] theorem roleRegs_laneTest (bad : Nat) : roleRegs (laneTest s bad).1 = roleRegs s := by
  unfold laneTest
  split
  · exact roleRegs_pgError_zero ..
  · exact roleRegs_foldl _ _ (fun t n => roleRegs_testLanes t n _) _

@[simp] theorem roleRegs_cfgDone : roleRegs (cfgDone s) = roleRegs s := by
  unfold cfgDone
  split
  · exact roleRegs_wr s _ (by decide) (by decide) (by decide)
  · exact roleRegs_pgError_zero ..

end

/-! ## GEN_CTRL -/

/-- The audit entry of a GEN_CTRL write of v by a source, made in state t, with the status and the BLK_RST read in state s. -/
def ctrlEntry (s t : State) (src st v : Nat) : State :=
  audit t 1 0x10 src (auditRole t src) st (b2n (rdb s R.GEN_CTRL_BLK_RST)) v

section
variable {s : State} {src : Nat}

/-- The role of the entry is that before the write, whose fields leave the session's registers as they are. -/
theorem ctrlEntry_eq {t : State} (h : roleRegs t = roleRegs s) (st v : Nat) :
    audit t 1 0x10 src (auditRole s src) st (b2n (rdb s R.GEN_CTRL_BLK_RST)) v = ctrlEntry s t src st v := by
  rw [ctrlEntry, auditRole_congr h]

/-- CFG_DONE alone sets bit 2, and neither LTEST's nor BLK_RST's. -/
theorem genCtrl_bits : bit 4 2 = true ∧ bit 4 1 = false ∧ bit 4 0 = false := by decide

/-- CFG_DONE alone, of a source that is no installer, is refused with RIGHTS. -/
theorem genCtrl_cfgDone_barred (h : rightsOf s src &&& 2 = 0) :
    genCtrl s src 4 0 = (ctrlEntry s (pgError s 0 30 0) src ecRights 4, ecRights) := by
  have hmay : (rightsOf s src &&& 2 != 0) = false := by rw [h]; rfl
  rw [← ctrlEntry_eq (roleRegs_pgError_zero s 30 0)]
  simp [genCtrl, hmay, genCtrl_bits]

/-- CFG_DONE alone, of an installer, is done and audited. -/
theorem genCtrl_cfgDone (h : rightsOf s src &&& 2 ≠ 0) : genCtrl s src 4 0 = (ctrlEntry s (cfgDone s) src 0 4, 0) := by
  have hmay : (rightsOf s src &&& 2 != 0) = true := bne_iff_ne.mpr h
  rw [← ctrlEntry_eq (roleRegs_cfgDone s)]
  simp [genCtrl, hmay, genCtrl_bits]

/-- The writes of BLK_RST and of LTEST are audited when an installer's. -/
theorem ctrlEntry_if_installer {t : State} (h : roleRegs t = roleRegs s) (st : Nat) {v : Nat} (hv : bit v 2 = false) :
    (if (rightsOf s src &&& 2 != 0) || bit v 2 then
      audit t 1 0x10 src (auditRole s src) st (b2n (rdb s R.GEN_CTRL_BLK_RST)) v else t) =
      if rightsOf s src &&& 2 = 0 then t else ctrlEntry s t src st v := by
  simp only [ctrlEntry_eq h, hv, Bool.or_false, bne_iff_ne, ne_eq, ite_not]

/-- BLK_RST alone. -/
theorem genCtrl_blkRst : genCtrl s src 1 0 = (blkRst (if rightsOf s src &&& 2 = 0 then s else ctrlEntry s s src 0 1), 0) := by
  rw [← ctrlEntry_if_installer rfl 0 (by decide)]
  rfl

/-- LTEST alone. -/
theorem genCtrl_ltest (bad : Nat) :
    genCtrl s src 2 bad =
      let y := laneTest s bad
      (if rightsOf s src &&& 2 = 0 then y.1 else ctrlEntry s y.1 src y.2 2, y.2) := by
  have hst : max 0 (laneTest s bad).2 = (laneTest s bad).2 := Nat.zero_max _
  simp only [← ctrlEntry_if_installer (roleRegs_laneTest s bad) _ (show bit 2 2 = false by decide)]
  rw [← hst]
  rfl

end

/-! ## GEN_DIS_REQ -/

/-- The state in which GEN_DIS_REQ is judged: reserved bits that are set are noted. -/
def disNoted (s : State) (v : Nat) : State := if bits v 15 1 ≠ 0 then pgError s 0 31 0 else s

/-- A cause noted on page 0 changes no register of the member. -/
theorem isAbsent_disNoted (s : State) (v : Nat) : isAbsent (disNoted s v) = isAbsent s := by
  have hstate : memberState (disNoted s v) = memberState s := by
    unfold disNoted
    split
    · exact rd_pgError_ne s (by decide) (by decide)
    · rfl
  exact congrArg (· == 0) hstate

/-- The source may not make the request v: it is no installer, or no maker when a unit is to return. -/
abbrev DisBarred (s : State) (src v : Nat) : Prop :=
  rightsOf s src &&& 6 = 0 ∨ (bit v 0 = true ∧ rightsOf s src &&& 4 = 0)

/-- The member's state refuses the request v: stage 4 is not reached, or a unit that would return, or a slice, outside ABSENT. -/
abbrev DisRefused (s : State) (v : Nat) : Prop :=
  rd s R.GEN_STAT_STAGE < 4 ∨ isAbsent s = false ∧ (bit v 0 = true ∨ bits v 31 28 = 4)

/-- The audited answer to the request v. -/
def disAnswer (s : State) (src v stat : Nat) : State × Nat := (audit s 1 0x60 src (auditRole s src) stat 0 v, stat)

/-- The request of GEN_DIS_REQ as it is judged once its reserved bits are noted. -/
def disJudged (s : State) (src v : Nat) : State × Nat :=
  if DisBarred s src v then refuseRights s 0 0x60 src true 0 v
  else if unitsOf (bits v 31 28) ≤ bits v 27 16 then disAnswer s src v ecDescriptor
  else if DisRefused s v then disAnswer (pgError s 0 29 0) src v ecDescriptor
  else if bit v 0 then disAnswer (putBack s (bits v 31 28) (bits v 27 16)) src v 0
  else disAnswer (takeOut s (bits v 31 28) (bits v 27 16)) src v 0

theorem disRequest_eq (s : State) (src v : Nat) : disRequest s src v = disJudged (disNoted s v) src v := by
  have hguard (t : State) : (early t = true ∨ (!isAbsent t) = true ∧ (bit v 0 = true ∨ bits v 31 28 = 4)) ↔ DisRefused t v := by
    simp only [early, DisRefused, decide_eq_true_eq, Bool.not_eq_true']
  simp only [disRequest, hguard]
  rfl

section
variable {s : State} {src v : Nat}

theorem disJudged_barred (h : DisBarred s src v) : disJudged s src v = refuseRights s 0 0x60 src true 0 v := if_pos h

/-- A unit that does not exist. -/
theorem disJudged_noUnit (hb : ¬ DisBarred s src v) (h : unitsOf (bits v 31 28) ≤ bits v 27 16) :
    disJudged s src v = disAnswer s src v ecDescriptor := (if_neg hb).trans (if_pos h)

theorem disJudged_refused (hb : ¬ DisBarred s src v) (hu : bits v 27 16 < unitsOf (bits v 31 28)) (h : DisRefused s v) :
    disJudged s src v = disAnswer (pgError s 0 29 0) src v ecDescriptor :=
  (if_neg hb).trans ((if_neg (Nat.not_le.mpr hu)).trans (if_pos h))

/-- A request that is neither barred nor refused, of a unit that exists, returns it or takes it out. -/
theorem disJudged_accepted (hb : ¬ DisBarred s src v) (hu : bits v 27 16 < unitsOf (bits v 31 28)) (h : ¬ DisRefused s v) :
    disJudged s src v =
      if bit v 0 then disAnswer (putBack s (bits v 31 28) (bits v 27 16)) src v 0
      else disAnswer (takeOut s (bits v 31 28) (bits v 27 16)) src v 0 :=
  (if_neg hb).trans ((if_neg (Nat.not_le.mpr hu)).trans (if_neg h))

end

/-- Settles O47: GEN_CTRL one field at a time, GEN_DIS_REQ by its rights, its unit and the member's state. -/
theorem genCtrlAndDisabledUnits : Obligations.GenCtrlAndDisabledUnits := by
  unfold Obligations.GenCtrlAndDisabledUnits
  refine ⟨?cfgDone, ?blkRst, ?ltest, ?dis⟩
  case cfgDone =>
    intro r s aud s1
    exact ⟨fun h => congrArg (fun x => Host.Outcome.next (answered r x)) (genCtrl_cfgDone_barred (s := begin s) h),
      fun h => congrArg (fun x => Host.Outcome.next (answered r x)) (genCtrl_cfgDone (s := begin s) h)⟩
  case blkRst =>
    exact fun r s => congrArg (fun x => Host.Outcome.next (answered r x)) (genCtrl_blkRst (s := begin s))
  case ltest =>
    exact fun r bad s => congrArg (fun x => Host.Outcome.next (answered r x)) (genCtrl_ltest (s := begin s) bad.toNat)
  case dis =>
    intro r v s kind idx s1 aud barred
    have habsent : isAbsent s1 = isAbsent s := isAbsent_disNoted (begin s) v.toNat
    have heq : exec (.genDisReq r v) s = .next (answered r (disJudged s1 r.src.toNat v.toNat)) :=
      congrArg (fun x => Host.Outcome.next (answered r x)) (disRequest_eq (begin s) r.src.toNat v.toNat)
    rw [heq, ← habsent]
    refine ⟨fun h => ?barred, fun hb h => ?noUnit, fun hb hu h => ?refused, fun hb hu hstage hback habs => ?back,
      fun hb hu hstage hout habs => ?out⟩
    case barred => rw [disJudged_barred h]
    case noUnit => rw [disJudged_noUnit hb h]; rfl
    case refused => rw [disJudged_refused hb hu h]; rfl
    case back =>
      have hn : ¬ DisRefused s1 v.toNat := by
        simp only [DisRefused, habs, Bool.true_eq_false, false_and, or_false]
        omega
      rw [disJudged_accepted hb hu hn, if_pos hback]
      rfl
    case out =>
      have hn : ¬ DisRefused s1 v.toNat := by
        rintro (h4 | ⟨hjob, hret | hslice⟩)
        · omega
        · exact Bool.noConfusion (hret.symm.trans hout)
        · exact habs.elim (fun h => h hslice) fun h => Bool.noConfusion (hjob.symm.trans h)
      rw [disJudged_accepted hb hu hn, if_neg (ne_true_of_eq_false hout)]
      rfl

end Sys2Proof.Machine
end

section
/-! PROOFS. The conditioned inputs (R467 to R469): what a change of a filtered level does, and what ends OVERRATE and STUCK. -/

namespace Sys2Proof.Machine

/-- An input's filtered level as a change leaves it. -/
abbrev pinAt (s : State) (i : Nat) (level : Bool) : State := setPin s R.PIN_STAT_LEVEL i level

/-- A change of input i comes within PIN_RATE of the last event taken (R468). -/
abbrev PinSoon (s : State) (i : Nat) : Prop :=
  (pinOf s i).last ≠ 0 ∧ rd s R.TIME_TOD < (pinOf s i).last - 1 + 1000 * rd s R.PIN_RATE

/-- The state after a change that is suppressed. -/
abbrev pinSuppressed (s : State) (i : Nat) : State := count (setPin s R.PIN_STAT_OVERRATE i true) (C.PIN_OVR_CNT i)

section
variable {s : State} {i : Nat} {level : Bool}

/-! ## A change of the level (R467, R468) -/

/-- The level that is seen already is no change. -/
theorem pinChange_same (h : bit (rd s R.PIN_STAT_LEVEL) i = level) : pinChange s i level = s := if_pos (beq_iff_eq.mpr h)

/-- A change of the level, by the input's marks and the time of its last event. -/
theorem pinChange_changes (h : bit (rd s R.PIN_STAT_LEVEL) i ≠ level) :
    pinChange s i level =
      let t := pinAt s i level
      if bit (rd t R.PIN_STAT_STUCK) i then notePin t i
      else if i = 2 ∧ (!level) = true then
        notePin (setChip t { t.chip with pins := t.chip.pins.set 2 { pinOf t i with told := false } }) i
      else if bit (rd t R.PIN_STAT_OVERRATE) i = true ∨ PinSoon t i then
        notePin (if bit (rd t R.PIN_STAT_OVERRATE) i then pinSuppressed t i else pinRec (pinSuppressed t i) i) i
      else notePin (pinEvent t i level) i :=
  if_neg (mt beq_iff_eq.mp h)

/-- A change of a stuck input is no event. -/
theorem pinChange_stuck (h : bit (rd s R.PIN_STAT_LEVEL) i ≠ level) (hs : bit (rd (pinAt s i level) R.PIN_STAT_STUCK) i = true) :
    pinChange s i level = notePin (pinAt s i level) i := (pinChange_changes h).trans (if_pos hs)

/-- A falling SNAP_IN is no event, but is told. -/
theorem pinChange_snapFalls (h : bit (rd s R.PIN_STAT_LEVEL) 2 ≠ false)
    (hs : bit (rd (pinAt s 2 false) R.PIN_STAT_STUCK) 2 = false) :
    pinChange s 2 false =
      let t := pinAt s 2 false
      notePin (setChip t { t.chip with pins := t.chip.pins.set 2 { pinOf t 2 with told := false } }) 2 :=
  (pinChange_changes h).trans ((if_neg (ne_true_of_eq_false hs)).trans (if_pos ⟨rfl, rfl⟩))

section
variable (h : bit (rd s R.PIN_STAT_LEVEL) i ≠ level) (hs : bit (rd (pinAt s i level) R.PIN_STAT_STUCK) i = false)
  (hedge : i ≠ 2 ∨ level = true)
include h hs hedge

/-- A change that may be an event is suppressed when it comes too soon or under OVERRATE. -/
theorem pinChange_conditioned :
    pinChange s i level =
      let t := pinAt s i level
      if bit (rd t R.PIN_STAT_OVERRATE) i = true ∨ PinSoon t i then
        notePin (if bit (rd t R.PIN_STAT_OVERRATE) i then pinSuppressed t i else pinRec (pinSuppressed t i) i) i
      else notePin (pinEvent t i level) i := by
  have hrises : ¬ (i = 2 ∧ (!level) = true) := by
    rintro ⟨rfl, hlow⟩
    rcases hedge with h2 | rfl
    · exact h2 rfl
    · exact Bool.noConfusion hlow
  exact (pinChange_changes h).trans ((if_neg (ne_true_of_eq_false hs)).trans (if_neg hrises))

theorem pinChange_event (hf : ¬ bit (rd (pinAt s i level) R.PIN_STAT_OVERRATE) i = true) (hn : ¬ PinSoon (pinAt s i level) i) :
    pinChange s i level = notePin (pinEvent (pinAt s i level) i level) i :=
  (pinChange_conditioned h hs hedge).trans (if_neg (not_or.mpr ⟨hf, hn⟩))

/-- The first change that comes too soon sets OVERRATE, with a record. -/
theorem pinChange_soon (hf : ¬ bit (rd (pinAt s i level) R.PIN_STAT_OVERRATE) i = true) (hn : PinSoon (pinAt s i level) i) :
    pinChange s i level = notePin (pinRec (pinSuppressed (pinAt s i level) i) i) i :=
  (pinChange_conditioned h hs hedge).trans ((if_pos (.inr hn)).trans (congrArg (notePin · i) (if_neg hf)))

/-- Under OVERRATE a change is only counted. -/
theorem pinChange_fast (hf : bit (rd (pinAt s i level) R.PIN_STAT_OVERRATE) i = true) :
    pinChange s i level = notePin (pinSuppressed (pinAt s i level) i) i :=
  (pinChange_conditioned h hs hedge).trans ((if_pos (.inl hf)).trans (congrArg (notePin · i) (if_pos hf)))

end

/-! ## The end of OVERRATE, and STUCK (R468, R469) -/

theorem overrateClear_without (h : bit (rd s R.PIN_STAT_OVERRATE) i = false) : overrateClear s i = s :=
  if_pos (by rw [h]; rfl)

/-- The end of OVERRATE tells a level that differs from the one told, where that is an event. -/
theorem overrateClear_ends (h : bit (rd s R.PIN_STAT_OVERRATE) i = true) :
    overrateClear s i =
      let t := setPin s R.PIN_STAT_OVERRATE i false
      let level := bit (rd t R.PIN_STAT_LEVEL) i
      notePin (if level ≠ (pinOf t i).told ∧ bit (rd t R.PIN_STAT_STUCK) i = false ∧ (i ≠ 2 ∨ level = true) then
        pinEvent t i level else t) i := by
  refine (if_neg (by rw [h]; exact Bool.false_ne_true)).trans ?_
  simp only [Bool.and_eq_true, Bool.or_eq_true, bne_iff_ne, Bool.not_eq_true', and_assoc]

/-- An asserted input without the mark is marked STUCK, with a record. -/
theorem pinStuck_eq :
    pinStuck s i = if bit (rd s R.PIN_STAT_LEVEL) i = true ∧ bit (rd s R.PIN_STAT_STUCK) i = false then
      notePin (pinRec (setPin s R.PIN_STAT_STUCK i true) i) i else s := by
  unfold pinStuck
  cases bit (rd s R.PIN_STAT_LEVEL) i <;> cases bit (rd s R.PIN_STAT_STUCK) i <;> rfl

/-- A de-asserted input loses the mark. -/
theorem stuckClear_eq :
    stuckClear s i = if bit (rd s R.PIN_STAT_LEVEL) i = false ∧ bit (rd s R.PIN_STAT_STUCK) i = true then
      notePin (setPin s R.PIN_STAT_STUCK i false) i else s := by
  unfold stuckClear
  cases bit (rd s R.PIN_STAT_LEVEL) i <;> cases bit (rd s R.PIN_STAT_STUCK) i <;> rfl

end

/-- A change of an input's level, as the instruction of that input. -/
theorem exec_pinChange (i : Fin 3) (level : Bool) (s : State) :
    exec (if i = 0 then .thermInEvent level else if i = 1 then .brdAlertEvent level else .snapInEdge level false) s =
      .next (pinChange (begin s) i level) :=
  match i with
  | 0 => rfl
  | 1 => rfl
  | 2 => rfl

/-- Settles O50: a change of the level by the input's marks and its last event, the end of OVERRATE by whether it is set; PIN_STUCK and
PIN_STUCK_CLEAR have one guard each. -/
theorem inputsAreConditioned : Obligations.InputsAreConditioned := by
  unfold Obligations.InputsAreConditioned
  refine ⟨?change, fun _ _ => rfl, ?without, ?clears, fun pin s => congrArg Host.Outcome.next (pinStuck_eq (s := begin s) (i := pin)),
    fun pin s => congrArg Host.Outcome.next (stuckClear_eq (s := begin s) (i := pin))⟩
  case change =>
    intro i level s c s1 fast soon s2
    have hc : exec (c level) s = .next (pinChange (begin s) i level) := exec_pinChange i level s
    rw [hc]
    refine ⟨fun h => congrArg Host.Outcome.next (pinChange_same (s := begin s) h), fun h => ⟨fun hs => ?stuck, ?falls, ?edge⟩⟩
    case stuck => exact congrArg Host.Outcome.next (pinChange_stuck (s := begin s) h hs)
    case falls =>
      rintro hs rfl rfl
      exact congrArg Host.Outcome.next (pinChange_snapFalls (s := begin s) h hs)
    case edge =>
      intro hs hedge
      have he : i.val ≠ 2 ∨ level = true := hedge.imp_left fun hne hv => hne (Fin.ext hv)
      exact ⟨fun hf hn => congrArg Host.Outcome.next (pinChange_event (s := begin s) h hs he hf hn),
        fun hf hn => congrArg Host.Outcome.next (pinChange_soon (s := begin s) h hs he hf hn),
        fun hf => congrArg Host.Outcome.next (pinChange_fast (s := begin s) h hs he hf)⟩
  case without => exact fun pin s h => congrArg Host.Outcome.next (overrateClear_without (s := begin s) h)
  case clears =>
    intro pin s h s1 level
    have hpin : pin ≠ 2 ↔ pin.val ≠ 2 := Fin.ext_iff.not
    simp only [hpin]
    exact congrArg Host.Outcome.next (overrateClear_ends (s := begin s) h)

end Sys2Proof.Machine
end

section
/-! PROOFS. A per-slice reset (R460, R515): it also discards what sources staged on the slice's page. -/

namespace Sys2Proof.Machine

/-- After reset, slice 2 out of service, with one word that source 0 staged on its page. -/
def stagedSlice : State :=
  { State.reset with
    regs := put State.reset.regs (R.SLC_STAT_OUT 2) 1
    acc := { State.reset.acc with win := [(0, 0x22, 1, 0)] } }

/-- SLICE_RESET_DONE of slice 2 as O13 gives it, from the state in which the slice's scratch and live counters are cleared. -/
def claimedReset (s1 : State) : State :=
  let s2 := count (wr { s1 with intk := { s1.intk with keys := s1.intk.keys.filter fun k => k.slice != 2 } } (R.SLC_ACC_USED 2) 0)
    C.GEN_SLCRST
  if rd s2 R.GEN_SLC_RST_MAX ≤ recentResets s2 2 then sendDeclareSelf (setDisabled s2 2 true)
  else rbAdvance (capResume (pumpMrp (wr s2 (R.SLC_STAT_OUT 2) 0) 2))

/-- `stagedSlice` with slice 2's scratch and live counters cleared, and nothing else. -/
def stagedCleared : State :=
  { begin stagedSlice with
    seq := { stagedSlice.seq with scratch := dropKeys stagedSlice.seq.scratch fun k => k / 2 ^ 21 == 2 }
    cnt := dropKeys stagedSlice.cnt fun k => k / 2 ^ 12 == 0x20 + 2 }

/-- The reset discards the staged word, which clearing scratch and live counters alone would leave. -/
theorem stagedSlice_win : (sliceResetDone (begin stagedSlice) 2).acc.win = [] ∧
    (claimedReset stagedCleared).acc.win = [(0, 0x22, 1, 0)] := by
  decide +kernel

/-- Refutes O13 by its second clause, which leaves what sources staged on the slice's page. SLICE_RESET_DONE of slice 2 of `stagedSlice`
discards the word staged there. -/
theorem not_sliceResetClearsAndReturns : ¬ Obligations.SliceResetClearsAndReturns := by
  unfold Obligations.SliceResetClearsAndReturns
  intro h
  obtain ⟨-, hout⟩ := h 2 stagedSlice
  have hclaim : sliceResetDone (begin stagedSlice) 2 = claimedReset stagedCleared :=
    Host.Outcome.next.inj (hout (by decide +kernel))
  obtain ⟨hempty, hstaged⟩ := stagedSlice_win
  rw [← hclaim, hempty] at hstaged
  exact List.cons_ne_nil _ _ hstaged.symm

end Sys2Proof.Machine
end

section
/-! PROOFS. What every command keeps (R511): `Grows`, the relation of a state to what a meaning makes of it, and how the primitive
updates of the state keep it. Each operation `f` of the model then has one lemma, `Grows.f`, that follows its composition; an operation
that may reset counters has `Keeps.f` instead. -/

namespace Sys2Proof.Machine

/-- What an update keeps: the queue of waiting commands, and the invariant. -/
structure Keeps (s t : State) : Prop where
  pending : t.pending = s.pending
  inv : s.Inv → t.Inv

/-- What an update other than a reset keeps: it also lowers no counter. -/
structure Grows (s t : State) : Prop extends Keeps s t where
  counters : s.Inv → ∀ k, get s.cnt k ≤ get t.cnt k

variable {s t u : State}

theorem Keeps.trans (h : Keeps s t) (h' : Keeps t u) : Keeps s u :=
  ⟨h'.pending.trans h.pending, fun hs => h'.inv (h.inv hs)⟩

theorem Grows.refl : Grows s s := ⟨⟨rfl, id⟩, fun _ _ => le_rfl⟩

/-- After a reset, an update that resets nothing. -/
theorem Grows.after (h' : Grows t u) (h : Keeps s t) : Keeps s u := h.trans h'.toKeeps

theorem Grows.ite {c : Prop} {_ : Decidable c} (ht : Grows s t) (hu : Grows s u) : Grows s (if c then t else u) := by
  split
  · exact ht
  · exact hu

theorem Keeps.ite {c : Prop} {_ : Decidable c} (ht : Keeps s t) (hu : Keeps s u) : Keeps s (if c then t else u) := by
  split
  · exact ht
  · exact hu

theorem Keeps.fst_ite {α : Type} {c : Prop} {_ : Decidable c} {p q : State × α} (hp : Keeps s p.1) (hq : Keeps s q.1) :
    Keeps s (if c then p else q).1 := by
  split
  · exact hp
  · exact hq

theorem Grows.ite_self {c : Prop} {_ : Decidable c} (h : Grows s t) (hu : Grows s t → Grows s u) : Grows s (if c then t else u) :=
  .ite h (hu h)

theorem Grows.fst {α : Type} {a : α} (h : Grows s t) : Grows s (t, a).1 := h

theorem Grows.snd {α : Type} {a : α} (h : Grows s t) : Grows s (a, t).2 := h

theorem Grows.of_fst {α : Type} {p : State × α} {a : α} (h : Grows s p.1) (hp : p = (t, a)) : Grows s t := by
  subst hp
  exact h

theorem Grows.fst_ite {α : Type} {c : Prop} {_ : Decidable c} {p q : State × α} (hp : Grows s p.1) (hq : Grows s q.1) :
    Grows s (if c then p else q).1 := by
  split
  · exact hp
  · exact hq

theorem Grows.snd_ite {α : Type} {c : Prop} {_ : Decidable c} {p q : α × State} (hp : Grows s p.2) (hq : Grows s q.2) :
    Grows s (if c then p else q).2 := by
  split
  · exact hp
  · exact hq

theorem Grows.foldl {α : Type} {f : State → α → State} {l : List α} (h : Grows s t)
    (hf : ∀ {u : State} (x : α), Grows s u → Grows s (f u x)) : Grows s (l.foldl f t) := by
  induction l generalizing t with
  | nil => exact h
  | cons x l ih => exact ih (hf x h)

/-- A fold that carries something beside the state. -/
theorem Grows.fst_foldl {α β : Type} {f : State × β → α → State × β} {l : List α} {p : State × β} (h : Grows s p.1)
    (hf : ∀ {p : State × β} (x : α), Grows s p.1 → Grows s (f p x).1) : Grows s (l.foldl f p).1 := by
  induction l generalizing p with
  | nil => exact h
  | cons x l ih => exact ih (hf x h)

/-! ## Maps with entries taken out -/

theorem NMap.filter_above {m : NMap} {b : Nat} (h : NMap.above b m) (p : Nat × Nat → Bool) : NMap.above b (m.filter p) := by
  induction m generalizing b with
  | nil => trivial
  | cons e m ih =>
    obtain ⟨hb, hv, hm⟩ := h
    rw [List.filter_cons]
    split
    · exact ⟨hb, hv, ih hm⟩
    · exact NMap.above_mono (ih hm) (by omega)

theorem NMap.filter_wf {m : NMap} (h : NMap.wf m = true) (p : Nat × Nat → Bool) : NMap.wf (m.filter p) = true :=
  NMap.wf_of_above (NMap.filter_above (NMap.above_of_wf h) p)

theorem Memory.filter_above {m : Mem} {b : Nat} (h : Memory.above b m) (p : Nat × Byte → Bool) :
    Memory.above b (m.filter p) := by
  induction m generalizing b with
  | nil => trivial
  | cons e m ih =>
    obtain ⟨hb, hv, hm⟩ := h
    rw [List.filter_cons]
    split
    · exact ⟨hb, hv, ih hm⟩
    · exact Memory.above_mono (ih hm) (by omega)

theorem Memory.filter_wf {m : Mem} (h : Memory.wf m = true) (p : Nat × Byte → Bool) : Memory.wf (m.filter p) = true :=
  Memory.wf_of_above (Memory.filter_above (Memory.above_of_wf h) p)

/-- A key reads its value where it stays, and 0 where it is taken out. -/
theorem get_filter_le {m : NMap} (h : NMap.wf m = true) (p : Nat × Nat → Bool) (k : Nat) : get (m.filter p) k ≤ get m k := by
  have key {m : NMap} {b : Nat} (h : NMap.above b m) : get (m.filter p) k ≤ get m k := by
    induction m generalizing b with
    | nil => exact le_rfl
    | cons e m ih =>
      obtain ⟨hb, hv, hm⟩ := h
      rw [List.filter_cons]
      split
      · simp only [get]
        split
        · exact le_rfl
        · exact ih hm
      · simp only [get]
        split
        next he => exact (get_above (NMap.filter_above hm p) (by omega)).trans_le (Nat.zero_le _)
        · exact ih hm
  exact key (NMap.above_of_wf h)

theorem mergeMaps_wf {kept : Nat → Bool} {a b : NMap} (h : NMap.wf a = true) : NMap.wf (mergeMaps kept a b) = true :=
  List.foldlRecOn (motive := fun m => NMap.wf m = true) _ _ (NMap.filter_wf h _) fun _ hm e _ => put_wf hm e.1 e.2

/-! ## Updates of the fields the invariant does not speak of -/

/-- The invariant speaks of the maps, the counters and the memories alone. -/
theorem State.Inv.frame (h : s.Inv) {pending out free acc ses ev queues seq host lp mrp tier dirHeld streams pool sch intk rp cod comb
    spine shd rbd hive fences col spr hl chip} :
    State.Inv { s with
      pending := pending, out := out, free := free, acc := acc, ses := ses, ev := ev, queues := queues, seq := seq, host := host,
      lp := lp, mrp := mrp, tier := tier, dirHeld := dirHeld, streams := streams, pool := pool, sch := sch, intk := intk,
      rp := rp, cod := cod, comb := comb, spine := spine, shd := shd, rbd := rbd, hive := hive, fences := fences, col := col,
      spr := spr, hl := hl, chip := chip } where
  canonical := { h.canonical with }
  counters := h.counters
  shadows := h.shadows

theorem Keeps.frame (h : Keeps s t) {out free acc ses ev queues seq host lp mrp tier dirHeld streams pool sch intk rp cod comb spine
    shd rbd hive fences col spr hl chip} :
    Keeps s { t with
      out := out, free := free, acc := acc, ses := ses, ev := ev, queues := queues, seq := seq, host := host,
      lp := lp, mrp := mrp, tier := tier, dirHeld := dirHeld, streams := streams, pool := pool, sch := sch, intk := intk,
      rp := rp, cod := cod, comb := comb, spine := spine, shd := shd, rbd := rbd, hive := hive, fences := fences, col := col,
      spr := spr, hl := hl, chip := chip } :=
  ⟨h.pending, fun hs => (h.inv hs).frame⟩

theorem Grows.frame (h : Grows s t) {out free acc ses ev queues seq host lp mrp tier dirHeld streams pool sch intk rp cod comb spine
    shd rbd hive fences col spr hl chip} :
    Grows s { t with
      out := out, free := free, acc := acc, ses := ses, ev := ev, queues := queues, seq := seq, host := host,
      lp := lp, mrp := mrp, tier := tier, dirHeld := dirHeld, streams := streams, pool := pool, sch := sch, intk := intk,
      rp := rp, cod := cod, comb := comb, spine := spine, shd := shd, rbd := rbd, hive := hive, fences := fences, col := col,
      spr := spr, hl := hl, chip := chip } :=
  ⟨h.toKeeps.frame, h.counters⟩

/-- A reset of some counters. -/
theorem Keeps.withCnt (h : Keeps s t) (p : Nat × Nat → Bool) : Keeps s { t with cnt := t.cnt.filter p } where
  pending := h.pending
  inv hs :=
    have ht := h.inv hs
    { ht with
      canonical := { ht.canonical with cnt := NMap.filter_wf ht.canonical.cnt p }
      counters := fun k => (get_filter_le ht.canonical.cnt p k).trans (ht.counters k) }

end Sys2Proof.Machine
end

section
/-! PROOFS. What every command keeps (R511): the updates of shared operations, links, objects and coding. -/

namespace Sys2Proof.Machine

variable {s t : State}

/-! ## Shared operations -/

/-- An update of the registers that keeps their canonical form. -/
theorem Grows.withRegs (h : Grows s t) {m : NMap} (hm : s.Inv → NMap.wf m = true) : Grows s { t with regs := m } where
  pending := h.pending
  inv hs := have ht := h.inv hs; { ht with canonical := { ht.canonical with regs := hm hs } }
  counters := h.counters

theorem Grows.wr {k v : Nat} (h : Grows s t) : Grows s (wr t k v) :=
  h.withRegs fun hs => put_wf (h.inv hs).canonical.regs k v

theorem Grows.countN {k n : Nat} (h : Grows s t) : Grows s (countN t k n) where
  pending := h.pending
  inv hs :=
    have ht := h.inv hs
    { ht with
      canonical := { ht.canonical with cnt := put_wf ht.canonical.cnt _ _ }
      counters := fun j => (countN_grows ht.canonical.cnt ht.counters k n j).2 }
  counters hs j :=
    have ht := h.inv hs
    (h.counters hs j).trans (countN_grows ht.canonical.cnt ht.counters k n j).1

theorem Grows.count {k : Nat} (h : Grows s t) : Grows s (count t k) := h.countN

theorem Grows.withTab (h : Grows s t) {m : NMap} (hm : s.Inv → NMap.wf m = true) : Grows s { t with tab := m } where
  pending := h.pending
  inv hs := have ht := h.inv hs; { ht with canonical := { ht.canonical with tab := hm hs } }
  counters := h.counters

theorem Grows.tput {page table idx v : Nat} (h : Grows s t) : Grows s (tput t page table idx v) :=
  h.withTab fun hs => put_wf (h.inv hs).canonical.tab _ v

theorem Grows.emit {o : Out} (h : Grows s t) : Grows s (emit t o) := h.frame

theorem Grows.fresh (h : Grows s t) : Grows s (fresh t).2 := h.frame.snd

theorem Grows.postRec {r : EvRec} (h : Grows s t) : Grows s (postRec t r) := .ite (.ite h.frame h.count) h.frame

theorem Grows.event {kind status source flags info0 info1 : Nat} (h : Grows s t) :
    Grows s (event t kind status source flags info0 info1) :=
  h.postRec

theorem Grows.unitError {status source info0 info1 : Nat} (h : Grows s t) : Grows s (unitError t status source info0 info1) :=
  h.event

theorem Grows.pgError {page b info1 : Nat} (h : Grows s t) : Grows s (pgError t page b info1) :=
  .ite h.wr.wr.unitError h.wr

theorem Grows.audit {kind addr src role status old new : Nat} (h : Grows s t) :
    Grows s (audit t kind addr src role status old new) := by
  unfold Machine.audit
  extract_lets _ _ _ s1
  have hs1 : Grows s s1 := .ite h.count h
  exact .ite hs1.tput.wr.wr.unitError hs1.tput.wr

theorem Grows.setQ {q : Nat} {x : Queue} (h : Grows s t) : Grows s (setQ t q x) := h.frame

theorem Grows.modRun {q i : Nat} {f : Run → Run} (h : Grows s t) : Grows s (modRun t q i f) := h.setQ

theorem Grows.finish {q i err info0 info1 : Nat} (h : Grows s t) : Grows s (finish t q i err info0 info1) := h.modRun

theorem Grows.cancelRun {q i err : Nat} (h : Grows s t) : Grows s (cancelRun t q i err) := h.modRun.count

theorem Grows.noteInfo {q i info0 info1 : Nat} (h : Grows s t) : Grows s (noteInfo t q i info0 info1) := h.modRun

theorem Grows.keepRunning {q i : Nat} {aux : List Nat} (h : Grows s t) : Grows s (keepRunning t q i aux) := h.modRun

theorem Grows.setHost {h' : HostIf} (h : Grows s t) : Grows s (setHost t h') := h.frame

theorem Grows.issueReads {l : List HostRead} {l1 : List HostRead} (h : Grows s t) : Grows s (issueReads t l l1) := by
  induction l1 generalizing l t with
  | nil => exact h.setHost
  | cons a l ih => exact .ite (ih h) (.ite h.setHost (ih h.setHost.emit))

theorem Grows.issueWrites {l : List HostWrite} {l1 : List HostWrite} (h : Grows s t) : Grows s (issueWrites t l l1) := by
  induction l1 generalizing l t with
  | nil => exact h.setHost
  | cons a l ih => exact .ite (ih h) (.ite h.setHost (ih h.setHost.emit))

theorem Grows.pumpHost (h : Grows s t) : Grows s (pumpHost t) := h.issueReads.issueWrites

theorem Grows.hostFetch {q i a n : Nat} (h : Grows s t) : Grows s (hostFetch t q i a n) := h.setHost.pumpHost

theorem Grows.hostStore {q i a be : Nat} {data : Bytes} (h : Grows s t) : Grows s (hostStore t q i a data be) :=
  h.setHost.pumpHost

theorem Grows.dropGot {q i : Nat} (h : Grows s t) : Grows s (dropGot t q i) := h.setHost

/-! ## Waking a domain -/

theorem Grows.setChip {c : Chip} (h : Grows s t) : Grows s (setChip t c) := h.frame

theorem Grows.setDomain {d : Nat} {x : Domain} (h : Grows s t) : Grows s (setDomain t d x) := h.setChip.wr

theorem Grows.setPll {k st n : Nat} (h : Grows s t) : Grows s (setPll t k st n) := h.setChip.wr

theorem Grows.wakeDomain {d : Nat} (h : Grows s t) : Grows s (wakeDomain t d) :=
  .ite h (.ite h.setDomain (.ite h (Grows.ite h.count.setPll h.count).setDomain))

theorem Grows.wakeLight (h : Grows s t) : Grows s (wakeLight t) := .ite h h.wakeDomain

theorem Grows.wakeSlice {n : Nat} (h : Grows s t) : Grows s (wakeSlice t n) := .ite h.wakeDomain h

/-! ## Sending on a link -/

theorem Grows.setLink {l : Nat} {x : LinkSt} (h : Grows s t) : Grows s (setLink t l x) := h.frame

theorem Grows.sendFlit {l : Nat} {x : LinkSt} {f : Flit} {rest : List Flit} (h : Grows s t) : Grows s (sendFlit t l x f rest).1 :=
  h.emit.count.fst

theorem Grows.serveVc0 {l n : Nat} {idle : Bool} {x : LinkSt} (h : Grows s t) : Grows s (serveVc0 l idle n t x).1 := by
  induction n generalizing t x with
  | zero => exact h.fst
  | succ n ih =>
    rw [Machine.serveVc0]
    split
    · exact h.fst
    · exact .fst_ite h.fst (.fst_ite h.fst (ih h.sendFlit))

theorem Grows.serveVc {l v n : Nat} {x : LinkSt} (h : Grows s t) : Grows s (serveVc l v n t x).1 := by
  induction n generalizing t x with
  | zero => exact h
  | succ n ih =>
    rw [Machine.serveVc]
    split
    · exact h
    · dsimp only
      exact .fst_ite h (ih h.sendFlit.serveVc0)

theorem Grows.drr {l n : Nat} {x : LinkSt} (h : Grows s t) : Grows s (drr l n t x).1 := by
  induction n generalizing t x with
  | zero => exact h
  | succ n ih =>
    dsimp only [Machine.drr]
    exact .fst_ite h (ih h.serveVc)

theorem Grows.pumpLink {l : Nat} (h : Grows s t) : Grows s (pumpLink t l) := by
  dsimp only [Machine.pumpLink]
  exact .ite h h.serveVc0.drr.serveVc0.setLink

theorem Grows.enqueueFlit {l : Nat} {f : Flit} (h : Grows s t) : Grows s (enqueueFlit t l f) := h.setLink

theorem Grows.setTx {t' : TxStream} (h : Grows s t) : Grows s (setTx t t') := h.frame

theorem Grows.admitFlits {n : Nat} {x : TxStream} (h : Grows s t) : Grows s (admitFlits n t x).1 := by
  induction n generalizing t x with
  | zero => exact h.fst
  | succ n ih =>
    rw [Machine.admitFlits]
    split
    · exact h.fst
    · refine .fst_ite h.fst ?_
      split
      · exact h.fst
      · exact ih h.enqueueFlit

theorem Grows.pumpStream {peer vc : Nat} (h : Grows s t) : Grows s (pumpStream t peer vc) := by
  dsimp only [Machine.pumpStream]
  exact h.admitFlits.setTx.foldl fun _ h => h.pumpLink

theorem Grows.hush (h : Grows s t) : Grows s (hush t) := h.frame

theorem Grows.sendMsg {peer type flow : Nat} {body : Bytes} (h : Grows s t) : Grows s (sendMsg t peer type flow body) :=
  .ite h (.ite h.setTx.pumpStream h.setTx.pumpStream)

theorem Grows.carryFor {peer vc q : Nat} (h : Grows s t) : Grows s (carryFor t peer vc q) := .ite h h.setTx

theorem Grows.sendControl {l : Nat} {body : Bytes} (h : Grows s t) : Grows s (sendControl t l body) := .ite h h.emit

/-! ## Objects and memory requests -/

/-- An update of the stacks that keeps their canonical form. -/
theorem Grows.withHbm (h : Grows s t) {m : Mem} (hm : s.Inv → Memory.wf m = true) : Grows s { t with hbm := m } where
  pending := h.pending
  inv hs := have ht := h.inv hs; { ht with canonical := { ht.canonical with hbm := hm hs } }
  counters := h.counters

theorem Grows.hbWrite {st a : Nat} {b : Bytes} (h : Grows s t) : Grows s (hbWrite t st a b) :=
  h.withHbm fun hs =>
    List.foldlRecOn (motive := fun m => Memory.wf m = true) _ _ (h.inv hs).canonical.hbm fun _ hm _ _ => mwrite_wf hm _ _

theorem Grows.boardWrite {slot off : Nat} {b : Bytes} (h : Grows s t) : Grows s (boardWrite t slot off b) where
  pending := h.pending
  inv hs := have ht := h.inv hs; { ht with canonical := { ht.canonical with board := mwrite_wf ht.canonical.board _ b } }
  counters := h.counters

theorem Grows.setMrp {n : Nat} {x : Mrp} (h : Grows s t) : Grows s (setMrp t n x) := h.frame

theorem Grows.issueMem {n : Nat} {x : Mrp} {l : List MemReq} {l1 : List MemReq} (h : Grows s t) :
    Grows s (issueMem n t x l l1).1 := by
  induction l1 generalizing t x l with
  | nil => exact h.fst
  | cons a l ih =>
    refine .fst_ite h.fst (.fst_ite ?_ (ih h))
    split
    · exact ih h.emit
    · exact ih h

theorem Grows.pumpMrp {n : Nat} (h : Grows s t) : Grows s (pumpMrp t n) := h.issueMem.setMrp

theorem Grows.pieceRequest {owner st : Nat} {write : Bool} {prio : Bool} {p : Nat × Nat} (h : Grows s t) :
    Grows s (pieceRequest owner write prio st t p) :=
  h.setMrp.countN

theorem Grows.memRequest {owner st a n : Nat} {write : Bool} {prio : Bool} (h : Grows s t) :
    Grows s (memRequest t owner write prio st a n) :=
  (h.foldl fun _ h => h.pieceRequest).foldl fun _ h => h.pumpMrp

theorem Grows.memRead {owner st a n : Nat} {prio : Bool} (h : Grows s t) : Grows s (memRead t owner prio st a n).2 :=
  h.memRequest.snd

theorem Grows.memWrite {owner st a : Nat} {prio : Bool} {b : Bytes} (h : Grows s t) : Grows s (memWrite t owner prio st a b) :=
  h.hbWrite.memRequest

theorem Grows.setTier {n : Nat} {x : TierPort} (h : Grows s t) : Grows s (setTier t n x) := h.frame

theorem Grows.issueTier {n : Nat} {x : TierPort} {l l1 : List TierReq} (h : Grows s t) : Grows s (issueTier n t x l l1).1 := by
  induction l1 generalizing t x l with
  | nil => exact h
  | cons a l ih =>
    unfold Machine.issueTier
    extract_lets
    split
    · exact ih h.emit
    · exact ih h

theorem Grows.pumpTier {n : Nat} (h : Grows s t) : Grows s (pumpTier t n) := h.issueTier.setTier

theorem Grows.tierRequest {owner slot off n : Nat} {write : Bool} (h : Grows s t) :
    Grows s (tierRequest t owner write slot off n) := by
  unfold Machine.tierRequest
  split
  · exact h
  · exact h.setTier.pumpTier.wakeDomain

theorem Grows.setKept {i off : Nat} {b : Bytes} (h : Grows s t) : Grows s (setKept t i off b) := h.frame

theorem Grows.placeRead {owner off n : Nat} {p : Place} (h : Grows s t) : Grows s (placeRead t owner p off n).2 := by
  unfold Machine.placeRead
  split
  · exact h.memRead
  · exact h.tierRequest.snd
  · exact h.snd

theorem Grows.placeWrite {owner off : Nat} {p : Place} {b : Bytes} (h : Grows s t) : Grows s (placeWrite t owner p off b) := by
  unfold Machine.placeWrite
  split
  · exact h.memWrite
  · exact h.boardWrite.tierRequest
  · exact h.setKept

/-! ## Coding of cells -/

theorem Grows.setLedger {d v : Nat} (h : Grows s t) : Grows s (setLedger t d v) := h.memWrite

theorem Grows.setLedgerPX {p v x : Nat} (h : Grows s t) : Grows s (setLedgerPX t p v x) := h.memWrite

theorem Grows.setCod {c : Coding} (h : Grows s t) : Grows s (setCod t c) := h.frame

theorem Grows.setShare {sl : Nat} {x : Share} (h : Grows s t) : Grows s (setShare t sl x) := h.setCod

theorem Grows.setSlot {sl idx : Nat} {b : Bytes} (h : Grows s t) : Grows s (setSlot t sl idx b) := h.memWrite

theorem writeUnits_cons {sl u : Nat} {l : List Nat} {b : Bytes} : writeUnits t sl (u :: l) b =
    writeUnits (memWrite t t.cod.owner false sl (shareAddr t u) (slice b 0 64)) sl l (b.drop 64) := by
  delta writeUnits
  rfl

theorem Grows.writeUnits {sl : Nat} {l : List Nat} {x : Bytes} (h : Grows s t) : Grows s (writeUnits t sl l x) := by
  induction l generalizing t x with
  | nil => exact h
  | cons a l ih =>
    rw [writeUnits_cons]
    exact ih h.memWrite

theorem Grows.setEpoch {x : Epoch} (h : Grows s t) : Grows s (setEpoch t x) := h.setCod

theorem Grows.markUnclean {e : Nat} (h : Grows s t) : Grows s (markUnclean t e) := h.setEpoch

theorem Grows.setSpine {x : Spine} (h : Grows s t) : Grows s (setSpine t x) := h.frame

theorem Grows.boardStore {owner slot : Nat} {b : Bytes} (h : Grows s t) : Grows s (boardStore t owner slot b) :=
  h.boardWrite.tierRequest

theorem Grows.setHeld {half e : Nat} (h : Grows s t) : Grows s (setHeld t half e) := h.setSpine

theorem Grows.sealPut {c : Nat} {x : SealRun} {b : Bytes} (h : Grows s t) : Grows s (sealPut t x c b) :=
  .ite h.setHeld.boardStore h.sendMsg

theorem Grows.sealCell {d : Nat} {x : SealRun} (h : Grows s t) : Grows s (sealCell t x d) := h.setSpine.sealPut

theorem Grows.sealRead {d : Nat} (h : Grows s t) : Grows s (sealRead t d) := h.memRequest

theorem Grows.sealCow {d e : Nat} (h : Grows s t) : Grows s (sealCow t d e) := by
  unfold Machine.sealCow
  split
  · exact h
  · exact .ite h (.ite h.count.sealCell (.ite h h.count.sealRead.sealCell))

theorem Grows.logStall {th d e : Nat} (h : Grows s t) : Grows s (logStall t th d e) :=
  .ite h.count h.count.setCod.count.event

theorem Grows.openCell {th visit d e kind g : Nat} (h : Grows s t) : ∀ u ∈ openCell t th visit d e kind g, Grows s u := by
  intro u hu
  unfold Machine.openCell at hu
  split at hu
  · exact Option.some.inj hu ▸ h
  · dsimp only at hu
    split at hu
    · exact Option.some.inj hu ▸ h.sealCow.setCod
    · cases hu

theorem Grows.logRecord {g : Nat} {o : OpenCell} {dl : Bytes} (h : Grows s t) : Grows s (logRecord t o g dl) :=
  h.setShare.setCod.writeUnits

theorem Grows.writeGran {th d g : Nat} {new : Bytes} (h : Grows s t) : Grows s (writeGran t th d g new) := by
  unfold Machine.writeGran
  extract_lets _ _ _ s1
  have hs1 : Grows s s1 := by
    dsimp only [s1]
    split
    · exact h.logRecord
    · exact h
  exact .ite h (.ite hs1.setKept hs1.memWrite)

theorem Grows.setOut {o : DrainOut} (h : Grows s t) : Grows s (setOut t o) := h.setCod

theorem Grows.setLocator {d e off : Nat} (h : Grows s t) : Grows s (setLocator t d e off) := h.memWrite

theorem Grows.logSegment {sl e kind cell rank q seq prev : Nat} {own : Bool} {recs : List (Nat × Bytes)} {units : List Nat}
    (h : Grows s t) : Grows s (logSegment t sl e kind cell rank own q seq prev recs units) :=
  h.setShare.writeUnits.setCod

theorem Grows.noteDigest {e kind d crc : Nat} (h : Grows s t) : Grows s (noteDigest t e kind d crc) := by
  unfold Machine.noteDigest
  split
  · exact h.setCod
  · exact h

theorem Grows.noteLogged {rank d : Nat} (h : Grows s t) : Grows s (noteLogged t rank d) := h.count.countN

theorem Grows.closeCell {o : OpenCell} (h : Grows s t) : Grows s (closeCell t o) := by
  unfold Machine.closeCell
  extract_lets _ _ _ _ _ _ _ s1
  have hs1 : Grows s s1 := .ite h.setCod.setCod h.setCod
  exact .ite hs1 (.ite hs1.logSegment.setOut.noteLogged.noteDigest
      hs1.logSegment.setOut.noteLogged.setLocator.setLedger.noteDigest)

theorem Grows.closeThread {th : Nat} (h : Grows s t) : Grows s (closeThread t th) :=
  h.setCod.foldl fun _ h => h.closeCell

theorem Grows.xorGran {st a : Nat} {d : Bytes} (h : Grows s t) : Grows s (xorGran t st a d) := h.memWrite

theorem Grows.storeUndo {u' : Undo} (h : Grows s t) : Grows s (storeUndo t u') := .ite h h.memWrite

theorem Grows.noteUndo {sl e k crc : Nat} {isU : Bool} (h : Grows s t) : Grows s (noteUndo t sl e k crc isU) :=
  h.setShare.setCod.storeUndo

theorem Grows.copyB {p : Nat} (h : Grows s t) : Grows s (copyB t p) := by
  refine .ite h ?_
  extract_lets
  split
  · exact h
  · exact h.setShare.setSlot.noteUndo.setLedgerPX

theorem Grows.applyU {p e : Nat} {prod : List (Nat × Bytes)} (h : Grows s t) : Grows s (applyU t p e prod) := by
  dsimp only [Machine.applyU]
  refine .ite ?_ ?_
  · split
    · exact h
    · exact h.setShare.setSlot.noteUndo.setLedgerPX
  · split
    · exact h.setSlot.setCod.storeUndo
    · exact h.setSlot

theorem Grows.applyParity {p j i e : Nat} {recs : List (Nat × Bytes)} (h : Grows s t) : Grows s (applyParity t p j i e recs) := by
  unfold Machine.applyParity
  extract_lets _ _ _ s1
  have hs1 : Grows s s1 := h.copyB.foldl fun _ h => h.xorGran
  exact (Grows.ite hs1.applyU hs1).setLedgerPX

theorem Grows.convertPar {e p : Nat} (h : Grows s t) : Grows s (convertPar t e p) :=
  .ite h.setSlot.setCod.storeUndo.setLedgerPX h.setLedgerPX

theorem Grows.convertCap {e : Nat} {skip : Bool} (h : Grows s t) : Grows s (convertCap t e skip) :=
  (h.foldl fun _ h => h.setLedger).foldl fun _ h => .ite h h.convertPar

theorem Grows.capScale {e : Nat} (h : Grows s t) : Grows s (capScale t e) := (h.foldl fun _ h => h.setCod).setCod

theorem Grows.dropScale {o : Nat} (h : Grows s t) : Grows s (dropScale t o) := h.setCod

theorem Grows.releaseEpoch {e : Nat} (h : Grows s t) : Grows s (releaseEpoch t e) := h.setCod

theorem Grows.undoSeg {g : Seg} (h : Grows s t) : Grows s (undoSeg t g) := (h.foldl fun _ h => h.xorGran).setLedger

theorem Grows.undoOpen {o : OpenCell} (h : Grows s t) : Grows s (undoOpen t o) := .ite h (h.foldl fun _ h => h.xorGran)

theorem Grows.undoPar {u' : Undo} (h : Grows s t) : Grows s (undoPar t u') := .ite h h.memWrite.setLedgerPX

theorem Grows.undoAll (h : Grows s t) : Grows s (undoAll t) :=
  ((((h.foldl fun _ h => h.undoOpen).foldl fun _ h => h.undoSeg).foldl fun _ h => h.undoPar).foldl fun _ h =>
    h.releaseEpoch.setCod).setCod

theorem Grows.sendRank {r type flow : Nat} {b : Bytes} (h : Grows s t) : Grows s (sendRank t r type flow b) := by
  unfold Machine.sendRank
  split
  · exact h.sendMsg
  · exact h

theorem Grows.sendGrants (h : Grows s t) : Grows s (sendGrants t) := h.wr.foldl fun _ h => h.sendRank

theorem Grows.takeReserve (h : Grows s t) : ∀ u ∈ takeReserve t, Grows s u := by
  intro u hu
  unfold Machine.takeReserve at hu
  extract_lets at hu
  split at hu
  · cases hu
  · split at hu
    · exact Option.some.inj hu ▸ h.foldl fun _ h => h.setShare
    · cases hu

theorem Grows.keepOld {e : Nat} (h : Grows s t) : Grows s (keepOld t e) := h.frame

end Sys2Proof.Machine
end

section
/-! PROOFS. What every command keeps (R511): the updates of queues, remote members, the directory and the tiers. -/

namespace Sys2Proof.Machine

variable {s t : State}

/-! ## Queues, runs and records -/

theorem Grows.begin (h : Grows s t) : Grows s (begin t) := h.frame

theorem Grows.withTallyVal (h : Grows s t) {k v : Nat} : Grows s { t with tallyVal := put t.tallyVal k v } where
  pending := h.pending
  inv hs := have ht := h.inv hs; { ht with canonical := { ht.canonical with tallyVal := put_wf ht.canonical.tallyVal k v } }
  counters := h.counters

theorem Grows.withTallyCode (h : Grows s t) {k v : Nat} : Grows s { t with tallyCode := put t.tallyCode k v } where
  pending := h.pending
  inv hs := have ht := h.inv hs; { ht with canonical := { ht.canonical with tallyCode := put_wf ht.canonical.tallyCode k v } }
  counters := h.counters

theorem Grows.tallyAdd {c v : Nat} (h : Grows s t) : Grows s (tallyAdd t c v) := h.withTallyVal

theorem Grows.tallyFail {c code : Nat} (h : Grows s t) : Grows s (tallyFail t c code) := .ite h.withTallyCode h

theorem Grows.setBank {b : Nat} {x : Store} (h : Grows s t) : Grows s (setBank t b x) := .ite h.frame h.frame

theorem Grows.setThread {t' : Nat} {x : Thread} (h : Grows s t) : Grows s (setThread t t' x) := h.frame

theorem Grows.openEpoch {e : Nat} (h : Grows s t) : Grows s (openEpoch t e) := .ite h (Grows.ite h.wr h).setEpoch

theorem Grows.latchSeeds (h : Grows s t) : Grows s (latchSeeds t) := h.foldl fun _ h => .ite h h.setEpoch

theorem Grows.scaleSeg {e o c : Nat} (h : Grows s t) : Grows s (scaleSeg t e o c) := by
  unfold Machine.scaleSeg
  extract_lets _ _ _ _ s1
  have hs1 : Grows s s1 := h.logSegment
  exact .ite h hs1.setOut.count

theorem Grows.scaleDelta {e : Nat} (h : Grows s t) : Grows s (scaleDelta t e) :=
  (h.foldl fun _ h => h.foldl fun _ h => h.scaleSeg).setEpoch

theorem Grows.fetchQ {q : Nat} (h : Grows s t) : Grows s (fetchQ t q) := h.setQ.setHost.pumpHost

theorem Grows.queueFetchEffect (h : Grows s t) : Grows s (queueFetchEffect t) := by
  unfold Machine.queueFetchEffect
  split
  · exact h
  · exact h.fetchQ.frame

theorem Grows.noteFetched {q : Nat} {r : Run} (h : Grows s t) : Grows s (noteFetched t q r) :=
  .ite (.ite h.setEpoch.scaleDelta h.setEpoch) h

theorem Grows.takeCmds {q : Nat} {data : Bytes} (h : Grows s t) : Grows s (takeCmds t q data) := by
  unfold Machine.takeCmds
  extract_lets
  split
  · exact h
  · extract_lets _ _ _ _ s2
    have hs2 : Grows s s2 := .ite h.setQ.countN (h.setQ.foldl fun _ h => h.noteFetched)
    exact .ite hs2.fetchQ hs2

theorem Grows.failFetch {q : Nat} (h : Grows s t) : Grows s (failFetch t q) := by
  unfold Machine.failFetch
  extract_lets
  split
  · exact h
  · extract_lets
    split
    · exact h.count.unitError.setQ
    · exact .ite h.count.unitError.setQ.fetchQ h.count.unitError.setQ

theorem Grows.queueFetchDataEffect {tag stat : Nat} {data : Bytes} (h : Grows s t) :
    Grows s (queueFetchDataEffect t tag stat data) := by
  unfold Machine.queueFetchDataEffect
  split
  · exact h
  · exact .ite h.setHost.takeCmds h.setHost.failFetch

theorem Grows.doorbell {q v : Nat} (h : Grows s t) : Grows s (doorbell t q v) :=
  .ite h.setQ.count.unitError (.ite h (.ite (.ite h.setQ.wakeDomain h.setQ) h.setQ.count.unitError))

theorem Grows.abortQ {q : Nat} (h : Grows s t) : Grows s (abortQ t q) :=
  .ite h.countN.setQ (.ite h.countN.setQ.fetchQ h.countN.setQ)

theorem Grows.submitQueue {q e : Nat} (h : Grows s t) : ∀ u ∈ submitQueue t q e, Grows s u := by
  intro u hu
  simp only [Machine.submitQueue, Option.ite_none_left_eq_some, Option.mem_def, Option.some.injEq] at hu
  obtain ⟨-, -, -, -, rfl⟩ := hu
  exact h.setQ

theorem Grows.switchRec {store ver first : Nat} (h : Grows s t) : Grows s (switchRec t store ver first) :=
  h.audit.event

theorem Grows.switchTable {first : Nat} {serve : Bool} (h : Grows s t) : Grows s (switchTable t first serve) :=
  h.setBank.setBank.wr.wr.switchRec

theorem Grows.switchUcode {first : Nat} {serve : Bool} (h : Grows s t) : Grows s (switchUcode t first serve) :=
  h.frame.wr.wr.switchRec

theorem Grows.armStores {e raw : Nat} (h : Grows s t) : Grows s (armStores t e raw) := by
  unfold Machine.armStores
  extract_lets _ _ _ _ s1
  have hs1 : Grows s s1 := .ite h.setBank h
  exact (Grows.ite hs1.frame hs1).setEpoch

theorem Grows.firstSwitch {q : Nat} {r : Run} (h : Grows s t) : Grows s (firstSwitch t q r) := by
  unfold Machine.firstSwitch
  extract_lets _ _ _ s1
  have hs1 : Grows s s1 := .ite h.switchTable h
  exact (Grows.ite hs1.switchUcode hs1).frame.finish

theorem Grows.noteWrote {e o : Nat} (h : Grows s t) : Grows s (noteWrote t e o) := .ite h h.frame

theorem Grows.eventPostEffect (h : Grows s t) : Grows s (eventPostEffect t) := by
  unfold Machine.eventPostEffect
  split
  · exact .ite h h.frame.hostStore
  · exact h

theorem Grows.updateIrq (h : Grows s t) : Grows s (updateIrq t) := .ite (.ite h h.frame) (.ite h.frame h)

theorem Grows.recordDone {r : EvRec} {ok : Bool} (h : Grows s t) : Grows s (recordDone t r ok) := by
  unfold Machine.recordDone
  extract_lets _ _ s1
  have hs1 : Grows s s1 := by
    dsimp only [s1]
    split
    · exact h.frame.modRun
    · exact h.frame
  exact .ite (Grows.ite hs1.frame hs1).wr.count.updateIrq hs1.count

theorem Grows.eventAckEffect {stat : Nat} (h : Grows s t) : Grows s (eventAckEffect t stat) := by
  unfold Machine.eventAckEffect
  split
  · exact h
  · exact .ite h (.ite h.setHost.recordDone (.ite h.setHost.frame.hostStore h.setHost.recordDone))

theorem Grows.retire {q : Nat} {r : Run} (h : Grows s t) : Grows s (retire t q r) := by
  unfold Machine.retire
  extract_lets s1
  have hs1 : Grows s s1 := .ite (.ite h.tallyFail h.tallyAdd) h
  exact .ite hs1.setQ.wr hs1.setQ

theorem Grows.commandRetireEffect {q : Nat} (h : Grows s t) : Grows s (commandRetireEffect t q) := by
  unfold Machine.commandRetireEffect
  split
  · exact h
  · exact .ite h (.ite h.modRun.postRec (.ite h h.retire))

theorem Grows.readData {tag stat : Nat} {data : Bytes} (h : Grows s t) : ∀ r ∈ readData t tag stat data, Grows s r.2 := by
  intro r hr
  unfold Machine.readData at hr
  split at hr
  · cases hr
  · split at hr
    · exact Option.some.inj hr ▸ h.setHost.snd
    · exact Option.some.inj hr ▸ h.setHost.snd

theorem Grows.writeResponseEffect {tag stat : Nat} (h : Grows s t) : Grows s (writeResponseEffect t tag stat) := by
  unfold Machine.writeResponseEffect
  split
  · exact h
  · exact .ite h.setHost.finish (.ite h.setHost.finish h.setHost)

theorem Grows.drawWrites {q i raw : Nat} {ws : List Nat} (h : Grows s t) : Grows s (drawWrites t q i raw ws) :=
  h.foldl fun _ h => h.hostStore

theorem Grows.drawEffect {q : Nat} {uni : Bool} (h : Grows s t) : Grows s (drawEffect t q uni) := by
  unfold Machine.drawEffect
  split
  · exact h
  · exact .ite h (.ite h.finish h.keepRunning.drawWrites)

theorem Grows.nopEffect {q : Nat} (h : Grows s t) : Grows s (nopEffect t q) := by
  unfold Machine.nopEffect
  split
  · exact h
  · exact h.finish

theorem Grows.tallyAddEffect {q : Nat} (h : Grows s t) : Grows s (tallyAddEffect t q) := by
  unfold Machine.tallyAddEffect
  split
  · exact h
  · exact h.tallyAdd.finish

theorem Grows.tallySetEffect {q : Nat} (h : Grows s t) : Grows s (tallySetEffect t q) := by
  dsimp only [Machine.tallySetEffect]
  split
  · exact h
  · exact h.withTallyVal.finish

theorem Grows.tallyClearEffect {q : Nat} (h : Grows s t) : Grows s (tallyClearEffect t q) := by
  dsimp only [Machine.tallyClearEffect]
  split
  · exact h
  · exact h.withTallyCode.finish

/-! ## Other members -/

theorem Grows.setHive {h' : Hive} (h : Grows s t) : Grows s (setHive t h') := h.frame

theorem Grows.fenceFlit {peer : Nat} {body : Bytes} (h : Grows s t) : Grows s (fenceFlit t peer body) := .ite h h.frame

theorem Grows.sendPack {peer : Nat} {resp : Bool} (h : Grows s t) : Grows s (sendPack t peer resp) := by
  unfold Machine.sendPack
  split
  · exact h
  · exact .ite h.setHive.sendMsg h.setHive.sendMsg.fenceFlit

theorem Grows.packRec {peer flow : Nat} {resp : Bool} {b : Bytes} (h : Grows s t) : Grows s (packRec t peer resp flow b) := by
  unfold Machine.packRec
  extract_lets _ s1 _ s2
  have hs1 : Grows s s1 := .ite h.sendPack h
  have hs2 : Grows s s2 := by
    dsimp only [s2]
    split
    · exact hs1.setHive
    · exact hs1.setHive
  exact .ite hs2.sendPack hs2

theorem Grows.takeCtx {c : Nat} {r : HiveCtx} (h : Grows s t) : Grows s (takeCtx t r c) := h.setHive

theorem Grows.takeQueued {c : Nat} {r : HiveCtx} (h : Grows s t) : Grows s (takeQueued t r c) := by
  unfold Machine.takeQueued
  extract_lets
  split
  · exact h.takeCtx.frame
  · exact h.takeCtx

theorem Grows.setDeg {d : DegRead} (h : Grows s t) : Grows s (setDeg t d) := h.setHive

theorem Grows.holdHost {c : HiveCtx} (h : Grows s t) : Grows s (holdHost t c) := h.setHost.count

theorem Grows.creditBack {c : HiveCtx} (h : Grows s t) : Grows s (creditBack t c) := h.setHost.emit

theorem Grows.freeHeld (h : Grows s t) : Grows s (freeHeld t) := by
  unfold Machine.freeHeld
  split
  · exact h.creditBack
  · exact h

theorem Grows.dropQueued {p : HiveCtx → Bool} (h : Grows s t) : Grows s (dropQueued t p) :=
  h.setHive.foldl fun _ h => h.creditBack

theorem Grows.admitCtxs {n : Nat} (h : Grows s t) : Grows s (admitCtxs n t) := by
  induction n generalizing t with
  | zero => exact h
  | succ n ih =>
    rw [Machine.admitCtxs]
    split
    · exact h
    · split
      · exact ih h.setHive.freeHeld.takeQueued
      · split
        · exact ih h.setDeg.takeCtx
        · exact h

theorem Grows.suspectData {d : Nat} (h : Grows s t) : Grows s (suspectData t d) := .ite h h.setLedger.count

theorem Grows.suspectPar {p : Nat} (h : Grows s t) : Grows s (suspectPar t p) := .ite h h.setLedgerPX.count

theorem Grows.setWin {w : WinRead} (h : Grows s t) : Grows s (setWin t w) := h.setHive

theorem Grows.winAnswer {w : WinRead} (h : Grows s t) : Grows s (winAnswer t w) :=
  .ite h.setWin (.ite h.setWin (.ite h.setHive.emit h.setHive.emit))

theorem Grows.winPiece {id : Nat} {d : DegRead} {ps : List (Nat × Nat × Nat)} (h : Grows s t) : Grows s (winPiece t d id ps) := by
  unfold Machine.winPiece
  split
  · exact h
  · exact h.winAnswer

theorem Grows.degBegin {d : DegRead} (h : Grows s t) : Grows s (degBegin t d) := h.setHive.admitCtxs

theorem Grows.degFinishN {n : Nat} {x : DegRead} (h : Grows s t) : Grows s (degFinishN n t x) := by
  induction n generalizing t x with
  | zero => exact h
  | succ n ih =>
    rw [Machine.degFinishN]
    dsimp only
    refine .ite h ?_
    split
    · exact h
    · split
      · exact ih h.setHive.degBegin
      · split
        · exact .ite h.setHive h.setHive.setCod
        · exact h.setHive.winPiece
        · exact h
    · split
      · exact .ite h.setHive h.setHive.setCod
      · exact h.setHive.winPiece
      · exact h

theorem Grows.degFinish {d : DegRead} (h : Grows s t) : Grows s (degFinish t d) := h.degFinishN

theorem Grows.degStart {use : DegUse} {rank st : Nat} {live : Bool} {grans except : List Nat} (h : Grows s t) :
    ∀ u ∈ degStart t use rank st live grans except, Grows s u := by
  intro u hu
  obtain ⟨d, -, rfl⟩ := Option.map_eq_some_iff.mp hu
  exact h.degBegin.degFinish

theorem Grows.wantKept {d : Nat} (h : Grows s t) : Grows s (wantKept t d).1 := by
  unfold Machine.wantKept
  extract_lets
  refine .fst_ite h.fst (.fst_ite h.fst ?_)
  split
  next u hu => exact (h.degStart u hu).fst
  next => exact h.fst

theorem Grows.wantAll {ds : List Nat} (h : Grows s t) : Grows s (wantAll t ds).1 :=
  h.fst.fst_foldl fun _ h => h.wantKept.fst

theorem Grows.pullStripe {who t' : Nat} (h : Grows s t) : Grows s (pullStripe t who t') := .ite h h.frame.count

theorem Grows.pullData {who : Nat} {ds : List Nat} (h : Grows s t) : Grows s (pullData t who ds) :=
  h.foldl fun _ h => h.pullStripe

/-! ## The directory -/

theorem Grows.setPool {p : Pool} (h : Grows s t) : Grows s (setPool t p) := h.frame

theorem Grows.dropImage {i : Nat} (h : Grows s t) : Grows s (dropImage t i) := h.tput.setPool

theorem Grows.writeBack {i kind : Nat} (h : Grows s t) : Grows s (writeBack t i kind) :=
  .ite h.setPool (h.foldl fun _ h => h.placeWrite.count).setPool.tput

theorem Grows.settleBack {i : Nat} (h : Grows s t) : Grows s (settleBack t i) :=
  .ite h (.ite (.ite h.setPool.unitError h.setPool) (.ite h.setPool.dropImage.count h.setPool))

theorem Grows.makeRoom {t' n n1 : Nat} (h : Grows s t) : Grows s (makeRoom t' n n1 t).1 := by
  induction n1 generalizing t with
  | zero => exact h.fst
  | succ n1 ih =>
    rw [Machine.makeRoom]
    split
    · exact h.fst
    · split
      · exact .fst_ite h.fst (.fst_ite (ih h.writeBack.settleBack) (ih h.dropImage.count))
      · exact h.fst

theorem Grows.homeFetch {owner o c : Nat} (h : Grows s t) : Grows s (homeFetch t owner o c) := h.placeRead

theorem Grows.fillPut {i : Nat} (h : Grows s t) : Grows s (fillPut t i) :=
  .ite h (h.setPool.foldl fun _ h => h.placeWrite)

theorem Grows.settleCache {i : Nat} (h : Grows s t) : Grows s (settleCache t i) :=
  .ite h.fillPut.setPool.tput h.fillPut

theorem Grows.cacheFill {user tenant o c : Nat} (h : Grows s t) : Grows s (cacheFill t user tenant o c).1 := by
  unfold Machine.cacheFill
  split
  · exact (Grows.ite h.setPool h).fst
  · split
    next u hu => exact (h.makeRoom.of_fst hu).count.fst
    next u st slot hu =>
      have h := h.makeRoom.of_fst hu
      split
      · exact h.count.fst
      · exact h.tput.setPool.homeFetch.settleCache.fst

theorem Grows.cacheAll {user tenant : Nat} {l : List (Nat × Nat)} (h : Grows s t) : Grows s (cacheAll user tenant l t).1 :=
  h.fst.fst_foldl fun _ h => h.cacheFill.fst

theorem Grows.homeWritten {o e : Nat} (h : Grows s t) : Grows s (homeWritten t o e) := by
  refine .foldl h.tput.frame fun _ h => ?_
  refine .ite h.count.event ?_
  split
  · exact h
  · exact h.frame

theorem Grows.setLenEntry {owner ep e c v : Nat} (h : Grows s t) : Grows s (setLenEntry t owner ep e c v) :=
  h.placeWrite.homeWritten

theorem Grows.zipCell {owner ep e c : Nat} {p : Place} {b : Bytes} (h : Grows s t) : Grows s (zipCell t owner ep e c p b) :=
  .ite h.placeWrite.setLenEntry h.placeWrite.setLenEntry

theorem Grows.cellWrite {owner ep o c off : Nat} {b : Bytes} (h : Grows s t) : Grows s (cellWrite t owner ep o c off b) := by
  refine .ite ?_ (.ite h.zipCell h.placeWrite)
  split
  · exact h
  · exact h.setPool.tput.placeWrite

theorem Grows.resumeBacks (h : Grows s t) : Grows s (resumeBacks t) := h.foldl fun _ h => h.setPool.writeBack

theorem Grows.cellFetch {owner o c : Nat} (h : Grows s t) : Grows s (cellFetch t owner o c) :=
  .ite h.homeFetch h.placeRead

/-! ## Images and tiers -/

theorem Grows.setMove {i v : Nat} (h : Grows s t) : Grows s (setMove t i v) := h.tput

theorem Grows.setMoveAux {i err k : Nat} (h : Grows s t) : Grows s (setMoveAux t i err k) := by
  unfold Machine.setMoveAux
  split
  · exact h.modRun
  · exact h

theorem Grows.moveCellU {i e d : Nat} {b : Bytes} (h : Grows s t) : ∀ u ∈ moveCellU t i e d b, Grows s u := by
  intro u hu
  unfold Machine.moveCellU at hu
  split at hu
  · cases hu
  next v hv => exact Option.some.inj hu ▸ ((h.openCell v hv).foldl fun _ h => h.writeGran).closeThread

theorem Grows.failMove {i code : Nat} (h : Grows s t) : Grows s (failMove t i code) := by
  unfold Machine.failMove
  extract_lets
  split
  · exact h.setPool.finish
  · exact h.setPool

theorem Grows.sourceIn {i k src : Nat} (h : Grows s t) : Grows s (sourceIn t i k src).1 := by
  refine .fst_ite (.fst_ite h.failMove.fst h.wantAll) (.fst_ite h.pullData.fst (.fst_ite (Grows.ite h.failMove h).fst
      ?_))
  extract_lets _ _ s1
  have hs1 : Grows s s1 := .ite h h.memRequest.setMoveAux
  exact .fst_ite hs1.fst (.fst_ite hs1.fst hs1.suspectData.setMoveAux.fst)

theorem Grows.moveCellsU {i n : Nat} (h : Grows s t) : Grows s (moveCellsU i n t) := by
  induction n generalizing t with
  | zero => exact h
  | succ n ih =>
    refine .ite h (.ite h ?_)
    have hsrc {c : Prop} [Decidable c] {k d : Nat} : Grows s (if c then Machine.sourceIn t i k d else (t, true)).1 :=
      .fst_ite h.sourceIn h.fst
    split
    next u hu => exact hsrc.of_fst hu
    next u hu =>
      have h := hsrc.of_fst hu
      extract_lets
      split
      · exact h.logStall
      next v hv => exact ih (h.moveCellU v hv).setMove

theorem Grows.moveCell {i k : Nat} (h : Grows s t) : Grows s (moveCell t i k) := .ite h.zipCell h.placeWrite

theorem Grows.moveFetch {i : Nat} (h : Grows s t) : Grows s (moveFetch t i) :=
  h.setMoveAux.foldl fun _ h => h.homeFetch

theorem Grows.moveCells {i : Nat} (h : Grows s t) : Grows s (moveCells t i) := (h.foldl fun _ h => h.moveCell).setMove

theorem Grows.finishMove {i : Nat} (h : Grows s t) : Grows s (finishMove t i) := by
  unfold Machine.finishMove
  split
  · exact h.count.finish
  · exact h

theorem Grows.switchOver {i : Nat} (h : Grows s t) : Grows s (switchOver t i) :=
  .ite h.tput.setMove.moveCellsU h.tput.setPool.setMove

theorem Grows.releaseMove {i : Nat} (h : Grows s t) : Grows s (releaseMove t i) := .ite h h.setMove.finishMove

theorem Grows.settleMove {i : Nat} (h : Grows s t) : Grows s (settleMove t i) := by
  unfold Machine.settleMove
  extract_lets _ _ _ _ _ s1
  have hs1 : Grows s s1 := .ite h.moveCells h
  split
  · exact h
  · exact .ite (.ite h.moveCellsU (.ite (.ite h.moveCellsU.switchOver.setMove.finishMove h.moveCellsU.switchOver) (.ite
        h.moveCellsU.setMove.finishMove h.moveCellsU))) (.ite h.releaseMove (.ite h (.ite hs1.switchOver.releaseMove
        hs1)))

theorem Grows.resumeMoves (h : Grows s t) : Grows s (resumeMoves t) := h.foldl fun _ h => h.settleMove

theorem Grows.takeMove {q : Nat} {r : Run} (h : Grows s t) : Grows s (takeMove t q r) := by
  unfold Machine.takeMove
  split
  · exact h.finish
  · exact h.setMove.modRun

theorem Grows.moveEffect {q : Nat} (h : Grows s t) : Grows s (moveEffect t q) := by
  unfold Machine.moveEffect
  split
  · exact h
  · exact .ite h.settleMove (Grows.ite h.keepRunning h.keepRunning.moveFetch).settleMove

theorem Grows.retireMoves {e : Nat} (h : Grows s t) : Grows s (retireMoves t e) := h.foldl fun _ h => .ite h.setMove h

theorem Grows.undoMoves {target : Nat} (h : Grows s t) : Grows s (undoMoves t target) :=
  h.foldl fun _ h => .ite h.tput.setMove h

theorem Grows.fillCells {i : Nat} (h : Grows s t) : Grows s (fillCells t i) := h.foldl fun _ h => h.homeFetch

theorem Grows.finishFill {i err info0 info1 : Nat} (h : Grows s t) : Grows s (finishFill t i err info0 info1) := by
  unfold Machine.finishFill
  split
  · exact h.finish
  · exact h

theorem Grows.settleFill {i : Nat} (h : Grows s t) : Grows s (settleFill t i) :=
  .ite h.fillPut (.ite h.fillPut.dropImage.finishFill (.ite h.fillPut.setPool.tput.finishFill
    h.fillPut.count.dropImage.finishFill))

theorem Grows.imageFillEffect {q : Nat} (h : Grows s t) : Grows s (imageFillEffect t q) := by
  unfold Machine.imageFillEffect
  split
  · exact h
  · refine .ite h.settleFill (.ite h.finish ?_)
    split
    next u hu => exact (h.makeRoom.of_fst hu).count
    next u st slot hu =>
      have h := h.makeRoom.of_fst hu
      split
      · exact h.count
      · exact h.tput.keepRunning.fillCells.settleFill

theorem Grows.settleDrop {i : Nat} (h : Grows s t) : Grows s (settleDrop t i) := by
  unfold Machine.settleDrop
  split
  · exact h
  · exact .ite h.dropImage.finish h

theorem Grows.imageDropEffect {q : Nat} (h : Grows s t) : Grows s (imageDropEffect t q) := by
  unfold Machine.imageDropEffect
  split
  · exact h
  · exact .ite (.ite h.writeBack.settleBack.settleDrop h.settleDrop) (.ite h.finish (.ite
        h.keepRunning.writeBack.settleBack.settleDrop h.dropImage.finish))

theorem Grows.settleFlush {q : Nat} {r : Run} (h : Grows s t) : Grows s (settleFlush t q r) := .ite h.finish h

theorem Grows.flushAll {is : List Nat} (h : Grows s t) : Grows s (flushAll t is) :=
  h.foldl fun _ h => h.writeBack.settleBack

theorem Grows.imageFlushEffect {q : Nat} (h : Grows s t) : Grows s (imageFlushEffect t q) := by
  unfold Machine.imageFlushEffect
  split
  · exact h
  · exact .ite h.finish (.ite h.flushAll.settleFlush h.keepRunning.flushAll.settleFlush)

theorem Grows.joinFlushes {is : List Nat} (h : Grows s t) : Grows s (joinFlushes t is) := by
  refine .foldl h fun _ h => ?_
  split
  · exact .ite h.keepRunning h
  · exact h

theorem Grows.setStream {k : Nat} {p : Option Stream} (h : Grows s t) : Grows s (setStream t k p) := h.frame

theorem Grows.fillRange {v off : Nat} {p : Stream} {d : Binding} (h : Grows s t) : Grows s (fillRange t p v off d) := by
  unfold Machine.fillRange
  extract_lets
  split
  · exact h.tput.setPool.fillCells.fillPut
  · exact h

theorem Grows.fillVisit {k v : Nat} {p : Stream} (h : Grows s t) : Grows s (fillVisit t k p v) :=
  .ite h ((h.foldl fun _ h => h.dropImage).foldl fun _ h => h.fillRange).setStream

theorem Grows.settleStream {k n : Nat} (h : Grows s t) : Grows s (settleStream k n t) := by
  induction n generalizing t with
  | zero => exact h
  | succ n ih =>
    rw [Machine.settleStream]
    split
    · exact h
    · extract_lets _ _ s1
      have hs1 : Grows s s1 := h.foldl fun _ h => h.fillPut
      exact .ite h (.ite hs1 (.ite hs1.fillVisit (ih (hs1.foldl fun _ h => h.tput).setStream.tallyAdd)))

theorem Grows.takeSlot {q : Nat} {r : Run} (h : Grows s t) : Grows s (takeSlot t q r) := by
  unfold Machine.takeSlot
  split
  · exact h
  · exact h.setStream.modRun

theorem Grows.imageStreamEffect {q : Nat} (h : Grows s t) : Grows s (imageStreamEffect t q) := by
  unfold Machine.imageStreamEffect
  split
  · exact h
  · extract_lets
    split
    · exact h.setStream.fillVisit.finish.settleStream
    · exact h.setStream.finish

theorem Grows.imageStopEffect {q : Nat} (h : Grows s t) : Grows s (imageStopEffect t q) := by
  unfold Machine.imageStopEffect
  split
  · exact h
  · extract_lets
    split
    · exact h.finish
    · exact (h.foldl fun _ h => h.dropImage).setStream.finish

theorem Grows.streamVisitEffect {k : Nat} (h : Grows s t) : Grows s (streamVisitEffect t k) := by
  unfold Machine.streamVisitEffect
  split
  · exact h
  · exact .ite h h.fillVisit.settleStream

theorem Grows.noteLoad {p load : Nat} (h : Grows s t) : Grows s (noteLoad t p load) :=
  .ite h.wr.setTier (.ite h.wr.setTier h.wr)

theorem Grows.failThread {t' code : Nat} (h : Grows s t) : Grows s (failThread t t' code) :=
  .ite h.closeThread.setThread h

theorem Grows.setCol {x : Colls} (h : Grows s t) : Grows s (setCol t x) := h.frame

theorem Grows.noteZero {owner c : Nat} (h : Grows s t) : Grows s (noteZero t owner c) := h.setPool

theorem Grows.failUnit {u' : Nat} (h : Grows s t) : Grows s (failUnit t u') := .ite h.failThread h.setCol

theorem Grows.lostCell {owner o c : Nat} (h : Grows s t) : Grows s (lostCell t owner o c) := by
  unfold Machine.lostCell
  extract_lets _ _ s1
  have hs1 : Grows s s1 := .ite h.unitError h
  exact .ite h.placeWrite (.ite (.ite hs1.noteZero (.ite hs1.dropImage hs1.dropImage.failUnit)) (.ite (Grows.ite hs1
      hs1.unitError).setMoveAux.noteZero hs1.failUnit))

theorem Grows.tierLost {p : Nat} {r : TierReq} (h : Grows s t) : Grows s (tierLost t p r) := by
  unfold Machine.tierLost
  split
  · exact h
  · exact h.lostCell

theorem Grows.tierAnswered {p tag : Nat} {write : Bool} (h : Grows s t) : ∀ r ∈ tierAnswered t p tag write, Grows s r.2 := by
  intro r hr
  unfold Machine.tierAnswered at hr
  extract_lets at hr
  split at hr
  · cases hr
  · exact Option.some.inj hr ▸ h.setTier.pumpTier.snd

theorem Grows.tierWriteFailed {p : Nat} {r : TierReq} (h : Grows s t) : Grows s (tierWriteFailed t p r) :=
  .ite h.setPool.tput (.ite (.ite h.setMove.failMove h) (.ite h.failUnit h.unitError))

end Sys2Proof.Machine
end

section
/-! PROOFS. What every command keeps (R511): the updates of the rows of a step. -/

namespace Sys2Proof.Machine

variable {s t : State}

/-! ## The schedule of a row -/

theorem Grows.schedLatch {e : Nat} (h : Grows s t) : Grows s (schedLatch t e) := by
  unfold Machine.schedLatch
  extract_lets _ _ _ s1
  have hs1 : Grows s s1 := .ite h.frame.wr h.frame.wr
  exact .ite hs1.wr.wr.wr.wr hs1.wr.wr.wr.wr

theorem Grows.schedStart {c : Nat} (h : Grows s t) : Grows s (schedStart t c) := h.schedLatch.schedLatch

theorem Grows.noteFormed {d e : Nat} {replay : Bool} (h : Grows s t) : Grows s (noteFormed t d e replay) :=
  .ite h h.frame.count.countN

/-! ## Operands -/

theorem Grows.setScratch {off i v : Nat} (h : Grows s t) : Grows s (setScratch t off i v) := h.frame

/-! ## Faults of a fetch -/

theorem Grows.countKinds {sl : Nat} {ks : List Nat} (h : Grows s t) : Grows s (countKinds t sl ks) :=
  h.foldl fun _ h => h.count

/-! ## Rows that update -/

/-- The state of a reservation of several cells, whether it holds or stops at one that has no room. -/
def reservedState (t : State) : Option State ⊕ (State × Nat) → State
  | .inl (some u) => u
  | .inl none => t
  | .inr (u, _) => u

theorem Grows.reserveAll {th visit e : Nat} {l : List (Nat × Nat)} (h : Grows s t) :
    Grows s (reservedState t (reserveAll th visit e l t)) := by
  suffices hall : ∀ v, Grows s v → Grows s (reservedState v (Machine.reserveAll th visit e l t)) from hall t h
  intro v hv
  induction l generalizing t with
  | nil => exact h
  | cons a l ih =>
    rw [Machine.reserveAll]
    split
    next u hu => exact ih (h.openCell u hu)
    next => exact h

theorem Grows.reserved {th visit e : Nat} {l : List (Nat × Nat)} {r : Option State ⊕ State × Nat} (h : Grows s t)
    (hr : Machine.reserveAll th visit e l t = r) : Grows s (reservedState t r) :=
  hr ▸ h.reserveAll

theorem Grows.noteReplay {o c : Nat} (h : Grows s t) : Grows s (noteReplay t o c) := by
  unfold Machine.noteReplay
  split
  · exact h
  · exact .ite h h.frame

theorem Grows.mergeRead {x : RowCtx} {w : Bound} {g : Nat × List (Nat × Bytes)} (h : Grows s t) : Grows s (mergeRead t x w g) :=
  .ite h.count.placeRead h

theorem Grows.writeGranule {x : RowCtx} {w : Bound} {g : Nat × List (Nat × Bytes)} (h : Grows s t) :
    Grows s (writeGranule t x w g) :=
  .ite (.ite (.ite h.mergeRead h.mergeRead.noteReplay.placeWrite) h.mergeRead.writeGran) h.mergeRead.cellWrite

theorem Grows.writeGrans {x : RowCtx} {w : Bound} {gs : List (Nat × List (Nat × Bytes))} (h : Grows s t) :
    Grows s (writeGrans t x w gs) :=
  .ite ((h.foldl fun _ h => h.mergeRead).foldl fun _ h => h.cellWrite) (h.foldl fun _ h => h.writeGranule)

theorem Grows.writePuts {x : RowCtx} {w : Bound} {ps : List Put} (h : Grows s t) : Grows s (writePuts t x w ps) :=
  h.writeGrans

theorem Grows.writeStream {k : Nat} {x : RowCtx} {ls : List (Elem × Lane)} (h : Grows s t) : Grows s (writeStream t x k ls) := by
  unfold Machine.writeStream
  extract_lets _ _ _ _ _ _ _ _ _ _ _ _ _ _ s1
  have hs1 : Grows s s1 := .ite (.ite h.countN.countN.writeGrans.writeGrans
      h.countN.countN.writeGrans.writeGrans.homeWritten) h.countN.writePuts
  exact .ite hs1 hs1.homeWritten

theorem Grows.finishReduce {x : RowCtx} {leaves : List (Nat × Nat × Nat)} (h : Grows s t) : Grows s (finishReduce t x leaves) :=
  h.foldl fun _ h => h.countN.setScratch

theorem Grows.closeDone {i : Nat} {t' : Thread} {x : RowCtx} (h : Grows s t) : Grows s (closeDone t t' x i) :=
  h.foldl fun _ h => h.closeCell

theorem Grows.listFetch {owner o r : Nat} (h : Grows s t) : Grows s (listFetch t owner o r) := by
  unfold Machine.listFetch
  extract_lets
  split
  · exact h
  · exact h.foldl fun _ h => h.placeRead

theorem Grows.gatherFetch {x : RowCtx} {b : Bound} {ps : List Elem} (h : Grows s t) : Grows s (gatherFetch t x b ps) :=
  h.foldl fun _ h => .ite h (.ite h.listFetch (h.foldl fun _ h => h.placeRead))

theorem Grows.fetchCells {i : Nat} {t' : Thread} {x : RowCtx} {ps : List Elem} (h : Grows s t) :
    Grows s (fetchCells t t' x i ps) :=
  h.foldl fun _ h => .ite h.gatherFetch (h.foldl fun _ h => h.cellFetch)

theorem Grows.holdBad {th : Nat} {bad : List Nat} (h : Grows s t) : Grows s (holdBad t th bad).1 := by
  unfold Machine.holdBad
  extract_lets s1
  have hs1 : Grows s s1 := h.foldl fun _ h => h.suspectData
  exact .fst_ite hs1.setThread.fst hs1.setThread.fst

theorem Grows.fetchWhole {th : Nat} {ds : List Nat} {fetch : State → State} (h : Grows s t)
    (hf : ∀ {u : State}, Grows s u → Grows s (fetch u)) : Grows s (fetchWhole t th ds fetch).1 :=
  have hfetch {x : Thread} : Grows s (fetch (Machine.setThread t th x)) := hf h.setThread
  .fst_ite h.holdBad (.fst_ite (.fst_ite (.fst_ite h.fst h.holdBad) h.fst)
    (.fst_ite (.fst_ite hfetch.fst hfetch.holdBad) hfetch.fst))

theorem Grows.iterate {th i : Nat} (h : Grows s t) : Grows s (iterate t th i).1 := by
  unfold Machine.iterate
  extract_lets _ _ _ _ _ _ _ _ _ _ _ _ _ _ _ _ _ _ s1 _ s2
  have hs1 : Grows s s1.1 := h.wakeSlice.cacheAll
  have hs2 : Grows s s2.1 := hs1.fetchWhole fun h => h.fetchCells
  refine .fst_ite h.count.fst (.fst_ite (Grows.ite h h.setThread).fst (.fst_ite h.fst (.fst_ite h.fst (.fst_ite
    h.count.fst (.fst_ite h.fst (.fst_ite h.pullData.fst (.fst_ite h.fst (.fst_ite h.wantAll.fst (.fst_ite
    hs1.fst (.fst_ite hs2 ?_))))))))))
  split
  next hr => exact (hs2.reserved hr).logStall.fst
  · exact hs2.fst
  next hr => exact ((hs2.reserved hr).countKinds.countN.countN.foldl fun _ h => h.writeStream).setThread.closeDone.fst

/-! ## Digests -/

theorem Grows.setComb {x : Comb} (h : Grows s t) : Grows s (setComb t x) := h.frame

theorem Grows.guardReport {x cls occ reporter : Nat} (h : Grows s t) : Grows s (guardReport t x cls occ reporter) :=
  .ite h.setComb.tput.frame.count h.setComb.tput.unitError

theorem Grows.faultReport {x cls : Nat} (h : Grows s t) : Grows s (faultReport t x cls) := by
  refine .ite h.guardReport (.ite h.tput (.ite ?_ h.tput.unitError))
  split
  · exact h.tput.sendMsg
  · exact h.tput

theorem Grows.setHist {e v : Nat} (h : Grows s t) : Grows s (setHist t e v) := h.tput

theorem Grows.noteNewest (h : Grows s t) : Grows s (noteNewest t) := h.wr

theorem Grows.digMismatch {e x : Nat} (h : Grows s t) : Grows s (digMismatch t e x) := h.setHist.count.event

theorem Grows.digExpect (h : Grows s t) : Grows s (digExpect t) := .ite h (.ite h.wr h.wr.digMismatch)

theorem Grows.writeHist {e : Nat} {cells : List DigCell} {replay : Bool} (h : Grows s t) : Grows s (writeHist t e cells replay) :=
  (Grows.ite h.count h).wr.setHist.noteNewest.digExpect

theorem Grows.invalidateHist {target newest : Nat} (h : Grows s t) : Grows s (invalidateHist t target newest) :=
  (h.foldl fun _ h => .ite h.tput h).noteNewest

theorem Grows.peerDigest {x e d : Nat} (h : Grows s t) : Grows s (peerDigest t x e d) :=
  .ite h (.ite h.setHist h.setHist.digMismatch.faultReport)

theorem Grows.drainCheck {e : Nat} (h : Grows s t) : Grows s (drainCheck t e) := by
  unfold Machine.drainCheck
  split
  · exact .ite h.setEpoch.writeHist h
  · exact h

theorem Grows.drainChecks (h : Grows s t) : Grows s (drainChecks t) := h.foldl fun _ h => h.drainCheck

/-! ## The intake unit -/

theorem Grows.setIntk {x : Intake} (h : Grows s t) : Grows s (setIntk t x) := h.frame

theorem Grows.setTrack {t' : Track} (h : Grows s t) : Grows s (setTrack t t') := h.setIntk.wr

theorem Grows.accClaim {st b lrows cols : Nat} {x : RowCtx} {sparse : Bool} (h : Grows s t) :
    Grows s (accClaim t x st b sparse lrows cols).1 := by
  refine .fst_ite h.fst ?_
  split
  · exact .fst_ite h.count.fst (.fst_ite h.setTrack.fst h.setTrack.count.fst)
  · exact .fst_ite h.fst (.fst_ite h.setTrack.fst (.fst_ite h.fst h.count.fst))

theorem Grows.accDone {st e : Nat} (h : Grows s t) : Grows s (accDone t st e) := by
  unfold Machine.accDone
  split
  · exact h.setTrack
  · exact h

theorem Grows.noteFolds {st e : Nat} {blks : List Nat} (h : Grows s t) : Grows s (noteFolds t st e blks) := by
  unfold Machine.noteFolds
  split
  · exact h.setTrack
  · exact h

theorem Grows.accDenseStart {th : Nat} (h : Grows s t) : Grows s (accDenseStart t th).1 :=
  .fst_ite h.fst (.fst_ite h.fst h.accClaim)

theorem Grows.accDense {th i : Nat} (h : Grows s t) : Grows s (accDense t th i).1 := by
  unfold Machine.accDense
  extract_lets _ _ _ _ _ _ _ _ _ _ _ _ _ s1 _ _ _ _ _ _ _ _ _ s3
  have hs1 : Grows s s1.1 := h.wakeSlice.fetchWhole fun h => h.fetchCells
  have hs3 : Grows s s3 := (hs1.countN.countN.foldl fun _ h => h.count).foldl fun _ h => h.count
  exact .fst_ite (Grows.ite h.count.accDone h.count).fst (.fst_ite (Grows.ite h.accDone h).fst (.fst_ite h.fst
    (.fst_ite h.count.fst (.fst_ite h.fst (.fst_ite hs1 (Grows.ite
    hs3.writePuts.noteFolds.homeWritten.accDone hs3.writePuts.noteFolds.homeWritten).fst)))))

theorem Grows.countSegs {st row cols : Nat} (h : Grows s t) : Grows s (countSegs t st row cols) :=
  h.foldl fun _ h => h.countN

theorem Grows.setKey {a : AccKey} (h : Grows s t) : Grows s (setKey t a) := h.setIntk

theorem Grows.spillKey {a : AccKey} (h : Grows s t) : ∀ u ∈ spillKey t a, Grows s u := by
  intro u hu
  obtain ⟨i, -, rfl⟩ := Option.map_eq_some_iff.mp hu
  exact h.setKey.setIntk.count

theorem Grows.roomFor {sl k : Nat} (h : Grows s t) : ∀ r ∈ roomFor t sl k, Grows s r.1 := by
  intro r hr
  obtain ⟨u, hu, hr⟩ := Option.bind_eq_some_iff.mp hr
  have hu : Grows s u := by
    dsimp only at hu
    split at hu
    · exact Option.some.inj hu ▸ h
    · obtain ⟨a, -, hu⟩ := Option.bind_eq_some_iff.mp hu
      exact h.spillKey u hu
  obtain ⟨v, hv, rfl⟩ := Option.map_eq_some_iff.mp hr
  split at hv
  · exact Option.some.inj hv ▸ hu
  · obtain ⟨a, -, hv⟩ := Option.bind_eq_some_iff.mp hv
    exact hu.spillKey v hv

theorem Grows.readyKey {st row seg : Nat} (h : Grows s t) : ∀ r ∈ readyKey t st row seg, Grows s r.1 := by
  intro r hr
  unfold Machine.readyKey at hr
  extract_lets at hr
  split at hr
  · exact Option.some.inj hr ▸ h.fst
  · split at hr
    · split at hr
      · obtain ⟨x, hx, rfl⟩ := Option.map_eq_some_iff.mp hr
        exact (h.roomFor x hx).setKey.count.fst
      · exact Option.some.inj hr ▸ h.fst
    · obtain ⟨x, hx, rfl⟩ := Option.map_eq_some_iff.mp hr
      exact (h.roomFor x hx).fst

theorem Grows.foldSeg {st row seg base : Nat} {x : RowCtx} {seedB : Bytes} {vs : List (Nat × Bool)} (h : Grows s t) :
    ∀ u ∈ foldSeg t x st row seg seedB base vs, Grows s u := by
  intro u hu
  obtain ⟨r, hr, rfl⟩ := Option.map_eq_some_iff.mp hu
  have h := h.readyKey r hr
  dsimp only
  split
  · exact h.setKey
  · exact h.countN.setKey

theorem Grows.setTouched {st : Nat} {l : List Nat} (h : Grows s t) : Grows s (setTouched t st l) := h.setIntk

theorem Grows.promote {st tile seg : Nat} (h : Grows s t) : Grows s (promote t st tile seg) := by
  unfold Machine.promote
  extract_lets
  split
  · exact h.count
  · exact h.countN.setIntk.count

theorem Grows.markRow {st row cols : Nat} (h : Grows s t) : Grows s (markRow t st row cols) :=
  .ite h (.ite (h.setTouched.foldl fun _ h => h.promote) h.setTouched)

theorem Grows.foldSegs {st row cols : Nat} {x : RowCtx} {seedB : Bytes} {vs : List (Nat × Bool)} {l : List Nat} (h : Grows s t) :
    ∀ u ∈ foldSegs x st row cols seedB vs l t, Grows s u := by
  intro u hu
  induction l generalizing t with
  | nil => exact Option.some.inj hu ▸ h
  | cons g l ih =>
    rw [Machine.foldSegs] at hu
    split at hu
    next v hv => exact ih (h.foldSeg v hv) hu
    · cases hu

theorem Grows.foldRecs {o : Nat} {x : RowCtx} {h' : ListHdr} {seedB : Bytes} {l : List Nat} (h : Grows s t) :
    Grows s (foldRecs x o h' seedB l t).1 := by
  induction l generalizing t with
  | nil => exact h.fst
  | cons a l ih =>
    rw [Machine.foldRecs]
    extract_lets _ _ _ _ _ s2
    have hs2 : Grows s s2 := (h.countN.foldl fun _ h => .ite h.count h).countSegs.markRow
    refine .fst_ite (ih h.count) ?_
    split
    next v hv => exact ih (hs2.foldSegs v hv)
    · exact hs2.fst

theorem Grows.fetchList {th o : Nat} {h' : ListHdr} (h : Grows s t) : Grows s (fetchList t th o h').1 :=
  h.fetchWhole fun h => h.foldl fun _ h => h.cellFetch

theorem Grows.accListStart {th : Nat} (h : Grows s t) : Grows s (accListStart t th).1 :=
  .fst_ite h.fst (.fst_ite h.fst h.accClaim)

theorem Grows.accList {th : Nat} (h : Grows s t) : Grows s (accList t th).1 := by
  unfold Machine.accList
  extract_lets _ _ _ _ _ _ s1
  have hs1 : Grows s s1.1 := (h.fetchList.foldl fun _ h => h.wakeSlice).foldRecs
  exact .fst_ite h.fetchList (.fst_ite h.fetchList.fst (.fst_ite hs1.accDone.fst hs1.wr.markUnclean.fst))

theorem Grows.intakeStart {th : Nat} (h : Grows s t) : Grows s (intakeStart t th).1 := by
  unfold Machine.intakeStart
  split
  · exact h.accDenseStart
  · exact h.accListStart
  · exact h.fst

theorem Grows.writeBytes {owner ep o off : Nat} {b : Bytes} (h : Grows s t) : Grows s (writeBytes t owner ep o off b) :=
  h.foldl fun _ h => .ite h h.cellWrite

theorem Grows.releaseStream {st : Nat} (h : Grows s t) : Grows s (releaseStream t st) := h.setIntk.setTouched

theorem Grows.drainSparse {th : Nat} {x : RowCtx} {h' : ListHdr} (h : Grows s t) : Grows s (drainSparse t th x h').1 :=
  .fst_ite h.fst (.fst_ite h.fst ((h.foldl fun _ h => h.wakeSlice).writeBytes.foldl fun _ h => (h.foldl fun _ h =>
    h.countN).countSegs.writeBytes).releaseStream.homeWritten.setTrack.fst)

theorem Grows.drainRowOp {th : Nat} (h : Grows s t) : Grows s (drainRowOp t th).1 := by
  refine .fst_ite h.fst (.fst_ite h.fst (.fst_ite h.fst ?_))
  split
  · exact .fst_ite h.drainSparse h.fst
  · exact .fst_ite h.fst (.fst_ite h.count.fst (.fst_ite h.drainSparse h.setTrack.fst))

theorem Grows.assocTouch {m row : Nat} (h : Grows s t) : Grows s (assocTouch t m row) := (Grows.ite h.count h).setIntk

theorem Grows.setList {t' : TouchList} (h : Grows s t) : Grows s (setList t t') := h.setIntk

theorem Grows.setMark {m : Mark} (h : Grows s t) : Grows s (setMark t m) := by
  unfold Machine.setMark
  extract_lets
  split
  · exact h.setIntk
  · exact h.setIntk

theorem Grows.writeBuckets {th m : Nat} {x : RowCtx} {ov : Buckets} (h : Grows s t) : Grows s (writeBuckets t th x m ov) := by
  unfold Machine.writeBuckets
  extract_lets _ s1
  have hs1 : Grows s s1 := h.foldl fun _ h => .ite (.ite h h.noteReplay.placeWrite) h.writeGran
  exact .ite hs1 hs1.closeThread.homeWritten

theorem Grows.commitMap {th : Nat} {x : RowCtx} {h' : ListHdr} (h : Grows s t) : Grows s (commitMap t th x h').1 := by
  unfold Machine.commitMap
  extract_lets _ _ _ _ _ _ _ _ _ s1
  have hs1 : Grows s s1.1 := h.fetchWhole fun h => (h.foldl fun _ h => h.cellFetch).foldl fun _ h => h.cellFetch
  have hs2 {r : Option State ⊕ State × Nat} {c : Prop} [Decidable c] {visit e : Nat} {ds : List (Nat × Nat)}
      (hr : (if c then .inl (some s1.1) else Machine.reserveAll th visit e ds s1.1) = r) : Grows s (reservedState s1.1 r) := by
    split at hr
    · exact hr ▸ hs1
    · exact hs1.reserved hr
  refine .fst_ite h.fst (.fst_ite h.count.fst (.fst_ite h.fst (.fst_ite h.pullData.fst (.fst_ite h.fst (.fst_ite
    h.wantAll.fst (.fst_ite hs1 ?_))))))
  split
  next hr => exact (hs2 hr).logStall.fst
  · exact hs1.fst
  next u hr =>
    have hu : Grows s u := hs2 hr
    extract_lets _ _ s3
    have hs3 : Grows s s3 :=
      ((hu.foldl fun _ h => h.wakeSlice).foldl fun _ h => h.assocTouch).writeBuckets.countN.countN.setList
    split
    · exact .fst_ite hs3.fst hs3.setIntk.unitError.fst
    · exact hs3.fst

theorem Grows.commitScatter {th : Nat} {x : RowCtx} {h' : ListHdr} (h : Grows s t) : Grows s (commitScatter t th x h').1 := by
  unfold Machine.commitScatter
  extract_lets _ _ _ _ _ _ _ _ _ _ _ _ s1
  have hs1 : Grows s s1 := (h.fetchList.foldl fun _ h => h.wakeSlice).countN.foldl fun _ h => ((h.foldl fun _ h =>
      h.countKinds).foldl fun _ h => h.countN).writePuts
  exact .fst_ite h.fst (.fst_ite h.fetchList (.fst_ite h.fetchList.fst (Grows.ite hs1
      hs1.homeWritten.noteWrote).setMark.fst))

theorem Grows.commitOp {th : Nat} (h : Grows s t) : Grows s (commitOp t th).1 :=
  .fst_ite h.fst (.fst_ite h.commitMap h.commitScatter)

theorem Grows.intakeDiscard {target : Nat} (h : Grows s t) : Grows s (intakeDiscard t target) :=
  (h.foldl fun _ h => h.releaseStream).setIntk.wr

/-! ## Moves -/

theorem Grows.setHl {x : Health} (h : Grows s t) : Grows s (setHl t x) := h.frame

theorem Grows.beginMigrate {st : Nat} (h : Grows s t) : Grows s (beginMigrate t st) := .ite h h.wr.wr.wr.wr.wr

theorem Grows.startMigrate {st : Nat} (h : Grows s t) : Grows s (startMigrate t st) :=
  .ite h (.ite h.setHl h.beginMigrate)

theorem Grows.endMigrate (h : Grows s t) : Grows s (endMigrate t) := by
  unfold Machine.endMigrate
  extract_lets
  split
  · exact h.wr.wr
  · exact h.wr.wr.setHl.beginMigrate

theorem Grows.writeMirrors (h : Grows s t) : Grows s (writeMirrors t) := h.foldl fun _ h => h.memWrite.count

theorem Grows.setMapEntry {table i v : Nat} (h : Grows s t) : Grows s (setMapEntry t table i v) := h.tput.writeMirrors

/-! ## Spare columns -/

theorem Grows.setSpr {x : Spares} (h : Grows s t) : Grows s (setSpr t x) := h.frame

theorem Grows.spareRec {kind idx spare : Nat} {none : Bool} {waits : Bool} (h : Grows s t) :
    Grows s (spareRec t kind idx spare none waits) :=
  (Grows.ite h h.count).event

theorem Grows.setDisabled {i : Nat} {b : Bool} (h : Grows s t) : Grows s (setDisabled t i b) := h.wr

theorem Grows.remapLanes {n : Nat} (h : Grows s t) : Grows s (remapLanes t n) :=
  .ite h.setDisabled.setDisabled.setDisabled.tput (.ite h.setDisabled.setDisabled.setDisabled.tput
    h.setDisabled.setDisabled.setDisabled.startMigrate)

theorem Grows.laneRec {n p : Nat} {waits : Bool} (h : Grows s t) : Grows s (laneRec t n p waits) := h.spareRec

theorem Grows.laneFail {n p : Nat} (h : Grows s t) : Grows s (laneFail t n p) :=
  .ite h (.ite h.setSpr.setDisabled (.ite h.setSpr.laneRec.setSpr h.setSpr.laneRec.remapLanes))

theorem Grows.dropColumns {a : Nat} (h : Grows s t) : Grows s (dropColumns t a) := h.setSpr

theorem Grows.columnFail {a c : Nat} (h : Grows s t) : Grows s (columnFail t a c) :=
  .ite h.setSpr.count.wr.unitError.spareRec.setSpr h.setSpr.count.wr.unitError.dropColumns.spareRec.setDisabled

theorem Grows.swapLanes {n : Nat} (h : Grows s t) : Grows s (swapLanes t n) :=
  (h.foldl fun _ h => h.laneRec).remapLanes

theorem Grows.swapColumn {x : Nat × Nat} (h : Grows s t) : Grows s (swapColumn t x) := h.wr.wr.spareRec.setDisabled

theorem Grows.allSpares (h : Grows s t) : Grows s (allSpares t) :=
  (((h.foldl fun _ h => h.swapLanes).foldl fun _ h => h.swapColumn).foldl fun _ h => h.spareRec).setSpr

theorem Grows.capSpares (h : Grows s t) : Grows s (capSpares t) := h.setSpr.allSpares.setSpr

theorem Grows.wakeSpares {d : Nat} (h : Grows s t) : Grows s (wakeSpares t d) := by
  unfold Machine.wakeSpares
  extract_lets _ _ s1
  have hs1 : Grows s s1 := h.setSpr.foldl fun _ h => h.swapLanes
  exact .ite hs1 (hs1.setSpr.foldl fun _ h => h.swapColumn)

end Sys2Proof.Machine
end

section
/-! PROOFS. What every command keeps (R511): the updates of ROOT, caps and drains. -/

namespace Sys2Proof.Machine

variable {s t : State}

/-! ## ROOT -/

theorem Grows.touchCells {th sl tenant : Nat} {ws : List Nat} {rs : List Nat} {pl : List (Nat × Nat)} (h : Grows s t) :
    Grows s (touchCells t th sl tenant ws rs pl).1 :=
  .fst_ite h.count.fst (.fst_ite h.fst (.fst_ite h.pullData.fst (.fst_ite h.fst (.fst_ite h.wantAll.fst
    h.cacheAll.fst))))

theorem Grows.claimCells {th visit e : Nat} {ws : List (Nat × Nat)} (h : Grows s t) : Grows s (claimCells t th visit e ws).1 := by
  unfold Machine.claimCells
  split
  next hr => exact (h.reserved hr).logStall.fst
  · exact h.fst
  next hr => exact (h.reserved hr).fst

theorem Grows.countAt {kind e : Nat} {l : List (Elem × Nat)} (h : Grows s t) : Grows s (countAt kind e t l) := by
  induction l generalizing t with
  | nil => exact h
  | cons a l ih => exact ih (.ite h h.countN)

theorem Grows.putElems {x : RowCtx} {w : Bound} {l : List (Elem × Nat)} (h : Grows s t) : Grows s (putElems t x w l) := by
  unfold Machine.putElems
  extract_lets _ s1
  have hs1 : Grows s s1 := h.foldl fun _ h => h.writeGranule
  exact .ite hs1 hs1.homeWritten

theorem Grows.readElems {owner : Nat} {b : Bound} {ps : List Elem} (h : Grows s t) : Grows s (readElems t owner b ps) :=
  h.foldl fun _ h => h.cellFetch

theorem Grows.closeBlocks {th i : Nat} (h : Grows s t) : Grows s (closeBlocks t th i) := h.foldl fun _ h => h.closeCell

theorem Grows.statIter {th i : Nat} {b : PBlock} (h : Grows s t) : Grows s (statIter t th i b).1 := by
  unfold Machine.statIter
  extract_lets _ _ _ _ _ _ _ _ _ _ _ _ _ s1 s2 s3 _ _ _ _ _ _ _ _ _ _ _ _ _ _ s4
  have hs1 : Grows s s1.1 := h.wakeSlice.touchCells
  have hs2 : Grows s s2.1 := .fst_ite hs1 (hs1.fetchWhole fun h => h.readElems.readElems)
  have hs3 : Grows s s3.1 := .fst_ite hs2 hs2.claimCells
  have hs4 : Grows s s4 := hs3.countAt.countAt.countN.countAt.countAt.countN.putElems
  exact .fst_ite h.fst (.fst_ite h.fst (.fst_ite h.fst (.fst_ite hs3 (Grows.ite hs4 hs4.closeBlocks).fst)))

theorem Grows.applyIter {th : Nat} {b : PBlock} (h : Grows s t) : Grows s (applyIter t th b).1 := by
  unfold Machine.applyIter
  extract_lets _ _ _ _ _ _ _ _ _ _ _ _ s1 s2
  have hs1 : Grows s s1.1 := h.wakeSlice.touchCells
  have hs2 : Grows s s2.1 := .fst_ite hs1 (hs1.fetchWhole fun h => h.readElems.readElems)
  exact .fst_ite h.fst (.fst_ite h.fst (.fst_ite h.fst (.fst_ite hs2
    hs2.countAt.countAt.countAt.countAt.countAt.countN.countN.putElems.fst)))

theorem Grows.rootRow {th i : Nat} (h : Grows s t) : Grows s (rootRow t th i).1 := by
  unfold Machine.rootRow
  extract_lets
  split
  · exact h.count.fst
  · exact .fst_ite h.fst (.fst_ite h.wakeDomain.statIter h.wakeDomain.applyIter)

theorem Grows.rootHold {p : RootPos} {bad : List Nat} (h : Grows s t) : Grows s (rootHold t p bad).1 :=
  (h.foldl fun _ h => h.suspectData).fst

theorem Grows.rootReady {e sl : Nat} {p : RootPos} {a : Bound} {d : Bound} {ps : List Elem} (h : Grows s t) :
    Grows s (rootReady t e sl p a d ps).1 := by
  unfold Machine.rootReady
  extract_lets _ _ _ _ _ _ s1
  have hs1 : Grows s s1 := .ite h.touchCells h.touchCells.readElems
  exact .fst_ite h.touchCells.fst (.fst_ite h.touchCells.fst (.fst_ite h.touchCells.rootHold (.fst_ite hs1.fst
      (.fst_ite hs1.rootHold hs1.claimCells.fst))))

theorem Grows.rootGo {raw : Nat} {replay : Bool} {l : List (Nat × Bool × Nat × Nat)} {x : RootPos} (h : Grows s t) :
    Grows s (rootGo raw replay l x t).1 := by
  induction l generalizing x t with
  | nil => exact h
  | cons a l ih =>
    refine .fst_ite ?got (ih (.ite_self
      (.putElems (.countN (.foldl (.foldl (.countAt ?got) fun _ h => h.countAt) fun _ h => h.countN))) fun h => h.closeThread))
    exact .fst_ite h.fst (.fst_ite (Grows.ite h h.wakeSlice.readElems).fst h.wakeSlice.rootReady)

theorem Grows.rootForm {raw : Nat} {replay : Bool} (h : Grows s t) : Grows s (rootForm t raw replay) := h.noteFormed

theorem Grows.rootReport {p : RootPos} (h : Grows s t) : Grows s (rootReport t p) := h.wr.wr.count

theorem Grows.rootFree (h : Grows s t) : Grows s (rootFree t) := h.closeThread.wr

theorem Grows.rootOffOut (h : Grows s t) : Grows s (rootOffOut t) := h.foldl fun _ h => .ite h.setMrp h

theorem Grows.rootRefuse {raw : Nat} {replay : Bool} (h : Grows s t) : Grows s (rootRefuse t raw replay) := .ite h h.wr

theorem Grows.rootEffect {q : Nat} (h : Grows s t) : Grows s (rootEffect t q) := by
  unfold Machine.rootEffect
  split
  · exact h
  · extract_lets _ s1
    have hs1 : Grows s s1 := .ite h.wakeDomain.rootForm h
    refine .ite h.rootRefuse.rootFree.finish (.ite h.rootOffOut.rootFree.finish ?_)
    split
    · exact .ite hs1.rootGo.rootReport.finish hs1.rootGo.keepRunning
    · exact hs1.rootGo.keepRunning
    · exact hs1.rootGo.rootFree.finish

/-! ## Tables of units -/

theorem Grows.setIdle {ucode : Bool} {x : Store} (h : Grows s t) : Grows s (setIdle t ucode x) :=
  .ite h.frame h.setBank

theorem Grows.loadAudit {code : Nat} {ucode : Bool} {h' : Bytes} (h : Grows s t) : Grows s (loadAudit t ucode h' code) :=
  h.audit

theorem Grows.loadFail {q i code : Nat} {ucode : Bool} {h' : Bytes} (h : Grows s t) : Grows s (loadFail t q i code ucode h') :=
  h.dropGot.setIdle.count.loadAudit.finish

theorem Grows.takeIdle {ucode : Bool} (h : Grows s t) : Grows s (takeIdle t ucode) := h.setIdle

theorem Grows.loadEffect {q : Nat} {ucode : Bool} (h : Grows s t) : Grows s (loadEffect t q ucode) := by
  unfold Machine.loadEffect
  split
  · exact h
  · exact .ite h h.keepRunning.hostFetch

theorem Grows.loadData {q : Nat} {r : Run} {ucode : Bool} (h : Grows s t) : Grows s (loadData t q r ucode) :=
  .ite (.ite h.loadFail h.dropGot.setIdle.keepRunning.hostFetch) (.ite h.loadFail
    h.dropGot.setIdle.count.loadAudit.finish)

/-! ## Members -/

theorem Grows.sendTo {x type : Nat} {body : Bytes} (h : Grows s t) : Grows s (sendTo t x type body) := .ite h h.sendMsg

theorem Grows.toChildren {type : Nat} {body : Bytes} (h : Grows s t) : Grows s (toChildren t type body) :=
  h.foldl fun _ h => h.sendTo

theorem Grows.toParent {type : Nat} {body : Bytes} (h : Grows s t) : Grows s (toParent t type body) := by
  unfold Machine.toParent
  split
  · exact h.sendTo
  · exact h

theorem Grows.setOwnState {st : Nat} (h : Grows s t) : Grows s (setOwnState t st) := h.wr

theorem Grows.memberTo {x st : Nat} (h : Grows s t) : Grows s (memberTo t x st) := by
  unfold Machine.memberTo
  extract_lets _ _ _ s1
  have hs1 : Grows s s1 := .ite h.tput.setOwnState h.tput
  exact .ite h (.ite hs1.wr.event hs1.wr)

theorem Grows.writeRecord {cap capping : Nat} (h : Grows s t) : Grows s (writeRecord t cap capping) :=
  h.foldl fun _ h => h.memWrite

theorem Grows.refreshRecord (h : Grows s t) : Grows s (refreshRecord t) := h.writeRecord

/-! ## The spine -/

theorem Grows.objStore {owner o n n1 : Nat} {x : Bytes} (h : Grows s t) : Grows s (objStore t owner o n n1 x) := by
  induction n generalizing t n1 x with
  | zero => exact h
  | succ n ih => exact .ite h (ih h.placeWrite)

theorem Grows.stageRecord {kind : Nat} {img : Option SealImg} (h : Grows s t) : Grows s (stageRecord t kind img).1 :=
  .fst_ite h.count.fst h.objStore.wr.wr.wr.setSpine.fst

theorem Grows.dropSealRecord (h : Grows s t) : Grows s (dropSealRecord t) := by
  unfold Machine.dropSealRecord
  split
  · exact h.wr.setSpine
  · exact h

theorem Grows.stageInterval {e : Nat} (h : Grows s t) : Grows s (stageInterval t e) :=
  .ite h (.ite h.count h.stageRecord)

theorem Grows.nvmWrite {a : Nat} {b : Bytes} (h : Grows s t) : Grows s (nvmWrite t a b) where
  pending := h.pending
  inv hs := have ht := h.inv hs; { ht with canonical := { ht.canonical with nvm := mwrite_wf ht.canonical.nvm a b } }
  counters := h.counters

theorem Grows.writeSpine {len seq : Nat} (h : Grows s t) : Grows s (writeSpine t len seq) :=
  h.nvmWrite.nvmWrite.nvmWrite.fresh.wr.wr.wr.setSpine.count

/-! ## Caps -/

theorem Grows.retireStores {e : Nat} (h : Grows s t) : Grows s (retireStores t e) := h.frame

theorem Grows.switchArmed {e : Nat} (h : Grows s t) : Grows s (switchArmed t e).1 := by
  unfold Machine.switchArmed
  extract_lets _ _ _ s1
  have hs1 : Grows s s1 := .ite h.switchTable h
  exact (Grows.ite hs1.switchUcode hs1).fst

theorem Grows.applyField {k v first : Nat} (h : Grows s t) : Grows s (applyField t k v first) := .ite h.wr.wr.wr h.wr

theorem Grows.applyHeld {first : Nat} (h : Grows s t) : Grows s (applyHeld t first) :=
  (h.foldl fun _ h => h.applyField).frame

theorem Grows.applyDir (h : Grows s t) : Grows s (applyDir t) := (h.foldl fun _ h => .ite h.tput h).frame

theorem Grows.tryReserve {old : Nat} (h : Grows s t) : Grows s (tryReserve t old) := by
  unfold Machine.tryReserve
  extract_lets s1
  have hs1 : Grows s s1 := by
    dsimp only [s1]
    split
    next u hu => exact h.takeReserve u hu
    · exact h
  exact .ite hs1.wr hs1.sendGrants

theorem Grows.toTree {except : Option Nat} {l : List Nat} {b : Bytes} (h : Grows s t) : Grows s (toTree t except l b) :=
  h.foldl fun _ h => h.sendTo

theorem Grows.teardown {q i : Nat} (h : Grows s t) : Grows s (teardown t q i) := h.toTree.setComb.memberTo

theorem Grows.leaveSettle (h : Grows s t) : Grows s (leaveSettle t) := by
  unfold Machine.leaveSettle
  split
  · exact .ite h h.teardown
  · exact h

theorem Grows.finishCap {sw : Nat} {x : Epoch} (h : Grows s t) : Grows s (finishCap t x sw) := by
  unfold Machine.finishCap
  split
  · exact .ite h.finish h
  · exact h

theorem Grows.restartDegraded {e : Nat} (h : Grows s t) : Grows s (restartDegraded t e) := h.frame

theorem Grows.latchReads {e : Nat} (h : Grows s t) : Grows s (latchReads t e) := h.frame.restartDegraded.keepOld

theorem Grows.capStep {skip : Bool} (h : Grows s t) : Grows s (capStep t skip) :=
  h.latchReads.writeRecord.convertCap.writeRecord.capScale.wr.stageInterval.releaseEpoch.setCod.frame.frame
    |>.retireMoves.applyDir.applyHeld.schedLatch.retireStores.setEpoch.switchArmed.setCod
    |>.capSpares.finishCap.event.count.tryReserve.leaveSettle

theorem Grows.capNext (h : Grows s t) : Grows s (capNext t) := h.capStep

theorem Grows.capMany {n : Nat} (h : Grows s t) : Grows s (capMany n t) := by
  induction n generalizing t with
  | zero => exact h
  | succ n ih => exact .ite h.setComb (ih h.capNext)

theorem Grows.capTo {e : Nat} (h : Grows s t) : Grows s (capTo t e) := .ite h.capMany h

theorem Grows.rootBad {e firstBad : Nat} (h : Grows s t) : Grows s (rootBad t e firstBad) := h.unitError

theorem Grows.announce (h : Grows s t) : Grows s (announce t) := h.toChildren.capTo

theorem Grows.announceReady {n : Nat} (h : Grows s t) : Grows s (announceReady n t) := by
  induction n generalizing t with
  | zero => exact h
  | succ n ih => exact .ite (ih h.announce) h

theorem Grows.capResume (h : Grows s t) : Grows s (capResume t) := .ite h (.ite h.capTo.announceReady h.capTo)

theorem Grows.capForward {e : Nat} (h : Grows s t) : Grows s (capForward t e) :=
  .ite h.setEpoch.announceReady (.ite h (.ite h.setEpoch.rootBad h.setEpoch.toParent))

theorem Grows.ownReady {e : Nat} (h : Grows s t) : Grows s (ownReady t e) := h.setEpoch.capForward

theorem Grows.capReportIn {x : Nat} {b : Bytes} (h : Grows s t) : Grows s (capReportIn t x b) :=
  .ite h h.setEpoch.capForward

theorem Grows.capTimeout {e : Nat} (h : Grows s t) : Grows s (capTimeout t e) :=
  .ite h (.ite h.setEpoch.rootBad h.setEpoch.toParent)

theorem Grows.capLearn {e : Nat} {forward : Bool} (h : Grows s t) : Grows s (capLearn t e forward) :=
  .ite h (Grows.ite h.toChildren h).capTo

theorem Grows.capEffect {q : Nat} (h : Grows s t) : Grows s (capEffect t q) := by
  unfold Machine.capEffect
  split
  · exact h
  · exact .ite h h.keepRunning

/-! ## Drain streams -/

theorem Grows.setIn {i : DrainIn} (h : Grows s t) : Grows s (setIn t i) := h.setCod

theorem Grows.ackRise {r n : Nat} {o : DrainOut} (h : Grows s t) : Grows s (ackRise t o r n) := .ite h.setOut h

theorem Grows.ackStream {i : DrainIn} (h : Grows s t) : Grows s (ackStream t i) :=
  .ite h (.ite h.setIn.ackRise h.setIn.sendMsg)

theorem Grows.drainAcks (h : Grows s t) : Grows s (drainAcks t) := h.foldl fun _ h => h.ackStream

theorem Grows.ownWrites (h : Grows s t) : Grows s (ownWrites t) := h.setCod

theorem Grows.readFirst {c : Nat} (h : Grows s t) : Grows s (readFirst t c) := by
  unfold Machine.readFirst
  extract_lets
  refine Grows.memRequest ?_
  exact h.setCod

theorem Grows.dropFirst {c : Nat} (h : Grows s t) : Grows s (dropFirst t c) := h.setCod

theorem Grows.segVerdict {p pre : Nat} {b : Bytes} (h : Grows s t) : Grows s (segVerdict t p pre b).1 := by
  refine .fst_ite h.count.fst (.fst_ite h.count.unitError.fst (.fst_ite h.count.sendMsg.fst (.fst_ite h.count.fst
      (.fst_ite h.count.ackStream.fst (.fst_ite h.count.fst (.fst_ite h.fst (.fst_ite (.fst_ite h.ownWrites.setCod.fst
      h.ownWrites.setShare.writeUnits.setCod.count.setCod.setIn.drainAcks.fst) (.fst_ite
      h.ownWrites.setCod.pullStripe.fst (.fst_ite h.ownWrites.setCod.fst (.fst_ite
      h.ownWrites.applyParity.count.setCod.setIn.drainAcks.fst ?_))))))))))
  split
  · exact h.ownWrites.setCod.readFirst.fst
  · exact h.ownWrites.setCod.fst
  · exact .fst_ite h.ownWrites.dropFirst.applyParity.count.setCod.setIn.drainAcks.fst
        h.ownWrites.setCod.dropFirst.suspectPar.fst

theorem Grows.segmentIn {p : Nat} {body : Bytes} (h : Grows s t) : Grows s (segmentIn t p body) :=
  .ite h.setCod (.ite h.segVerdict.setCod h.segVerdict)

theorem Grows.retryParked (h : Grows s t) : Grows s (retryParked t) := h.setCod.foldl fun _ h => h.segmentIn

theorem Grows.settleFirsts (h : Grows s t) : Grows s (settleFirsts t) := .ite h h.setCod.retryParked

theorem Grows.sendSeg {g : Seg} {h' : Nat × Nat × Nat} {b : Bytes} (h : Grows s t) : Grows s (sendSeg t g h' b) := by
  unfold Machine.sendSeg
  extract_lets _ _ _ old _ _ s1
  have hs1 : Grows s s1 := by
    dsimp only [s1]
    clear_value old
    split
    · exact h
    · exact h.setCod
  split
  · exact h
  · exact .ite h.segmentIn (.ite (hs1.foldl fun _ h => h.sendMsg) h.sendMsg.carryFor)

theorem Grows.markSent {g : Seg} {hs : List (Nat × Nat × Nat)} (h : Grows s t) : Grows s (markSent t g hs) := h.setOut

theorem Grows.backFails {g : Seg} (h : Grows s t) : Grows s (backFails t g) :=
  h.setCod.markUnclean.unitError.capForward

theorem Grows.drainSendEffect {sl : Nat} (h : Grows s t) : Grows s (drainSendEffect t sl) := by
  unfold Machine.drainSendEffect
  extract_lets
  split
  · exact .ite h.count h
  · exact .ite (h.markSent.foldl fun _ h => h.sendSeg) h.backFails

theorem Grows.resendTo {r : Nat} {o : DrainOut} (h : Grows s t) : Grows s (resendTo t o r) := by
  refine .foldl h fun _ h => ?_
  split
  · exact .ite h (.ite h.sendSeg h.backFails)
  · exact h

theorem Grows.drainResendEffect {src sl e : Nat} (h : Grows s t) : Grows s (drainResendEffect t src sl e) := by
  refine .ite h (.foldl (h.setOut.count.foldl fun _ h => h.resendTo) fun _ h => ?_)
  split
  · exact h.faultReport
  · exact h

theorem Grows.drainAckIn {p : Nat} {b : Bytes} (h : Grows s t) : Grows s (drainAckIn t p b) := by
  unfold Machine.drainAckIn
  extract_lets
  split
  · exact h
  · refine .ite h.setCod ?_
    extract_lets
    split
    · exact h.setCod.ackRise
    · exact h.setCod

theorem Grows.v2AckIn {p e mseq : Nat} (h : Grows s t) : Grows s (v2AckIn t p e mseq) := by
  unfold Machine.v2AckIn
  split
  · exact h
  · exact h.setCod.foldl fun _ h => h.ackRise

theorem Grows.ackTimerEffect {rank sl e : Nat} (h : Grows s t) : Grows s (ackTimerEffect t rank sl e) := by
  unfold Machine.ackTimerEffect
  split
  · exact h.ackStream
  · exact h

end Sys2Proof.Machine
end

section
/-! PROOFS. What every command keeps (R511): the updates of the hive and collectives. -/

namespace Sys2Proof.Machine

variable {s t : State}

/-! ## Windows -/

theorem Grows.returnBeats {twd : Nat} (h : Grows s t) : Grows s (returnBeats t twd) := h.emit

theorem Grows.trsp {stat : Nat} {r : Req} (h : Grows s t) : Grows s (trsp t r stat) := h.returnBeats.emit

theorem Grows.trd {stat : Nat} {r : Req} {data : Bytes} (h : Grows s t) : Grows s (trd t r stat data) :=
  h.returnBeats.emit

theorem Grows.refuseReq {op n stat : Nat} {r : Req} {data : Bytes} (h : Grows s t) : Grows s (refuseReq t r op n stat data) :=
  .ite h.returnBeats.emit h.returnBeats.emit

theorem Grows.answered {r : Req} {t : State × Nat} (h : Grows s t.1) : Grows s (answered r t) := h.trsp

theorem Grows.unlessHeld {x : State × Nat} (hx : Grows s x.1) (h : Grows s t) : Grows s (unlessHeld t x).1 := .fst_ite h.fst hx

theorem Grows.refuseRights {page addr src old new : Nat} {aud : Bool} (h : Grows s t) :
    Grows s (refuseRights t page addr src aud old new).1 :=
  (Grows.ite h.pgError.audit h.pgError).fst

theorem Grows.dropStaged {src page : Nat} (h : Grows s t) : Grows s (dropStaged t src page) := h.frame

theorem Grows.stageWord {src page w v : Nat} (h : Grows s t) : Grows s (stageWord t src page w v) := h.frame

theorem Grows.noteReserved {page : Nat} {bad : Bool} (h : Grows s t) : Grows s (noteReserved t page bad) :=
  .ite h.pgError h

/-! ## The hive -/

theorem Grows.setLp {x : LightPort} (h : Grows s t) : Grows s (setLp t x) := h.frame

theorem Grows.lineWrite {l : Nat} {b : Bytes} (h : Grows s t) : Grows s (lineWrite t l b) := h.placeWrite

theorem Grows.degAnswer {id gran coeff peer stat : Nat} {data : Bytes} (h : Grows s t) :
    Grows s (degAnswer t id gran coeff peer stat data) := by
  unfold Machine.degAnswer
  split
  · exact h
  · extract_lets
    split
    · exact h.setDeg.admitCtxs.degFinish
    · exact h.setDeg.admitCtxs

theorem Grows.finishCtx {stat : Nat} {c : HiveCtx} {data : Bytes} (h : Grows s t) : Grows s (finishCtx t c stat data) := by
  unfold Machine.finishCtx
  extract_lets
  split
  · exact .ite h.setHive.admitCtxs.emit h.setHive.admitCtxs.emit
  · refine .degAnswer (.ite ?_ h.setHive.admitCtxs)
    split
    · exact h.setHive.admitCtxs.faultReport
    · exact h.setHive.admitCtxs

theorem Grows.failFence {code : Nat} {f : Fence} (h : Grows s t) : Grows s (failFence t f code) := h.frame.finish

theorem Grows.fenceCtx {ctx gen : Nat} {dead : Bool} (h : Grows s t) : Grows s (fenceCtx t ctx gen dead) :=
  .ite (h.foldl fun _ h => h.failFence) h.frame

theorem Grows.settleFences (h : Grows s t) : Grows s (settleFences t) := h.foldl fun _ h => h.failFence

theorem Grows.deadPeer {p : Nat} {all : Bool} (h : Grows s t) : Grows s (deadPeer t p all) := by
  unfold Machine.deadPeer
  extract_lets _ _ _ _ s1
  have hs1 : Grows s s1 := by
    refine .foldl (h.dropQueued.foldl fun _ h => h.setHive.fenceCtx.finishCtx.count) fun _ h => ?_
    refine .count (.finishCtx ?_)
    split
    · exact h.foldl fun _ h => h.failFence
    · exact h
  refine .ite hs1.settleFences ?_
  split
  · exact hs1.settleFences.unitError
  · exact (Grows.ite hs1.settleFences hs1.settleFences.unitError).faultReport

theorem Grows.homeAnswer {stat : Nat} {h' : HomeReq} {data : Bytes} (h : Grows s t) : Grows s (homeAnswer t h' stat data) := by
  unfold Machine.homeAnswer
  split
  · exact h.packRec
  · split
    · exact h.fenceCtx.finishCtx.settleFences
    · exact h

theorem Grows.hotDrop {h' : HotLine} (h : Grows s t) : Grows s (hotDrop t h') := (Grows.ite h.lineWrite h).setHive

theorem Grows.hotEnter {l : Nat} (h : Grows s t) : ∀ u ∈ hotEnter t l, Grows s u := by
  intro u hu
  unfold Machine.hotEnter at hu
  extract_lets at hu
  split at hu
  · exact Option.some.inj hu ▸ h.setHive
  · split at hu
    · exact Option.some.inj hu ▸ h.hotDrop.count.setHive
    · cases hu

theorem Grows.setFetch {f : HomeFetch} (h : Grows s t) : Grows s (setFetch t f) := h.setHive

theorem Grows.endFetch {l : Nat} (h : Grows s t) : Grows s (endFetch t l) := h.setHive

theorem Grows.kickFetch {f : HomeFetch} (h : Grows s t) : Grows s (kickFetch t f) := .ite h h.setFetch.placeRead

theorem Grows.heatLine {r : HiveRec} (h : Grows s t) : Grows s (heatLine t r) := by
  refine .ite h ?_
  extract_lets
  split
  next u hu => exact (h.hotEnter u hu).setFetch.kickFetch
  · exact h.count

theorem Grows.homeTake {h' : HomeReq} (h : Grows s t) : ∀ u ∈ homeTake t h', Grows s u := by
  intro u hu
  unfold Machine.homeTake at hu
  extract_lets at hu
  split at hu
  · exact Option.some.inj hu ▸ h.homeAnswer
  · split at hu
    · exact Option.some.inj hu ▸ h.setHive
    · split at hu
      · exact Option.some.inj hu ▸ h.homeAnswer
      · split at hu
        · exact Option.some.inj hu ▸ h.count.homeAnswer
        · split at hu
          · cases hu
          · exact Option.some.inj hu ▸ h.setHive.heatLine

theorem Grows.takeWaiting (h : Grows s t) : Grows s (takeWaiting t) := by
  refine .setHive (.fst_foldl h.setHive.fst fun _ h => ?_)
  refine .fst_ite h.fst ?_
  split
  next u hu => exact (h.homeTake u hu).fst
  · exact h.fst

theorem Grows.homeDone {stat : Nat} {h' : HomeReq} {data : Bytes} (h : Grows s t) : Grows s (homeDone t h' stat data) :=
  h.setHive.homeAnswer.takeWaiting

theorem Grows.hotApply {h' : HomeReq} {x : HotLine} (h : Grows s t) : Grows s (hotApply t h' x) :=
  h.setHive.count.homeDone

theorem Grows.memApply {h' : HomeReq} (h : Grows s t) : Grows s (memApply t h') :=
  (Grows.ite h h.lineWrite).count.homeDone

theorem Grows.homeServe {l : Nat} (h : Grows s t) : Grows s (homeServe t l) := by
  unfold Machine.homeServe
  split
  · exact h
  · exact h
  · split
    · exact h.count.hotApply
    · exact .ite h.memApply h.setFetch.kickFetch

theorem Grows.homeOp {l op : Nat} (h : Grows s t) : Grows s (homeOp t l op) := by
  unfold Machine.homeOp
  split
  · exact .ite h.homeServe h
  · exact h

theorem Grows.serveLine {l n : Nat} (h : Grows s t) : Grows s (serveLine l n t) := by
  induction n generalizing t with
  | zero => exact h
  | succ n ih => exact .ite (ih h.homeServe) h

theorem Grows.refuseLine {l n : Nat} (h : Grows s t) : Grows s (refuseLine l n t) := by
  induction n generalizing t with
  | zero => exact h
  | succ n ih =>
    rw [Machine.refuseLine]
    split
    · exact ih h.homeDone
    · exact h

theorem Grows.fetchDone {f : HomeFetch} (h : Grows s t) : Grows s (fetchDone t f) := by
  unfold Machine.fetchDone
  extract_lets
  split
  · exact .ite h.endFetch.setHive h.endFetch
  · exact .ite (.ite h.endFetch.setHive.refuseLine h.endFetch.hotApply.serveLine) (.ite h.endFetch.homeDone
        h.endFetch.memApply)

theorem Grows.homeFlush {n : Nat} (h : Grows s t) : Grows s (homeFlush n t) := by
  induction n generalizing t with
  | zero => exact h
  | succ n ih =>
    rw [Machine.homeFlush]
    split
    · exact ih h.homeServe
    · exact h.foldl fun _ h => h.hotDrop

theorem Grows.homeSettle (h : Grows s t) : Grows s (homeSettle t) := by
  unfold Machine.homeSettle
  extract_lets _ s1
  have hs1 : Grows s s1 := (h.foldl fun _ h => h.kickFetch).foldl fun _ h => h.fetchDone
  exact .ite hs1 hs1.homeFlush

theorem Grows.homeLost {st a : Nat} (h : Grows s t) : Grows s (homeLost t st a) := h.setHive

theorem Grows.cellReadAnswer {h' : HomeReq} (h : Grows s t) : Grows s (cellReadAnswer t h') := by
  unfold Machine.cellReadAnswer
  extract_lets
  split
  · exact h.setHive.homeAnswer
  · exact .ite h.setHive.count.homeAnswer (.ite h.setHive.homeAnswer (.ite (.ite h.setHive.homeAnswer
        h.setHive.suspectPar.homeAnswer) (.ite h.setHive.homeAnswer h.setHive.suspectData.homeAnswer)))

theorem Grows.cellReadsBack (h : Grows s t) : Grows s (cellReadsBack t) := h.foldl fun _ h => h.cellReadAnswer

theorem Grows.cellReadEffect (h : Grows s t) : Grows s (cellReadEffect t) := by
  unfold Machine.cellReadEffect
  split
  · exact h
  · exact .ite h.cellReadAnswer h.setHive.memRequest

theorem Grows.raeIssueEffect (h : Grows s t) : Grows s (raeIssueEffect t) := by
  unfold Machine.raeIssueEffect
  extract_lets
  split
  · exact h.admitCtxs
  · refine .ite ?_ h.admitCtxs.setHive.packRec.count
    split
    next u hu => exact (h.admitCtxs.setHive.homeTake u hu).count.count
    · exact h.admitCtxs

theorem Grows.hostAdmit {c : HiveCtx} (h : Grows s t) : Grows s (hostAdmit t c) :=
  .ite h.takeCtx.returnBeats (.ite h.setHive.holdHost h.setHive.count.returnBeats)

theorem Grows.hostRequest {op addr size be : Nat} {r : Req} {data : Bytes} (h : Grows s t) :
    Grows s (hostRequest t r op addr size data be) := by
  refine .ite h.refuseReq ?_
  split
  · exact h.refuseReq
  · exact .ite h.refuseReq (.ite h.refuseReq (.ite h.refuseReq (.ite h.refuseReq h.hostAdmit)))

theorem Grows.requestArrival {p tag memb : Nat} {b : Bytes} (h : Grows s t) : Grows s (requestArrival t p tag memb b) :=
  .ite (h.sendPack.wr.wr.foldl fun _ h => h.count.packRec).sendPack.wr.wr (.ite h h.setHive.takeWaiting)

theorem Grows.responsesIn {n n1 : Nat} {x : Bytes} (h : Grows s t) : Grows s (responsesIn n t n1 x) := by
  induction n generalizing t n1 x with
  | zero => exact h
  | succ n ih =>
    refine .ite h ?_
    split
    · exact .ite h.count (ih h.count)
    · exact ih h.fenceCtx.finishCtx.settleFences

theorem Grows.hiveLost (h : Grows s t) : Grows s (hiveLost t) := by
  refine .ite h (.frame (.withHbm h fun hs =>
    List.foldlRecOn (motive := fun m => Memory.wf m = true) _ _ (h.inv hs).canonical.hbm fun m hm c _ => ?_))
  split
  · exact mwrite_wf hm _ _
  · exact hm

theorem Grows.hiveEnable {en : Bool} (h : Grows s t) : Grows s (hiveEnable t en).1 :=
  .fst_ite (.fst_ite h.fst h.wr.fst) h.wr.homeFlush.fst

/-! ## Collectives -/

theorem Grows.groupSubmit {data : Nat} {r : Req} {wide : Bool} (h : Grows s t) : Grows s (groupSubmit t r data wide).1 := by
  unfold Machine.groupSubmit
  extract_lets _ _ _ _ s1
  have hs1 : Grows s s1 := .ite h.dropStaged.pgError h.dropStaged
  exact .fst_ite h.dropStaged.fst (.fst_ite hs1.fst hs1.tput.fst)

theorem Grows.countCells {o : Nat} {l : List (Nat × List Nat)} (h : Grows s t) : Grows s (countCells t o l) :=
  h.foldl fun _ h => h.countKinds

theorem Grows.putChunk {owner j : Nat} {o : CollOp} {data : Bytes} (h : Grows s t) : Grows s (putChunk t owner o j data) := by
  unfold Machine.putChunk
  extract_lets _ _ _ _ r
  have hr : Grows s r.2 := .snd_ite h.countKinds.snd h.snd
  exact hr.cellWrite.homeWritten

theorem Grows.toGroup {g i : Nat} {b : Bytes} (h : Grows s t) : Grows s (toGroup t g i b) := .ite h.sendMsg h

theorem Grows.setColl {c : Coll} (h : Grows s t) : Grows s (setColl t c) := h.setCol

theorem Grows.dropColl {c : Coll} (h : Grows s t) : Grows s (dropColl t c) := h.setCol

theorem Grows.noteAck {p vc : Nat} {c : Coll} (h : Grows s t) : Grows s (noteAck t c p vc) := by
  unfold Machine.noteAck
  split
  · exact h
  · exact .ite h h.setColl

theorem Grows.sendChunk {i type j : Nat} {c : Coll} {data : Bytes} (h : Grows s t) : Grows s (sendChunk t c i type j data) :=
  h.sendMsg.carryFor.noteAck

theorem Grows.countAbort {code : Nat} (h : Grows s t) : Grows s (countAbort t code) := h.count

theorem Grows.sendAborts {g gtag seq digest code : Nat} {except : Option Nat} (h : Grows s t) :
    Grows s (sendAborts t g gtag seq digest code except) :=
  h.foldl fun _ h => .ite h h.toGroup

theorem Grows.sendAbort {code : Nat} {c : Coll} {except : Option Nat} (h : Grows s t) : Grows s (sendAbort t c code except) :=
  h.sendAborts

theorem Grows.collFail {code : Nat} {c : Coll} (h : Grows s t) : Grows s (collFail t c code) :=
  h.dropColl.countAbort.finish

theorem Grows.collAbort {code : Nat} {c : Coll} (h : Grows s t) : Grows s (collAbort t c code) := h.sendAbort.collFail

theorem Grows.formDense {j : Nat} {c : Coll} {o : CollOp} (h : Grows s t) : Grows s (formDense t c o j) :=
  h.countKinds.cellWrite.homeWritten.setColl

theorem Grows.formList {c : Coll} {o : CollOp} (h : Grows s t) : Grows s (formList t c o) :=
  .ite h.collFail h.countCells.writeBytes.homeWritten.setColl

theorem Grows.settleCell {cell ep : Nat} {par : Bool} {b : Bytes} (h : Grows s t) : Grows s (settleCell t par cell ep b) :=
  .ite h.memWrite.setLedgerPX h.memWrite.setLedger

theorem Grows.formParity {t' : Nat} {c : Coll} {o : CollOp} (h : Grows s t) : Grows s (formParity t c o t') :=
  h.settleCell.setColl

theorem Grows.collLeaves {o : CollOp} (h : Grows s t) : Grows s (collLeaves t o) :=
  .ite (.ite h.noteWrote.setMark h.noteWrote) h

theorem Grows.partReady {c : Coll} {o : CollOp} {x : PartCells} (h : Grows s t) : Grows s (partReady t c o x).1 :=
  .fst_ite h.pullData.fst (.fst_ite (h.foldl fun _ h => h.pullStripe).fst (.fst_ite h.wantAll.fst (.fst_ite h.fst
    (.fst_ite h.cacheAll h.fst))))

theorem Grows.partFetch {c : Coll} {o : CollOp} {x : PartCells} (h : Grows s t) : Grows s (partFetch t c o x) :=
  ((h.foldl fun _ h => h.cellFetch).foldl fun _ h => .ite h h.placeRead).foldl fun _ h => h.placeRead

theorem Grows.partSend {c : Coll} {o : CollOp} {p : Part} (h : Grows s t) : Grows s (partSend t c o p) := by
  unfold Machine.partSend
  extract_lets _ _ _ stage
  have hstage {t : State} {j : Nat} {b : Bytes} (h : Grows s t) : Grows s (stage t j b) := by
    dsimp only [stage]
    split
    · exact h.setColl
    · exact h
  split
  · exact .ite ((h.countCells.foldl fun _ h => (h.foldl fun _ h => h.sendChunk).sendChunk).foldl fun _ h => hstage h)
      (.ite (hstage h.countCells) h.countCells.sendChunk)
  · exact hstage (h.countCells.foldl fun _ h => h.sendChunk)
  · exact h.countCells.foldl fun _ h => h.sendChunk
  · exact h.foldl fun _ h => h.sendChunk
  · exact h.setColl.sendChunk

theorem Grows.collParts {gtag seq n : Nat} (h : Grows s t) : Grows s (collParts gtag seq n t) := by
  induction n generalizing t with
  | zero => exact h
  | succ n ih =>
    rw [Machine.collParts]
    split
    · exact h
    · extract_lets _ _ _ _ s1 _ s2
      have hs1 : Grows s s1.1 := .fst_ite h.fst h.partReady
      have hs2 : Grows s s2 := .ite hs1 hs1.setColl.partFetch
      exact .ite h (.ite h.collAbort (.ite h (.ite hs1 (.ite hs2 (.ite ((hs2.foldl fun _ h => h.suspectData).foldl fun
          _ h => h.suspectPar).setColl (ih hs2.setColl.partSend))))))

theorem Grows.collWrite {gtag seq j : Nat} (h : Grows s t) : Grows s (collWrite gtag seq t j) := by
  unfold Machine.collWrite
  split
  · exact h
  · refine .ite h ?_
    split
    · exact .ite (.ite h.formList h) (.ite h.formDense h)
    · split
      · exact h
      · exact h.putChunk.setColl
    · split
      · exact h
      · exact h.putChunk.setColl
    · exact .ite h.formParity h
    · split
      · exact h
      · exact h.settleCell.setColl

theorem Grows.settleColl {c : Coll} (h : Grows s t) : Grows s (settleColl t c) := by
  unfold Machine.settleColl
  split
  · exact h
  · exact .ite h.dropColl.collLeaves.count.finish.drainChecks h

theorem Grows.collPump {c : Coll} (h : Grows s t) : Grows s (collPump t c) := by
  unfold Machine.collPump
  split
  · exact h
  · exact .ite h (h.collParts.foldl fun _ h => h.collWrite).settleColl

theorem Grows.settleColls (h : Grows s t) : Grows s (settleColls t) := h.foldl fun _ h => h.collPump

theorem Grows.resumeUnits (h : Grows s t) : Grows s (resumeUnits t) := h.resumeMoves.resumeBacks.settleColls

theorem Grows.chunkUse {c : Coll} {x : Nat × Nat × Bytes} (h : Grows s t) : Grows s (chunkUse t c x) := by
  unfold Machine.chunkUse
  split
  · exact h
  · exact .ite h.setColl (.ite (h.setColl.foldl fun _ h => h.sendChunk) h.setColl)

theorem Grows.collOpen {c : Coll} (h : Grows s t) : Grows s (collOpen t c) :=
  .ite h ((h.setColl.foldl fun _ h => h.toGroup).foldl fun _ h => h.chunkUse).collPump

theorem Grows.collForward {c : Coll} (h : Grows s t) : Grows s (collForward t c) := by
  refine .ite h ?_
  extract_lets
  split
  · exact h.setColl.toGroup
  · exact h.setColl.collOpen

theorem Grows.descFor {c : Coll} {d : EarlyDesc} (h : Grows s t) : Grows s (descFor t c d) :=
  .ite h.collAbort (.ite h h.setColl.collForward)

theorem Grows.takeEarly {gtag seq : Nat} (h : Grows s t) : Grows s (takeEarly t gtag seq) := by
  refine .foldl h.setCol fun _ h => ?_
  split
  · exact h.descFor
  · exact h

theorem Grows.collStart {q sub : Nat} (h : Grows s t) : Grows s (collStart t q sub) := by
  unfold Machine.collStart
  split
  · exact h
  · refine .ite h.resumeUnits (.ite h.tput.setCol.finish ?_)
    extract_lets
    split
    · exact h.tput.setCol.setCol.keepRunning.setCol.collFail
    · refine .ite h.tput.setCol.setCol.keepRunning.collAbort (.ite h.tput.setCol.setCol.keepRunning.collAbort ?_)
      split
      · exact h.tput.setCol.setCol.keepRunning.takeEarly.collForward
      · exact h.tput.setCol.setCol.keepRunning.takeEarly

theorem Grows.abortEarly {g gtag seq digest sender code : Nat} (h : Grows s t) :
    Grows s (abortEarly t g gtag seq digest sender code) :=
  .ite h h.setCol.sendAborts

theorem Grows.collMsgIn {kind : Nat} {b : Bytes} (h : Grows s t) : Grows s (collMsgIn t kind b) := by
  unfold Machine.collMsgIn
  extract_lets
  split
  · exact h.count
  · refine .ite h.count ?_
    split
    · exact h.descFor
    · exact .ite h h.setCol
    · exact h.collOpen
    · exact h.sendAbort.collFail
    · exact h.abortEarly
    · exact h

theorem Grows.collTimeout {gtag seq : Nat} (h : Grows s t) : Grows s (collTimeout t gtag seq) := by
  unfold Machine.collTimeout
  split
  · exact h.setCol
  · refine .foldl h.collAbort fun _ h => ?_
    split
    · exact h.faultReport
    · exact h

theorem Grows.chunkIn {sub p : Nat} {b : Bytes} (h : Grows s t) : Grows s (chunkIn t sub p b) := by
  unfold Machine.chunkIn
  extract_lets
  split
  · exact h.count
  · extract_lets
    split
    · exact h.count
    · exact .ite h.count.markUnclean.dropColl.finish (.ite h.setColl h.chunkUse.collPump)

theorem Grows.fenceEffect {q : Nat} (h : Grows s t) : Grows s (fenceEffect t q) := by
  unfold Machine.fenceEffect
  split
  · exact h
  · exact .ite h (.ite h.frame.keepRunning.failFence h.frame.keepRunning.settleFences)

theorem Grows.fenceTimeout {q : Nat} (h : Grows s t) : Grows s (fenceTimeout t q) := by
  unfold Machine.fenceTimeout
  split
  · exact h
  · exact h.frame.finish

end Sys2Proof.Machine
end

section
/-! PROOFS. What every command keeps (R511): the updates of the comb and its streams. -/

namespace Sys2Proof.Machine

variable {s t : State}

/-! ## The comb: jobs, losses and rollback -/

theorem Grows.zeroCoded (h : Grows s t) : Grows s (zeroCoded t) := h.withHbm fun hs => Memory.filter_wf (h.inv hs).canonical.hbm _

theorem Grows.startCoding {fresh : Bool} (h : Grows s t) : Grows s (startCoding t fresh) := h.setCod

theorem Grows.joinAccept {n tag memb x : Nat} {b : Bytes} (h : Grows s t) : Grows s (joinAccept t b n tag memb x) := by
  unfold Machine.joinAccept
  extract_lets _ _ _ _ _ _ _ _ s1
  have hs1 : Grows s s1 := h.setComb.frame.frame.foldl fun _ h => h.tput
  exact (Grows.ite hs1.wr.wr.wr.wr.wr.wr.wr.wr.wr.wr.wr.wr.wr.setLp.startCoding.zeroCoded.writeRecord.wr
      hs1.wr.wr.wr.wr.wr.wr.wr.wr.wr.wr.wr.wr.wr.setLp.startCoding).foldl fun _ h => h.memberTo

theorem Grows.setExcl {l : List Nat} (h : Grows s t) : Grows s (setExcl t l) := h.foldl fun _ h => h.tput

theorem Grows.sendStart {y : Nat} (h : Grows s t) : Grows s (sendStart t y) := h.sendTo

theorem Grows.putAck {a : StartAck} (h : Grows s t) : Grows s (putAck t a) := h.setComb

theorem Grows.joinsEnd {code info : Nat} (h : Grows s t) : Grows s (joinsEnd t code info) :=
  h.setComb.foldl fun _ h => h.finish

theorem Grows.applyWaiting (h : Grows s t) : Grows s (applyWaiting t) := h.applyHeld.applyDir

theorem Grows.releaseJob (h : Grows s t) : Grows s (releaseJob t) := by
  unfold Machine.releaseJob
  extract_lets s1 s2 s3 s4
  have hs3 : Grows s s3 := h.intakeDiscard.applyWaiting.memberTo.setOwnState
  have hs4 : Grows s s4 := hs3.withTab fun hs => NMap.filter_wf (hs3.inv hs).canonical.tab _
  exact (hs4.wr.wr.wr.wr.wr.wr.wr.wr.wr.wr.wr.wr.wr.foldl fun _ h => h.wr.wr).setCod.setComb

theorem Grows.goPosition {x : Nat} (h : Grows s t) : Grows s (goPosition t x) :=
  .ite h.memberTo (.ite h.memberTo (.ite h.memberTo.memberTo h.memberTo.memberTo.count))

theorem Grows.goApply (h : Grows s t) : Grows s (goApply t) := by
  unfold Machine.goApply
  extract_lets _ _ _ s1 _ _ s2 s3
  have hs1 : Grows s s1 := h.setComb.foldl fun _ h => .ite h h.goPosition
  have hs2 : Grows s s2 := .ite hs1.schedStart hs1
  have hs3 : Grows s s3 := .ite hs2.releaseJob hs2.goPosition
  exact (Grows.ite hs3 hs3.tryReserve).setComb.foldl fun _ h => h.finish

theorem Grows.sendGo (h : Grows s t) : Grows s (sendGo t) := h.toChildren

theorem Grows.rootJudge (h : Grows s t) : Grows s (rootJudge t) :=
  .ite h.joinsEnd (.ite h (.ite h.sendGo.goApply (h.joinsEnd.foldl fun _ h => h.unitError)))

theorem Grows.startSettle (h : Grows s t) : Grows s (startSettle t) :=
  .ite h (.ite h.rootJudge (.ite h h.setComb.toParent))

theorem Grows.startNode (h : Grows s t) : Grows s (startNode t) :=
  (h.setComb.foldl fun _ h => .ite h (.ite h.putAck h.sendStart)).startSettle

theorem Grows.refuseStart {p tag memb code : Nat} (h : Grows s t) : Grows s (refuseStart t p tag memb code) :=
  h.wr.wr.sendMsg.wr.wr

theorem Grows.startIn {p tag memb : Nat} {b : Bytes} (h : Grows s t) : Grows s (startIn t p tag memb b) :=
  .ite h.refuseStart (.ite h.setComb (.ite h.refuseStart (.ite h.refuseStart (Grows.ite h h.setExcl).startNode)))

theorem Grows.takeStarts (h : Grows s t) : Grows s (takeStarts t) := h.setComb.foldl fun _ h => h.startIn

theorem Grows.startAckIn {p : Nat} {b : Bytes} (h : Grows s t) : Grows s (startAckIn t p b) := by
  unfold Machine.startAckIn
  extract_lets
  split
  · exact h
  · exact .ite h h.putAck.startSettle

theorem Grows.startTimeout (h : Grows s t) : Grows s (startTimeout t) :=
  .ite h (.ite h (h.foldl fun _ h => h.putAck).startSettle)

theorem Grows.goIn {tag memb : Nat} {b : Bytes} (h : Grows s t) : Grows s (goIn t tag memb b) :=
  .ite h h.setExcl.sendGo.goApply

theorem Grows.joinEffect {q : Nat} (h : Grows s t) : Grows s (joinEffect t q) := by
  unfold Machine.joinEffect
  split
  · exact h
  · exact .ite h (.ite h.finish h.keepRunning.hostFetch)

theorem Grows.joinData {q : Nat} {r : Run} (h : Grows s t) : Grows s (joinData t q r) := by
  refine .ite ?_ (.ite (.ite h.dropGot.finish (.ite h.dropGot.setComb.setExcl.startNode h.dropGot.setComb))
      h.dropGot.finish)
  split
  · exact h.dropGot.finish
  · exact .ite h.dropGot.joinAccept.setComb.startNode h.dropGot.joinAccept.setComb.takeStarts

theorem Grows.stopRun {q code : Nat} {r : Run} (h : Grows s t) : Grows s (stopRun t q r code) := by
  unfold Machine.stopRun
  extract_lets s1 s2
  have hs1 : Grows s s1 := by
    dsimp only [s1]
    split
    · exact h.noteInfo.setThread
    · exact h
  have hs2 : Grows s s2 := by
    dsimp only [s2]
    split
    · exact hs1.noteInfo.sendAbort.dropColl.countAbort
    · exact hs1
  exact .ite hs2.dropGot.wr (.ite hs2.dropGot.setSpine hs2.dropGot)

theorem Grows.cancelFences {q code : Nat} (h : Grows s t) : Grows s (cancelFences t q code) :=
  h.foldl fun _ h => h.failFence

theorem Grows.cancelAbove {target code : Nat} (h : Grows s t) : Grows s (cancelAbove t target code) :=
  ((h.foldl fun _ h => h.closeCell).foldl fun _ h => h.cancelFences).foldl fun _ h => h.foldl fun _ h => (Grows.ite h
    h.stopRun).cancelRun

theorem Grows.ownLost (h : Grows s t) : Grows s (ownLost t) :=
  (h.hiveLost.foldl fun _ h => h.foldl fun _ h => .ite h.cancelRun h.stopRun.finish).hush

theorem Grows.lostReport {x : Nat} (h : Grows s t) : Grows s (lostReport t x) :=
  .ite h (h.foldl fun _ h => .ite h h.setEpoch)

theorem Grows.resendReports (h : Grows s t) : Grows s (resendReports t) := h.foldl fun _ h => h.setEpoch.capForward

theorem Grows.rebuildAgain (h : Grows s t) : Grows s (rebuildAgain t) := h.frame

theorem Grows.rbComplete {r : RbRun} (h : Grows s t) : Grows s (rbComplete t r) :=
  (h.foldl fun _ h => .ite h.setEpoch h).setComb.rebuildAgain.count.finish.leaveSettle

theorem Grows.rbAnnounce {r : RbRun} (h : Grows s t) : Grows s (rbAnnounce t r) := h.toChildren.rbComplete

theorem Grows.rbSettle (h : Grows s t) : Grows s (rbSettle t) := by
  unfold Machine.rbSettle
  split
  · exact h
  · exact .ite h (.ite h.rbAnnounce (.ite h h.setComb.toParent))

theorem Grows.sendFloors {target : Nat} (h : Grows s t) : Grows s (sendFloors t target) :=
  h.foldl fun _ h => .ite h (h.foldl fun _ h => h.sendRank)

theorem Grows.giveBackSeqs {target : Nat} (h : Grows s t) : Grows s (giveBackSeqs t target) := by
  refine .setCol (.foldl h fun _ h => ?_)
  split
  · exact h
  · exact h.tput

theorem Grows.disarm (h : Grows s t) : Grows s (disarm t) := h.frame

theorem Grows.undoRest {target newest : Nat} (h : Grows s t) : Grows s (undoRest t target newest) := by
  unfold Machine.undoRest
  extract_lets _ s1 s2 _ s4
  have hs1 : Grows s s1 := h.setCod
  have hs2 : Grows s s2 := hs1.frame
  have hs4 : Grows s s4 := hs2.undoMoves.intakeDiscard.invalidateHist.disarm
  exact .ite hs4.wr hs4

theorem Grows.rbUndo {r : RbRun} (h : Grows s t) : Grows s (rbUndo t r) := by
  unfold Machine.rbUndo
  extract_lets _ s1 s2 s3
  have hs1 : Grows s s1 := .undoRest (.ite h.undoAll h)
  exact hs1.tryReserve.giveBackSeqs.sendFloors.refreshRecord.setComb.rbSettle

theorem Grows.rbAdvance (h : Grows s t) : Grows s (rbAdvance t) := by
  unfold Machine.rbAdvance
  split
  · exact h
  · exact .ite h h.rbUndo

theorem Grows.startRollback {r : Run} (h : Grows s t) : Grows s (startRollback t r) := h.cancelAbove.frame

theorem Grows.rollbackEffect {q : Nat} (h : Grows s t) : Grows s (rollbackEffect t q) := by
  unfold Machine.rollbackEffect
  split
  · exact h
  · exact .ite h.rbAdvance h.keepRunning.setComb.rbAdvance

theorem Grows.rbDoneIn {p : Nat} {b : Bytes} (h : Grows s t) : Grows s (rbDoneIn t p b) := by
  unfold Machine.rbDoneIn
  split
  · exact h
  · exact h.setComb.rbSettle

theorem Grows.rbAnnIn {b : Bytes} (h : Grows s t) : Grows s (rbAnnIn t b) := by
  unfold Machine.rbAnnIn
  split
  · exact h
  · exact .ite h.rbAnnounce h

theorem Grows.rbTimeout (h : Grows s t) : Grows s (rbTimeout t) := by
  unfold Machine.rbTimeout
  split
  · exact h
  · exact .ite h (.ite h.unitError h.toParent)

theorem Grows.waggleSend (h : Grows s t) : Grows s (waggleSend t) := .ite (.ite h (h.foldl fun _ h => h.sendTo)) h

theorem Grows.waggleIn {p : Nat} {b : Bytes} (h : Grows s t) : Grows s (waggleIn t p b) := by
  unfold Machine.waggleIn
  split
  · exact h
  · exact .ite h (Grows.ite h.tput.setComb.memberTo h.tput.setComb).capLearn.peerDigest

theorem Grows.faultIn {p : Nat} {b : Bytes} (h : Grows s t) : Grows s (faultIn t p b) := by
  unfold Machine.faultIn
  extract_lets
  split
  · exact h
  · exact .ite h h.guardReport

theorem Grows.waggleSilence {x : Nat} (h : Grows s t) : Grows s (waggleSilence t x) := .ite h.faultReport h

theorem Grows.rebuildStop (h : Grows s t) : Grows s (rebuildStop t) := by
  unfold Machine.rebuildStop
  extract_lets s1 _ _ _ _ _ _ _ _ s2
  have hs1 : Grows s s1 := h.foldl fun _ h => h.finish
  refine .frame (t := s2) ?_
  dsimp only [s2]
  split
  · exact hs1
  · exact ((hs1.foldl fun _ h => h.unitError).foldl fun _ h => h.unitError).finish

theorem Grows.rebuildOrphans {r : Nat} (h : Grows s t) : Grows s (rebuildOrphans t r) :=
  (h.foldl fun _ h => h.finish).frame

theorem Grows.learnLost {x g : Nat} (h : Grows s t) : Grows s (learnLost t x g) := by
  unfold Machine.learnLost
  extract_lets _ _ _ _ _ _ _ _ s1 _ _ _ _ _ _ _ s2 s3 s4 _ s5 s6
  have hs1 : Grows s s1 := .ite h.setComb.memberTo h.setComb.memberTo.count
  have hs2 : Grows s s2 := ((Grows.ite (hs1.foldl fun _ h => h.setComb.memberTo) hs1).deadPeer.foldl fun _ h =>
      h.collAbort).setLp.foldl fun _ h => h.failFence
  have hs3 : Grows s s3 := (Grows.ite hs2.lostReport hs2).resendReports
  have hs4 : Grows s s4 := .ite hs3.rebuildOrphans hs3
  have hs5 : Grows s s5 := by
    dsimp only [s5]
    split
    · exact .ite hs4.dropSealRecord.setSpine.finish hs4
    · exact hs4
  have hs6 : Grows s s6 := .ite hs5.rebuildStop (.ite hs5.rebuildAgain hs5)
  exact .ite h (.ite h.setComb (.ite h (.ite hs6.setComb.rbSettle.ownLost hs6.setComb.rbSettle)))

theorem Grows.sawLost {x : Nat} (h : Grows s t) : Grows s (sawLost t x) := h.setComb

theorem Grows.declare {x : Nat} (h : Grows s t) : Grows s (declare t x) := .ite h h.sawLost.learnLost.toTree

theorem Grows.lostDeclare {x : Nat} (h : Grows s t) : Grows s (lostDeclare t x) := .ite h.declare h

theorem Grows.lostIn {p : Nat} {b : Bytes} (h : Grows s t) : Grows s (lostIn t p b) :=
  .ite h h.sawLost.learnLost.toTree

theorem Grows.leftIn {p : Nat} (h : Grows s t) : Grows s (leftIn t p) := by
  unfold Machine.leftIn
  split
  · exact h
  · exact .ite h (.ite (.ite h.memberTo h) (.ite h.declare h.learnLost))

theorem Grows.declareSelfIn {p : Nat} (h : Grows s t) : Grows s (declareSelfIn t p) := by
  unfold Machine.declareSelfIn
  split
  · exact h
  · exact h.declare

theorem Grows.sendDeclareSelf (h : Grows s t) : Grows s (sendDeclareSelf t) := .ite h (h.foldl fun _ h => h.sendTo)

theorem Grows.declareWrite {x : Nat} (h : Grows s t) : Grows s (declareWrite t x).1 := .fst_ite h.fst h.declare.fst

theorem Grows.leaveEffect {q sub : Nat} (h : Grows s t) : Grows s (leaveEffect t q sub) := by
  unfold Machine.leaveEffect
  split
  · exact h
  · split
    · exact .ite (.ite h h.leaveSettle) h.finish
    · exact .ite h.finish (.ite h.keepRunning.setComb.teardown h.keepRunning.setComb.leaveSettle)

theorem Grows.releaseEffect (h : Grows s t) : Grows s (releaseEffect t) := by
  refine .ite h ?_
  extract_lets l
  clear_value l
  split
  · exact h.joinsEnd.releaseJob.finish
  · exact h.joinsEnd.releaseJob

theorem Grows.capWaitTimeout {q : Nat} (h : Grows s t) : Grows s (capWaitTimeout t q) := by
  unfold Machine.capWaitTimeout
  split
  · exact h
  · exact .ite h.finish h

/-! ## Streams between members -/

theorem Grows.sendCredits {l : Nat} (h : Grows s t) : Grows s (sendCredits t l) := .ite h h.sendControl.setLink

theorem Grows.creditFreed {l v : Nat} (h : Grows s t) : Grows s (creditFreed t l v) :=
  .ite h (.ite h.setLink.sendCredits h.setLink)

theorem Grows.freeCredit {l v : Nat} (h : Grows s t) : Grows s (freeCredit t l v) := .ite h.setLp h.creditFreed

theorem Grows.returnHeld {n : Nat} (h : Grows s t) : Grows s (returnHeld n t) := by
  induction n generalizing t with
  | zero => exact h
  | succ n ih =>
    rw [Machine.returnHeld]
    split
    · exact .ite (ih h.setLp.freeCredit) h
    · exact h

theorem Grows.returnHive {n : Nat} (h : Grows s t) : Grows s (returnHive n t) := by
  induction n generalizing t with
  | zero => exact h
  | succ n ih =>
    rw [Machine.returnHive]
    split
    · exact .ite (ih h.setLp.creditFreed) h
    · exact h

theorem Grows.setRx {r : RxStream} (h : Grows s t) : Grows s (setRx t r) := h.setLp

theorem Grows.sendAck {p vc : Nat} (h : Grows s t) : Grows s (sendAck t p vc) := h.setRx.sendMsg

theorem Grows.settleRxStream {p vc : Nat} (h : Grows s t) : Grows s (settleRxStream t p vc) :=
  .ite h (.ite h.setRx.sendAck h.setRx)

theorem Grows.settleRx (h : Grows s t) : Grows s (settleRx t) := (h.foldl fun _ h => h.settleRxStream).returnHive

theorem Grows.takenMsg {p type owner : Nat} {reqs : List (Nat × Nat)} (h : Grows s t) : Grows s (takenMsg t p type owner reqs) :=
  .ite h h.setRx.settleRxStream.returnHive

theorem Grows.gather {p vc : Nat} {f : Flit} (h : Grows s t) : Grows s (gather t p vc f) := .ite h.setRx.emit h.setRx

theorem Grows.deliverNext {p vc n : Nat} (h : Grows s t) : Grows s (deliverNext p vc n t) := by
  induction n generalizing t with
  | zero => exact h
  | succ n ih =>
    rw [Machine.deliverNext]
    extract_lets
    split
    · exact h
    · exact ih h.setRx.gather

theorem Grows.streamIn {p vc : Nat} {f : Flit} (h : Grows s t) : Grows s (streamIn t p vc f) :=
  .ite h.count (.ite h (.ite h.setRx.deliverNext.sendAck h.setRx.deliverNext))

theorem Grows.ackEntry {p e : Nat} (h : Grows s t) : Grows s (ackEntry p t e) := by
  unfold Machine.ackEntry
  extract_lets _ _ _ _ s1
  have hs1 : Grows s s1 := .ite h.setTx h.setTx.count
  exact hs1.frame.pumpStream

theorem Grows.ackIn {p : Nat} {b : Bytes} (h : Grows s t) : Grows s (ackIn t p b) := h.foldl fun _ h => h.ackEntry

theorem Grows.chunkTaken {v : State} {type p unit : Nat} {b : Bytes} (h : Grows s t) : Grows s (chunkTaken v t type p b unit) :=
  h.takenMsg.settleRx

end Sys2Proof.Machine
end

section
/-! PROOFS. What every command keeps (R511): the updates of recovery and the seal. -/

namespace Sys2Proof.Machine

variable {s t : State}

/-! ## Recovery -/

theorem Grows.setRbd {x : Rebuild} (h : Grows s t) : Grows s (setRbd t x) := h.frame

theorem Grows.setRoleRank {x role rank : Nat} (h : Grows s t) : Grows s (setRoleRank t x role rank) := h.tput

theorem Grows.takeRank {rank y kind : Nat} (h : Grows s t) : Grows s (takeRank t rank y kind) := by
  refine .ite h (.memberTo (.setRoleRank ?_))
  split
  · exact h.setRoleRank
  · exact h

theorem Grows.liveFromMirror {rank : Nat} (h : Grows s t) : Grows s (liveFromMirror t rank) :=
  (h.foldl fun _ h => h.foldl fun _ h => h.placeWrite).setCod

theorem Grows.repairReplicas (h : Grows s t) : Grows s (repairReplicas t) :=
  h.foldl fun _ h => h.foldl fun _ h => h.placeWrite

theorem Grows.deviceStart {q i rank kind : Nat} (h : Grows s t) : Grows s (deviceStart t q i rank kind) := by
  unfold Machine.deviceStart
  extract_lets s1
  have hs1 : Grows s s1 := .ite h h.wr.wr
  exact (Grows.ite hs1.wr.wr.setCod hs1.wr.wr).liveFromMirror.refreshRecord.repairReplicas.setRbd.keepRunning

theorem Grows.sendTerm {t' dest : Nat} {r : ChainReq} {b : Bytes} (h : Grows s t) : Grows s (sendTerm t r t' dest b) :=
  .ite h.sendMsg h

theorem Grows.sendStale {p first n seq : Nat} (h : Grows s t) : Grows s (sendStale t p first n seq) := h.sendMsg

theorem Grows.giveTerm {t' c dest : Nat} {r : ChainReq} {b : Bytes} (h : Grows s t) : Grows s (giveTerm t r t' c dest b) :=
  .ite h.sendStale h.sendTerm

theorem Grows.passTerm {j : Nat} {r : ChainReq} {d : Bytes × Bool} (h : Grows s t) : Grows s (passTerm t r j d) := by
  unfold Machine.passTerm
  extract_lets
  split
  · exact h
  · exact .ite h.count.sendStale h.giveTerm

theorem Grows.serveReq {r : ChainReq} (h : Grows s t) : Grows s (serveReq t r) := by
  refine .foldl (.setComb (.foldl h.setComb fun _ h => ?_)) fun _ h => h.passTerm
  split
  · exact h.giveTerm
  · exact h

theorem Grows.rbReqIn {p : Nat} {b : Bytes} (h : Grows s t) : Grows s (rbReqIn t p b) := by
  refine .ite h ?_
  split
  · exact h.setComb
  · exact .ite h.sendStale h.serveReq

theorem Grows.takeReqs (h : Grows s t) : Grows s (takeReqs t) := h.setComb.foldl fun _ h => .ite h.sendStale h.serveReq

theorem Grows.keepRank {x rank : Nat} (h : Grows s t) : Grows s (keepRank t x rank) := by
  unfold Machine.keepRank
  extract_lets
  split
  · exact h.memberTo.wr.wr
  · exact h.memberTo

theorem Grows.rebuildEffect {q : Nat} (h : Grows s t) : Grows s (rebuildEffect t q) := by
  unfold Machine.rebuildEffect
  split
  · exact h
  · refine .ite h (.ite h.finish (.ite ?_ ?_))
    · split
      · exact .ite h.keepRank.refreshRecord.finish h.finish
      · exact h.finish
    · split
      · exact h.finish
      · exact .ite h.finish (.ite h.takeRank.deviceStart h.takeRank.setRbd.keepRunning.refreshRecord.takeReqs)

theorem Grows.requestIssue (h : Grows s t) : Grows s (requestIssue t) := by
  refine .ite h ?_
  split
  · exact h
  · split
    · exact h
    · exact h.setRbd.foldl fun _ h => h.sendRank

theorem Grows.rebuildSettle (h : Grows s t) : Grows s (rebuildSettle t) := by
  unfold Machine.rebuildSettle
  split
  · exact h
  · refine .ite h ?_
    extract_lets _ s1
    have hs1 : Grows s s1 := h.foldl fun _ h => h.sendTo
    exact (Grows.ite hs1 hs1.memberTo).setRbd.finish

theorem Grows.resultIn {j : Nat} {o : Nat × Nat × Nat × Nat} {d : Bytes × Bool} (h : Grows s t) : Grows s (resultIn t o j d) :=
  .ite h (.ite h.count.setRbd h.settleCell.setRbd.setRbd.wr.retryParked.rebuildSettle)

theorem Grows.rebuildChunk {p : Nat} {b : Bytes} (h : Grows s t) : Grows s (rebuildChunk t p b) := by
  refine .ite h.chunkIn (.ite h.count (.ite ?_ ?_))
  · split
    · exact h.resultIn
    · exact h
  · split
    · exact h.passTerm
    · exact h.setComb

theorem Grows.rbStaleIn {b : Bytes} (h : Grows s t) : Grows s (rbStaleIn t b) := by
  unfold Machine.rbStaleIn
  extract_lets
  split
  · exact h
  · exact h.setRbd

theorem Grows.rebuiltIn {b : Bytes} (h : Grows s t) : Grows s (rebuiltIn t b) :=
  ((Grows.ite h.memberTo h).foldl fun _ h => h.finish).setComb.setRbd

theorem Grows.sendReport {idx lo hi : Nat} {ok : Bool} {fresh : Bool} (h : Grows s t) :
    Grows s (sendReport t idx ok fresh lo hi) :=
  h.toParent

theorem Grows.sendDecide {what status target : Nat} (h : Grows s t) : Grows s (sendDecide t what status target) :=
  h.toChildren

theorem Grows.splitCheck {target : Nat} (h : Grows s t) : Grows s (splitCheck t target).1 := by
  unfold Machine.splitCheck
  split
  · exact h.fst
  · exact ((h.foldl fun _ h => h.unitError).foldl fun _ h => h.unitError).fst

theorem Grows.restoreEnd {target : Nat} (h : Grows s t) : Grows s (restoreEnd t target) :=
  (Grows.ite h.invalidateHist.wr h.invalidateHist).schedStart.tryReserve.setComb

theorem Grows.restoreOk {target : Nat} (h : Grows s t) : Grows s (restoreOk t target) := by
  unfold Machine.restoreOk
  split
  · exact (Grows.ite h.wr.setCod.capStep h.wr.setCod).undoAll.undoRest.refreshRecord
  · exact .ite (.ite h.wr.zeroCoded.setCod.setRbd.refreshRecord.memberTo h.wr.zeroCoded.setCod.setRbd.refreshRecord)
        h.wr.refreshRecord

theorem Grows.restoreVerdict {code target : Nat} {r : RsRun} (h : Grows s t) : Grows s (restoreVerdict t r code target) :=
  (Grows.ite h.sendDecide.restoreOk.restoreEnd h.sendDecide.setComb).finish

theorem Grows.rsSettle (h : Grows s t) : Grows s (rsSettle t) := by
  unfold Machine.rsSettle
  split
  · exact h
  · exact .ite h (.ite (.ite h h.setComb.sendReport) (.ite h.restoreVerdict (.ite h.restoreVerdict (.ite
        h.restoreVerdict (.ite h.restoreVerdict h.sendDecide.splitCheck.setComb)))))

theorem Grows.rsRounds (h : Grows s t) : Grows s (rsRounds t) := h.rsSettle.rsSettle

theorem Grows.restoreStart {q : Nat} {r : Run} (h : Grows s t) : Grows s (restoreStart t q r) :=
  (Grows.ite h.keepRunning.setComb.sendReport h.keepRunning.setComb).rsRounds

theorem Grows.rsReportIn {p : Nat} {b : Bytes} (h : Grows s t) : Grows s (rsReportIn t p b) := by
  unfold Machine.rsReportIn
  extract_lets
  split
  · exact h
  · exact .ite (.ite h.setComb h.setComb.sendReport) h.setComb.rsRounds

theorem Grows.rsDecideIn {b : Bytes} (h : Grows s t) : Grows s (rsDecideIn t b) := by
  unfold Machine.rsDecideIn
  extract_lets
  split
  · exact .ite h.sendDecide h
  · exact .ite h (.ite h.sendDecide.splitCheck.setComb.rsSettle h.restoreVerdict)

theorem Grows.restoreTimeout (h : Grows s t) : Grows s (restoreTimeout t) := by
  unfold Machine.restoreTimeout
  split
  · exact h
  · exact .ite h.restoreVerdict h

/-! ## Starting a job -/

theorem Grows.takeThread {q : Nat} {r : Run} (h : Grows s t) : Grows s (takeThread t q r) := by
  unfold Machine.takeThread
  split
  · exact h
  · exact h.setThread

theorem Grows.sendCopies {e : Nat} (h : Grows s t) : Grows s (sendCopies t e) := by
  unfold Machine.sendCopies
  split
  · exact h
  · exact (h.foldl fun _ h => h.foldl fun _ h => h.sendMsg).sendMsg.frame

theorem Grows.startCap {q : Nat} {r : Run} (h : Grows s t) : Grows s (startCap t q r) :=
  .ite h.firstSwitch h.noteFetched.armStores

theorem Grows.startRun {q : Nat} {r : Run} (h : Grows s t) : Grows s (startRun t q r) := by
  unfold Machine.startRun
  extract_lets _ _ s1 s2
  have hs1 : Grows s s1 := by
    dsimp only [s1]
    split
    · exact .ite h.modRun.count.openEpoch h.modRun.count
    · exact h.modRun.count
  have hs2 : Grows s s2 := .ite hs1.startCap hs1
  exact .ite hs2.sendCopies.takeThread (.ite hs2.takeThread (.ite hs2.takeIdle (.ite hs2.wr (.ite hs2.takeMove (.ite
      hs2.takeSlot (.ite hs2.startRollback (.ite hs2.modRun hs2)))))))

theorem Grows.commandStartEffect {q : Nat} (h : Grows s t) : Grows s (commandStartEffect t q) := by
  unfold Machine.commandStartEffect
  split
  · exact h
  · split
    · exact h.cancelRun
    · exact h.count
    · exact h.finish
    · exact h.startRun

/-! ## The seal -/

theorem Grows.sealEnd {code : Nat} {x : SealRun} (h : Grows s t) : Grows s (sealEnd t x code) := h.setSpine.finish

theorem Grows.sealSettle (h : Grows s t) : Grows s (sealSettle t) := by
  unfold Machine.sealSettle
  split
  · exact h
  · extract_lets _ _ s1
    have hs1 : Grows s s1.1 := .fst_ite h.stageRecord.setSpine.fst h.fst
    exact .ite hs1.sealEnd hs1

theorem Grows.sealTable (h : Grows s t) : Grows s (sealTable t) := by
  unfold Machine.sealTable
  split
  · exact .ite h.setSpine h
  · exact h

theorem Grows.sealArrived (h : Grows s t) : Grows s (sealArrived t) := by
  unfold Machine.sealArrived
  split
  · refine .ite h (.sealTable (.foldl h fun _ h => ?_))
    split
    · exact .ite h h.sealCell
    · exact h
  · exact h

theorem Grows.sealStep {x : SealRun} (h : Grows s t) : Grows s (sealStep t x) := by
  refine .ite (.ite h.sealArrived ?_) (.ite (Grows.ite h.sealPut h).setSpine.sealSettle h.sealSettle)
  split
  · exact h.setSpine.sealRead.sealArrived
  · exact h.sealTable

theorem Grows.sealEffect {q : Nat} (h : Grows s t) : Grows s (sealEffect t q) := by
  unfold Machine.sealEffect
  split
  · exact h
  · split
    · exact .ite h.sealStep h
    · exact .ite h.finish h.keepRunning.setSpine

theorem Grows.sealWriteFailed (h : Grows s t) : Grows s (sealWriteFailed t) := by
  unfold Machine.sealWriteFailed
  split
  · exact .ite h.dropSealRecord.sealEnd h
  · exact h

theorem Grows.recordWrite (h : Grows s t) : Grows s (recordWrite t) := by
  unfold Machine.recordWrite
  split
  · exact h
  · refine .ite h ?_
    extract_lets
    split
    · exact h.writeSpine.setSpine.sealEnd.wr
    · exact h.writeSpine.sealSettle

theorem Grows.dropSeal (h : Grows s t) : Grows s (dropSeal t) := h.count

theorem Grows.imageCellIn {p : Nat} {b : Bytes} (h : Grows s t) : Grows s (imageCellIn t p b) :=
  .ite h.dropSeal (.ite h h.setHeld.boardStore)

theorem Grows.sealRefuse {p e code : Nat} (h : Grows s t) : Grows s (sealRefuse t p e code) := h.sendMsg

theorem Grows.serveSettle (h : Grows s t) : Grows s (serveSettle t) :=
  .ite h (h.setSpine.foldl fun _ h => .ite h.sealRefuse (h.foldl fun _ h => h.sendMsg))

theorem Grows.sealReadIn {p : Nat} {b : Bytes} (h : Grows s t) : Grows s (sealReadIn t p b) :=
  .ite h.dropSeal (.ite h.sealRefuse (h.setSpine.foldl fun _ h => h.tierRequest).serveSettle)

theorem Grows.serveFailed (h : Grows s t) : Grows s (serveFailed t) := h.setSpine.serveSettle

theorem Grows.readSpine (h : Grows s t) : Grows s (readSpine t).1 :=
  .fst_ite h.fst (h.foldl fun _ h => h.count.unitError).fst

theorem Grows.takeSpine {r : Option (Nat × Nat)} (h : Grows s t) : Grows s (takeSpine t r) := by
  unfold Machine.takeSpine
  split
  · exact h.wr.setSpine
  · exact h

theorem Grows.loadScales {slot : Nat} (h : Grows s t) : Grows s (loadScales t slot) := h.foldl fun _ h => h.setCod

theorem Grows.loadImage {x : SealLoad} (h : Grows s t) : Grows s (loadImage t x) :=
  .ite h.setSpine.zeroCoded.setCod.finish (((h.setSpine.zeroCoded.setCod.foldl fun _ h => h.settleCell).foldl fun _
    h => h.settleCell).foldl fun _ h => h.settleCell).loadScales.wr.refreshRecord.restoreEnd.finish

theorem Grows.loadSettle (h : Grows s t) : Grows s (loadSettle t) := by
  unfold Machine.loadSettle
  split
  · exact h
  · exact .ite h.loadImage h

theorem Grows.restoreSeal {q : Nat} {r : Run} (h : Grows s t) : Grows s (restoreSeal t q r) := by
  unfold Machine.restoreSeal
  extract_lets
  split
  · exact h.readSpine.takeSpine.finish
  · exact .ite h.readSpine.takeSpine.finish (.ite (h.readSpine.takeSpine.keepRunning.setSpine.foldl fun _ h =>
        h.tierRequest).loadSettle (.ite h.readSpine.takeSpine.keepRunning.finish
        (h.readSpine.takeSpine.keepRunning.setSpine.foldl fun _ h => h.sendMsg).loadSettle))

theorem Grows.loadFailed {slot : Nat} (h : Grows s t) : Grows s (loadFailed t slot) := by
  unfold Machine.loadFailed
  split
  · exact h.setSpine.loadSettle
  · exact h

theorem Grows.sealDataIn {p : Nat} {b : Bytes} (h : Grows s t) : Grows s (sealDataIn t p b) := by
  unfold Machine.sealDataIn
  extract_lets
  split
  · exact h.dropSeal
  · exact .ite h.dropSeal (.ite h h.setSpine.loadSettle)

theorem Grows.sealRefusedIn {p : Nat} {b : Bytes} (h : Grows s t) : Grows s (sealRefusedIn t p b) := by
  unfold Machine.sealRefusedIn
  extract_lets
  split
  · exact h.dropSeal
  · exact .ite h.dropSeal h.setSpine.finish

theorem Grows.restoreEffect {q : Nat} (h : Grows s t) : Grows s (restoreEffect t q) := by
  unfold Machine.restoreEffect
  split
  · exact h
  · exact .ite h (.ite h.finish (.ite h.restoreSeal h.restoreStart))

theorem Grows.copyCellIn {p : Nat} {b : Bytes} (h : Grows s t) : Grows s (copyCellIn t p b) :=
  .ite h.dropSeal (.ite h h.frame)

theorem Grows.copyEndIn {p : Nat} {b : Bytes} (h : Grows s t) : Grows s (copyEndIn t p b) :=
  .ite h.dropSeal (.ite h (h.foldl fun _ h => .ite h.cellWrite.homeWritten h).frame)

theorem Grows.discovery {size : Nat} {ok : Bool} (h : Grows s t) : Grows s (discovery t ok size) :=
  .ite h.wr.wr h.wr.wr

/-! ## Reads of coded windows -/

theorem Grows.plainBytes {owner o : Nat} {p : WinPiece} (h : Grows s t) : Grows s (plainBytes t owner o p).2 := by
  unfold Machine.plainBytes
  split
  · exact h.placeRead
  · exact h.placeRead.snd

theorem Grows.winDegraded {id home d : Nat} {ps : List WinPiece} (h : Grows s t) : Grows s (winDegraded t id home d ps) := by
  unfold Machine.winDegraded
  split
  · exact h
  · extract_lets
    split
    next u hu => exact h.degStart u hu
    · exact h.winAnswer

theorem Grows.pieceRead {e : Nat} {w : WinRead} {p : WinPiece} (h : Grows s t) : Grows s (pieceRead t w e p) :=
  h.placeRead

theorem Grows.windowServe {w : WinRead} (h : Grows s t) : Grows s (windowServe t w) := by
  unfold Machine.windowServe
  extract_lets _ _ _ _ _ _ s1 _ _ _ s2
  have hs1 : Grows s s1.2 :=
    List.foldlRecOn (motive := fun r : Bytes × State => Grows s r.2) _ _ h.snd fun _ h _ _ => h.plainBytes.snd
  have hs2 : Grows s s2 := h.foldl fun _ h => .ite h h.pieceRead
  exact .ite hs1.setHive.winAnswer (.ite h.winAnswer (.ite h.setHive (.ite hs2.setHive.winAnswer
    (hs2.setHive.foldl fun _ h => h.winDegraded))))

theorem Grows.retryWindows (h : Grows s t) : Grows s (retryWindows t) := h.foldl fun _ h => h.windowServe

theorem Grows.windowAccept {tag addr size : Nat} (h : Grows s t) : Grows s (windowAccept t tag addr size) :=
  h.returnBeats.setHive.windowServe

theorem Grows.windowLost {owner : Nat} (h : Grows s t) : Grows s (windowLost t owner) := by
  unfold Machine.windowLost
  split
  · exact h
  · exact .ite h h.setWin

theorem Grows.windowSettle {owner : Nat} (h : Grows s t) : Grows s (windowSettle t owner) := by
  unfold Machine.windowSettle
  split
  · exact h
  · exact h.winAnswer.retryWindows

theorem Grows.codedRequest {op addr size : Nat} {r : Req} (h : Grows s t) : Grows s (codedRequest t r op addr size) :=
  .ite h.refuseReq (.ite h.refuseReq (.ite h.refuseReq (.ite h.hostAdmit h.windowAccept)))

end Sys2Proof.Machine
end

section
/-! PROOFS. What every command keeps (R511): the updates of integrity and links. -/

namespace Sys2Proof.Machine

variable {s t : State}

/-! ## Integrity of stored cells -/

theorem Grows.ledgerLost {st off : Nat} (h : Grows s t) : Grows s (ledgerLost t st off) :=
  ((h.foldl fun _ h => .ite h.suspectPar h.suspectData).foldl fun _ h => h.markUnclean).setHl

theorem Grows.setRepair {r : Repair} (h : Grows s t) : Grows s (setRepair t r) := h.setHl

theorem Grows.repairEnd {cell : Nat} {par : Bool} (h : Grows s t) : Grows s (repairEnd t par cell) :=
  (Grows.ite h.setHl.setLedgerPX h.setHl.setLedger).count.retryParked.retryWindows.resumeUnits

theorem Grows.repairFail {r : Repair} (h : Grows s t) : Grows s (repairFail t r) :=
  (h.setRepair.unitError.foldl fun _ h => h.markUnclean.resendReports).retryWindows.resumeUnits

theorem Grows.closeWindow {d : DegRead} (h : Grows s t) : Grows s (closeWindow t d) := h.setHive

theorem Grows.repairStart {r : Repair} (h : Grows s t) : Grows s (repairStart t r) := by
  refine .ite h (.ite h.count ?_)
  split
  next u hu => exact (h.degStart u hu).setRepair
  · exact h.repairFail

theorem Grows.repairAgain {r : Repair} {d : DegRead} (h : Grows s t) : Grows s (repairAgain t r d) :=
  .ite h.closeWindow.repairFail h.closeWindow.repairStart

theorem Grows.cellRepair {d : Nat} (h : Grows s t) : Grows s (cellRepair t d) := by
  refine .ite h (.ite h ?_)
  split
  · exact h.repairStart
  · exact .ite h (.ite h.repairAgain (.ite h.closeWindow.settleCell.repairEnd (.ite h.closeWindow.memWrite.repairEnd
        h.repairAgain)))

theorem Grows.parityRepair {p : Nat} (h : Grows s t) : Grows s (parityRepair t p) := by
  refine .ite h (.ite h ?_)
  split
  · exact .ite h.setRepair (.ite h h.repairStart)
  · refine .ite h (.ite h.repairAgain ?_)
    extract_lets _ _ s1
    have hs1 : Grows s s1 := .ite h.closeWindow.setSlot h.closeWindow
    exact .ite h.closeWindow.settleCell.repairEnd (.ite (.ite hs1.memWrite.repairEnd hs1.memWrite.repairFail) (.ite
        (.ite h.closeWindow.setSlot.repairEnd h.closeWindow.setSlot.setRepair) (.ite h.closeWindow.memWrite.repairEnd
        h.closeWindow.repairFail)))

theorem Grows.setCursor {n region pos : Nat} (h : Grows s t) : Grows s (setCursor t n region pos) := h.wr.wr

theorem Grows.scrubCell {n cell : Nat} {par : Bool} (h : Grows s t) : Grows s (scrubCell t n par cell) :=
  .ite h.count h.setHl.memRequest

theorem Grows.scrubCheck {x : Nat × Bool × Nat} (h : Grows s t) : Grows s (scrubCheck t x) :=
  .ite (.ite h h.suspectPar.count) (.ite h h.suspectData.count)

theorem Grows.settleScrub {n : Nat} (h : Grows s t) : Grows s (settleScrub t n) :=
  .ite h (h.setHl.foldl fun _ h => h.scrubCheck).retryParked

theorem Grows.visitAt {n region pos : Nat} (h : Grows s t) : Grows s (visitAt t n region pos) := by
  unfold Machine.visitAt
  split
  · exact h.scrubCell
  · exact h.scrubCell
  · exact h.memRequest
  · exact h.memRequest
  · split
    · exact h
    · split
      · exact h.memRequest
      · exact h

theorem Grows.foragerVisit {n : Nat} (h : Grows s t) : Grows s (foragerVisit t n) := by
  unfold Machine.foragerVisit
  split
  · exact h.count.setCursor
  · exact .ite h.setCursor h.visitAt.setCursor

theorem Grows.remapDue {st range cause : Nat} (h : Grows s t) : Grows s (remapDue t st range cause) := .ite h h.setHl

theorem Grows.plainFail {st slot : Nat} (h : Grows s t) : Grows s (plainFail t st slot) := by
  unfold Machine.plainFail
  split
  · exact h.count.unitError
  · exact h.count.unitError
  · exact h

theorem Grows.rangeFails {st a cause : Nat} (h : Grows s t) : Grows s (rangeFails t st a cause) :=
  .ite h.remapDue h.plainFail

theorem Grows.noteCorrected {st a : Nat} (h : Grows s t) : Grows s (noteCorrected t st a) :=
  .ite h.setHl.rangeFails h.setHl

theorem Grows.dropCopy {owner : Nat} (h : Grows s t) : Grows s (dropCopy t owner) := h.setHl

theorem Grows.copyBad {owner : Nat} (h : Grows s t) : Grows s (copyBad t owner) := h.setHl

theorem Grows.dropDue {st range : Nat} (h : Grows s t) : Grows s (dropDue t st range) := h.setHl

theorem Grows.remapFill {st : Nat} (h : Grows s t) : Grows s (remapFill t st) := by
  refine .ite h ?_
  split
  · exact h
  · refine .ite h ?_
    split
    · exact h.dropDue.startMigrate
    · exact h.setHl.memRequest

theorem Grows.remapCopied {c : MapCopy} (h : Grows s t) : Grows s (remapCopied t c) := by
  unfold Machine.remapCopied
  split
  · exact h.dropDue.startMigrate
  · exact h.memWrite.dropDue.setMapEntry.count

theorem Grows.remapSubmit {data : Nat} {r : Req} {wide : Bool} (h : Grows s t) : Grows s (remapSubmit t r data wide).1 := by
  unfold Machine.remapSubmit
  extract_lets _ _ _ _ _ _ _ _ _ s1
  have hs1 : Grows s s1 := .ite h.dropStaged.pgError h.dropStaged
  exact .fst_ite h.dropStaged.noteReserved.fst (.fst_ite h.dropStaged.fst (.fst_ite (.fst_ite hs1.fst hs1.refuseRights)
      (.fst_ite hs1.pgError.audit.fst (.fst_ite hs1.audit.fst hs1.setMapEntry.audit.fst))))

theorem Grows.markReloc {u' : SlotUse} (h : Grows s t) : Grows s (markReloc t u') := by
  unfold Machine.markReloc
  split
  · exact h.setLedger
  · exact h.setLedgerPX
  · exact h

theorem Grows.slotCheck {u' : SlotUse} (h : Grows s t) : Grows s (slotCheck t u').1 := by
  unfold Machine.slotCheck
  split
  · exact .fst_ite h.fst h.suspectData.fst
  · exact .fst_ite h.fst h.suspectPar.fst
  · exact h.fst

theorem Grows.migrationSlot (h : Grows s t) : Grows s (migrationSlot t) := by
  refine .ite h ?_
  split
  · exact h.endMigrate
  · refine .ite h ?_
    split
    · exact h.setHl.memRequest
    · exact h.unitError.endMigrate

theorem Grows.relocCopied {c : MapCopy} (h : Grows s t) : Grows s (relocCopied t c) := by
  unfold Machine.relocCopied
  extract_lets
  split
  · exact .ite h.slotCheck (.ite h.memWrite.setMapEntry.count.markReloc.wr.wr.wr.endMigrate
        h.memWrite.setMapEntry.count.markReloc.wr.wr.wr)
  · exact h.unitError.endMigrate

theorem Grows.settleCopy {owner : Nat} (h : Grows s t) : Grows s (settleCopy t owner) := by
  unfold Machine.settleCopy
  split
  · exact h
  · exact .ite h (Grows.ite h.dropCopy (.ite h.dropCopy.relocCopied h.dropCopy.remapCopied)).retryParked

/-! ## Links -/

theorem Grows.noteLmap {l : Nat} (h : Grows s t) : Grows s (noteLmap t l) := h.tput

theorem Grows.putLink {l : Nat} {x : LinkSt} (h : Grows s t) : Grows s (putLink t l x) := h.setLink.noteLmap

theorem Grows.pumpAll (h : Grows s t) : Grows s (pumpAll t) := h.foldl fun _ h => h.pumpStream

theorem Grows.sendNak {l : Nat} (h : Grows s t) : Grows s (sendNak t l) := h.sendControl

theorem Grows.sendInit {l : Nat} (h : Grows s t) : Grows s (sendInit t l) := h.sendControl

theorem Grows.lackIn {l lack : Nat} (h : Grows s t) : Grows s (lackIn t l lack) :=
  .ite h (h.setLink.pumpLink.foldl fun _ h => h.pumpStream)

theorem Grows.replayFrom {l n : Nat} (h : Grows s t) : Grows s (replayFrom t l n) := .ite h (h.foldl fun _ h => h.emit)

theorem Grows.nakIn {l n : Nat} (h : Grows s t) : Grows s (nakIn t l n) := .ite h.count.replayFrom h

theorem Grows.creditIn {l c : Nat} (h : Grows s t) : Grows s (creditIn t l c) := .ite h h.setLink.pumpLink

theorem Grows.dropHeld {l : Nat} (h : Grows s t) : Grows s (dropHeld t l) := h.setLp

theorem Grows.initIn {l ver fid part : Nat} {switch : Bool} (h : Grows s t) : Grows s (initIn t l ver fid part switch) :=
  .ite h (.ite h.putLink h.dropHeld.putLink.sendCredits.pumpAll)

theorem Grows.controlIn {l : Nat} {b : Bytes} (h : Grows s t) : Grows s (controlIn t l b) := by
  unfold Machine.controlIn
  split
  · exact h.nakIn
  · exact h.creditIn
  · exact h.initIn
  · exact h.count

theorem Grows.admitIn {f : Flit} (h : Grows s t) : Grows s (admitIn t f) := by
  unfold Machine.admitIn
  split
  · exact h.count
  · split
    · exact .ite h.count.requestArrival h.count
    · exact .ite h.gather h.streamIn

theorem Grows.discardFlit {l : Nat} (h : Grows s t) : Grows s (discardFlit t l) := .ite h h.setLink.sendNak

theorem Grows.takeFlit {l : Nat} {f : Flit} (h : Grows s t) : Grows s (takeFlit t l f) := by
  unfold Machine.takeFlit
  extract_lets _ _ _ s1
  have hs1 : Grows s s1 := .ite h.setLink.setLp h.setLink.freeCredit
  exact (Grows.ite hs1.count hs1.admitIn).returnHive

theorem Grows.flitIn {l fec : Nat} {b : Bytes} (h : Grows s t) : Grows s (flitIn t l b fec) := by
  unfold Machine.flitIn
  extract_lets _ _ _ s1 _ _ _ s2
  have hs1 : Grows s s1 := .ite h.wakeLight.count (.ite h.wakeLight.count h.wakeLight)
  have hs2 : Grows s s2 := .ite hs1.lackIn hs1
  exact .ite h (.ite (.ite hs1.discardFlit hs1) (.ite hs2 (.ite hs2.controlIn (.ite hs2 (.ite hs2.count.takeFlit (.ite
      hs2.count hs2.count.discardFlit))))))

theorem Grows.resendStream {t' : TxStream} {unsent : List Flit} {p : Nat → Bool} (h : Grows s t) :
    Grows s (resendStream t t' unsent p) := by
  refine .foldl (.setTx (.fst_foldl h.fst fun _ h => ?_)) fun _ h => h.pumpLink
  refine .fst_ite ?_ h.fst
  split
  · exact (Grows.ite h.enqueueFlit h.enqueueFlit.count).fst
  · exact h.fst

theorem Grows.linkDown {l : Nat} (h : Grows s t) : Grows s (linkDown t l) := by
  refine .ite h (.foldl (.pumpAll (.foldl (h.dropHeld.putLink.foldl fun _ h => h.resendStream) fun _ h => ?_)) fun _
      h => ?_)
  · split
    · exact h
    · split
      · exact h.enqueueFlit.pumpLink
      · exact h
  · extract_lets
    split
    · exact h.count.faultReport
    · exact h.count

theorem Grows.moveLane {l p : Nat} (h : Grows s t) : Grows s (moveLane t l p) := h.setLp.putLink

theorem Grows.swapLane {l : Nat} (h : Grows s t) : Grows s (swapLane t l).1 := by
  unfold Machine.swapLane
  split
  · exact h.moveLane.count.fst
  · exact h.linkDown.fst

theorem Grows.opticalFail {p : Nat} (h : Grows s t) : Grows s (opticalFail t p) := by
  refine .ite h ?_
  extract_lets
  split
  · exact h.setLp
  · exact h.setLp.swapLane.spareRec

theorem Grows.moduleSwap {k : Nat} (h : Grows s t) : Grows s (moduleSwap t k) := by
  unfold Machine.moduleSwap
  extract_lets _ _ _ s1 s2
  have hs1 : Grows s s1 := by
    refine .foldl h fun _ h => ?_
    split
    · exact h.moveLane
    · exact h.linkDown
  have hs2 : Grows s s2 := .ite hs1 hs1.count
  exact .ite (.ite h.wr h) (Grows.ite hs2.wr hs2).spareRec

theorem Grows.startSwaps {n : Nat} (h : Grows s t) : Grows s (startSwaps n t) := by
  induction n generalizing t with
  | zero => exact h
  | succ n ih =>
    rw [Machine.startSwaps]
    split
    · exact .ite h (ih h.setLp.moduleSwap)
    · exact h

theorem Grows.nextSwap (h : Grows s t) : Grows s (nextSwap t) := h.startSwaps

theorem Grows.moduleFail {k : Nat} (h : Grows s t) : Grows s (moduleFail t k) :=
  .ite (h.setLp.wr.foldl fun _ h => h.putLink).setLp h.setLp.wr.moduleSwap

theorem Grows.linkUpEffect {k : Nat} (h : Grows s t) : Grows s (linkUpEffect t k) :=
  .ite h.moduleFail (h.foldl fun _ h => .ite h.dropHeld.putLink.sendInit h)

theorem Grows.retrainDone {l : Nat} (h : Grows s t) : Grows s (retrainDone t l) := by
  refine .ite h (.nextSwap ?_)
  split
  · exact h.putLink.pumpAll
  · exact h.putLink.count.replayFrom.pumpLink.pumpAll

theorem Grows.retryTimeout {l : Nat} (h : Grows s t) : Grows s (retryTimeout t l) := by
  refine .ite h ?_
  extract_lets
  split
  · exact h.setLink
  · exact .ite h.setLink.opticalFail h.setLink.setLink.count.replayFrom

theorem Grows.streamTimeout {p vc : Nat} (h : Grows s t) : Grows s (streamTimeout t p vc) := h.resendStream

theorem Grows.monPoll {k : Nat} (h : Grows s t) : Grows s (monPoll t k) := (h.foldl fun _ h => h.emit).setLp

theorem Grows.monResponse {k off v : Nat} (h : Grows s t) : Grows s (monResponse t k off v) := .ite h h.setLp.wr

theorem Grows.monTimeout {k : Nat} (h : Grows s t) : Grows s (monTimeout t k) := .ite h h.setLp.wr

end Sys2Proof.Machine
end

section
/-! PROOFS. What every command keeps (R511): the updates of the sequencer, the ports and time. -/

namespace Sys2Proof.Machine

variable {s t : State}

/-! ## The sequencer -/

theorem Grows.endStep {t' : Nat} {x : Thread} (h : Grows s t) : Grows s (endStep t t' x) :=
  .ite h.setThread.noteInfo.cancelRun h.setThread.finish

theorem Grows.writeLanded {t' : Nat} {w : Nat × Nat} (h : Grows s t) : Grows s (writeLanded t t' w) :=
  .ite h h.setThread

theorem Grows.giveSigs {t' : Nat} (h : Grows s t) : Grows s (giveSigs t t') :=
  (h.foldl fun _ h => h.tallyAdd).setThread

theorem Grows.replayEnd {t' : Nat} (h : Grows s t) : Grows s (replayEnd t t') := h.frame.intakeDiscard.setThread

theorem Grows.replayFail {t' code : Nat} (h : Grows s t) : Grows s (replayFail t t' code) := h.replayEnd.finish

theorem Grows.replayDone {t' : Nat} {r : Replay} (h : Grows s t) : Grows s (replayDone t t' r) :=
  h.writeHist.replayEnd.finish

theorem Grows.replayKeep {root : Option (Nat × List Nat)} (h : Grows s t) : Grows s (replayKeep t root) := h.frame

theorem Grows.replayNext {t' n : Nat} (h : Grows s t) : Grows s (replayNext t' n t) := by
  induction n generalizing t with
  | zero => exact h
  | succ n ih =>
    rw [Machine.replayNext]
    split
    · exact h
    · split
      · refine .ite h.rootFree.replayFail (.ite h.rootOffOut.rootFree.replayFail ?_)
        extract_lets
        split
        · exact h.rootGo.replayKeep
        · exact h.rootGo.replayFail
        · exact .ite (ih h.rootGo.wr.replayKeep) h.rootGo.replayKeep
      · exact h.replayDone
      · exact .ite (.ite h.frame.replayFail h.frame.setThread.dropGot.keepRunning.hostFetch) (.ite
            h.frame.rootRefuse.replayFail (ih h.frame.wakeDomain.rootForm.setThread.replayKeep))

theorem Grows.settleReplay (h : Grows s t) : Grows s (settleReplay t) := by
  unfold Machine.settleReplay
  split
  · exact .ite h.replayNext h
  · exact h

theorem Grows.replayLost {owner : Nat} (h : Grows s t) : ∀ u ∈ replayLost t owner, Grows s u := by
  intro u hu
  unfold Machine.replayLost at hu
  split at hu
  · exact Option.some.inj hu ▸ h.failThread
  · cases hu

theorem Grows.outList {n t' : Nat} (h : Grows s t) : Grows s (outList n t t') := .ite h.failThread h

theorem Grows.outThread {t' : Nat} (h : Grows s t) : Grows s (outThread t t') :=
  .ite h (h.failThread.foldl fun _ h => .ite h.setMrp h)

theorem Grows.settleThread {t' : Nat} (h : Grows s t) : Grows s (settleThread t t') := by
  unfold Machine.settleThread
  extract_lets _ s1
  have hs1 : Grows s s1 := .ite h.outThread.giveSigs h.outThread
  refine .ite hs1 (.ite hs1 (.ite (.ite hs1.replayFail ?_) hs1.endStep.drainChecks))
  split
  · exact hs1.setThread
  · exact hs1.replayNext

theorem Grows.stepRunEffect {q : Nat} (h : Grows s t) : Grows s (stepRunEffect t q) := by
  unfold Machine.stepRunEffect
  split
  · exact h
  · exact .ite h h.keepRunning.hostFetch

theorem Grows.bindThread {t' n : Nat} {b : Bytes} (h : Grows s t) : Grows s (bindThread t t' n b) :=
  .ite h (.ite h.keepRunning.setThread h.failThread.settleThread)

theorem Grows.stepRunData {q : Nat} {r : Run} (h : Grows s t) : Grows s (stepRunData t q r) := by
  unfold Machine.stepRunData
  extract_lets
  split
  · exact h.dropGot
  · exact h.dropGot.bindThread

theorem Grows.replayEffect {q : Nat} (h : Grows s t) : Grows s (replayEffect t q) := by
  unfold Machine.replayEffect
  split
  · exact h
  · refine .ite h ?_
    split
    · exact h
    · exact .ite h.setThread.finish h.keepRunning.hostFetch

theorem Grows.replayData {q : Nat} {r : Run} (h : Grows s t) : Grows s (replayData t q r) := by
  unfold Machine.replayData
  extract_lets
  split
  · exact h.dropGot
  · exact .ite (.ite h.dropGot.replayFail h.dropGot.frame.intakeDiscard.replayNext) h.dropGot.bindThread

theorem Grows.rowSignal {t' row : Nat} (h : Grows s t) : Grows s (rowSignal t t' row) := .ite h h.setThread.giveSigs

theorem Grows.goRow {t' n : Nat} (h : Grows s t) : Grows s (goRow t t' n) := h.setThread

theorem Grows.rowDone {t' : Nat} (h : Grows s t) : Grows s (rowDone t t') := by
  unfold Machine.rowDone
  extract_lets _ _ s1
  have hs1 : Grows s s1 := .ite h.finishReduce h
  exact .ite hs1.closeThread.rowSignal.goRow.setThread.settleThread hs1.closeThread.rowSignal.goRow

theorem Grows.visit {t' : Nat} (h : Grows s t) : Grows s (visit t t') := h.setThread.count

theorem Grows.repeatRow {t' row : Nat} (h : Grows s t) : Grows s (repeatRow t t' row) := by
  unfold Machine.repeatRow
  extract_lets
  split
  · exact .ite h.failThread.settleThread (.ite h h.visit.setThread.goRow)
  · exact .ite h.visit.setThread.goRow (.ite h.visit.setThread.rowSignal.setThread.settleThread
        h.visit.setThread.rowSignal.goRow)

theorem Grows.rowRefuse {t' : Nat} (h : Grows s t) : Grows s (rowRefuse t t') :=
  (Grows.ite h h.wr).failThread.settleThread

theorem Grows.rowEnterEffect {t' : Nat} (h : Grows s t) : Grows s (rowEnterEffect t t') := by
  unfold Machine.rowEnterEffect
  extract_lets _ _ _ s1
  have hs1 : Grows s s1.1 := .fst_ite h.intakeStart h.fst
  refine .ite h (.ite h.failThread.settleThread (.ite h.repeatRow (.ite h.failThread.settleThread (.ite h (.ite h
      ?_)))))
  split
  · exact hs1
  · exact hs1.failThread.settleThread
  · split
    · exact hs1.visit.setThread.rowDone
    · exact .ite (Grows.ite hs1.visit.setThread.noteFormed hs1.visit.setThread).setThread hs1.visit.setThread.rowRefuse
    · exact .ite (Grows.ite hs1.visit.setThread.noteFormed hs1.visit.setThread).setThread hs1.visit.setThread.rowRefuse
    · exact hs1.visit.setThread.setThread

theorem Grows.iterEnd {t' : Nat} {t : State × IterEnd} (h : Grows s t.1) : Grows s (iterEnd t t') := by
  unfold Machine.iterEnd
  split
  · exact h
  · exact h.failThread.settleThread
  · exact .ite h.setThread h.setThread.rowDone

theorem Grows.runIter {t' u' op : Nat} (h : Grows s t) : Grows s (runIter t t' u' op) := by
  refine .ite h ?_
  split
  · exact h.iterate.iterEnd
  · exact h.rootRow.iterEnd
  · exact h.accDense.iterEnd
  · exact h.accList.iterEnd
  · exact h.drainRowOp.iterEnd
  · exact h.commitOp.iterEnd
  · exact h

theorem Grows.withFault {f : Option (Fin 4 × Fin 129)} (h : Grows s t) : Grows s (withFault t f) := by
  unfold Machine.withFault
  split
  · exact h.columnFail
  · exact h

/-! ## Memory, tier and host ports -/

theorem Grows.settleKx (h : Grows s t) : Grows s (settleKx t) := .ite h.frame.wr h

theorem Grows.settleFlushes (h : Grows s t) : Grows s (settleFlushes t) := by
  refine .foldl h fun _ h => ?_
  split
  · exact .ite h.settleFlush h
  · exact h

theorem Grows.settleRoots (h : Grows s t) : Grows s (settleRoots t) := by
  refine .foldl h.settleReplay fun _ h => ?_
  split
  · exact .ite h.rootEffect h
  · exact h

theorem Grows.settleOwner {owner : Nat} (h : Grows s t) : Grows s (settleOwner t owner) :=
  (Grows.ite h.settleThread (.ite h.homeSettle (.ite h.settleRoots (.ite h.sealArrived.sealSettle (.ite h.serveSettle
    (.ite h.loadSettle (.ite h.cellReadsBack (.ite h.settleFirsts (.ite h.settleCopy (.ite h.settleScrub (.ite
    h.settleMove (.ite (h.settleFill.settleCache.settleBack.settleDrop.settleFlushes.settleKx.foldl fun _ h =>
    h.settleStream) (.ite h.windowSettle (.ite h.drainAcks h)))))))))))))).resumeUnits.settleRx.drainChecks.rbAdvance

theorem Grows.memAnswered {n tag : Nat} {write : Bool} (h : Grows s t) : ∀ r ∈ memAnswered t n tag write, Grows s r.2 := by
  intro r hr
  unfold Machine.memAnswered at hr
  extract_lets at hr
  split at hr
  · cases hr
  · exact Option.some.inj hr ▸ h.setMrp.snd

theorem Grows.granuleLost {owner st a : Nat} (h : Grows s t) : Grows s (granuleLost t owner st a) := by
  unfold Machine.granuleLost
  extract_lets _ s1
  have hs1 : Grows s s1 := .ite h.copyBad.rangeFails.windowLost (.ite h.copyBad.rangeFails.homeLost
      h.copyBad.rangeFails)
  split
  next d _ =>
    cases hr : Machine.replayLost s1 owner with
    | none => exact .ite hs1.suspectData hs1
    | some u => exact hs1.replayLost u hr
  · exact hs1.suspectPar
  · exact hs1.ledgerLost
  · exact hs1.lostCell
  · exact .ite hs1.failThread hs1.dropImage
  · exact .ite hs1.memWrite hs1
  · exact hs1

theorem Grows.writeBackGran {n gran src : Nat} (h : Grows s t) : Grows s (writeBackGran t n gran src) :=
  .ite h h.setMrp.countN

theorem Grows.granuleData {n g : Nat} {r : MemReq} {b : Bytes} (h : Grows s t) : Grows s (granuleData t n r g b) :=
  .ite h (h.withHbm fun hs => mwrite_wf (h.inv hs).canonical.hbm _ _)

theorem Grows.granuleIn {n stat g : Nat} {r : MemReq} {data : Bytes} (h : Grows s t) : Grows s (granuleIn n r stat data t g) := by
  unfold Machine.granuleIn
  extract_lets
  split
  · exact h.granuleData
  · exact h.granuleData.count.noteCorrected.writeBackGran
  · exact (Grows.ite h.count.count h.count).granuleLost

theorem Grows.memReadData {n tag stat : Nat} {data : Bytes} (h : Grows s t) : Grows s (memReadData t n tag stat data) := by
  unfold Machine.memReadData
  split
  · exact h
  next hr => exact ((h.memAnswered _ hr).foldl fun _ h => h.granuleIn).pumpMrp.settleOwner

theorem Grows.memWriteDone {n tag : Nat} (h : Grows s t) : Grows s (memWriteDone t n tag) := by
  unfold Machine.memWriteDone
  split
  · exact h
  next hr => exact (h.memAnswered _ hr).setMrp.writeLanded.pumpMrp.settleOwner.retryWindows.returnHeld

theorem Grows.memReady {n cap cycles : Nat} {up : Bool} {hbm4 : Bool} (h : Grows s t) :
    Grows s (memReady t n up hbm4 cap cycles) :=
  .ite h.wr.wr.wr.countN.pumpMrp h.wr.wr

theorem Grows.memTimeout {n : Nat} (h : Grows s t) : Grows s (memTimeout t n) :=
  .ite h ((((h.foldl fun _ h => h.outList).wr.wr.foldl fun _ h => h.outThread).setMrp.foldl fun _ h => h.foldl fun _
    h => h.granuleIn).setHl.unitError.foldl fun _ h => h.settleOwner)

theorem Keeps.clearSlice {n : Nat} (h : Keeps s t) : Keeps s (clearSlice t n) := by
  unfold Machine.clearSlice
  extract_lets _ s1
  have hs1 : Keeps s s1 := .frame (.withCnt h fun e => !(e.1 / 2 ^ 12 == 0x20 + n))
  exact Grows.refl.setIntk.wr.after hs1

theorem Keeps.sliceResetDone {n : Nat} (h : Keeps s t) : Keeps s (sliceResetDone t n) :=
  .ite h (.ite (Grows.refl.count.setDisabled.sendDeclareSelf.after h.clearSlice)
    (Grows.refl.count.wr.pumpMrp.capResume.rbAdvance.after h.clearSlice))

theorem Grows.fenceTier {p tag : Nat} (h : Grows s t) : Grows s (fenceTier t p tag) := h.frame.settleFences

theorem Grows.tierReadLost {p : Nat} {r : TierReq} (h : Grows s t) : Grows s (tierReadLost t p r) :=
  .ite h.serveFailed (.ite h.loadFailed (Grows.ite h.windowLost h).tierLost)

theorem Grows.tierRead {p tag stat load : Nat} (h : Grows s t) : Grows s (tierRead t p tag stat load) := by
  unfold Machine.tierRead
  split
  · exact h
  next hr =>
    extract_lets s1
    have hs1 : Grows s s1 := (h.tierAnswered _ hr).noteLoad
    exact .settleOwner (.ite hs1 hs1.count.tierReadLost)

theorem Grows.tierWriteLost {p : Nat} {r : TierReq} (h : Grows s t) : Grows s (tierWriteLost t p r) :=
  .ite h.sealWriteFailed h.tierWriteFailed

theorem Grows.tierWritten {p tag stat load : Nat} (h : Grows s t) : Grows s (tierWritten t p tag stat load) := by
  unfold Machine.tierWritten
  split
  · exact h
  next hr =>
    extract_lets s1
    have hs1 : Grows s s1 := (h.tierAnswered _ hr).noteLoad
    exact .settleOwner (.writeLanded (.fenceTier (.ite hs1 hs1.tierWriteLost)))

theorem Grows.tierTimeout {p tag : Nat} {write : Bool} (h : Grows s t) : Grows s (tierTimeout t p tag write) := by
  unfold Machine.tierTimeout
  split
  · exact h
  next hr =>
    have hr := h.tierAnswered _ hr
    exact .ite hr.count.tierWriteLost.fenceTier.writeLanded.settleOwner hr.count.tierReadLost.settleOwner

theorem Grows.readFail {q : Nat} {r : Run} (h : Grows s t) : Grows s (readFail t q r) := by
  dsimp only [Machine.readFail]
  split
  · split
    · exact h.dropGot.failThread.settleThread
    · exact h.dropGot.finish
  · exact h.dropGot.loadFail
  · exact h.dropGot.loadFail
  · split
    · exact h.dropGot.replayFail
    · exact h.dropGot.finish
  · exact h.dropGot.finish

theorem Grows.readsDone {q : Nat} {r : Run} (h : Grows s t) : Grows s (readsDone t q r) := by
  unfold Machine.readsDone
  split
  · exact h.stepRunData
  · exact h.loadData
  · exact h.loadData
  · exact h.replayData
  · exact h.joinData
  · exact h

theorem Grows.initiatorRead {tag stat : Nat} {data : Bytes} (h : Grows s t) : Grows s (initiatorRead t tag stat data) := by
  unfold Machine.initiatorRead
  split
  · exact h
  next hr =>
    have hr := (h.readData _ hr).pumpHost
    extract_lets
    split
    · exact hr.dropGot
    · exact .ite hr.dropGot (.ite hr.setHost.readFail (.ite hr.readsDone hr))

theorem Grows.portCredit {ch n : Nat} (h : Grows s t) : Grows s (portCredit t ch n) := by
  unfold Machine.portCredit
  split
  · exact h.setHost.pumpHost
  · exact h.setHost.pumpHost
  · exact h.setMrp.pumpMrp
  · exact h.setMrp.pumpMrp
  · exact h.setMrp.pumpMrp
  · exact h.setTier.pumpTier
  · exact h.setTier.pumpTier
  · exact h

/-! ## Time and snapshots -/

/-- A snapshot: the shadows take the counters' values. -/
theorem Grows.takeShadow (h : Grows s t) : Grows s { t with shadow := t.cnt } where
  pending := h.pending
  inv hs := have ht := h.inv hs; { ht with canonical := { ht.canonical with shadow := ht.canonical.cnt }, shadows := ht.counters }
  counters := h.counters

theorem Grows.strobe {t' causes : Nat} (h : Grows s t) : Grows s (strobe t t' causes) := by
  unfold Machine.strobe
  extract_lets _ s1 s2
  have hs1 : Grows s s1 := h.takeShadow.wr.wr.wr
  have hs2 : Grows s s2 := .ite hs1.wr hs1
  exact hs2.setChip.foldl fun _ h => h.finish

theorem Grows.takeTimed {t' : Nat} (h : Grows s t) : Grows s (takeTimed t t') := by
  unfold Machine.takeTimed
  extract_lets _ s1
  have hs1 : Grows s s1 := .ite h.wr.setChip h
  split
  · exact .ite hs1.setChip hs1
  · exact hs1

theorem Grows.edgeStrobe {t' : Nat} (h : Grows s t) : Grows s (edgeStrobe t t') :=
  .ite h.takeTimed.countN.setChip (.ite h.takeTimed h.takeTimed.strobe)

theorem Grows.lockEdge (h : Grows s t) : Grows s (lockEdge t) := .ite h (Grows.ite h.wr h).frame

theorem Grows.aonEdge (h : Grows s t) : Grows s (aonEdge t) :=
  .ite (Grows.ite h.setChip.wr.edgeStrobe.lockEdge.wr h.setChip.wr.edgeStrobe.lockEdge).wr.setChip
    h.setChip.wr.edgeStrobe.lockEdge

theorem Grows.idleEdge (h : Grows s t) : Grows s (idleEdge t) := h.begin.aonEdge

theorem Grows.withEdge {edge : Bool} (h : Grows s t) : Grows s (withEdge edge t) := .ite h.aonEdge h

theorem Grows.addCause {c : Nat} (h : Grows s t) : Grows s (addCause t c) := h.setChip

theorem Grows.strobeWrite (h : Grows s t) : Grows s (strobeWrite t) := .ite h h.wr.addCause

theorem Grows.snapNow {q : Nat} (h : Grows s t) : Grows s (snapNow t q) := by
  unfold Machine.snapNow
  split
  · exact h
  · exact .ite h h.keepRunning.addCause.setChip

theorem Grows.snapAt {q : Nat} (h : Grows s t) : Grows s (snapAt t q) := by
  unfold Machine.snapAt
  split
  · exact h
  · exact .ite h h.keepRunning.setChip

theorem Grows.offsetWrite {v : Nat} (h : Grows s t) : Grows s (offsetWrite t v) := h.setChip.wr

theorem Grows.noteArm (h : Grows s t) : Grows s (noteArm t) := h.setChip

theorem Grows.setPin {k i : Nat} {b : Bool} (h : Grows s t) : Grows s (setPin t k i b) := h.wr

theorem Grows.notePin {i : Nat} (h : Grows s t) : Grows s (notePin t i) :=
  .ite h.setPin (.ite h.setPin.wr.wr h.setPin.wr)

theorem Grows.pinRec {i : Nat} (h : Grows s t) : Grows s (pinRec t i) := h.unitError

theorem Grows.pinEvent {i : Nat} {level : Bool} (h : Grows s t) : Grows s (pinEvent t i level) :=
  .ite h.setChip.count.addCause h.setChip.count

theorem Grows.pinChange {i : Nat} {level : Bool} (h : Grows s t) : Grows s (pinChange t i level) :=
  .ite h (.ite h.setPin.notePin (.ite h.setPin.setChip.notePin (.ite (Grows.ite h.setPin.setPin.count
    h.setPin.setPin.count.pinRec).notePin h.setPin.pinEvent.notePin)))

theorem Grows.overrateClear {i : Nat} (h : Grows s t) : Grows s (overrateClear t i) :=
  .ite h (Grows.ite h.setPin.pinEvent h.setPin).notePin

theorem Grows.pinStuck {i : Nat} (h : Grows s t) : Grows s (pinStuck t i) := .ite h h.setPin.pinRec.notePin

theorem Grows.stuckClear {i : Nat} (h : Grows s t) : Grows s (stuckClear t i) := .ite h h.setPin.notePin

end Sys2Proof.Machine
end

section
/-! PROOFS. What every command keeps (R511): the updates of roles, health and power. -/

namespace Sys2Proof.Machine

variable {s t : State}

/-! ## Roles and sessions -/

theorem Grows.setSes {x : Session} (h : Grows s t) : Grows s (setSes t x) := h.frame

theorem Grows.setTap {ir tdo : Nat} (h : Grows s t) : Grows s (setTap t ir tdo) := h.frame

theorem Grows.tapClosed (h : Grows s t) : Grows s (tapClosed t) := .ite h h.setTap

theorem Grows.closeSession {src cause : Nat} (h : Grows s t) : Grows s (closeSession t src cause) :=
  .ite h h.audit.wr.wr.wr.tapClosed

theorem Grows.lapse (h : Grows s t) : Grows s (lapse t) := .ite h.wr.wr h

theorem Grows.roleFail {src role stat : Nat} (h : Grows s t) : Grows s (roleFail t src role stat) := h.audit

theorem Grows.roleReq {src old new : Nat} (h : Grows s t) : Grows s (roleReq t src old new).1 :=
  .fst_ite h.lapse.roleFail.fst (.fst_ite h.lapse.roleFail.fst (.fst_ite h.fresh.wr.roleFail.fst (h.fresh.wr.wr.foldl
    fun _ h => h.wr).wr.wr.setSes.audit.fst))

theorem Grows.startLockout {src : Nat} (h : Grows s t) : Grows s (startLockout t src) := h.wr.wr.setSes.audit

theorem Grows.judgeResponse {src : Nat} {resp : Bytes} (h : Grows s t) : Grows s (judgeResponse t src resp) :=
  .ite h.audit.wr.wr.wr.setSes.count (.ite h.count.lapse.roleFail.setSes.startLockout h.count.lapse.roleFail.setSes)

theorem Grows.stageWide {src addr v : Nat} (h : Grows s t) : Grows s (stageWide t src addr v) := h.frame

theorem Grows.dropWide {src addr : Nat} (h : Grows s t) : Grows s (dropWide t src addr) := h.frame

theorem Grows.roleResponse {src w7 : Nat} (h : Grows s t) : Grows s (roleResponse t src w7).1 :=
  .fst_ite h.dropWide.judgeResponse.fst h.dropWide.count.roleFail.fst

theorem Grows.roleClose {src : Nat} (h : Grows s t) : Grows s (roleClose t src) := .ite h.closeSession h

theorem Grows.roleCtrl {src v : Nat} (h : Grows s t) : Grows s (roleCtrl t src v).1 := by
  unfold Machine.roleCtrl
  extract_lets _ _ s1
  have hs1 : Grows s s1 := .ite h.wr.roleClose h.wr
  exact .fst_ite hs1.roleReq hs1.fst

theorem Grows.lockoutEnd (h : Grows s t) : Grows s (lockoutEnd t) := h.wr.wr.setSes

theorem Grows.failLoading (h : Grows s t) : Grows s (failLoading t) := by
  refine .foldl h fun _ h => ?_
  split
  · exact .ite h.loadFail h
  · exact h

theorem Grows.keyChanged {slot : Nat} (h : Grows s t) : Grows s (keyChanged t slot) :=
  h.foldl fun _ h => .ite h.failLoading (.ite h.setBank h)

theorem Grows.keyCommit {src slot w7 : Nat} (h : Grows s t) : Grows s (keyCommit t src slot w7).1 :=
  .fst_ite (.fst_ite h.dropWide.fst h.dropWide.refuseRights) (.fst_ite h.dropWide.pgError.audit.fst
    h.dropWide.wr.audit.keyChanged.fst)

theorem Grows.tapInstruction {code : Nat} (h : Grows s t) : Grows s (tapInstruction t code) :=
  .ite h.setTap (.ite h.setTap h.fresh.setTap.audit)

/-! ## Health -/

theorem Grows.latchTrims (h : Grows s t) : Grows s (latchTrims t) := h.setHl

theorem Grows.fuseSensors (h : Grows s t) : Grows s (fuseSensors t) :=
  ((h.foldl fun _ h => h.tput).foldl fun _ h => h.tput).latchTrims

theorem Grows.subframe (h : Grows s t) : Grows s (subframe t) := by
  refine .ite h.setHl ?_
  extract_lets
  split
  · exact h.count.latchTrims.setHl
  · exact h.count.latchTrims.setHl

theorem Grows.supplyConv {c raw : Nat} (h : Grows s t) : Grows s (supplyConv t c raw) := h.tput

theorem Grows.thermalConv {p raw : Nat} (h : Grows s t) : Grows s (thermalConv t p raw) := h.setHl.tput

theorem Grows.conversion {k raw : Nat} {open_ : Bool} (h : Grows s t) : Grows s (conversion t k raw open_) :=
  .ite h.supplyConv (.ite h.setHl (.ite h.setHl (.ite h.wr h.wr.thermalConv)))

theorem Grows.noteAge {a n : Nat} (h : Grows s t) : Grows s (noteAge t a n) := h.tput

theorem Grows.noteDeviation {dev : Nat} (h : Grows s t) : Grows s (noteDeviation t dev) := .ite h.wr h.wr.wr.unitError

theorem Grows.calibrate {counts dev : Nat} (h : Grows s t) : Grows s (calibrate t counts dev) :=
  ((Grows.ite h.setHl.wr.count h.setHl.wr).foldl fun _ h => h.noteAge).noteDeviation

theorem Grows.droopTrip {c : Nat} (h : Grows s t) : Grows s (droopTrip t c) := h.count.setHl

theorem Grows.newBucket (h : Grows s t) : Grows s (newBucket t) := h.setHl

theorem Grows.applyActs (h : Grows s t) : Grows s (applyActs t) := by
  unfold Machine.applyActs
  extract_lets _ _ _ _ s1
  have hs1 : Grows s s1 := .ite h.setHl.startMigrate h.setHl
  exact .ite hs1.wr.count hs1

theorem Grows.levelRec (h : Grows s t) : Grows s (levelRec t) := h.postRec

theorem Grows.setLevel {l : Nat} (h : Grows s t) : Grows s (setLevel t l) := h.wr.count.applyActs.levelRec

theorem Grows.healthUpdate (h : Grows s t) : Grows s (healthUpdate t) := by
  unfold Machine.healthUpdate
  extract_lets _ _ _ _ s1 _ _ _ s2 s3
  have hs1 : Grows s s1 := h.newBucket.foldl fun _ h => h.tput
  have hs2 : Grows s s2 := .ite hs1.wr.wr.count hs1.wr.wr
  have hs3 : Grows s s3 := .ite hs2.count hs2
  exact .ite hs3.applyActs hs3.setLevel

theorem Grows.dwellExpiry (h : Grows s t) : Grows s (dwellExpiry t) := .ite h h.setLevel

/-! ## Power, resets and bring-up -/

theorem Grows.raiseFault {cause : Nat} (h : Grows s t) : Grows s (raiseFault t cause) := .ite h.setChip.wr h.setChip

theorem Grows.startPlls (h : Grows s t) : Grows s (startPlls t) := h.foldl fun _ h => .ite h.setPll h

theorem Grows.pllLock {k : Nat} (h : Grows s t) : Grows s (pllLock t k) := .ite h (.ite h.setPll.wr h.setPll)

theorem Grows.pllLoss {k : Nat} (h : Grows s t) : Grows s (pllLoss t k) := by
  unfold Machine.pllLoss
  extract_lets _ s1
  have hs1 : Grows s s1 := .ite h.setPll.countN.count (.ite (.ite h.setPll h.setPll.count) h)
  exact .ite hs1.raiseFault hs1

theorem Grows.pllRetry {k : Nat} (h : Grows s t) : Grows s (pllRetry t k) := .ite h.count h

theorem Grows.pllStop {k : Nat} (h : Grows s t) : Grows s (pllStop t k) := .ite h.setPll h

theorem Grows.moveReference (h : Grows s t) : Grows s (moveReference t) :=
  h.foldl fun _ h => .ite h.countN.setPll.count h.countN

theorem Grows.aonLoss (h : Grows s t) : Grows s (aonLoss t) := .ite h h.wr.wr.moveReference

theorem Grows.aonRestore (h : Grows s t) : Grows s (aonRestore t) := .ite h.wr.moveReference h

theorem Grows.rampStep {d : Nat} (h : Grows s t) : Grows s (rampStep t d) := .ite h (.ite h.setDomain h.setDomain)

theorem Grows.grantHost (h : Grows s t) : Grows s (grantHost t) := .ite h.setHost.emit h

theorem Grows.releaseIsolation {d : Nat} (h : Grows s t) : Grows s (releaseIsolation t d) :=
  .ite (.ite h.setDomain.wakeSpares.grantHost h.setDomain.wakeSpares) h

theorem Grows.gateDomain {d : Nat} (h : Grows s t) : Grows s (gateDomain t d) := .ite h.setDomain h

theorem Grows.rampDown {d : Nat} (h : Grows s t) : Grows s (rampDown t d) := .ite h (.ite h.setDomain h.setDomain)

theorem Grows.fillExpiry {cycles : Nat} (h : Grows s t) : Grows s (fillExpiry t cycles) :=
  (Grows.ite h h.countN).gateDomain

theorem Grows.limiterUpdate (h : Grows s t) : Grows s (limiterUpdate t) := by
  unfold Machine.limiterUpdate
  extract_lets _ s1 _ _ _ _ _ _ _ _ s3
  have hs1 : Grows s s1 := h.fresh
  have hs3 : Grows s s3 := .ite hs1.wr.wr.setChip.count hs1.wr.wr.setChip
  exact .ite hs3.wr (.ite hs3.wr.unitError.setChip hs3.wr)

theorem Grows.abandonSpine (h : Grows s t) : Grows s (abandonSpine t) := by
  unfold Machine.abandonSpine
  split
  · exact h.nvmWrite
  · exact h

theorem Keeps.resetFast (h : Keeps s t) : Keeps s (resetFast t) := by
  unfold Machine.resetFast
  extract_lets s1 z _ _ _ _ _ _ s2 s3 _ _ s4
  have hs1 : Keeps s s1 := Grows.refl.abandonSpine.after h
  have hz : z.Inv := reset_inv
  clear_value z s1
  have hs2 : Keeps s s2 := {
    pending := hs1.pending
    inv hs :=
      have hi := hs1.inv hs
      { canonical := ⟨mergeMaps_wf hi.canonical.regs, NMap.filter_wf hi.canonical.cnt _, NMap.filter_wf hi.canonical.shadow _,
          mergeMaps_wf hi.canonical.tab, hz.canonical.tallyVal, hz.canonical.tallyCode, hi.canonical.hbm, hi.canonical.board,
          hi.canonical.nvm⟩
        counters := fun k => (get_filter_le hi.canonical.cnt _ k).trans (hi.counters k)
        shadows := fun k => (get_filter_le hi.canonical.shadow _ k).trans (hi.shadows k) } }
  have hs3 : Keeps s s3 := Grows.refl.wr.wr.after hs2
  have hs4 : Keeps s s4 := hs3.frame
  exact (Grows.refl.wr.foldl fun _ h => h.noteLmap).nextSwap.after hs4

theorem Grows.powerUp (h : Grows s t) : Grows s (powerUp t) := h.startPlls.wakeDomain

theorem Keeps.blockReset (h : Keeps s t) : Keeps s (blockReset t) :=
  Grows.refl.frame.wr.wr.wr.setChip.count.powerUp.after
    (Grows.refl.sendDeclareSelf.closeSession.hiveLost.after h).resetFast

theorem Keeps.blkRst (h : Keeps s t) : Keeps s (blkRst t) :=
  have hw : Keeps s _ := Grows.refl.wr.after h
  .ite h (.ite hw.blockReset (Grows.refl.setChip.after hw))

theorem Keeps.powerFall (h : Keeps s t) : Keeps s (powerFall t) :=
  have hc : Keeps s _ := Grows.refl.setChip.after h
  .ite hc (Grows.refl.wr.setChip.raiseFault.after (Grows.refl.closeSession.after hc).resetFast)

theorem Keeps.powerRise (h : Keeps s t) : Keeps s (powerRise t) :=
  have hc : Keeps s _ := Grows.refl.setChip.after h
  .ite hc.blockReset (.ite (.ite hc (Grows.refl.wr.powerUp.after hc)) (.ite (Grows.refl.setChip.powerUp.after hc) hc))

theorem Keeps.aonReset (h : Keeps s t) : Keeps s (aonReset t) where
  pending := h.pending
  inv hs :=
    have hi := h.inv hs
    { canonical := ⟨resetRegs_wf, rfl, rfl, resetTab_wf, rfl, rfl, hi.canonical.hbm, hi.canonical.board, hi.canonical.nvm⟩
      counters := reset_inv.counters
      shadows := reset_inv.shadows }

theorem Grows.stage0 (h : Grows s t) : Grows s (stage0 t) := .ite h.wr h

theorem Grows.sampleConfig {slices tiers lpms mfr : Nat} {w128 : Bool} {w1024 : Bool} (h : Grows s t) :
    Grows s (sampleConfig t slices tiers lpms w128 w1024 mfr) :=
  .ite h (.ite h.wr.wr.wr.wr.wr.wr.setTap h.wr.wr.wr.wr.wr.wr)

theorem Grows.layLanes (h : Grows s t) : Grows s (layLanes t) := h.setLp.foldl fun _ h => h.noteLmap

theorem Grows.loadFuses (h : Grows s t) : Grows s (loadFuses t) :=
  (h.wr.layLanes.wr.wr.wr.wr.foldl fun _ h => h.wr).frame.fuseSensors

theorem Grows.fuseLoad {parityOk : Bool} (h : Grows s t) : Grows s (fuseLoad t parityOk) :=
  .ite h (.ite h.loadFuses.wr.raiseFault (.ite h.loadFuses.wr.wr.powerUp h.loadFuses.wr))

theorem Grows.testLanes {n bad : Nat} (h : Grows s t) : Grows s (testLanes t n bad) := h.wr.foldl fun _ h => h.laneFail

theorem Grows.testColumns {a bad : Nat} (h : Grows s t) : Grows s (testColumns t a bad) :=
  h.foldl fun _ h => h.columnFail

theorem Grows.loadEntries {table n : Nat} {x : Bytes} (h : Grows s t) : Grows s (loadEntries table n x t) := by
  fun_induction Machine.loadEntries table n x t with
  | case1 i a b c d e f g h' l t ih => exact ih h.tput
  | case2 => exact h

theorem Grows.reloadMaps (h : Grows s t) : Grows s (reloadMaps t) := by
  refine .ite h ?_
  extract_lets
  split
  · exact h.setChip.wr
  · exact h.setChip.loadEntries.loadEntries.wr

theorem Grows.selfTestDone {lanes cols : Nat} {seqOk : Bool} (h : Grows s t) : Grows s (selfTestDone t seqOk lanes cols) :=
  .ite h (.ite h.raiseFault ((h.allSpares.foldl fun _ h => h.testLanes).foldl fun _ h =>
    h.testColumns).setSpr.wr.reloadMaps.readSpine.takeSpine.wr.wr)

theorem Grows.cfgDone (h : Grows s t) : Grows s (cfgDone t) := .ite h.wr h.pgError

theorem Grows.laneTest {bad : Nat} (h : Grows s t) : Grows s (laneTest t bad).1 :=
  .fst_ite h.pgError.fst (h.foldl fun _ h => h.testLanes).fst

/-- A write of GEN_CTRL is an update without a reset, then the block reset where the value asks for it. -/
theorem Grows.genCtrl_reset {src v bad : Nat} (h : Grows s t) :
    ∃ u, Grows s u ∧ (genCtrl t src v bad).1 = if bit v 0 then Machine.blkRst u else u := by
  unfold Machine.genCtrl
  extract_lets _ _ x y _ u
  have hx : Grows s x.1 := .fst_ite h.fst (.fst_ite h.cfgDone.fst h.pgError.fst)
  have hy : Grows s y.1 := .fst_ite hx.laneTest hx.fst
  exact ⟨u, .ite hy.audit hy, rfl⟩

theorem Grows.genCtrl {src v bad : Nat} (h : Grows s t) (hv : bit v 0 = false) : Grows s (genCtrl t src v bad).1 := by
  obtain ⟨u, hu, he⟩ := h.genCtrl_reset (src := src) (v := v) (bad := bad)
  simpa [he, hv] using hu

theorem Keeps.genCtrl {src v bad : Nat} (h : Keeps s t) : Keeps s (genCtrl t src v bad).1 := by
  obtain ⟨u, hu, he⟩ := Grows.refl.genCtrl_reset (t := t) (src := src) (v := v) (bad := bad)
  rw [he]
  exact .ite (hu.after h).blkRst (hu.after h)

theorem Grows.arrayOff {a : Nat} (h : Grows s t) : Grows s (arrayOff t a) := h.dropColumns.wr.setDisabled.spareRec

theorem Grows.remapColumns {a : Nat} (h : Grows s t) : Grows s (remapColumns t a) :=
  h.wr.dropColumns.wr.setDisabled.setDisabled

theorem Grows.sliceServes {n : Nat} (h : Grows s t) : Grows s (sliceServes t n) := h.setSpr

theorem Grows.takeOut {kind idx : Nat} (h : Grows s t) : Grows s (takeOut t kind idx) := by
  unfold Machine.takeOut
  split
  · exact h.laneFail
  · exact .ite h h.columnFail
  · exact .ite h h.arrayOff
  · exact .ite h h.setDisabled.sliceServes.spareRec
  · exact .ite h h.moduleFail
  · exact h.opticalFail

theorem Grows.putBack {kind idx : Nat} (h : Grows s t) : Grows s (putBack t kind idx) := by
  unfold Machine.putBack
  split
  · exact (Grows.ite h.setSpr.setDisabled.sliceServes h.setSpr).remapLanes
  · exact h.setSpr.remapColumns
  · exact h.remapColumns
  · exact h.setDisabled.sliceServes
  · exact .ite h.setLp.setDisabled.wr h.setLp.setDisabled
  · exact h.setLp

theorem Grows.disRequest {src v : Nat} (h : Grows s t) : Grows s (disRequest t src v).1 := by
  unfold Machine.disRequest
  extract_lets _ _ _ s1
  have hs1 : Grows s s1 := .ite h.pgError h
  exact .fst_ite hs1.refuseRights (.fst_ite hs1.audit.fst (.fst_ite hs1.pgError.audit.fst (.fst_ite
      hs1.putBack.audit.fst hs1.takeOut.audit.fst)))

theorem Grows.sramCorrected {page word : Nat} (h : Grows s t) : Grows s (sramCorrected t page word) :=
  .ite h.pgError.setHl.setSpr.spareRec h.pgError.setHl

theorem Grows.useFails {q : Nat} {r : Run} (h : Grows s t) : Grows s (useFails t q r) := by
  unfold Machine.useFails
  split
  · exact h.failThread.settleThread
  · exact h.replayFail
  · exact h.loadFail
  · exact h.loadFail
  · exact h.stopRun.finish

theorem Grows.queueUseFails {q : Nat} (h : Grows s t) : Grows s (queueUseFails t q) := by
  unfold Machine.queueUseFails
  split
  · exact h.useFails
  · exact h

theorem Grows.hotLost {i : Nat} (h : Grows s t) : Grows s (hotLost t i) := by
  unfold Machine.hotLost
  split
  · exact h
  · exact .ite h (.ite h.setHive (h.setHive.setHive.foldl fun _ h => h.homeAnswer))

theorem Grows.sramLost {page word cls q : Nat} (h : Grows s t) : Grows s (sramLost t page word cls q) := by
  unfold Machine.sramLost
  extract_lets
  split
  · exact h.pgError.sendDeclareSelf
  · exact .ite h.pgError.hotLost h.pgError
  · exact h.pgError.queueUseFails
  · exact h.pgError

theorem Grows.sramError {page word cls q : Nat} {uncorr : Bool} (h : Grows s t) : Grows s (sramError t page word uncorr cls q) :=
  .ite h (.ite h.sramLost h.sramCorrected)

theorem Grows.injectErr {src page v : Nat} (h : Grows s t) : Grows s (injectErr t src page v).1 := by
  unfold Machine.injectErr
  extract_lets s1 _ s2
  have hs1 : Grows s s1 := .ite h.noteReserved h
  have hs2 : Grows s s2 := .ite hs1.audit.sramCorrected hs1.audit
  refine .fst_ite hs1.fst (.fst_ite hs1.refuseRights (.fst_ite hs1.audit.fst (.fst_ite hs2.fst (.fst_ite (.fst ?_)
      hs2.sramLost.fst))))
  split
  · exact hs2.sramLost
  · exact hs2.pgError

theorem Grows.parityError (h : Grows s t) : Grows s (parityError t) := h.sendDeclareSelf.raiseFault

end Sys2Proof.Machine
end

section
/-! PROOFS. What every command keeps (R511): the updates of register accesses. -/

namespace Sys2Proof.Machine

variable {s t : State}

/-! ## Views -/

theorem Grows.dropLatch {src page : Nat} (h : Grows s t) : Grows s (dropLatch t src page) := h.frame

theorem Grows.setLatch {src page : Nat} {b : Bytes} (h : Grows s t) : Grows s (setLatch t src page b) :=
  h.dropLatch.frame

theorem Grows.registerRead {addr : Nat} {r : Req} {wide : Bool} (h : Grows s t) : Grows s (registerRead t r addr wide) :=
  .ite h.trd (.ite (Grows.ite h.setLatch h).trd h.trd)

/-! ## Register accesses -/

theorem Grows.abortWrite {q : Nat} (h : Grows s t) : Grows s (abortWrite t q) := .ite h (Grows.ite h h.wr).abortQ

theorem Grows.evtConsWrite {v : Nat} (h : Grows s t) : Grows s (evtConsWrite t v) := .ite h.wr.frame.updateIrq h.count

theorem Grows.submission {src page data : Nat} {wide : Bool} (h : Grows s t) : Grows s (submission t src page data wide).1 := by
  unfold Machine.submission
  split
  · exact h.dropStaged.fst
  · exact h.dropStaged.fst

theorem Grows.queueSubmit {src data : Nat} {wide : Bool} (h : Grows s t) : Grows s (queueSubmit t src data wide).1 := by
  unfold Machine.queueSubmit
  split
  next hx =>
    have hx := h.submission.of_fst hx
    extract_lets
    split
    next u hu => exact (hx.noteReserved.submitQueue u hu).fst
    · exact hx.noteReserved.fst
  next hx => exact h.submission.of_fst hx
  next hx => exact h.submission.of_fst hx

theorem Grows.deleteObject {o : Nat} (h : Grows s t) : Grows s (deleteObject t o) :=
  (h.foldl fun _ h => h.dropImage).frame.dropScale.tput

theorem Grows.dirEffect {o cur new : Nat} (h : Grows s t) : Grows s (dirEffect t o cur new).1 := by
  refine .fst_ite (.fst_ite ?_ ?_) (.fst_ite h.fst (.fst_ite h.fst h.deleteObject.fst))
  · split
    · exact .fst_ite h.tput.fst h.frame.fst
    · exact h.fst
  · split
    · exact (Grows.ite h h.dropScale).tput.latchSeeds.fst
    · exact h.fst

theorem Grows.dirSubmit {src data : Nat} {wide : Bool} (h : Grows s t) : Grows s (dirSubmit t src data wide).1 := by
  simp only [Machine.dirSubmit]
  split
  next hx =>
    have hx := h.submission.of_fst hx
    split
    next he => exact hx.count.noteReserved.dirEffect.of_fst he
    next he => exact (hx.count.noteReserved.dirEffect.of_fst he).count.wr.wr.fst
  next hx => exact (h.submission.of_fst hx).noteReserved.fst
  next hx => exact h.submission.of_fst hx

theorem Grows.peerWrite {src i cur new : Nat} (h : Grows s t) : Grows s (peerWrite t src i cur new).1 :=
  .fst_ite (Grows.ite h.pgError h).wr.audit.fst h.tput.audit.fst.pumpAll.fst

theorem Grows.shareWrite {src l cur new : Nat} (h : Grows s t) : Grows s (shareWrite t src l cur new).1 :=
  .fst_ite h.pgError.audit.fst (.fst_ite h.audit.fst h.tput.audit.fst)

theorem Grows.peerSubmit {src data : Nat} {wide : Bool} (h : Grows s t) : Grows s (peerSubmit t src data wide).1 := by
  unfold Machine.peerSubmit
  split
  next hx =>
    have hx := h.submission.of_fst hx
    exact .fst_ite (.fst_ite hx.noteReserved.fst hx.noteReserved.refuseRights) hx.noteReserved.peerWrite
  next hx =>
    have hx := h.submission.of_fst hx
    exact .fst_ite (.fst_ite hx.noteReserved.fst hx.noteReserved.refuseRights) hx.noteReserved.shareWrite
  next hx => exact h.submission.of_fst hx

theorem Grows.healthSubmit {src data : Nat} {wide : Bool} (h : Grows s t) : Grows s (healthSubmit t src data wide).1 := by
  unfold Machine.healthSubmit
  split
  next hx =>
    have hx := h.submission.of_fst hx
    exact .fst_ite (.fst_ite hx.noteReserved.fst hx.noteReserved.refuseRights)
      (.fst_ite hx.noteReserved.pgError.audit.fst hx.noteReserved.tput.audit.fst)
  next hx => exact h.submission.of_fst hx

theorem Grows.pointWrite {src p cur v : Nat} (h : Grows s t) : Grows s (pointWrite t src p cur v).1 := by
  unfold Machine.pointWrite
  extract_lets _ _ _ _ _ _ _ s1 s2 _ s3
  have hs1 : Grows s s1 := .ite h.pgError h
  have hs2 : Grows s s2 := .ite hs1.pgError hs1
  have hs3 : Grows s s3 := .ite hs2 hs2.tput
  exact (Grows.ite hs3 hs3.audit).fst

theorem Grows.droopWrite {src c cur v : Nat} (h : Grows s t) : Grows s (droopWrite t src c cur v).1 :=
  .fst_ite (.fst_ite h.fst h.refuseRights) (.fst_ite h.pgError.audit.fst h.tput.audit.fst)

theorem Grows.sensorSubmit {src data : Nat} {wide : Bool} (h : Grows s t) : Grows s (sensorSubmit t src data wide).1 := by
  unfold Machine.sensorSubmit
  split
  next hx => exact (h.submission.of_fst hx).noteReserved.pointWrite
  next hx => exact (h.submission.of_fst hx).noteReserved.droopWrite
  next hx => exact h.submission.of_fst hx
  next hx => exact h.submission.of_fst hx

theorem Grows.readOnlySubmit {src page data : Nat} {wide : Bool} (h : Grows s t) :
    Grows s (readOnlySubmit t src page data wide).1 := by
  unfold Machine.readOnlySubmit
  split
  next hx => exact (h.submission.of_fst hx).noteReserved.fst
  next hx => exact h.submission.of_fst hx

theorem Grows.windowSubmit {page data : Nat} {r : Req} {wide : Bool} (h : Grows s t) :
    Grows s (windowSubmit t r page data wide).1 := by
  unfold Machine.windowSubmit
  extract_lets
  split
  · exact h.queueSubmit
  · exact h.dirSubmit
  · exact h.peerSubmit
  · exact h.groupSubmit
  · exact h.remapSubmit
  · exact h.healthSubmit
  · exact h.sensorSubmit
  · exact h.readOnlySubmit

theorem Grows.windowWord {src page w v : Nat} (h : Grows s t) : Grows s (windowWord t src page w v) := by
  unfold Machine.windowWord
  split
  · exact .ite h.stageWord h.noteReserved
  · exact h.stageWord

theorem Grows.windowWrite {page off data : Nat} {r : Req} {wide : Bool} (h : Grows s t) :
    Grows s (windowWrite t r page off data wide).1 :=
  .fst_ite h.noteReserved.fst (.fst_ite h.windowSubmit (.fst_ite h.windowWord.windowWord.fst h.windowWord.fst))

theorem Grows.ifKx {v : State} (hv : Grows s v) (h : Grows s t) : Grows s (ifKx t v) := .ite hv h.pgError

theorem Grows.kxFlush (h : Grows s t) : Grows s (kxFlush t) := .ite h (.ite h h.wr.joinFlushes.flushAll.frame.settleKx)

theorem Grows.actField {k : Nat} {f : FieldSpec} {a : FieldAct} (h : Grows s t) : Grows s (actField t f k a) := by
  unfold Machine.actField
  split
  · exact .ite h.applyField h.wr
  · exact h.frame
  · exact h

theorem Grows.afterField {src k : Nat} (h : Grows s t) : Grows s (afterField t src k) :=
  .ite h.updateIrq (.ite (.ite h.noteArm h) (.ite h.dropStaged.dropLatch h))

theorem Grows.writeFields {src page off v : Nat} (h : Grows s t) : Grows s (writeFields t src page off v).1 := by
  unfold Machine.writeFields
  extract_lets _ _ _ _ _ _ _ _ _ s1 s2 s3 s4
  have hs1 : Grows s s1 := .ite h (h.foldl fun _ h => h.actField)
  have hs2 : Grows s s2 := .ite hs1.pgError hs1
  have hs3 : Grows s s3 := .ite hs2.pgError hs2
  have hs4 : Grows s s4 := .ite hs3.wr hs3
  refine .fst (.foldl (.ite hs4.audit hs4) fun _ h => ?_)
  split
  · exact .ite h h.afterField
  · exact h

theorem Grows.errorWrite {page off v : Nat} (h : Grows s t) : Grows s (errorWrite t page off v) := by
  unfold Machine.errorWrite
  extract_lets
  split
  · exact h.wr
  · exact h.wr
  · exact h.wr.wr

theorem Keeps.genCtrlWrite {src v : Nat} (h : Keeps s t) : Keeps s (genCtrlWrite t src v).1 := by
  refine .fst_ite ?_ h.genCtrl
  exact Keeps.genCtrl (Grows.refl.fresh.after h)

theorem Grows.snpCtrl {v : Nat} (h : Grows s t) : Grows s (snpCtrl t v).1 := by
  unfold Machine.snpCtrl
  extract_lets _ _ _ _ s1
  have hs1 : Grows s s1 := .ite h.wr.pgError (.ite h.wr.wr.noteArm h.wr)
  exact (Grows.ite hs1.strobeWrite hs1).fst

theorem Grows.expectWrite {v : Nat} (h : Grows s t) : Grows s (expectWrite t v) := h.wr.setCod.digExpect

theorem Keeps.mem_some {r : State × Nat} (h : Keeps s r.1) : ∀ x ∈ some r, Keeps s x.1 := by
  intro x hx
  exact Option.some.inj hx ▸ h

theorem Keeps.mem_ite {c : Prop} {_ : Decidable c} {o p : Option (State × Nat)} (ho : ∀ x ∈ o, Keeps s x.1)
    (hp : ∀ x ∈ p, Keeps s x.1) : ∀ x ∈ (if c then o else p), Keeps s x.1 := by
  split
  · exact ho
  · exact hp

theorem Keeps.actRegister {src page off v : Nat} (h : Keeps s t) : ∀ r ∈ actRegister t src page off v, Keeps s r.1 := by
  have hd {q v : Nat} : Grows t (Machine.doorbell t q v) := Grows.refl.doorbell
  unfold Machine.actRegister
  split
  · exact .mem_some h.genCtrlWrite
  · exact .mem_some (Grows.refl.disRequest.after h)
  · exact .mem_some (Grows.refl.roleCtrl.after h)
  · exact .mem_some (Grows.refl.offsetWrite.after h)
  · exact .mem_some (Grows.refl.evtConsWrite.after h)
  · exact .mem_some (Grows.refl.declareWrite.after h)
  · exact .mem_some (Grows.refl.hiveEnable.after h)
  · exact .mem_some (Grows.refl.snpCtrl.after h)
  · exact .mem_some (Grows.refl.expectWrite.after h)
  · exact .mem_some ((Grows.ite (Grows.refl.kxFlush.ifKx .refl) .refl).after h)
  · exact .mem_ite (.mem_some h) (.mem_ite (.mem_some (Grows.refl.errorWrite.after h))
      (.mem_ite (.mem_some (Grows.refl.injectErr.after h)) (.mem_ite (.mem_some (hd.after h))
      (.mem_ite (.mem_some ((Grows.ite Grows.refl.abortWrite .refl).after h))
      (.mem_ite (.mem_some ((hd.ifKx .refl).after h)) (by rintro _ ⟨⟩))))))

theorem Keeps.commitRegister {src page off v : Nat} (h : Keeps s t) : Keeps s (commitRegister t src page off v).1 := by
  have hn {page : Nat} {b : Bool} : Keeps s (Machine.noteReserved t page b) := Grows.refl.noteReserved.after h
  unfold Machine.commitRegister
  extract_lets
  split
  next hr => exact hn.actRegister _ hr
  · exact Grows.refl.writeFields.after hn

theorem Grows.stageLow {src addr v : Nat} (h : Grows s t) : Grows s (stageLow t src addr v) := h.frame

theorem Keeps.commitHigh {src page off v : Nat} (h : Keeps s t) : Keeps s (commitHigh t src page off v).1 :=
  Keeps.commitRegister (Grows.refl.frame.after h)

theorem Grows.wideWrite {src page off v : Nat} (h : Grows s t) : Grows s (wideWrite t src page off v).1 :=
  .fst_ite (.fst_ite h.roleResponse h.stageWide.fst) (.fst_ite h.keyCommit h.stageWide.fst)

theorem Keeps.writeWord {src page off v : Nat} (h : Keeps s t) : Keeps s (writeWord t src page off v).1 :=
  .fst_ite (Grows.refl.wideWrite.after h) (.fst_ite (Grows.refl.stageLow.after h) (.fst_ite h.commitHigh h.commitRegister))

theorem Grows.counterWrite {page off data : Nat} (h : Grows s t) : Grows s (counterWrite t page off data).1 :=
  h.noteReserved.fst

theorem Keeps.registerWrite {addr data : Nat} {r : Req} {wide : Bool} (h : Keeps s t) :
    Keeps s (registerWrite t r addr wide data).1 :=
  .fst_ite h (.fst_ite h (.fst_ite (Grows.refl.windowWrite.after h) (.fst_ite (Grows.refl.counterWrite.after h)
    (.fst_ite h.writeWord (.fst_ite h.commitRegister (Keeps.writeWord h.writeWord))))))

theorem Keeps.registerRequest {op addr size data : Nat} {r : Req} {win3 : Bool} (h : Keeps s t) :
    Keeps s (registerRequest t r win3 op addr size data) :=
  .ite (Grows.refl.refuseReq.after h) (.ite (Grows.refl.registerRead.after h) (Grows.refl.answered.after h.registerWrite))

end Sys2Proof.Machine
end

section
/-! PROOFS. What every command keeps (R511, R515): a command answers a next state that keeps the invariant and the queue of waiting
commands, and only a reset lowers a counter. -/

namespace Sys2Proof.Machine

variable {s t : State}

/-- The commands that may reset counters; a register write may be the block reset. -/
def resets : Instr → Bool
  | .blkRst _ | .sliceResetDone _ | .pwrGoodRise | .pwrGoodFall | .aonRstAssert | .registerWrite _ _ _ _ => true
  | _ => false

/-- The answer is a next state, to which the relation leads. -/
def Answers (R : State → State → Prop) (s : State) (a : Ans) : Prop := ∃ t, a = .next t ∧ R s t

theorem Answers.next {R : State → State → Prop} (h : R s t) : Answers R s (.next t) := ⟨t, rfl, h⟩

/-- Every command but a reset only grows the counters: each row's meaning is an update of the state that `begin` makes. -/
theorem exec_grows {c : Instr} (hc : resets c = false) : Answers Grows s (exec c s) := by
  have hb : Grows s (begin s) := Grows.refl.begin
  match c with
  | .nop q => exact .next hb.nopEffect
  | .stepRun q => exact .next hb.stepRunEffect
  | .stepLoad q => exact .next hb.loadEffect
  | .stepUcode q => exact .next hb.loadEffect
  | .collReduceScatter q => exact .next hb.collStart
  | .collAllGather q => exact .next hb.collStart
  | .collBroadcast q => exact .next hb.collStart
  | .collParityScatter q => exact .next hb.collStart
  | .collRebuildChain q => exact .next hb.collStart
  | .move q => exact .next hb.moveEffect
  | .imageFill q => exact .next hb.imageFillEffect
  | .imageDrop q => exact .next hb.imageDropEffect
  | .imageFlush q => exact .next hb.imageFlushEffect
  | .imageStream q => exact .next hb.imageStreamEffect
  | .imageStop q => exact .next hb.imageStopEffect
  | .cap q => exact .next hb.capEffect.drainChecks
  | .seal q => exact .next hb.sealEffect
  | .rebuild q => exact .next hb.rebuildEffect
  | .restore q => exact .next hb.restoreEffect
  | .rollback q => exact .next hb.rollbackEffect
  | .join q => exact .next hb.joinEffect
  | .leaveDrain q => exact .next hb.leaveEffect
  | .leaveImmediate q => exact .next hb.leaveEffect
  | .fence q => exact .next hb.fenceEffect
  | .snapNow q edge => exact .next hb.snapNow.withEdge
  | .snapAtTime q => exact .next hb.snapAt
  | .replay q => exact .next hb.replayEffect
  | .root q f => exact .next hb.withFault.rootEffect.drainChecks
  | .drawRaw q => exact .next hb.drawEffect
  | .drawUniform q => exact .next hb.drawEffect
  | .tallyAdd q => exact .next hb.tallyAddEffect
  | .tallySet q => exact .next hb.tallySetEffect
  | .tallyClearErr q => exact .next hb.tallyClearEffect
  | .queueFetch => exact .next hb.queueFetchEffect
  | .queueFetchData tag stat data => exact .next hb.queueFetchDataEffect.drainChecks
  | .commandStart q => exact .next hb.commandStartEffect
  | .commandRetire q => exact .next hb.commandRetireEffect
  | .eventPost => exact .next hb.eventPostEffect
  | .eventRecordAck stat => exact .next hb.eventAckEffect
  | .irqHoldoffExpiry => exact .next hb.frame.updateIrq
  | .initiatorReadData tag stat data => exact .next hb.initiatorRead
  | .initiatorWriteResponse tag stat => exact .next hb.writeResponseEffect
  | .queDb r q v => exact .next ((hb.doorbell.fst.unlessHeld hb).answered)
  | .queAbort r q => exact .next ((hb.abortWrite.fst.unlessHeld hb).answered)
  | .queEntrySubmit r data wide => exact .next ((hb.queueSubmit.unlessHeld hb).answered)
  | .evtConsWrite r v => exact .next ((hb.evtConsWrite.fst.unlessHeld hb).answered)
  | .directorySubmit r data wide => exact .next ((hb.dirSubmit.unlessHeld hb).answered)
  | .peerEntryWrite r data wide => exact .next ((hb.peerSubmit.unlessHeld hb).answered)
  | .groupSubmit r data wide => exact .next ((hb.groupSubmit.unlessHeld hb).answered)
  | .remapEntrySubmit r data wide => exact .next hb.remapSubmit.answered
  | .roleReq r role => exact .next hb.roleCtrl.answered
  | .roleResponse r word7 => exact .next hb.roleResponse.answered
  | .roleClose r => exact .next hb.roleClose.fst.answered
  | .blkRst r => cases hc
  | .ltest r bad => exact .next ((hb.genCtrl rfl).answered)
  | .cfgDone r => exact .next ((hb.genCtrl rfl).answered)
  | .genDisReq r v => exact .next hb.disRequest.answered
  | .cmbDeclare r x => exact .next ((hb.declareWrite.unlessHeld hb).answered)
  | .timeOffset r v edge => exact .next hb.offsetWrite.fst.answered.withEdge
  | .snpStrobe r edge => exact .next hb.strobeWrite.fst.answered.withEdge
  | .tblIkeyCommit r slot word7 => exact .next ((hb.keyCommit.unlessHeld hb).answered)
  | .digExpEpoch r e => exact .next ((hb.expectWrite.fst.unlessHeld hb).answered)
  | .hiveCfgEn r en => exact .next ((hb.hiveEnable.unlessHeld hb).answered)
  | .kx2cDb r q v => exact .next (((hb.doorbell.ifKx hb).fst.unlessHeld hb).answered)
  | .kx2cFlush r => exact .next (((hb.kxFlush.ifKx hb).fst.unlessHeld hb).answered)
  | .pgErrInj r page v => exact .next hb.injectErr.answered
  | .registerWrite r x size data => cases hc
  | .codedWindowRead r op addr size => exact .next hb.codedRequest
  | .hiveHostRequest r op addr size data be => exact .next hb.hostRequest
  | .raeIssue => exact .next hb.raeIssueEffect
  | .hiveRequestArrival p tag memb body => exact .next (.ite hb.requestArrival hb.requestArrival.takenMsg)
  | .hiveRead line => exact .next hb.homeOp.settleRx
  | .hiveWrite line => exact .next hb.homeOp.settleRx
  | .hiveAdd line => exact .next hb.homeOp.settleRx
  | .hiveMin line => exact .next hb.homeOp.settleRx
  | .hiveMax line => exact .next hb.homeOp.settleRx
  | .hiveSwap line => exact .next hb.homeOp.settleRx
  | .cellRead => exact .next hb.cellReadEffect.takeWaiting.settleRx
  | .hiveResponseRecord p body => exact .next hb.responsesIn
  | .hiveProgressTimeout p => exact .next hb.deadPeer
  | .hivePackTimeout p resp => exact .next hb.sendPack
  | .hotLineIdle line =>
    refine .next ?_
    split
    · exact .ite hb hb.hotDrop
    · exact hb
  | .flitReceive l b fec => exact .next hb.flitIn
  | .nakReceive l lseq => exact .next hb.nakIn
  | .creditReturn l c => exact .next hb.creditIn
  | .creditReturnTimer l => exact .next (.ite hb.sendCredits hb)
  | .initReceive l ver switch fid part => exact .next hb.initIn
  | .linkUp k => exact .next hb.linkUpEffect
  | .linkInitTimeout l => exact .next (.ite hb.putLink hb)
  | .linkRetryTimeout l => exact .next hb.retryTimeout
  | .laneFail ol => exact .next hb.opticalFail
  | .moduleLinkError k => exact .next hb.moduleFail
  | .moduleNotReadyTimeout k => exact .next hb.moduleFail
  | .retrainDone l => exact .next hb.retrainDone
  | .linkDown l => exact .next hb.linkDown.nextSwap
  | .monitorPoll k => exact .next hb.monPoll
  | .monitorResponse k off v => exact .next hb.monResponse
  | .monitorReadTimeout k => exact .next hb.monTimeout
  | .e2eAckReceive p body => exact .next hb.ackIn.settleFences.settleColls
  | .e2eAckTimer p vc => exact .next (.ite hb.settleRxStream hb.settleRxStream.sendAck)
  | .e2eResendTimeout p vc => exact .next hb.streamTimeout
  | .fenceTimeout q => exact .next hb.fenceTimeout
  | .startMsg p tag memb body => exact .next hb.startIn
  | .startAck p body => exact .next hb.startAckIn
  | .goMsg tag memb body => exact .next hb.goIn
  | .joinSubtreeTimeout => exact .next hb.startTimeout
  | .lostMsg p body => exact .next hb.lostIn
  | .lostDeclare x => exact .next hb.lostDeclare
  | .leftMsg p => exact .next hb.leftIn
  | .declareSelf p => exact .next hb.declareSelfIn
  | .teardownRelease => exact .next hb.releaseEffect
  | .rbDone p body => exact .next hb.rbDoneIn
  | .rbAnn body => exact .next hb.rbAnnIn
  | .rollbackReportTimeout => exact .next hb.rbTimeout
  | .rsReport p body => exact .next hb.rsReportIn
  | .rsDecide body => exact .next hb.rsDecideIn
  | .restoreReportTimeout => exact .next hb.restoreTimeout
  | .rebuildRequestIssue => exact .next hb.requestIssue
  | .rbReq p body => exact .next hb.rbReqIn
  | .rbStale body => exact .next hb.rbStaleIn
  | .rebuilt body => exact .next hb.rebuiltIn
  | .mseqFloor => exact .next hb
  | .waggleSend => exact .next hb.waggleSend
  | .waggle p body => exact .next hb.waggleIn
  | .waggleSilence x => exact .next hb.waggleSilence
  | .faultReport p body => exact .next hb.faultIn
  | .capReportReady e => exact .next (.ite hb.drainChecks.ownReady hb.drainChecks)
  | .capReport p body =>
    refine .next ?_
    split
    · exact hb.capReportIn
    · exact hb
  | .capTimeout e => exact .next hb.capTimeout
  | .capAnnounce p body =>
    refine .next ?_
    split
    · exact hb.capLearn
    · exact hb
  | .spineRecordWrite => exact .next hb.recordWrite
  | .descMsg body => exact .next hb.collMsgIn
  | .openMsg body => exact .next hb.collMsgIn
  | .abortMsg body => exact .next hb.collMsgIn
  | .colTimeout gtag seq => exact .next hb.collTimeout
  | .reduceScatterChunk p body => exact .next hb.chunkIn.chunkTaken
  | .gatherChunk p body => exact .next hb.chunkIn.chunkTaken
  | .broadcastChunk p body => exact .next hb.chunkIn.chunkTaken
  | .parityScatterChunk p body => exact .next hb.chunkIn.chunkTaken
  | .rebuildChunk p body => exact .next hb.rebuildChunk.chunkTaken
  | .drainSend sl => exact .next hb.drainSendEffect
  | .deltaSegment p body => exact .next hb.segmentIn
  | .scaleSegment p body => exact .next hb.segmentIn
  | .drainAck p body => exact .next hb.drainAckIn
  | .drainAckTimer rank sl e => exact .next hb.ackTimerEffect
  | .drainResendTimeout src sl e => exact .next hb.drainResendEffect
  | .v2DrainAck p e mseq => exact .next hb.v2AckIn
  | .uReserveTake => exact .next (.ite hb.tryReserve hb)
  | .sealImageCell p body => exact .next hb.imageCellIn.takenMsg
  | .sealReadRequest p body => exact .next hb.sealReadIn.takenMsg
  | .sealReadData p body => exact .next hb.sealDataIn.takenMsg
  | .sealReadRefusal p body => exact .next hb.sealRefusedIn.takenMsg
  | .shadowCopyCell p body => exact .next hb.copyCellIn.takenMsg
  | .shadowCopyEnd p body => exact .next hb.copyEndIn.takenMsg
  | .stepRowEnter t => exact .next hb.rowEnterEffect
  | .mapRow t => exact .next hb.runIter
  | .reduceLine t => exact .next hb.runIter
  | .reduceAll t => exact .next hb.runIter
  | .logReservation t => exact .next hb.runIter
  | .stat t f => exact .next hb.withFault.runIter
  | .apply t f => exact .next hb.withFault.runIter
  | .accDense t => exact .next hb.runIter
  | .accList t => exact .next hb.runIter
  | .intakeDrain t => exact .next hb.runIter
  | .commit t => exact .next hb.runIter
  | .mrpReadData n tag x => exact .next hb.memReadData
  | .mrpWriteResponse n tag => exact .next hb.memWriteDone
  | .mrpReady n up hbm4 cap cycles => exact .next hb.memReady
  | .mrpPortTimeout n => exact .next hb.memTimeout
  | .sliceResetDone n => cases hc
  | .tierReadData p tag stat load => exact .next hb.tierRead
  | .tierWriteCompletion p tag stat load => exact .next hb.tierWritten
  | .tierTimeout p tag write => exact .next hb.tierTimeout
  | .tierLoadRecovery p => exact .next (.ite hb.setTier hb)
  | .streamVisitFill k => exact .next hb.streamVisitEffect
  | .foragerVisit n => exact .next hb.foragerVisit
  | .cellRepair d => exact .next hb.cellRepair
  | .parityRepair p => exact .next hb.parityRepair
  | .remapFill n => exact .next hb.remapFill
  | .migrationSlot => exact .next hb.migrationSlot
  | .sramEccError page word uncorr cls q => exact .next hb.sramError
  | .healthUpdate => exact .next hb.healthUpdate
  | .levelDwellExpiry => exact .next hb.dwellExpiry
  | .sensorSubframe => exact .next hb.subframe
  | .sensorConversion k raw opened => exact .next hb.conversion
  | .sensorCalibration counts dev => exact .next hb.calibrate
  | .droopTrip c => exact .next hb.droopTrip
  | .droopHoldEnd => exact .next hb.setHl
  | .limiterUpdate => exact .next hb.limiterUpdate
  | .domainWake d => exact .next hb.wakeDomain
  | .rampStep d => exact .next hb.rampStep
  | .domainIdleGate d => exact .next hb.gateDomain
  | .rampDownStep d => exact .next hb.rampDown
  | .rootFillExpiry cycles => exact .next hb.fillExpiry
  | .pllLock k => exact .next hb.pllLock
  | .pllWarmHoldExpiry k => exact .next hb.pllStop
  | .pllLockLoss k => exact .next hb.pllLoss
  | .pllRetry k => exact .next hb.pllRetry
  | .aonClkLoss => exact .next hb.aonLoss
  | .aonClkRestore => exact .next hb.aonRestore
  | .aonRstAssert => cases hc
  | .aonRstDeassert => exact .next hb.stage0
  | .configSample slices tiers lpms w128 w1024 mfr => exact .next hb.sampleConfig
  | .fuseLoad parityOk => exact .next hb.fuseLoad
  | .pwrGoodFall => cases hc
  | .pwrGoodRise => cases hc
  | .selftestDone seqOk lanes cols => exact .next hb.selfTestDone
  | .xspiDiscovery ok size => exact .next hb.discovery
  | .thermInEvent asserted => exact .next hb.pinChange
  | .brdAlertEvent asserted => exact .next hb.pinChange
  | .snapInEdge asserted edge => exact .next hb.pinChange.withEdge
  | .pinOverrateClear pin => exact .next hb.overrateClear
  | .pinStuck pin => exact .next hb.pinStuck
  | .pinStuckClear pin => exact .next hb.stuckClear
  | .timedStrobe => exact .next hb.aonEdge
  | .tapInstruction code => exact .next hb.tapInstruction
  | .challengeLapse => exact .next hb.lapse
  | .lockoutExpiry => exact .next hb.lockoutEnd
  | .sessionIdle => exact .next hb.closeSession
  | .capWaitTimeout q => exact .next hb.capWaitTimeout
  | .aonParityError => exact .next hb.parityError
  | .portCreditReturn ch n => exact .next hb.portCredit
  | .isolationRelease d => exact .next hb.releaseIsolation
  | .xspiResetRelease => exact .next hb.setSpine

/-- What may reset something keeps the invariant and the queue too. -/
theorem exec_keeps {c : Instr} : Answers Keeps s (exec c s) := by
  cases hc : resets c with
  | false =>
    obtain ⟨t, he, ht⟩ := exec_grows (s := s) hc
    exact ⟨t, he, ht.toKeeps⟩
  | true =>
    have hb : Keeps s (begin s) := Grows.refl.begin.toKeeps
    unfold resets at hc
    split at hc
    · exact .next (Grows.refl.answered.after hb.genCtrl)
    · exact .next hb.sliceResetDone
    · exact .next hb.powerRise
    · exact .next hb.powerFall
    · exact .next hb.aonReset
    · exact .next hb.registerRequest
    · cases hc

/-- Settles O59: every command answers a next state that keeps the invariant and the queue it is run on, which is the rest of the
queue; the edge of an empty queue does the same. -/
theorem everyStepAnswersAndKeepsTheInvariant : Obligations.EveryStepAnswersAndKeepsTheInvariant := by
  unfold Obligations.EveryStepAnswersAndKeepsTheInvariant
  intro s hs
  unfold step
  cases hp : s.pending with
  | nil =>
    have h : Grows s (idleEdge s) := Grows.refl.idleEdge
    exact ⟨_, rfl, h.inv hs, h.pending.trans hp⟩
  | cons c rest =>
    obtain ⟨t, he, ht⟩ := exec_keeps (s := { s with pending := rest }) (c := c)
    exact ⟨t, he, ht.inv hs.frame, ht.pending⟩

/-- Settles O60: no command but a reset lowers a counter, and the invariant it keeps bounds every counter. -/
theorem countersOnlyGrow : Obligations.CountersOnlyGrow := by
  unfold Obligations.CountersOnlyGrow
  intro c s t hs he hc k
  have hr : resets c = false := by
    unfold resets
    split
    iterate 6 exact hc.elim
    rfl
  obtain ⟨u, hu, hg⟩ := exec_grows (s := s) hr
  obtain rfl : u = t := Host.Outcome.next.inj (hu.symm.trans he)
  exact ⟨hg.counters hs k, (hg.inv hs).counters k⟩

end Sys2Proof.Machine
end

section
/-! PROOFS. EVT_CONS (R528): which values a write of it accepts. -/

namespace Sys2Proof.Machine

variable {s : State}

theorem updateIrq_regs (s : State) : (updateIrq s).regs = s.regs := by
  unfold updateIrq
  extract_lets
  split
  · split <;> rfl
  · split <;> rfl

/-- An accepted value of EVT_CONS is stored, and the flags of consumed records go. -/
theorem evtConsWrite_accepted {v : Nat}
    (h : (v + 2 ^ 32 - rd s R.EVT_CONS) % 2 ^ 32 ≤ (rd s R.EVT_PROD + 2 ^ 32 - rd s R.EVT_CONS) % 2 ^ 32) :
    evtConsWrite s v =
      let left := s.ev.flagged.filter fun i => decide ((i + 2 ^ 32 - v) % 2 ^ 32 < (rd s R.EVT_PROD + 2 ^ 32 - v) % 2 ^ 32)
      updateIrq { wr s R.EVT_CONS v with ev := { s.ev with flagged := left } } := if_pos h

/-- Any other value is counted. -/
theorem evtConsWrite_ignored {v : Nat}
    (h : (rd s R.EVT_PROD + 2 ^ 32 - rd s R.EVT_CONS) % 2 ^ 32 < (v + 2 ^ 32 - rd s R.EVT_CONS) % 2 ^ 32) :
    evtConsWrite s v = count s C.EVT_CONS_BAD := if_neg (Nat.not_le.mpr h)

/-- Settles O53: the value is judged against the distance from EVT_CONS to EVT_PROD. -/
theorem eventConsumptionIsJudged : Obligations.EventConsumptionIsJudged := by
  unfold Obligations.EventConsumptionIsJudged
  intro r v s hs hw
  have hexec : exec (.evtConsWrite r v) s = .next (trsp (evtConsWrite (begin s) v.toNat) r 0) :=
    congrArg Host.Outcome.next (answered_unheld (s := begin s) r _ hs)
  rw [hexec]
  refine ⟨fun h => ?accepted, fun h => ?ignored⟩
  case accepted =>
    rw [evtConsWrite_accepted (s := begin s) h]
    have hregs {x : State} : (trsp (updateIrq x) r 0).regs = x.regs := updateIrq_regs x
    refine ⟨_, rfl, ?_, ?_, rfl⟩
    · exact (congrArg (get · R.EVT_CONS) hregs).trans (rd_wr_self (s := begin s) hw _ _)
    · exact (congrArg (get · R.EVT_PROD) hregs).trans (rd_wr_ne (begin s) _ (by decide))
  case ignored => rw [evtConsWrite_ignored (s := begin s) h]; rfl

end Sys2Proof.Machine
end
